-- ==== Sys2Proof/Word.lean ====
section
/-!
DEFINITION. The word types of the LN9 and their plainest arithmetic (spec/00 R9, R10).
-/

namespace Sys2Proof

/-- A byte (R9). -/
abbrev Byte := BitVec 8
/-- A word of 32 bits (R9). -/
abbrev W32 := BitVec 32
/-- A dword of 64 bits (R9), the width of a general register. -/
abbrev Word := BitVec 64
/-- A 6-bit general register number, g0 to g63 (08 R193). -/
abbrev Reg := BitVec 6
/-- A package number (01 R21). -/
abbrev Pkg := BitVec 8
/-- A logical tile number (00 R4). -/
abbrev TileNo := BitVec 8
/-- A tenant number (03 R74). -/
abbrev Tenant := BitVec 8
/-- A job slot (06 R154). -/
abbrev Slot := BitVec 2

/-- Bits `hi` down to `lo` of `x` as a number (R11). -/
def bits {n : Nat} (x : BitVec n) (hi lo : Nat) : Nat := x.toNat / 2 ^ lo % 2 ^ (hi + 1 - lo)

/-- Truth as a dword: 1 or 0. -/
def flag (b : Bool) : Word := if b then 1 else 0

end Sys2Proof
end

