-- ==== Sys2Proof/Syntax.lean ====
section
/-!
DEFINITION. The instructions, engine words and events of the LN9: one constructor of `Instr` for
each row of spec/opcode_table.json. Encodings are in Decode.lean (spec/08), meanings in Machine/.
-/

namespace Sys2Proof

/-- Stream kinds and their codes 0 to 6 (06 R152). -/
inductive Kind where
  | A | X | M | V | T | C | W
  deriving DecidableEq, Repr

/-- Kind of a trailing literal (08 R195). -/
inductive LitKind where
  | sext | zext | fp
  deriving DecidableEq, Repr

/-- The second operand of an R-format instruction whose b column is "value" (08 R195). -/
inductive Opd where
  | reg (b : Reg)
  | kbank (b : Reg)
  | lit (k : LitKind) (w : W32)
  deriving DecidableEq, Repr

/-- Scope levels (08 R205). -/
inductive Scope where
  | tile | clus | die | pkg | dom
  deriving DecidableEq, Repr

/-- Load sizes of the M format (08 R198). -/
inductive LoadSize where
  | b | h | w | d | bu | hu | wu
  deriving DecidableEq, Repr

/-- Store sizes of the M format (08 R198). -/
inductive StoreSize where
  | b | h | w | d
  deriving DecidableEq, Repr

/-- Size W or D of MEMX and ATOM (08 R206). -/
inductive WD where
  | w | d
  deriving DecidableEq, Repr

/-- Fence kinds (08 R206). -/
inductive FenceKind where
  | acq | rel | sc
  deriving DecidableEq, Repr

/-- Space and ordering of an atomic (10 R266). -/
inductive AtomSpace where
  | globalRelaxed
  | globalScoped (sc : Scope)
  | localRelaxed
  | localTile
  deriving DecidableEq, Repr

/-- Chain field of an engine word (08 R207). -/
inductive Chain where
  | next | link | stop
  deriving DecidableEq, Repr

/-- Pop, push and chain of a common or switch engine word (08 R207). -/
structure CW where
  pop : Option (BitVec 4)
  push : Option (BitVec 4)
  chain : Chain
  deriving DecidableEq, Repr

/-- Pop and push of ELOOP and EJMP, whose chain must be `next` (11 R290). -/
structure PW where
  pop : Option (BitVec 4)
  push : Option (BitVec 4)
  deriving DecidableEq, Repr

/-- The fields of an engine word of classes M, V, T, C and W (08 R207). -/
structure EW where
  pop : Option (BitVec 4)
  push : Option (BitVec 4)
  rep : BitVec 6
  step : BitVec 12
  chain : Chain
  desc : BitVec 10
  deriving DecidableEq, Repr

/-- Level of an MMIO requester (00 R7). -/
inductive Level where
  | job | sup | fw
  deriving DecidableEq, Repr

/-- Who asked for a page walk (03 R75-R77). -/
inductive Walker where
  | core (t : TileNo)
  | stream (t : TileNo) (k : Kind)
  | host
  deriving DecidableEq, Repr

/-- The causes a response can bring to a posted access (15 R385). -/
inductive RespCause where
  | dataError | requestTimeout | protection
  deriving DecidableEq, Repr

/-- A firmware image offered to the mailbox (20 R439): the header's version, digest and signature,
and the body. -/
structure Image where
  version : W32
  digest : BitVec 256
  sig : BitVec 512
  body : List Byte
  deriving DecidableEq, Repr

/-- What the tests and the training of a bring-up find (20 R434, R436 to R438). -/
structure ServiceGrant where
  /-- By C-die, the tiles that pass. -/
  capt : Vector Word 4
  /-- The C-dies that pass. -/
  dies : BitVec 4
  ports : BitVec 6
  /-- The control-store image of each C-die, with its header (20 R439). -/
  stores : List Image
  /-- Failed CIM columns, by tile and macro, and die-to-die links with a failed lane: once for each. -/
  columns : List (Nat × Nat)
  lanes : List Nat
  /-- Every HBM stack is trained. -/
  trained : Bool
  deriving DecidableEq, Repr

/-- The operands of an event: what the agent outside the program that causes it supplies (which
package, tile, job, tenant, request, register value, ...). `Sys2Proof.Machine.State.arg` holds those
of the event that occurs now; each event's meaning says which it reads. -/
structure Args where
  pkg : Pkg := 0
  tile : TileNo := 0
  slot : Slot := 0
  tenant : Tenant := 0
  /-- Number of a request, circuit, flow, migration, held access or frame. -/
  id : Nat := 0
  /-- Small index: ring, port, die, domain, rail, region, cluster, tag, entry, vector, register. -/
  idx : Nat := 0
  /-- A second small index. -/
  idx2 : Nat := 0
  /-- Value written. -/
  val : Word := 0
  /-- Address or offset. -/
  off : Word := 0
  /-- First choice of a two-way event (high dword, supervisor window, X-core, CRC good, ...). -/
  yes : Bool := false
  /-- Second choice. -/
  also : Bool := false
  level : Level := .fw
  walker : Walker := .host
  cause : RespCause := .dataError
  data : List Byte := []
  digest : BitVec 256 := 0
  img : Image := ⟨0, 0, 0, []⟩
  grant : ServiceGrant := ⟨Vector.replicate 4 0, 0, 0, [], [], [], true⟩
  temps : Int × Int × Int := (0, 0, 0)
  deriving DecidableEq, Repr

/-- One constructor per row of the opcode table. The first group are the core instructions
(32-bit words, 08 R192), the second the engine words (48 bits, 08 R207), the third the events, whose
operands stand in `Args`. -/
inductive Instr where
  -- SYS (09 R242)
  | trap (code : BitVec 12)
  | mfsr (d : Reg) (n : BitVec 12)
  | mtsr (d : Reg) (n : BitVec 12)
  -- INT (09 R223, R224)
  | add (d a : Reg) (b : Opd)
  | sub (d a : Reg) (b : Opd)
  | and (d a : Reg) (b : Opd)
  | or (d a : Reg) (b : Opd)
  | xor (d a : Reg) (b : Opd)
  | shl (d a : Reg) (b : Opd)
  | shr (d a : Reg) (b : Opd)
  | sar (d a : Reg) (b : Opd)
  | slt (d a : Reg) (b : Opd)
  | sltu (d a : Reg) (b : Opd)
  | min (d a : Reg) (b : Opd)
  | max (d a : Reg) (b : Opd)
  | minu (d a : Reg) (b : Opd)
  | maxu (d a : Reg) (b : Opd)
  | andn (d a : Reg) (b : Opd)
  | rotl (d a : Reg) (b : Opd)
  | addw (d a : Reg) (b : Opd)
  | subw (d a : Reg) (b : Opd)
  | shlw (d a : Reg) (b : Opd)
  | shrw (d a : Reg) (b : Opd)
  | sarw (d a : Reg) (b : Opd)
  -- MULDIV (09 R227, R228)
  | mul (d a : Reg) (b : Opd)
  | mulh (d a : Reg) (b : Opd)
  | mulhu (d a : Reg) (b : Opd)
  | div (d a : Reg) (b : Opd)
  | divu (d a : Reg) (b : Opd)
  | rem (d a : Reg) (b : Opd)
  | remu (d a : Reg) (b : Opd)
  | mulw (d a : Reg) (b : Opd)
  | divw (d a : Reg) (b : Opd)
  | divuw (d a : Reg) (b : Opd)
  | remw (d a : Reg) (b : Opd)
  | remuw (d a : Reg) (b : Opd)
  -- BITS (09 R229)
  | clz (d a : Reg)
  | ctz (d a : Reg)
  | popc (d a : Reg)
  | brev (d a : Reg)
  | bswap (d a : Reg)
  | extu (d a : Reg) (b : Opd)
  | exts (d a : Reg) (b : Opd)
  | ins (d a : Reg) (b : Opd)
  -- immediate family (09 R225, R226)
  | addi (d a : Reg) (i : BitVec 14)
  | andi (d a : Reg) (i : BitVec 14)
  | ori (d a : Reg) (i : BitVec 14)
  | xori (d a : Reg) (i : BitVec 14)
  | shli (d a : Reg) (n : BitVec 6)
  | shri (d a : Reg) (n : BitVec 6)
  | sari (d a : Reg) (n : BitVec 6)
  | slti (d a : Reg) (i : BitVec 14)
  | sltui (d a : Reg) (i : BitVec 14)
  | lhi (d : Reg) (i : BitVec 20)
  -- AGEN (09 R230)
  | shadd1 (d a : Reg) (b : Opd)
  | shadd2 (d a : Reg) (b : Opd)
  | shadd3 (d a : Reg) (b : Opd)
  | shadd4 (d a : Reg) (b : Opd)
  | lndiv (d a : Reg)
  | lnmod (d a : Reg)
  -- FP (09 R231, R232; 07 R182)
  | fadd (d a : Reg) (b : Opd)
  | fsub (d a : Reg) (b : Opd)
  | fmul (d a : Reg) (b : Opd)
  | fdiv (d a : Reg) (b : Opd)
  | fsqrt (d a : Reg)
  | fmin (d a : Reg) (b : Opd)
  | fmax (d a : Reg) (b : Opd)
  | fmad (d a : Reg) (b : Opd)
  | fsgn (d a : Reg) (b : Opd)
  | feq (d a : Reg) (b : Opd)
  | flt (d a : Reg) (b : Opd)
  | fle (d a : Reg) (b : Opd)
  | fclass (d a : Reg)
  | fexp2 (d a : Reg)
  | flog2 (d a : Reg)
  | frcp (d a : Reg)
  | frsq (d a : Reg)
  | fcvt (d a : Reg) (mode : BitVec 2) (src dst : BitVec 3)
  | fli (d : Reg) (i : BitVec 20)
  | faddi (d : Reg) (i : BitVec 20)
  | fmuli (d : Reg) (i : BitVec 20)
  -- control transfer (09 R235-R238)
  | beq (a b : Reg) (i : BitVec 10)
  | bne (a b : Reg) (i : BitVec 10)
  | blt (a b : Reg) (i : BitVec 10)
  | bge (a b : Reg) (i : BitVec 10)
  | bltu (a b : Reg) (i : BitVec 10)
  | bgeu (a b : Reg) (i : BitVec 10)
  | j (i : BitVec 26)
  | jal (i : BitVec 26)
  | jr (a : Reg)
  | jalr (d a : Reg)
  | loopb (l : BitVec 2) (i : BitVec 10)
  | lcset (l : BitVec 2) (a : Reg)
  | lcget (l : BitVec 2) (a : Reg)
  -- loads and stores (10 R254-R256)
  | ld (d a : Reg) (z : LoadSize) (i : BitVec 11)
  | st (d a : Reg) (z : StoreSize) (i : BitVec 11)
  | ldl (d a : Reg) (z : LoadSize) (i : BitVec 11)
  | stl (d a : Reg) (z : StoreSize) (i : BitVec 11)
  | lds (d : Reg) (i : BitVec 9)
  | sts (d : Reg) (i : BitVec 9)
  | kld (d : Reg) (i : BitVec 9)
  | kst (d : Reg) (i : BitVec 9)
  | ldq (q : BitVec 6) (a : Reg) (z : LoadSize) (i : BitVec 11)
  | stq (q : BitVec 6) (a : Reg) (z : StoreSize) (i : BitVec 11)
  -- MEMX (10 R263-R265)
  | ldacq (d a : Reg) (z : WD) (sc : Scope)
  | strel (a b : Reg) (z : WD) (sc : Scope)
  | fence (k : FenceKind) (sc : Scope)
  | pref (a : Reg)
  | ldby (d a : Reg) (z : WD)
  | stna (a b : Reg) (z : WD)
  -- ATOM (10 R266, R267)
  | aadd (d a b : Reg) (z : WD) (sp : AtomSpace)
  | aand (d a b : Reg) (z : WD) (sp : AtomSpace)
  | aor (d a b : Reg) (z : WD) (sp : AtomSpace)
  | axor (d a b : Reg) (z : WD) (sp : AtomSpace)
  | amin (d a b : Reg) (z : WD) (sp : AtomSpace)
  | amax (d a b : Reg) (z : WD) (sp : AtomSpace)
  | aminu (d a b : Reg) (z : WD) (sp : AtomSpace)
  | amaxu (d a b : Reg) (z : WD) (sp : AtomSpace)
  | aswap (d a b : Reg) (z : WD) (sp : AtomSpace)
  | acas (d a b : Reg) (z : WD) (sp : AtomSpace)
  | afadd (d a b : Reg) (sp : AtomSpace)
  | afmax (d a b : Reg) (sp : AtomSpace)
  -- QOP (10 R260, R262)
  | dqput (q : BitVec 6) (b : Opd)
  | dqget (d : Reg) (q : BitVec 6)
  | dqpeek (d : Reg) (q : BitVec 6)
  | dqstat (d : Reg) (q : BitVec 6)
  | tksend (q : BitVec 6)
  | tkwait (q : BitVec 6)
  | tktry (d : Reg) (q : BitVec 6)
  | tkstat (d : Reg) (q : BitVec 6)
  -- RING (10 R268, R269)
  | rgclaim (d a b : Reg) (sc : Scope)
  | rgfill (d a : Reg) (sc : Scope)
  | rgtake (d a b : Reg) (sc : Scope)
  | rgtakeObs (d a b : Reg) (sc : Scope)
  | rgfree (d a : Reg) (sc : Scope)
  | rginit (d a b : Reg)
  | rgstat (d a b : Reg)
  | rgreset (d a b : Reg)
  | rgjoin (d a b : Reg)
  | rgleave (d a b : Reg)
  -- TAG (10 R271)
  | tglook (d a : Reg) (b : Opd)
  | tgset (d a : Reg) (b : Opd)
  | tginv (d a : Reg)
  | tgclr (a : Reg)
  | tgrd (d a : Reg)
  -- CA (10 R272)
  | caput (d a b : Reg)
  | canode (d a b : Reg)
  | caget (d a b : Reg)
  | caref (d a : Reg)
  | cadrop (d a : Reg)
  | caroot (d a b : Reg)
  | carootRef (d a b : Reg)
  | caswap (d a b : Reg)
  | cacas (d a b : Reg)
  -- JOB (10 R273-R277)
  | spawn (a : Reg)
  | join (a : Reg) (b : Opd)
  | allot (d : Reg) (b : Opd)
  | shrink (b : Opd)
  | phase (b : Opd)
  -- FAB (13 R361, R369)
  | copen (d a : Reg) (b : Opd)
  | cland (d a : Reg) (b : Opd)
  | chold (a : Reg) (b : Opd)
  | cclose (a : Reg)
  | cstat (d a : Reg)
  | dmset (a : Reg) (b : Opd)
  | dmready (a : Reg)
  | dmwait (d a : Reg)
  | dmstat (d a : Reg)
  -- PWC (12 R338)
  | pwsave (a : Reg)
  | pwrest (a : Reg)
  | pwrdy (d : Reg)
  | pwstat (d : Reg)
  -- TLB, PERF, HOST (09 R246-R251)
  | tlbinv (a : Reg)
  | tlbprb (d a : Reg)
  | perfrd (d : Reg) (b : Opd)
  | perfclr (b : Opd)
  | hostint (b : Opd)
  | hostsig (a : Reg) (b : Opd)
  -- common and switch engine words (11 R290, R295)
  | enop (c : CW) (n : BitVec 6)
  | ewait (c : CW)
  | eloop (c : PW) (ec : BitVec 1) (disp : BitVec 12) (n : BitVec 10)
  | ejmp (c : PW) (disp : BitVec 12) (setLink : Bool)
  | emark (c : CW) (v : BitVec 10)
  | eswpt (c : CW)
  | swlink (c : CW) (n p q : BitVec 3)
  | swcut (c : CW) (n : BitVec 3)
  -- M class (11 R296-R303)
  | mldb (w : EW)
  | mma (w : EW)
  | mmaz (w : EW)
  | mclr (w : EW)
  | mthr (w : EW)
  | mrdc (w : EW)
  | mout (w : EW)
  -- V class (11 R304-R312)
  | vld (w : EW)
  | vst (w : EW)
  | vlda (w : EW)
  | vsta (w : EW)
  | vadd (w : EW)
  | vsub (w : EW)
  | vmul (w : EW)
  | vfma (w : EW)
  | vmax (w : EW)
  | vmin (w : EW)
  | vexp2 (w : EW)
  | vlog2 (w : EW)
  | vrcp (w : EW)
  | vrsq (w : EW)
  | vcvt (w : EW)
  | vqnt (w : EW)
  | vdq (w : EW)
  | vrsum (w : EW)
  | vrmax (w : EW)
  | vscan (w : EW)
  | vcmp (w : EW)
  | vsel (w : EW)
  | vperm (w : EW)
  | vbcst (w : EW)
  | vgath (w : EW)
  | vscat (w : EW)
  | vsmx (w : EW)
  -- T class (11 R313)
  | txblk (w : EW)
  | txcvt (w : EW)
  | txgat (w : EW)
  -- C class (11 R314-R319)
  | cpy (w : EW)
  | cpyred (w : EW)
  | cpypk (w : EW)
  | cpyck (w : EW)
  | cpycode (w : EW)
  | cpyout (w : EW)
  -- W class (12 R331-R335)
  | wpatch (w : EW)
  | wloady (w : EW)
  | wrun (w : EW)
  | wsamp (w : EW)
  | wsave (w : EW)
  | wrest (w : EW)
  | wdom (w : EW)
  -- core instructions without operands (SYS, MEMX, JOB, TLB)
  | nop
  | eret
  | qmark
  | rend
  | trigger
  | waitdep
  | yield
  | exit
  | swpt
  | tlbinvt
  -- package, firmware and measurement events (20 R436-R440)
  | packageReset
  | fullServiceChange
  | firmwareUpdate
  | quoteRequest
  | measExtend
  -- translation, windows and migration (01 R27, R31; 03)
  | tenantWindowWrite
  | trootWrite
  | hbmsplitWrite
  | tbudgetWrite
  | migreqSubmit
  | migreqhSubmit
  | migrationRun
  | migrationComplete
  | hfpop
  | pageWalk
  | hostRead
  | hostWrite
  | hostHeldComplete
  | hostHeldExpire
  -- content-addressed region (04)
  | cactlEnable
  | cactlDisable
  | catenWrite
  -- homes and requests (02)
  | homeRequest
  | requestReissue
  | requestTimeout
  | dieLinkCrcError
  | caReclaim
  | reclaimFinish
  -- ring counter unit and neighbour links (02 R58-R60; 10 R261)
  | ringWaiterGrant
  | ringWaiterOrphan
  | voidRangeFill
  | departedTakeFree
  | neighbourDelivery
  -- launches, dispatch and retirement (06, 14)
  | launchSubmit
  | lqstatRead
  | launchTake
  | spawnerExpand
  | dispatchStartJob
  | jobRetire
  | dependencyMet
  | tctlTeardown
  | tctlEnable
  -- faults and supervisor control (15)
  | faultFreeze
  | xcoreStopTimeout
  | deferredFault
  | faultRecordWrite
  | fqlostRead
  | jctlResume
  | jctlKill
  | preemptDecide
  | drainExpire
  | checkpoint
  | checkpointResume
  | scaleQueueTimeout
  | coreTimingReplay
  | droopWindowOpen
  | droopReexecute
  -- fabric and circuits (13)
  | flitNackReplay
  | planeDown
  | laneFailure
  | laneRetrain
  | portIsolate
  | portRetrain
  | circuitBeatLand
  | breakNotice
  | leaseExpiry
  | flowMeterWindowEnd
  | flowProbe
  | flowPromote
  | holdoffExpire
  | flowIdleClose
  | dominoFire
  | dominoComplete
  -- power, sensors, tests, host link (20)
  | capEvaluate
  | ceilingFall
  | sensorSample
  | senstatClear
  | infieldTest
  | soraroLinkDown
  | signalRecordWrite
  | hostDeliveryExpire
  | vpendClear
  | msixUnmask
  | sqctlRead
  | quiesceStop
  | quiesceDeadline
  | quiesceIsolate
  | quiesceResume
  -- MMIO and arrivals
  | mmioImemWrite
  | mmioTagWindowWrite
  | mmioSysregWrite
  | mmioRegisterWrite
  | tileAddressedRequest
  | breakSignalArrival
  | illegalInstruction
  | engineDecodeFailure
  | trayPowerOff
  deriving DecidableEq, Repr

end Sys2Proof
end

