-- ==== Sys2Proof/Config.lean ====
section
/-!
DEFINITION. What an implementation fixes and the manual leaves open: fixed figures of the device and
the free values (opaque constants without a body).
-/

namespace Sys2Proof.Config

/-- Free value: the 16-byte serial of the device that is package `p`, the user identity of its signatures (20 R440), log 12. -/
opaque deviceSerial : Nat → BitVec 128

/-- Free value: the identity key of the device that is package `p` (20 R440), log 12. -/
opaque identityKey : Nat → BitVec 256

/-- Free value: Coltar's certificate for an identity key (20 R440), log 12. -/
opaque certificate : BitVec 256 → List Byte

/-- Free value: the SM2 signature with a key and a user identity over a digest (20 R440), log 12. -/
opaque sm2Sign : BitVec 256 → BitVec 128 → BitVec 256 → BitVec 512

/-- Free value: whether the fused verifying key accepts a signature over a digest (20 R439), log 12. -/
opaque sm2Verify : BitVec 256 → BitVec 512 → Bool

/-- Free value: what firmware reads in the private C-die blocks (01 R33), log 18. -/
opaque privateRegister : Nat → Word

/-- Free value: what EVA holds for a cause that the manual gives no EVA for (15 R388), log 18. -/
opaque unstatedEva : Nat → Word

/-- Free value: the digest with which firmware extends MEAS2 for a CAP0 and an HBMSPLIT value (20 R440), log 18. -/
opaque measDigest : Word → Word → BitVec 256

/-- Free value: a byte of a private part of a checkpoint frame (15 R399), log 20. -/
opaque privateByte : Nat → Byte

/-- Free value: what the changed bytes of a frame's private parts give each item of the device's own state (15 R399), log 20. -/
opaque privateMeaning : List (Nat × BitVec 8) → Nat → Word

/-- Free value: how many elements after the one at which a word stops its engine had already issued (15 R387), log 14. -/
opaque elemsAhead : Nat → Nat

/-- Element requests that an engine stream keeps outstanding at most (15 R387). -/
def elemsMax : Nat := 64

/-- Packages of the largest load-store domain (01 R21). -/
def maxPackages : Nat := 144

/-- Engine-word retries of a droop before Data-Error (15 R404). -/
def droopRetries : Nat := 8

/-- Entries of the core TLB (03 R75). -/
def coreTlbSize : Nat := 256

/-- Entries of a stream TLB (03 R76). -/
def streamTlbSize : Nat := 16

/-- Entries of the host TLB (03 R92). -/
def hostTlbSize : Nat := 64

/-- Entries of a walk cache (03 R77). -/
def walkCacheSize : Nat := 128

/-- Sets of a cache slice, and ways of a set (02 R37). -/
def cacheSets : Nat := 87380
def cacheWays : Nat := 16

/-- Wall-clock units in one microsecond: the unit is 10 ns / 360 360, of which every core clock
period of 20 R430 is a whole number (log 3). -/
def unitsPerUs : Nat := 36036000

/-- Phase units in one core cycle: at level `l` the phase of a package advances by 7 + l of them in each wall-clock unit,
a whole number of them in each core cycle (00 R8; log 3). -/
def cycleUnits : Nat := 360360

/-- Free value: which of a die's two home slices serves an HBM line (02 R37), by line base, log 9. -/
opaque homeSlice : Nat → Bool

/-- Free value: the set of its slice that holds an HBM line (02 R37), by line base, log 9. -/
opaque homeSet : Nat → Nat

/-- Voltages of the rails M, V, S and F at power level `l`, in mV (20 R430). -/
def railVolts : Nat → List Nat
  | 7 => [750, 800, 800, 850] | 6 => [725, 775, 800, 850] | 5 => [700, 750, 775, 850] | 4 => [675, 725, 775, 800]
  | 3 => [650, 700, 750, 800] | 2 => [625, 675, 750, 800] | 1 => [600, 650, 725, 775] | _ => [575, 625, 725, 775]

/-- Core clock period at power level `l`, in wall-clock units: 100 × (7 + l) MHz (20 R430). -/
def corePeriod (l : Nat) : Nat := 360360 / (7 + l)

end Sys2Proof.Config
end

