-- ==== Sys2Proof/Machine/State.lean ====
section
/-!
DEFINITION. The state of a load-store domain of LN9 packages as plain data, and the state right
after reset. Each field cites the rule of spec/ that names it; INVENTORY.md lists them with their
reset values. Sparse maps (`Map`) list entries by number; an unlisted entry reads as its reset value.
-/

namespace Sys2Proof.Machine

/-- A sparse map by number, sorted by key. -/
abbrev Map (β : Type) := List (Nat × β)

/-- Bytes by address, sorted, no entry zero (log 1). -/
abbrev Memory := List Host.Cell

/-- Eight dwords: a continuation record (06 R165) or a launch record (14 R372). -/
abbrev Dw8 := Vector Word 8

/-- Model-level stops. Everything the manual gives an effect is a next state; this one is left for states that no step of
the machine reaches. -/
inductive Fault where
  /-- Raised by a core instruction or engine word run for a stream that does not exist or is of the
  other sort (a core word at an engine stream). `step` never does so. Safe. -/
  | noStream
  deriving DecidableEq, Repr

/-- Refusals. -/
inductive Refusal where
  /-- Raised by an arm of `exec` whose instruction has no meaning yet. Safe. -/
  | notModelled (mnemonic : String)
  deriving DecidableEq, Repr

/-- Cause codes 0x01 to 0x18 (15 R384). -/
inductive Cause where
  | illegal | literalTarget | allotment | privileged | misaligned | addressForm | pageAbsent
  | protection | localRange | divide | dataError | requestTimeout | queueDiscipline | tokenOverflow
  | ringIntegrity | caCollision | caName | threshold | overrun | integrand | imbalance | engineWord
  | switchConfig | trap
  deriving DecidableEq, Repr

/-- A stream of a job (06 R152, R154). -/
structure StreamId where
  pkg : Pkg
  tile : TileNo
  slot : Slot
  kind : Kind
  deriving DecidableEq, Repr

/-- Who moves next (log 2): a stream, an event with its operands, or time passing by `n` core cycles. -/
inductive Turn where
  | stream (id : StreamId)
  | event (i : Instr) (a : Args)
  | elapse (n : Nat)
  /-- A stream or an event in the core cycle of the move that follows: no cycle ends with it. -/
  | streamIn (id : StreamId)
  | eventIn (i : Instr) (a : Args)
  /-- The home of request `id` takes it into the order of its line, to perform it later (05 R125). -/
  | accept (id : Nat)
  /-- From now on the byte at physical address `at_` holds, or no longer holds, an uncorrectable error (log 60). -/
  | upset (at_ : Nat) (bad : Bool)
  /-- A counter of ring `n` of the tile with key `tile` meets a single-bit error, or a double one (02 R54). -/
  | ringError (tile n : Nat) (double : Bool)
  /-- The Soraro link of package `p` comes up again (20 R429). -/
  | linkUp (p : Nat)
  /-- The host reads the dword at offset `o` of BAR 0 of tenant `u`'s function (20 R426). -/
  | vfRead (p u o : Nat)
  /-- The host sets or clears the function mask of tenant `u`'s MSI-X capability (20 R427). -/
  | vfMask (p u : Nat) (masked : Bool)
  /-- The host reads Coltar's certificate in the mailbox of physical function 0 (20 R440). -/
  | certificate (p : Nat)
  /-- A lane of die-to-die link `l` of package `p` fails, or a CIM column of macro `m` of a tile (20 R434). -/
  | dieLaneFail (p l : Nat)
  | columnFail (tile m : Nat)
  deriving DecidableEq, Repr

/-! ### A job and its streams -/

/-- A request that a core or an engine stream has sent and whose answer has not come (02 R65, R66). -/
structure Asked where
  /-- Virtual address or ring reference that its faults show; the domain of a content-addressed operation. -/
  va : Word
  /-- Physical address, or the number of the place for a ring, a content-addressed line or a domino unit. -/
  pa : Nat
  seq : BitVec 16
  sentAt : Nat
  reissues : Nat
  /-- Its operand as it left. -/
  data : List Byte
  /-- It stands at its unit or home, which keeps it until it can act (02 R58; 04 R107). -/
  held : Bool
  deriving DecidableEq, Repr

/-- A core context (06 R155, R158; 09 R238, R239, R248; 15 R387). -/
structure Core where
  /-- IMEM byte address, 0 to 0x4_0000. -/
  pc : BitVec 19
  /-- g0 to g63; g63 is the link register outside the file (R158). -/
  g : Vector Word 64
  /-- Allotment N. -/
  allot : Nat
  lc : Vector W32 4
  /-- STATUS.H: a handler is running. -/
  h : Bool
  cause : Word
  epc : Word
  eva : Word
  ecut : Word
  instret : Word
  issuecyc : Word
  stallcyc : Word
  /-- Instructions retired since job start (15 R387). -/
  seq : W32
  /-- The stream has finished, or its kind is absent (R153). -/
  fin : Bool
  /-- Stopped at its place in the cut while the job freezes (15 R389). -/
  stopped : Bool
  /-- Spill memory by dword index (01 R17). -/
  spill : Map Word
  /-- The request of the instruction that waits for its answer (10 R253). -/
  asked : Option Asked
  /-- The result dword that has come back. -/
  reply : Option Word
  /-- The core TLB miss of the instruction's access has been counted (09 R248). -/
  missed : Bool
  /-- The stream finishes when the operation it has sent retires: EXIT of the other core (06 R157; 10 R253). -/
  leaving : Bool
  deriving DecidableEq, Repr

/-- Progress of a pattern's contiguous run (02 R36): nibble address after its last element, the last line; the
pages the word has touched (03 R76), and the node lines it has read, with what they held (04 R118). -/
structure Touch where
  next : Option Nat
  line : Nat
  /-- Where the run entered that line, and where it had entered the one before its last element (02 R69). -/
  from_ : Nat
  was : Nat
  pages : List Nat
  nodes : List (BitVec 128 × List Byte)
  deriving DecidableEq, Repr

/-- Nothing touched. -/
def Touch.start : Touch := ⟨none, 0, 0, 0, [], []⟩

/-- Position inside a word (15 R387, R394). -/
structure WordPos where
  rep : Nat
  elem : Nat
  /-- Elements after `elem` that are already done, bit j for element elem + 1 + j (R387). -/
  done : Word
  /-- Runs, pages and nodes of its source and of its destination. -/
  a : Touch
  b : Touch
  /-- Bytes of a taken beat not yet used, per channel operand read. -/
  held : List Byte
  /-- Bytes packed and not yet sent as a beat. -/
  packed : List Byte
  /-- The channels read whose mark has been taken, one bit per channel (11 R294). -/
  marked : BitVec 8
  /-- The inputs of the repetition have been taken (12 R334). -/
  taken : Bool
  /-- Scale bytes taken for the repetition (11 R300). -/
  scales : List Byte
  /-- The circuit the word sends on has broken (11 R317). -/
  broken : Bool
  /-- The word runs on: it stopped only for its turn or for a page under migration, so a freeze waits for it (03 R82). -/
  active : Bool
  /-- The switch channel on which it waits for room, and the one on which it waits for a beat, or 8 for the scale queue (03 R82;
  11 R293, R300). -/
  outOn : Option Nat
  inOn : Option Nat
  /-- Accesses of the element under way that have left the tile, and those of them that its present run has made (01 R36). -/
  left : Nat
  made : Nat
  /-- It began in a droop window and has not run: it is suspect (15 R404). -/
  suspect : Bool
  /-- Accumulator rows as the repetitions of an MMA found them, latest first, and the scale bytes these have used (15 R404). -/
  undo : List (Nat × List Byte)
  used : List Byte
  /-- The word and its descriptors as fetched, held while it executes (01 R34); none after a stop (15 R394). -/
  fetched : Option (BitVec 48 × List Word)
  /-- VSMX header m1, s1, m2, s2 as read before repetition 0 (11 R311); trap counts as an MMA began (R303). -/
  header : List W32
  deriving DecidableEq, Repr

/-- A code load the C stream makes before the other streams start (06 R164, 08 R218). -/
inductive Load where
  | image
  | dmem
  deriving DecidableEq, Repr

/-- An engine stream (06 R152; 11 R282; 15 R387). -/
structure Engine where
  /-- EMEM word index; 16 384 or more faults at the next fetch (R280). -/
  pc : Nat
  link : BitVec 14
  ec : Vector (BitVec 11) 2
  mark : BitVec 10
  /-- Words completed since job start. -/
  words : W32
  fin : Bool
  /-- Inside the word at `pc`, whose pop has been made. -/
  pos : Option WordPos
  /-- A push that waits (11 R279). -/
  push : Option (BitVec 4)
  /-- Index of the word completed last. -/
  last : Nat
  /-- The stream finishes when its pending push is made (R280). -/
  ending : Bool
  /-- An Arithmetic-Threshold fault to raise before the next word: the counter number (11 R303). -/
  threshold : Option (BitVec 2)
  /-- The load to run before anything else. -/
  load : Option Load
  /-- Phase since which the scale queue has been empty for a word that waits for it (11 R300). -/
  starved : Option Nat
  /-- Consecutive suspect executions of the next word (15 R404). -/
  suspect : Nat
  /-- The request of the element that waits for its answer (02 R66). -/
  asked : Option Asked
  deriving DecidableEq, Repr

/-- Token queue (06 R156, 10 R262). -/
structure TokenQ where
  bind : Option (Kind × Kind)
  count : Nat
  deriving DecidableEq, Repr

/-- Entry of dq0 to dq5: a value, or reserved for the load of an LDQ in flight (10 R258). -/
inductive DqEntry where
  | val (v : Word)
  | waiting (req : Nat)
  deriving DecidableEq, Repr

/-- Entry of the scale queue (10 R258). -/
inductive SqEntry where
  | byte (b : Byte)
  | waiting (req : Nat) (n : Nat)
  deriving DecidableEq, Repr

/-- dq6 or dq7 (10 R261). -/
structure NbQueue where
  link : Option (BitVec 2)
  inq : List Word
  outq : List Word
  deriving DecidableEq, Repr

/-- A beat of 1 KiB or a mark (11 R293, R294). -/
inductive Beat where
  | beat (b : List Byte)
  | mark
  deriving DecidableEq, Repr

/-- Switch channel (11 R293, R295). -/
structure Channel where
  bind : Option (Kind × Kind)
  q : List Beat
  deriving DecidableEq, Repr

/-- A 32-row block of a column of B: live, stored rows (11 R297, 2:4 structure), scale byte, 32 codes with
absent ones zero. -/
structure BBlock where
  live : Bool
  stored : BitVec 32
  scale : Byte
  codes : List Byte
  deriving DecidableEq, Repr

/-- Resident B (11 R296). -/
structure ResidentB where
  btype : BitVec 2
  layout : BitVec 2
  sp : Bool
  bscl : Bool
  k : Nat
  n : Nat
  cols : List (List BBlock)
  deriving DecidableEq, Repr

/-- Trap counters and thresholds of the matrix engine (11 R303): saturation, NaN, scale overflow. -/
structure MatrixTraps where
  count : Vector W32 3
  limit : Vector W32 3
  deriving DecidableEq, Repr

/-- State of a circuit record (13 R358, R364). -/
inductive RecState where
  | free | opened | broken | closed
  deriving DecidableEq, Repr

/-- Send record (13 R358, R364). -/
structure SendRec where
  seq : Nat
  st : RecState
  /-- Number of the circuit. -/
  circ : Nat
  cause : BitVec 4
  /-- Resume point, unknown until the break notice (R360). -/
  resume : Option W32
  deriving DecidableEq, Repr

/-- Landing record (13 R358, R361). -/
structure LandRec where
  seq : Nat
  st : RecState
  base : Nat
  /-- Length of the window in words. -/
  len : Nat
  circ : Option Nat
  cause : BitVec 4
  delivered : W32
  deriving DecidableEq, Repr

/-- IMEM bytes and EMEM entries of an image: start and length of each (06 R164). -/
structure CodeRange where
  i : Nat
  n : Nat
  e : Nat
  m : Nat
  deriving DecidableEq, Repr

/-- State of a job in its slot (15 R392). -/
inductive JobState where
  | running | freezing | frozen | handler | checkpointing
  /-- Killed, until what it has issued has performed (05 R151); its record is enqueued again if `again` (R402). -/
  | killing (again : Bool)
  deriving DecidableEq, Repr

/-- The access a deferred fault is about (15 R385, R388). -/
structure FailedAccess where
  addr : Word
  data : Word
  size : BitVec 2
  kind : BitVec 4
  aop : BitVec 4
  ascope : BitVec 3
  deriving DecidableEq, Repr

/-- A fault of a job (15 R384, R388). -/
structure FaultInfo where
  cause : Cause
  eva : Word
  /-- Raising stream. -/
  kind : Kind
  /-- Faulting instruction or word. -/
  point : Nat
  /-- The resume address of a core that raised it: p, or p + 4 for TRAP. -/
  failed : Option FailedAccess
  deriving DecidableEq, Repr

/-- The fields of a kernel descriptor that a running job keeps (06 R161). -/
structure Kernel where
  image : Word
  alloc : Nat
  accbase : Nat
  acccount : Nat
  smask : BitVec 7
  xoff : Nat
  eoff : Word
  entries : W32
  levels : List Word
  est : Nat
  /-- Footprint variant table, four dwords (03 R89). -/
  variants : Vector Word 4
  sched : Word
  tqbind : Vector Word 2
  /-- Address the descriptor was read from. -/
  at_ : Word
  deriving DecidableEq, Repr

/-- A schedule table entry (14 R383): kind, point, eight targets of 24 bits. -/
structure SchedEntry where
  kind : Nat
  point : Nat
  tgt : BitVec 192
  deriving DecidableEq, Repr

/-- A record waiting or running, with what the dispatcher keeps beside it (06 R165, 14 R375). -/
structure QRec where
  dw : Dw8
  homeDie : Option Nat
  homeTile : Option Nat
  /-- Phase of its package at its enqueue (log 3). -/
  since : Nat
  /-- Made by a launch's expansion (06 R166). -/
  expanded : Bool
  /-- Where the queue's backing holds it; none on chip (14 R376). -/
  slot : Option Nat
  deriving DecidableEq, Repr

/-- A running job (06 R154). -/
structure Job where
  /-- Number of the job, never used again. -/
  jid : Nat
  qrec : QRec
  tenant : Tenant
  cls : Nat
  /-- Level: tenant supervisor or job (R165). -/
  sup : Bool
  tag : BitVec 12
  phase : Byte
  kern : Kernel
  /-- The ranges that the image it runs from occupies; none while its header has not been read (06 R164). -/
  code : Option CodeRange
  sched : List SchedEntry
  a : Core
  x : Core
  trapv : Word
  /-- Constant bank (01 R18). -/
  kbank : Vector Word 64
  m : Engine
  v : Engine
  t : Engine
  c : Engine
  w : Engine
  tq : Vector TokenQ 16
  dq : Vector (List DqEntry) 6
  nq : Vector NbQueue 2
  sq : List SqEntry
  /-- v0 to v31: lane j of register r at 256 r + j (11 R282). -/
  vreg : Map W32
  sw : Vector Channel 8
  resB : Option ResidentB
  traps : MatrixTraps
  send : Vector SendRec 16
  land : Vector LandRec 16
  st : JobState
  /-- Draining, with the phase at which the drain began (15 R397). -/
  drain : Option Nat
  /-- Its drain has run out and nothing else can be done with it: it drains to its end (15 R397). -/
  toEnd : Bool
  /-- The fault being delivered while the job freezes. -/
  freeze : Option FaultInfo
  /-- The A-core stopped at this phase; the X-core goes on (03 R81). -/
  astop : Option Nat
  /-- Deferred faults to deliver at later resumptions (15 R385). -/
  deferred : List FaultInfo
  /-- Deferred faults that arrived with the one its handler runs for wait for its resumption (15 R385). -/
  later : Bool
  /-- The core that runs the handler. -/
  hcore : Kind
  /-- Kind of the stream whose fault it handles (12 R340). -/
  hkind : Kind
  /-- TRIGGER has been executed (06 R171). -/
  triggered : Bool
  /-- Phase of its package at its start. -/
  start : Nat
  /-- Phase spent not frozen before the phase `since` (15 R396; log 3). -/
  ran : Nat
  since : Nat
  deriving DecidableEq, Repr

/-! ### A tile -/

/-- Ring states (02 R53). -/
inductive RingState where
  | idle | active | frozen
  deriving DecidableEq, Repr

/-- What a waiting ring operation waits for (02 R57, R58). -/
inductive RingWait where
  | claim (n : Nat)
  | fill
  | take (n : Nat)
  | obs (target : W32)
  | free
  /-- RGLEAVE, RGJOIN or another operation held at a frozen ring (02 R61). -/
  | held (join : Bool) (prod cons : Bool)
  deriving DecidableEq, Repr

/-- A job's core as the issuer of a ring operation: key of its slot, job number, core. -/
structure Issuer where
  key : Nat
  jid : Nat
  xcore : Bool
  deriving DecidableEq, Repr

/-- A waiting ring operation (02 R58). -/
structure Waiter where
  op : RingWait
  by_ : Issuer
  deriving DecidableEq, Repr

/-- A range of counts: owner, start and length. -/
structure RingRange where
  jid : Nat
  start : W32
  len : Nat
  deriving DecidableEq, Repr

/-- A ring entry with its registrations, open ranges and waiters (02 R53 to R61). -/
structure Ring where
  st : RingState
  lgcount : Nat
  slotsz : Nat
  base : Nat
  prods : List Nat
  cons : List Nat
  head : W32
  taken : W32
  tail : W32
  claimed : W32
  voids : Nat
  ecc : Byte
  claims : List RingRange
  takes : List RingRange
  /-- Void ranges not yet filled or not yet taken (R60). -/
  voidRanges : List RingRange
  /-- Takes of departed consumers to be freed (R60). -/
  freeRanges : List RingRange
  waiters : List Waiter
  deriving DecidableEq, Repr

/-- A TLB entry (03 R75): page base, frame base, size code, XWR, placement. -/
structure TlbEntry where
  tenant : Tenant
  va : Nat
  pa : Nat
  size : BitVec 2
  xwr : BitVec 3
  placement : BitVec 4
  deriving DecidableEq, Repr

/-- A resident code image (06 R164). -/
structure Resident where
  tenant : Tenant
  image : Word
  ibase : Nat
  ilen : Nat
  ebase : Nat
  elen : Nat
  dlen : Nat
  deriving DecidableEq, Repr

/-- A Pinwheel cell (12 R322); pending signs oldest first, true for −1. -/
structure Cell where
  y : W32
  z : W32
  count : W32
  pend : Vector (List Bool) 4
  deriving DecidableEq, Repr

/-- A tile's integrator array (12 R321 to R325, R341). -/
structure Pinwheel where
  cells : Map Cell
  patch : Map Word
  dom : Vector Word 8
  cyc : W32
  deriving DecidableEq, Repr

/-- The issue turn of a core, or of an engine, of a tile (14 R380, R381). -/
structure Issue where
  /-- The job slot it issues from, or served last. -/
  slot : Nat
  /-- Turns in succession that this slot has had. -/
  run : Nat
  /-- YIELD has ended the turn. -/
  gave : Bool
  /-- A core's decision in this cycle for the next one: the slot it issues from then, and the slot if a YIELD issues in this one. -/
  next : Nat
  other : Nat
  deriving DecidableEq, Repr

/-- A tile's state outside memory and jobs. -/
structure Tile where
  /-- Tenant served; none before the first job after reset (01 R13). -/
  tenant : Option Tenant
  /-- For each tenant that it has been cleared of, `fresh` as the last such clear found it (01 R13). -/
  former : Map Nat
  rings : Map Ring
  tlb : List TlbEntry
  tlbC : List TlbEntry
  tlbT : List TlbEntry
  tlbV : List TlbEntry
  tlbW : List TlbEntry
  reqloc : Word
  reqdie : Word
  reqpkg : Word
  tlbmiss : Word
  reissue : Word
  /-- The time of the last core cycle with an event that one of these five counts, and what they held when it began (09 R249). -/
  before : Option (Nat × Vector Word 5)
  resident : List Resident
  /-- Job that holds the matrix engine (11 R282). -/
  mHolder : Option Nat
  /-- Job that holds Pinwheel (12 R321). -/
  pwHolder : Option Nat
  pw : Pinwheel
  /-- The dispatcher treats the tile as busy during an in-field test (20 R435). -/
  testing : Bool
  /-- Issue turns, by stream kind code. -/
  issue : Map Issue
  deriving DecidableEq, Repr

/-! ### Requests, circuits, flows -/

/-- An access of the local queue of a core context (05 R119). -/
inductive LocalOp where
  | load
  | store
  | atomic (op : BitVec 4) (scope : Option Scope)
  /-- TGSET of a slot in the set of `ways` slots from `first` on, TGINV, and TGCLR of `n` slots (10 R271). -/
  | tgset (first ways : Nat)
  | tginv
  | tgclr (n : Nat)
  deriving DecidableEq, Repr

/-- What stands in the queues of a core context: an access and what it does when it performs, or a point that holds
others back (05 R119). -/
inductive ReqOp where
  /-- An access of the local queue, which stays with its tile and is over when nothing older holds it (05 R119, R122). -/
  | own (op : LocalOp)
  /-- PREF (10 R265). -/
  | pref
  | store
  | strel (scope : Scope)
  /-- Its scope, if it has one. -/
  | atomic (op : BitVec 4) (scope : Option Scope)
  | hostsig
  /-- Load of an LDQ into queue 0 to 3, or 8 for the scale queue; the flag says sign-extend. -/
  | ldq (q : Nat) (signed : Bool)
  /-- QMARK (05 R125). -/
  | qmark
  /-- FENCE (05 R128 to R130). -/
  | fence (k : FenceKind) (scope : Scope)
  /-- A TKSEND whose token has not entered queue `q` (10 R262). -/
  | token (q : Nat)
  deriving DecidableEq, Repr

/-- Status of a request in flight. -/
inductive ReqStatus where
  /-- Held back before it is sent. -/
  | waiting
  | sent
  /-- Taken by its home into the order of its line (05 R125). -/
  | accepted
  /-- Its flits were discarded on the way: only a reissue can reach its place (02 R69). -/
  | lost
  /-- It has performed and its answer was discarded on the way (02 R67, R69). -/
  | unanswered
  /-- Ended in Request-Timeout: never performs (05 R148). -/
  | timedOut
  /-- A load that failed, to be issued again at resumption (15 R385). -/
  | failed
  /-- A load that is issued again, with its translation to be made (15 R393). -/
  | again
  deriving DecidableEq, Repr

/-- An entry of a core context's queues: a posted access until its answer has come (02 R65 to R67), or a fence, QMARK or
token that waits (log 4). -/
structure Req where
  id : Nat
  by_ : Issuer
  tenant : Tenant
  op : ReqOp
  va : Word
  pa : Nat
  /-- IMEM address of the instruction that sent it (15 R388). -/
  point : Nat
  /-- Bytes. -/
  size : Nat
  data : Word
  noalloc : Bool
  /-- Sequence number for its requester and target. -/
  seq : BitVec 16
  sentAt : Nat
  reissues : Nat
  st : ReqStatus
  /-- Place in the order of acceptance, for one accepted. -/
  acc : Nat
  /-- The core TLB miss of its translation anew has been counted (09 R248). -/
  missed : Bool
  deriving DecidableEq, Repr

/-- A kept result of a non-idempotent request (02 R67). -/
structure Kept where
  /-- Number of the requester. -/
  by_ : Nat
  target : Nat
  seq : BitVec 16
  result : Word
  /-- Bytes that the answer brings beside its dword. -/
  extra : List Byte
  deriving DecidableEq, Repr

/-- A track of a link of the fabric, in one direction (13 R342; log 26): package, node, direction and
track. Nodes are tile ports 0 to 255, cluster routers 256 + 16 d + c, dies 512 + d, the H-die 516. -/
structure Link where
  pkg : Nat
  node : Nat
  dir : Nat
  track : Nat
  deriving DecidableEq, Repr

/-- A circuit (13 R351 to R364). -/
structure Circuit where
  id : Nat
  /-- Sending slot key and job, send record; a flow's circuit has none. -/
  src : Nat
  srcJid : Nat
  srcRec : Nat
  flow : Option Nat
  dst : Nat
  dstJid : Nat
  dstRec : Nat
  cls : Nat
  links : List Link
  /-- Phase of the sender's package at which the lease ends (log 3). -/
  leaseEnd : Nat
  /-- Local address of the next word to land, and end of the landing window. -/
  next : Nat
  stop : Nat
  dstPkg : Nat
  dstTile : Nat
  /-- Beats on the way, oldest first; a flow's words carry their landing address (13 R351, R356). -/
  words : List (List (Nat × W32))
  /-- Words sent and landed; of a promoted circuit, those of the CPYPK word under way. -/
  sent : Nat
  delivered : Nat
  /-- Element of the CPYPK word under way whose words the circuit carried first (13 R356). -/
  first : Nat
  alive : Bool
  /-- Time at which it ended. -/
  endedAt : Nat
  /-- Cause known at the sender's port and not yet shown there. -/
  signal : Option (BitVec 4)
  /-- Break notice on its way: cause and resume point. -/
  notice : Option (BitVec 4 × W32)
  deriving DecidableEq, Repr

/-- State of a flow (13 R354 to R357). -/
inductive FlowState where
  | metered
  | probing
  /-- Until this phase of its package (log 3). -/
  | holdoff (until_ : Nat)
  | promoted (circ : Nat)
  deriving DecidableEq, Repr

/-- A metered CPYPK flow (13 R354). -/
structure Flow where
  id : Nat
  pkg : Nat
  tile : Nat
  dstPkg : Nat
  dstTile : Nat
  label : Byte
  bytes : Nat
  cls : Nat
  /-- The job whose word sent last. -/
  by_ : Issuer
  /-- Phase of its package at which it sent last. -/
  lastSent : Nat
  /-- The word that sent last has elements that a circuit carries (13 R355). -/
  eligible : Bool
  st : FlowState
  deriving DecidableEq, Repr

/-! ### Tenants -/

/-- Launch status codes of 14 R374. -/
inductive LaunchStatus where
  | accepted | complete | malformed | overBudget | contextDead | tagBusy | argFault
  deriving DecidableEq, Repr

/-- A launch in flight (14 R373 to R375). -/
structure Launch where
  tag : BitVec 12
  dw : Dw8
  sup : Bool
  args : List Word
  kern : Kernel
  /-- Records made so far, and whether the expansion has ended. -/
  made : Nat
  expanded : Bool
  /-- Final status chosen early (failed or torn down); no more records are made. -/
  final : Option LaunchStatus
  /-- Its dependency is met for launches that wait on it (06 R170). -/
  met : Bool
  deriving DecidableEq, Repr

/-- A phase instance (03 R90, 10 R276). -/
structure PhaseInst where
  tag : BitVec 12
  phase : Byte
  variant : Nat
  foot : Nat
  sealed_ : Bool
  /-- Its footprint is in TCOMMIT. -/
  charged : Bool
  deriving DecidableEq, Repr

/-- Domino entry and its state (13 R365). -/
structure Domino where
  dw : Vector Word 4
  done : W32
  failed : Bool
  inflight : Bool
  /-- The generation in flight has met a failure. -/
  failing : Bool
  /-- Readies held, as package × 256 + tile (root package only). -/
  readies : List Nat
  deriving DecidableEq, Repr

/-- A checkpointed job in its frame (15 R398, R399). -/
structure Frame where
  idx : Nat
  job : Job
  tileKey : Nat
  /-- Slot it was checkpointed from. -/
  slot : Nat
  /-- Pinwheel as saved, when the job held it. -/
  pw : Option Pinwheel
  /-- Number behind the free bytes of its private parts (log 20). -/
  serial : Nat
  deriving DecidableEq, Repr

/-- A tile save for checkpointed jobs (15 R400): the rings it holds, and the jobs that have ended since, whose leaves act on the
restored rings (01 R13), oldest first. -/
structure TileSave where
  tileKey : Nat
  rings : List Nat
  left : List Nat
  deriving DecidableEq, Repr

/-- A supervisor-bound record waiting for room (15 R391). -/
structure PendingRec where
  dws : Vector Word 32
  /-- Home die for FQREC: that of the record's tile, none with an empty cut. -/
  die : Option Nat
  empty : Bool
  deriving DecidableEq, Repr

/-- Per package and tenant: translation, execution, fault queue, BAR 0 and domino state. -/
structure TenantArea where
  troot : Word
  txctl : Word
  tbudget : Nat
  tcommit : Nat
  hostFaults : List Word
  hostFaultLost : Bool
  mig : Vector Word 4
  migH : Vector Word 4
  hwin : Vector Word 16
  /-- 16 windows of two dwords (01 R30). -/
  win : Map Word
  caten : Word
  ktbase : Word
  ktlen : Word
  tctl : Word
  rqbase : Word
  rqcap : Nat
  tquant : Nat
  pushJ : Dw8
  pushS : Dw8
  queueJ : List Dw8
  queueS : List Dw8
  lastS : Bool
  ovf : Bool
  launches : List Launch
  queues : Vector (List QRec) 4
  /-- Class queues whose backing has met a fault since RQBASE was written (14 R376). -/
  backingOff : BitVec 4
  /-- Statuses that wait for the page of their completion slot, oldest first (03 R87; 14 R374). -/
  statuses : List (Dw8 × LaunchStatus)
  phases : List PhaseInst
  fqbase : Word
  fqctl : Word
  fqhead : W32
  fqtail : W32
  fqlost : W32
  fqrec : Dw8
  pending : List PendingRec
  /-- The record that FQREC spawns, waiting for room in its class queue, with its home die (15 R391). -/
  fqspawn : Option (Dw8 × Option Nat)
  ptok : Nat
  ckbase : Word
  ckcount : Nat
  cktile : Word
  frames : List Frame
  saves : List TileSave
  vpend : BitVec 16
  /-- Time of the last raise of each vector, and whether it merged with one pending (20 R427). -/
  vraise : Map (Nat × Bool)
  msixMask : BitVec 16
  /-- Message address and data of each MSI-X entry, and the mask of the function (20 R426, R427). -/
  msix : Vector (Word × W32) 16
  msixOff : Bool
  /-- Messages sent to the host, by vector, newest last. -/
  messages : List (BitVec 4)
  /-- Messages that wait for the Soraro link, each with its time (20 R429). -/
  heldMsgs : List (BitVec 4 × Nat)
  sqbase : Word
  sqcap : Nat
  sqhead : W32
  sqtail : W32
  sqctl : Word
  /-- Signal records released and not yet written: address, value and time. -/
  signals : List (Word × Word × Nat)
  /-- Signal records written to the host's queue: host bus address, two dwords. -/
  hostMem : List (Word × Word × Word)
  domino : Map Domino
  deriving DecidableEq, Repr

/-! ### Packages -/

/-- A content-addressed line (04 R99, R102). -/
structure CaLine where
  name : BitVec 128
  node : Bool
  count : W32
  /-- Physical line base that holds its 192 bytes (log 10). -/
  at_ : Nat
  dead : Bool
  /-- Its reclaim has begun: the storage is free, decrements are on the way (04 R106). -/
  freed : Bool
  deriving DecidableEq, Repr

/-- A decrement that reclaim sends for a field of a node: the domain, the node, and the name in the field (04 R106). -/
structure Owed where
  dom : Nat
  node : BitVec 128
  field : BitVec 128
  deriving DecidableEq, Repr

/-- Who waits at a home of the region: an operation of a core, or the decrement that heads the way from a reclaim engine. -/
inductive CaWaiter where
  | op (who : Issuer)
  | reclaim (die : Nat)
  deriving DecidableEq, Repr

/-- A wait at a home, in a prefix group (04 R107) or for a root slot (04 R109): `node` marks a CANODE that its home performs
and that waits only for the increments of its fields. -/
structure CaHeld where
  group : Nat
  who : CaWaiter
  node : Bool
  deriving DecidableEq, Repr

/-- CA domain states (04 R94). -/
inductive CaState where
  | off | init | ready | error
  deriving DecidableEq, Repr

/-- CA domain area of a package, with the lines when it is the pool package (04 R94). -/
structure CaDomain where
  first : Word
  last : Word
  key0 : Word
  key1 : Word
  st : CaState
  lines : List CaLine
  /-- What waits at the homes, in order of arrival (04 R107, R109). -/
  held : List CaHeld
  /-- Error log of the homes: line bases whose storage held an uncorrectable error (04 R102). -/
  errors : List Nat
  /-- In the pool package: the homes serve the pool that its enable emptied (04 R96; log 24). -/
  up : Bool
  deriving DecidableEq, Repr

/-- A line of a home's cache: base and sector masks, least recently used first (02 R37, R38). -/
structure CacheLine where
  base : Nat
  valid : BitVec 4
  dirty : BitVec 4
  deriving DecidableEq, Repr

/-- A non-leaf entry of a walk cache (03 R77): tenant, level of the table, index prefix, table. -/
structure WalkEntry where
  tenant : Tenant
  level : Nat
  prefix_ : Nat
  table : Nat
  deriving DecidableEq, Repr

/-- A migration request (03 R84 to R87). -/
structure Migration where
  tenant : Tenant
  dw : Vector Word 4
  host : Bool
  /-- Core cycle of arrival. -/
  arrived : Nat
  /-- Leaf value and its address once the walk has found it; none while queued. -/
  leaf : Option (Word × Nat)
  inplace : Bool
  /-- Status and old frame of a completion whose dword waits for its page. -/
  ended : Option (Nat × Nat)
  deriving DecidableEq, Repr

/-- A host access held at the H-die (03 R93), or behind one that is (05 R144). -/
structure HeldAccess where
  tenant : Tenant
  /-- A write of the dword at offset `off` of BAR 0. -/
  mmio : Bool
  write : Bool
  /-- It has met Page-Absent: `since` is then the time it did (R93). -/
  absent : Bool
  off : Nat
  va : Word
  len : Nat
  data : List Byte
  since : Nat
  deriving DecidableEq, Repr

/-- A fabric port (13 R348, R350). Lane counts are the failed lanes of the 18 of a plane. -/
structure Port where
  plost : Nat
  clost : Nat
  pdown : Bool
  iso : Bool
  nacks : Nat
  deriving DecidableEq, Repr

/-- A sensor region (20 R433). -/
structure Region where
  failed : BitVec 3
  /-- Consecutive samples each sensor has differed by more than 8 °C. -/
  off : Vector Nat 3
  hold : Bool
  trip : Bool
  temp : Int
  deriving DecidableEq, Repr

/-- A firmware slot (20 R439). -/
structure FwSlot where
  img : Image
  pending : Bool
  confirmed : Bool
  deriving DecidableEq, Repr

/-- A mailbox answer (20 R440): digest and signature. -/
structure Quote where
  q : BitVec 256
  sig : BitVec 512
  deriving DecidableEq, Repr

/-- Bring-up of a package (20 R436, R439). -/
inductive Boot where
  | off | pilot | full | recovery
  /-- The one image that recovery accepts did not verify (20 R439). -/
  | spent
  | poweredOff
  deriving DecidableEq, Repr

/-- A package outside its tenants, tiles and memory. -/
structure Package where
  boot : Boot
  /-- Phase of the core clock at `cycWall`, in 1/360360 of a core cycle since package reset (09 R239; log 3). -/
  cycBase : Nat
  cycWall : Nat
  ddr : Nat
  ports : BitVec 6
  svc : BitVec 2
  dz : Nat
  dy : Nat
  dx : Nat
  d : Nat
  dies : BitVec 4
  capt : Vector Word 4
  /-- Tiles that the repair at power-up leaves present, those that pilot-light service does not offer among them (20 R434, R437). -/
  sound : Vector Word 4
  /-- Spare tiles left on each C-die; columns used in the macros of its tiles, at 256 × tile + macro; lanes failed on each
  die-to-die link 8 × from + to (20 R434). -/
  spares : Vector Nat 4
  columns : Map Nat
  dieLanes : Map Nat
  hbmsplit : Nat
  hbmLocked : Bool
  pclimit : Nat
  pcwin : Nat
  pcramp : Nat
  /-- PCWIN as the last evaluation found it: it sets when the next one comes (20 R432). -/
  pcwinNow : Nat
  ttrip : Nat
  /-- L, granted level, ceiling, last average, time L last changed (20 R432). -/
  level : Nat
  granted : Nat
  ceiling : Nat
  average : Nat
  lastChange : Nat
  sensors : Vector Region 14
  quiesce : BitVec 2
  deadline : Nat
  stopAt : Nat
  meas : Vector (BitVec 256) 8
  fw : Vector FwSlot 2
  fwActive : Nat
  rollback : Nat
  quote : Option Quote
  fmthr : Nat
  fmwin : Nat
  fmhold : Nat
  fmidle : Nat
  c0share : Nat
  port : Vector Port 6
  c0mask : Vector Word 4
  dsteal : Nat
  dage : Nat
  prwait : Nat
  drbudget : Nat
  /-- Dispatcher pointer and deficits per die (14 R378): deficit of tenant u on die d at 256 d + u. -/
  ptr : Vector Nat 4
  deficit : Map Nat
  /-- Slots held for a record after a pre-emption (15 R396). -/
  heldSlots : List (Nat × QRec)
  cache : Vector (List CacheLine) 4
  walk : Vector (List WalkEntry) 5
  /-- Dictionary of each die-to-die link 8 × from + to, 4 being the H-die: sectors, most recently used last (02 R69). -/
  dicts : Map (List (List Byte))
  /-- Time of the last CRC error of each link: the flits then in flight on it are discarded (02 R69). -/
  linkErr : Map Nat
  hostTlb : List TlbEntry
  migQueue : List Migration
  /-- Pages marked busy: tenant and page base (03 R87). -/
  busyPages : List (Nat × Nat)
  /-- Completed migrations: tenant × 2^56 + page base, and the time (03 R86). -/
  pinned : List (Nat × Nat)
  held : List HeldAccess
  ca : Map CaDomain
  /-- Dead lines that the four reclaim engines hold, with their domains, in the order of their deaths (04 R106, R107). -/
  reclaim : List (Nat × BitVec 128)
  /-- Decrements of reclaimed nodes' fields that have not been accepted, in the order sent (04 R106). -/
  owed : List Owed
  /-- Droop window open per rail, and the phase of the rail's last trip (15 R404; log 3). -/
  droop : BitVec 4
  droopAt : Vector Nat 4
  /-- Start of the flow meter's window, by cluster (13 R354). -/
  meterFrom : Map Nat
  /-- Last evaluation of the capping controller (20 R432). -/
  lastEval : Nat
  /-- Last sample, by sensor region (20 R433). -/
  lastSample : Map Nat
  linkUp : Bool
  linkDownAt : Nat
  /-- The rack configuration was accepted (20 R425). -/
  cfgOk : Bool
  /-- Raises of the management alert, and of vector 0 of physical function 0 (20 R425, R433). -/
  alerts : Nat
  pfRaises : Nat
  deriving DecidableEq, Repr

/-- The load-store domain. -/
structure State where
  mem : Memory
  pkgs : Map Package
  tiles : Map Tile
  jobs : Map Job
  tenants : Map TenantArea
  reqs : List Req
  kept : List Kept
  /-- Next sequence number by requester and target (02 R65). -/
  seqs : Map (BitVec 16)
  circuits : List Circuit
  flows : List Flow
  /-- Physical addresses of the bytes that hold an uncorrectable error (10 R254, R255; log 60). -/
  errs : List Nat
  /-- MODEL'S OWN: who moves next (log 2). -/
  turns : List Turn
  /-- MODEL'S OWN: the stream that acts. -/
  focus : StreamId
  /-- MODEL'S OWN: operands of the event that occurs (log 16). -/
  arg : Args
  /-- MODEL'S OWN: what the last event read answered the agent that caused it. -/
  answer : List Byte
  /-- MODEL'S OWN: the clock (log 3). -/
  wall : Nat
  /-- MODEL'S OWN: counter behind job, request and circuit numbers and free values (log 18). -/
  fresh : Nat
  /-- MODEL'S OWN: the moves still to be made in this core cycle by the device's own rule (log 2). -/
  round : List Turn
  deriving DecidableEq, Repr

/-! ### Reset values -/

/-- A Pinwheel cell cleared (12 R321). -/
def Cell.reset : Cell := ⟨0, 0, 0, Vector.replicate 4 []⟩

/-- The array cleared. -/
def Pinwheel.reset : Pinwheel := ⟨[], [], Vector.replicate 8 0, 0⟩

/-- A ring entry cleared (01 R13). -/
def Ring.reset : Ring :=
  ⟨.idle, 0, 0, 0, [], [], 0, 0, 0, 0, 0, 0, [], [], [], [], []⟩

/-- A tile at package reset (01 R13, R35). -/
def Tile.reset : Tile :=
  { tenant := none, former := [], rings := [], tlb := [], tlbC := [], tlbT := [], tlbV := [], tlbW := []
    reqloc := 0, reqdie := 0, reqpkg := 0, tlbmiss := 0, reissue := 0, before := none, resident := []
    mHolder := none, pwHolder := none, pw := Pinwheel.reset, testing := false, issue := [] }

/-- Domino entry at reset (log 6). -/
def Domino.reset : Domino := ⟨Vector.replicate 4 0, 0, false, false, false, []⟩

/-- A tenant area at reset (03 R74, 14 R370, 15 R390, R395, 20 R426; log 6). CATEN's reset value
needs the tenant's number and is given by `TenantArea.resetFor`. -/
def TenantArea.reset : TenantArea :=
  { troot := 0, txctl := 0, tbudget := 0, tcommit := 0, hostFaults := [], hostFaultLost := false
    mig := Vector.replicate 4 0, migH := Vector.replicate 4 0, hwin := Vector.replicate 16 0
    win := [], caten := 0, ktbase := 0, ktlen := 0, tctl := 0, rqbase := 0, rqcap := 6
    tquant := 0x1000, pushJ := Vector.replicate 8 0, pushS := Vector.replicate 8 0
    queueJ := [], queueS := [], lastS := true, ovf := false, launches := []
    queues := Vector.replicate 4 [], backingOff := 0, statuses := [], phases := []
    fqbase := 0, fqctl := 4, fqhead := 0, fqtail := 0, fqlost := 0, fqrec := Vector.replicate 8 0
    pending := [], fqspawn := none, ptok := 0, ckbase := 0, ckcount := 0, cktile := 0, frames := [], saves := []
    vpend := 0, vraise := [], msixMask := 0xFFFF, msix := Vector.replicate 16 (0, 0), msixOff := false, messages := [], heldMsgs := [], sqbase := 0, sqcap := 4, sqhead := 0, sqtail := 0
    sqctl := 0, signals := [], hostMem := [], domino := [] }

/-- The area of tenant `t`: CATEN resets to dom = t, E = 0 (04 R95). -/
def TenantArea.resetFor (t : Nat) : TenantArea :=
  { TenantArea.reset with caten := BitVec.ofNat 64 (t % 256 * 256) }

/-- A CA domain at reset (04 R94; log 6). -/
def CaDomain.reset : CaDomain := ⟨0, 0, 0, 0, .off, [], [], [], false⟩

/-- A sensor region at reset (20 R433; log 6). -/
def Region.reset : Region := ⟨0, Vector.replicate 3 0, false, false, 0⟩

/-- A package at reset (01 R27; 13 R350; 14 R371; 15 R395; 20 R424, R432, R440; logs 6, 7, 8). -/
def Package.reset : Package :=
  { boot := .off, cycBase := 0, cycWall := 0, ddr := 96, ports := 0, svc := 0
    dz := 1, dy := 1, dx := 1, d := 1, dies := 0, capt := Vector.replicate 4 0, sound := Vector.replicate 4 0, spares := Vector.replicate 4 8, columns := [], dieLanes := []
    hbmsplit := 16, hbmLocked := false, pclimit := 2200, pcwin := 1000, pcramp := 500, pcwinNow := 1000, ttrip := 100
    level := 7, granted := 0, ceiling := 0, average := 0, lastChange := 0
    sensors := Vector.replicate 14 Region.reset, quiesce := 0, deadline := 100, stopAt := 0
    meas := Vector.replicate 8 0
    fw := #v[⟨⟨0, 0, 0, []⟩, false, true⟩, ⟨⟨0, 0, 0, []⟩, false, false⟩], fwActive := 0
    rollback := 0, quote := none
    fmthr := 0x100000, fmwin := 0x222E0, fmhold := 0x222E0, fmidle := 0x6D60, c0share := 25
    port := Vector.replicate 6 ⟨0, 0, false, false, 0⟩
    c0mask := Vector.replicate 4 0x1010010110100101, dsteal := 14000, dage := 140000
    prwait := 28000, drbudget := 40, ptr := Vector.replicate 4 0, deficit := [], heldSlots := []
    cache := Vector.replicate 4 [], walk := Vector.replicate 5 [], dicts := [], linkErr := [], hostTlb := []
    migQueue := [], busyPages := [], pinned := [], held := [], ca := [], reclaim := [], owed := []
    droop := 0, droopAt := Vector.replicate 4 0, meterFrom := [], lastEval := 0, lastSample := [], linkUp := true, linkDownAt := 0
    cfgOk := false, alerts := 0, pfRaises := 0 }

/-- The domain right after reset: nothing stored, no job, every register at its reset value. -/
def State.reset : State :=
  { mem := [], pkgs := [], tiles := [], jobs := [], tenants := [], reqs := [], kept := []
    seqs := [], circuits := [], flows := [], errs := [], turns := [], focus := ⟨0, 0, 0, .A⟩
    arg := {}, answer := [], wall := 0, fresh := 0, round := [] }

end Sys2Proof.Machine
end

