-- ==== Sys2Proof/Machine/Mem.lean ====
section
/-!
DEFINITION. Sparse maps and the one physical memory: reads, writes and clears that keep the canonical
form (addresses strictly rising, no entry that equals what an unlisted address reads as; log 1).
-/

namespace Sys2Proof.Machine

/-! ### Maps -/

/-- Entry `n` of a map. -/
def mget {β : Type} : Map β → Nat → Option β
  | [], _ => none
  | (k, v) :: r, n => if k = n then some v else mget r n

/-- The map with entry `n` set to `v`, keys kept in rising order. -/
def mput {β : Type} : Map β → Nat → β → Map β
  | [], n, v => [(n, v)]
  | (k, w) :: r, n, v =>
    if n < k then (n, v) :: (k, w) :: r
    else if n = k then (n, v) :: r
    else (k, w) :: mput r n v

/-- The map without entry `n`. -/
def mdel {β : Type} (m : Map β) (n : Nat) : Map β := m.filter (fun e => e.1 != n)

/-! ### Memory -/

/-- What an address that memory does not list reads as (log 1). -/
def blank : Byte := 0

/-- The byte at address `a`. -/
def readByte : Memory → Nat → Byte
  | [], _ => blank
  | (k, b) :: r, a => if k = a then b else readByte r a

/-- Memory with the byte at `a` made `b`. -/
def writeByte : Memory → Nat → Byte → Memory
  | [], a, b => if b = blank then [] else [(a, b)]
  | (k, c) :: r, a, b =>
    if a < k then (if b = blank then (k, c) :: r else (a, b) :: (k, c) :: r)
    else if a = k then (if b = blank then r else (a, b) :: r)
    else (k, c) :: writeByte r a b

/-- The canonical form: addresses strictly rising from `lo`, no entry blank. -/
def Memory.wfFrom : Nat → Memory → Bool
  | _, [] => true
  | lo, (k, b) :: r => decide (lo ≤ k) && b != blank && Memory.wfFrom (k + 1) r

/-- The canonical form of a memory. -/
def Memory.wf (m : Memory) : Bool := Memory.wfFrom 0 m

/-- The `n` bytes from address `a`, lowest first. -/
def readBytes (m : Memory) (a n : Nat) : List Byte := (List.range n).map (fun i => readByte m (a + i))

/-- Memory with the bytes `l` written from address `a` up. -/
def writeBytes (m : Memory) (a : Nat) : List Byte → Memory
  | [] => m
  | b :: l => writeBytes (writeByte m a b) (a + 1) l

/-- The number whose little-endian bytes are `l` (R10). -/
def leNat : List Byte → Nat
  | [] => 0
  | b :: l => b.toNat + 256 * leNat l

/-- The `n` little-endian bytes of `v` (R10). -/
def leBytes : Nat → Nat → List Byte
  | 0, _ => []
  | n + 1, v => BitVec.ofNat 8 v :: leBytes n (v / 256)

/-- The little-endian number in the `n` bytes at `a`. -/
def readLe (m : Memory) (a n : Nat) : Nat := leNat (readBytes m a n)

/-- Memory with the `n` little-endian bytes of `v` written at `a`. -/
def writeLe (m : Memory) (a n v : Nat) : Memory := writeBytes m a (leBytes n v)

/-- The dword at `a`. -/
def read64 (m : Memory) (a : Nat) : Word := BitVec.ofNat 64 (readLe m a 8)

/-- The word at `a`. -/
def read32 (m : Memory) (a : Nat) : W32 := BitVec.ofNat 32 (readLe m a 4)

/-- Memory with the dword `v` at `a`. -/
def write64 (m : Memory) (a : Nat) (v : Word) : Memory := writeLe m a 8 v.toNat

/-- Memory with the word `v` at `a`. -/
def write32 (m : Memory) (a : Nat) (v : W32) : Memory := writeLe m a 4 v.toNat

/-- Memory with the bytes from `lo` to `hi - 1` cleared to zero. -/
def clearRange (m : Memory) (lo hi : Nat) : Memory :=
  m.filter (fun c => decide (c.1 < lo) || decide (hi ≤ c.1))

/-- The listed bytes from `lo` to `hi - 1`, by offset from `lo`. -/
def sliceOf (m : Memory) (lo hi : Nat) : List (Nat × Byte) :=
  (m.filter (fun c => decide (lo ≤ c.1) && decide (c.1 < hi))).map (fun c => (c.1 - lo, c.2))

/-- Memory with the slice `l` laid at `lo`, one byte at a time. -/
def layAt (m : Memory) (lo : Nat) : List (Nat × Byte) → Memory
  | [] => m
  | (o, b) :: l => layAt (writeByte m (lo + o) b) lo l

/-! ### Small list and number helpers -/

/-- `true` at `some`. -/
def there {α : Type} (x : Option α) : Bool := x.isSome

/-- Sign extension of an `n`-bit number to an integer. -/
def toInt (n v : Nat) : Int := if v % 2 ^ n < 2 ^ (n - 1) then (v % 2 ^ n : Int) else (v % 2 ^ n : Int) - 2 ^ n

/-- A number in `n` bits. -/
def ofInt (n : Nat) (i : Int) : BitVec n := BitVec.ofInt n i

/-- `x` with its bits `hi` down to `lo` replaced by `v`. -/
def setBits {n : Nat} (x : BitVec n) (hi lo v : Nat) : BitVec n :=
  BitVec.ofNat n (x.toNat - bits x hi lo * 2 ^ lo + v % 2 ^ (hi + 1 - lo) * 2 ^ lo)

/-- Element `i` of a list with the default `d` past its end. -/
def nth {α : Type} : List α → Nat → α → α
  | [], _, d => d
  | x :: _, 0, _ => x
  | _ :: r, i + 1, d => nth r i d

/-- The list with element `i` replaced. -/
def setNth {α : Type} : List α → Nat → α → List α
  | [], _, _ => []
  | _ :: r, 0, v => v :: r
  | x :: r, i + 1, v => x :: setNth r i v

/-- Element `i` of a vector, wrapping at its length. -/
def vget {α : Type} {n : Nat} (v : Vector α (n + 1)) (i : Nat) : α :=
  v[i % (n + 1)]'(Nat.mod_lt i (Nat.succ_pos n))

/-- The vector with element `i` (wrapping) replaced. -/
def vset {α : Type} {n : Nat} (v : Vector α (n + 1)) (i : Nat) (x : α) : Vector α (n + 1) :=
  v.set (i % (n + 1)) x (Nat.mod_lt i (Nat.succ_pos n))

end Sys2Proof.Machine
end

