-- ==== Sys2Proof/Machine/Access.lean ====
section
/-!
DEFINITION. Readers and writers of the parts of State, the numbering of tiles, the physical address
map and the homes of lines (00 R4; 01 R21 to R29, R32, R35), and the clock (00 R8; 09 R239).
-/

namespace Sys2Proof

/-- Kind code (06 R152). -/
def Kind.code : Kind → Nat
  | .A => 0 | .X => 1 | .M => 2 | .V => 3 | .T => 4 | .C => 5 | .W => 6

/-- Whether the kind is a core. -/
def Kind.isCore : Kind → Bool
  | .A => true | .X => true | _ => false

/-- `a` is at least the level `b` (00 R7). -/
def Level.geb : Level → Level → Bool
  | .fw, _ => true
  | .sup, .fw => false
  | .sup, _ => true
  | .job, .job => true
  | .job, _ => false

end Sys2Proof

namespace Sys2Proof.Machine

/-! ### Keys -/

def tileKey (p t : Nat) : Nat := p * 256 + t
def slotKey (p t sl : Nat) : Nat := (p * 256 + t) * 4 + sl
def tenKey (p u : Nat) : Nat := p * 256 + u
/-- Package, tile and slot of a slot key. -/
def keyPkg (k : Nat) : Nat := k / 1024
def keyTile (k : Nat) : Nat := k / 4 % 256
def keySlot (k : Nat) : Nat := k % 4

/-- The kind of a code, none from 7 up. -/
def kindOf : Nat → Option Kind
  | 0 => some .A | 1 => some .X | 2 => some .M | 3 => some .V | 4 => some .T | 5 => some .C
  | 6 => some .W | _ => none

def allKinds : List Kind := [.A, .X, .M, .V, .T, .C, .W]

/-- Code of a fault cause (15 R384). -/
def Cause.code : Cause → Nat
  | .illegal => 0x01 | .literalTarget => 0x02 | .allotment => 0x03 | .privileged => 0x04
  | .misaligned => 0x05 | .addressForm => 0x06 | .pageAbsent => 0x07 | .protection => 0x08
  | .localRange => 0x09 | .divide => 0x0A | .dataError => 0x0B | .requestTimeout => 0x0C
  | .queueDiscipline => 0x0D | .tokenOverflow => 0x0E | .ringIntegrity => 0x0F
  | .caCollision => 0x10 | .caName => 0x11 | .threshold => 0x12 | .overrun => 0x13
  | .integrand => 0x14 | .imbalance => 0x15 | .engineWord => 0x16 | .switchConfig => 0x17
  | .trap => 0x18

/-! ### Parts of State -/

def State.pkgAt (s : State) (p : Nat) : Package := (mget s.pkgs p).getD Package.reset
def State.setPkg (s : State) (p : Nat) (v : Package) : State := { s with pkgs := mput s.pkgs p v }
def State.modPkg (s : State) (p : Nat) (f : Package → Package) : State := s.setPkg p (f (s.pkgAt p))

def State.tileAt (s : State) (k : Nat) : Tile := (mget s.tiles k).getD Tile.reset
def State.setTile (s : State) (k : Nat) (v : Tile) : State := { s with tiles := mput s.tiles k v }
def State.modTile (s : State) (k : Nat) (f : Tile → Tile) : State := s.setTile k (f (s.tileAt k))

def State.jobAt (s : State) (k : Nat) : Option Job := mget s.jobs k
def State.setJob (s : State) (k : Nat) (v : Job) : State := { s with jobs := mput s.jobs k v }
def State.modJob (s : State) (k : Nat) (f : Job → Job) : State :=
  match s.jobAt k with
  | some j => s.setJob k (f j)
  | none => s
def State.delJob (s : State) (k : Nat) : State := { s with jobs := mdel s.jobs k }

def State.tenAt (s : State) (p u : Nat) : TenantArea :=
  (mget s.tenants (tenKey p u)).getD (TenantArea.resetFor u)
def State.setTen (s : State) (p u : Nat) (v : TenantArea) : State :=
  { s with tenants := mput s.tenants (tenKey p u) v }
def State.modTen (s : State) (p u : Nat) (f : TenantArea → TenantArea) : State :=
  s.setTen p u (f (s.tenAt p u))

/-- A CA domain area of a package (04 R94). -/
def State.caAt (s : State) (p d : Nat) : CaDomain := (mget (s.pkgAt p).ca d).getD CaDomain.reset
def State.setCa (s : State) (p d : Nat) (v : CaDomain) : State :=
  s.modPkg p (fun k => { k with ca := mput k.ca d v })

/-- It is an operation of job `jid`. -/
def CaWaiter.ofJob (jid : Nat) : CaWaiter → Bool
  | .op b => b.jid == jid
  | .reclaim _ => false

/-- A ring of a tile (02 R53). -/
def State.ringAt (s : State) (k n : Nat) : Ring := (mget (s.tileAt k).rings n).getD Ring.reset
def State.setRing (s : State) (k n : Nat) (v : Ring) : State :=
  s.modTile k (fun t => { t with rings := mput t.rings n v })

/-- A fresh number, and the state that will give the next one. -/
def State.take (s : State) : Nat × State := (s.fresh, { s with fresh := s.fresh + 1 })

/-! ### The stream that acts -/

/-- Key of the slot of the stream that acts. -/
def State.key (s : State) : Nat := slotKey s.focus.pkg.toNat s.focus.tile.toNat s.focus.slot.toNat
/-- Key of the tile of the stream that acts. -/
def State.tkey (s : State) : Nat := tileKey s.focus.pkg.toNat s.focus.tile.toNat
/-- Package of the stream that acts. -/
def State.fpkg (s : State) : Nat := s.focus.pkg.toNat
/-- Tile of the stream that acts. -/
def State.ftile (s : State) : Nat := s.focus.tile.toNat

/-- The core context of kind `k` (the A-core's unless `k` is X). -/
def Job.core (j : Job) (k : Kind) : Core := match k with | .X => j.x | _ => j.a
def Job.setCore (j : Job) (k : Kind) (c : Core) : Job :=
  match k with | .X => { j with x := c } | _ => { j with a := c }
def Job.modCore (j : Job) (k : Kind) (f : Core → Core) : Job := j.setCore k (f (j.core k))

/-- The engine stream of kind `k`. -/
def Job.eng (j : Job) : Kind → Engine
  | .V => j.v | .T => j.t | .C => j.c | .W => j.w | _ => j.m
def Job.setEng (j : Job) (k : Kind) (e : Engine) : Job :=
  match k with
  | .V => { j with v := e } | .T => { j with t := e } | .C => { j with c := e }
  | .W => { j with w := e } | _ => { j with m := e }
def Job.modEng (j : Job) (k : Kind) (f : Engine → Engine) : Job := j.setEng k (f (j.eng k))

/-- Whether the stream of kind `k` has finished (06 R153). -/
def Job.finished (j : Job) (k : Kind) : Bool := if k.isCore then (j.core k).fin else (j.eng k).fin

/-- The issue turn of the unit of kind `k`: slot 0 before its first. -/
def Tile.issueOf (t : Tile) (k : Kind) : Issue := (mget t.issue k.code).getD ⟨0, 0, false, 0, 0⟩

/-- Every stream of the job has finished (06 R157). -/
def Job.allFinished (j : Job) : Bool := allKinds.all j.finished

/-- General register `r`; g0 reads zero (08 R193). -/
def Core.reg (c : Core) (r : Reg) : Word := if r = 0 then 0 else c.g[r.toNat]
/-- Write of general register `r`; a write to g0 is discarded (08 R193). -/
def Core.setReg (c : Core) (r : Reg) (v : Word) : Core :=
  if r = 0 then c else { c with g := c.g.set r.toNat v }

/-- Update of the job that acts. -/
def State.modCur (s : State) (f : Job → Job) : State := s.modJob s.key f
/-- Update of the core that acts. -/
def State.modCore (s : State) (f : Core → Core) : State := s.modCur (fun j => j.modCore s.focus.kind f)
/-- Write of general register `r` of the core that acts. -/
def State.setReg (s : State) (r : Reg) (v : Word) : State := s.modCore (fun c => c.setReg r v)

/-! ### Tiles (00 R4) -/

def dieOf (t : Nat) : Nat := t / 64 % 4
def clusterOf (t : Nat) : Nat := t / 4 % 16
/-- Column X = 2x + px of a tile in its die (10 R261). -/
def colOf (t : Nat) : Nat := clusterOf t % 4 * 2 + t % 2
/-- Row Y = 2y + py. -/
def rowOf (t : Nat) : Nat := clusterOf t / 4 * 2 + t / 2 % 2
/-- The tile of die `d` at column `x`, row `y`. -/
def tileFrom (d x y : Nat) : Nat := d * 64 + (y / 2 * 4 + x / 2) * 4 + (y % 2 * 2 + x % 2)

/-- Whether CAPT marks the logical tile present (20 R424). -/
def State.tilePresent (s : State) (p t : Nat) : Bool := ((s.pkgAt p).capt[t / 64 % 4]'(Nat.mod_lt _ (by decide))).getLsbD (t % 64)

/-! ### The physical map (01 R21, R22, R32) -/

def gib : Nat := 2 ^ 30
/-- Package of a physical address. -/
def paPkg (pa : Nat) : Nat := pa / 2 ^ 48
/-- Offset of a physical address in its package. -/
def paOff (pa : Nat) : Nat := pa % 2 ^ 48

def hbmTop : Nat := 0x60_0000_0000
def ddrBase : Nat := 0x1000_0000_0000
def apBase : Nat := 0x3000_0000_0000
def mmioBase : Nat := 0x3F00_0000_0000
def tileBlockBase : Nat := 0x3F01_0000_0000

/-- Physical address of byte `a` of a tile's scratchpad (01 R22). -/
def apAddr (p t a : Nat) : Nat := p * 2 ^ 48 + apBase + t * 0x80_0000 + a
/-- Physical address of offset `o` of a tile's MMIO block (01 R32). -/
def blockAddr (p t o : Nat) : Nat := p * 2 ^ 48 + tileBlockBase + t * 0x100_0000 + o

/-- Bytes of a scratchpad. -/
def padSize : Nat := 0x60_0000

/-- What a package offset names. -/
inductive Spot where
  | hbm | ddr
  | aperture (tile byte : Nat)
  | hmmio (off : Nat)
  | cmmio (die off : Nat)
  | tmmio (tile off : Nat)
  | reserved
  deriving DecidableEq, Repr

/-- The region of an offset, with the DDR-5 capacity fitted in 16 GiB units. -/
def regionOf (ddr off : Nat) : Spot :=
  if off < hbmTop then .hbm
  else if off < ddrBase then .reserved
  else if off < ddrBase + ddr * 16 * gib then .ddr
  else if off < apBase then .reserved
  else if off < apBase + 0x8000_0000 then
    let o := off - apBase
    if o % 0x80_0000 < padSize then .aperture (o / 0x80_0000) (o % 0x80_0000) else .reserved
  else if off < mmioBase then .reserved
  else if off < mmioBase + 0x1000_0000 then .hmmio (off - mmioBase)
  else if off < mmioBase + 0x1400_0000 then
    .cmmio ((off - mmioBase - 0x1000_0000) / 0x100_0000) ((off - mmioBase) % 0x100_0000)
  else if off < tileBlockBase then .reserved
  else if off < tileBlockBase + 0x1_0000_0000 then
    .tmmio ((off - tileBlockBase) / 0x100_0000) ((off - tileBlockBase) % 0x100_0000)
  else .reserved

/-- The region of a physical address. -/
def State.region (s : State) (pa : Nat) : Spot := regionOf (s.pkgAt (paPkg pa)).ddr (paOff pa)

/-- Whether a region is an MMIO region. -/
def Spot.isMmio : Spot → Bool
  | .hmmio _ => true | .cmmio _ _ => true | .tmmio _ _ => true | _ => false

/-- The tile a region belongs to, for apertures and tile blocks. -/
def Spot.tile? : Spot → Option Nat
  | .aperture t _ => some t | .tmmio t _ => some t | _ => none

/-- Whether the region lies in a tile marked absent (01 R24). -/
def State.absent (s : State) (pa : Nat) : Bool :=
  match (s.region pa).tile? with
  | some t => !s.tilePresent (paPkg pa) t
  | none => false

/-- An access to the `n` bytes from physical address `a` meets an uncorrectable error (log 60). -/
def State.flawed (s : State) (a n : Nat) : Bool := s.errs.any (fun e => decide (a ≤ e) && decide (e < a + n))

/-- The same for pieces: address and length of each. -/
def State.flawedAt (s : State) (l : List (Nat × Nat)) : Bool := l.any (fun x => s.flawed x.1 x.2)

/-- Base of the 192-byte line that holds `pa` (01 R25). -/
def lineBase (pa : Nat) : Nat :=
  let off := paOff pa
  let b := if off < ddrBase then 0
    else if off < apBase then ddrBase
    else if off < mmioBase then apBase + (off - apBase) / 0x80_0000 * 0x80_0000
    else off
  pa - (off - b) % 192

/-- Sector number of `pa` in its line (00 R9). -/
def sectorOf (pa : Nat) : Nat := (pa - lineBase pa) / 48

/-- Hash of an interleaved line base to a die (01 R28). -/
def dieHash (b : Nat) : Nat :=
  ((b / 2 ^ 12 % 4) ^^^ (b / 2 ^ 18 % 4) ^^^ (b / 2 ^ 24 % 4) ^^^ (b / 2 ^ 30 % 4)) % 4

/-- Window of an HBM offset under HBMSPLIT `n` (01 R27): none for interleaved, or the local die. -/
def hbmWindow (n off : Nat) : Option Nat :=
  if off < 12 * n * gib then none
  else some ((off - 12 * n * gib) / ((96 - 3 * n) * gib))

/-- A place where requests are served (05 R120). -/
inductive Place where
  | die (p d : Nat)
  | hdie (p : Nat)
  | tile (p t : Nat)
  deriving DecidableEq, Repr

/-- The place that serves physical address `pa` (01 R26, R28; 05 R120). -/
def State.placeOf (s : State) (pa : Nat) : Place :=
  let p := paPkg pa
  match s.region pa with
  | .hbm =>
    match hbmWindow (s.pkgAt p).hbmsplit (paOff (lineBase pa)) with
    | some d => .die p d
    | none => .die p (dieHash (paOff (lineBase pa)))
  | .aperture t _ => .tile p t
  | .tmmio t _ => .tile p t
  | .cmmio d _ => .die p d
  | _ => .hdie p

/-- A number for a place. -/
def Place.num : Place → Nat
  | .tile p t => p * 1024 + t
  | .die p d => p * 1024 + 256 + d
  | .hdie p => p * 1024 + 260

def Place.pkg : Place → Nat
  | .tile p _ => p | .die p _ => p | .hdie p => p

/-- The targets of sequence numbers at a place (02 R65): its bank, home or first home slice; the second slice; the ring unit of a
tile; and the fabric, domino or other unit there. -/
def Place.target (pl : Place) : Nat := 4 * pl.num
def Place.ringTarget (pl : Place) : Nat := 4 * pl.num + 1
def Place.unitTarget (pl : Place) : Nat := 4 * pl.num + 2

/-- The place of a number. -/
def placeOfNum (n : Nat) : Place :=
  if n % 1024 < 256 then .tile (n / 1024) (n % 1024) else if n % 1024 < 260 then .die (n / 1024) (n % 1024 - 256)
  else .hdie (n / 1024)

/-- The counters that a tile holds: requests to its die, to the package's other dies and to other packages, core TLB misses, and
timeout reissues (09 R248). -/
def Tile.counters (t : Tile) : Vector Word 5 := #v[t.reqloc, t.reqdie, t.reqpkg, t.tlbmiss, t.reissue]

/-- The counters as the core cycle at time `now` found them are kept, for a PERFRD of that cycle (09 R249). -/
def Tile.keepCounters (now : Nat) (t : Tile) : Tile :=
  if t.before.any (fun b => b.1 == now) then t else { t with before := some (now, t.counters) }

/-- What the core cycle at time `now` found in counter `i`. -/
def Tile.counterAt (now : Nat) (t : Tile) (i : Nat) : Word :=
  match t.before with
  | some b => if b.1 = now then vget b.2 i else vget t.counters i
  | none => vget t.counters i

/-- An event that the counters of tile `k` count. -/
def State.countTile (s : State) (k : Nat) (f : Tile → Tile) : State := s.modTile k (fun t => f (t.keepCounters s.wall))

/-- Count of a request that a stream of tile `k` sends to `pl` (01 R35). -/
def State.countReq (s : State) (p t : Nat) (pl : Place) : State :=
  s.countTile (tileKey p t) (fun k =>
    if pl.pkg ≠ p then { k with reqpkg := k.reqpkg + 1 }
    else
      let own := match pl with
        | .tile _ u => dieOf u == dieOf t
        | .die _ d => d == dieOf t
        | .hdie _ => false
      if own then { k with reqloc := k.reqloc + 1 } else { k with reqdie := k.reqdie + 1 })

/-! ### The clock (log 3) -/

/-- Wall-clock units in one core cycle of package `p`. -/
def State.corePer (s : State) (p : Nat) : Nat := Config.corePeriod (s.pkgAt p).granted

/-- Phase of the core clock of package `p`: what has elapsed in 1/360360 of a core cycle, at whatever levels (00 R8;
log 3). -/
def State.phase (s : State) (p : Nat) : Nat :=
  (s.pkgAt p).cycBase + (s.wall - (s.pkgAt p).cycWall) * (7 + (s.pkgAt p).granted)

/-- CYCLE of package `p` (09 R239). -/
def State.cycle (s : State) (p : Nat) : Nat := s.phase p / Config.cycleUnits

/-- `n` core cycles as phase. -/
def cycles (n : Nat) : Nat := n * Config.cycleUnits

/-- `n` engine cycles as phase: one is two core cycles (00 R8). -/
def engineCycles (n : Nat) : Nat := cycles (2 * n)

/-- The phase of package `p` that has elapsed since it stood at `t`. -/
def State.since (s : State) (p t : Nat) : Nat := s.phase p - t

/-- At least `n` core cycles of package `p` have elapsed since its phase stood at `t`. -/
def State.passed (s : State) (p t n : Nat) : Bool := decide (cycles n ≤ s.since p t)

/-- `n` microseconds in wall-clock units. -/
def us (n : Nat) : Nat := n * Config.unitsPerUs

/-! ### Levels -/

/-- Level of a job: tenant supervisor or job (06 R165; 09 R239). -/
def Job.level (j : Job) : Level := if j.sup then .sup else .job

end Sys2Proof.Machine
end

