-- ==== Sys2Proof/Machine/Fp.lean ====
section
/-!
DEFINITION. Floating point (07 R175 to R183): the five formats, exact values, rounding, arithmetic,
conversions and the correctly rounded functions. A value is exact until `roundTo` narrows it once.
-/

namespace Sys2Proof.Machine

/-- A floating-point format (R175): fraction bits, bias, exponent bits, and whether it has
infinities (FP8A has none). -/
structure FpFmt where
  w : Nat
  bias : Nat
  eb : Nat
  infs : Bool
  deriving DecidableEq, Repr

def fp32 : FpFmt := ⟨23, 127, 8, true⟩
def bf16 : FpFmt := ⟨7, 127, 8, true⟩
def fp16 : FpFmt := ⟨10, 15, 5, true⟩
def fp8a : FpFmt := ⟨3, 7, 4, false⟩
def fp8b : FpFmt := ⟨2, 15, 5, true⟩

/-- Width of a format in bits. -/
def FpFmt.width (f : FpFmt) : Nat := 1 + f.eb + f.w
/-- Magnitude bits of infinity, or of the all-ones exponent. -/
def FpFmt.top (f : FpFmt) : Nat := (2 ^ f.eb - 1) * 2 ^ f.w
/-- Magnitude bits of the largest finite value. -/
def FpFmt.big (f : FpFmt) : Nat := if f.infs then f.top - 1 else f.top + 2 ^ f.w - 2
/-- The canonical NaN (R176). -/
def FpFmt.nan (f : FpFmt) : Nat := if f.infs then f.top + 2 ^ (f.w - 1) else f.top + 2 ^ f.w - 1
/-- Exponent of the least normal value. -/
def FpFmt.emin (f : FpFmt) : Int := 1 - f.bias

/-- An exact value: ±m × 2^e, with the sign kept for zero. -/
inductive FpVal where
  | nan
  | inf (neg : Bool)
  | fin (neg : Bool) (m : Nat) (e : Int)
  deriving DecidableEq, Repr

/-- Rounding modes (R178). -/
inductive RMode where
  | rne | rz | ru | rd
  deriving DecidableEq, Repr

def rmode (m : BitVec 2) : RMode :=
  match m.toNat with
  | 0 => .rne | 1 => .rz | 2 => .ru | _ => .rd

/-- The value an encoding stands for (R175, R176). -/
def fpDecode (f : FpFmt) (x : Nat) : FpVal :=
  let neg := x / 2 ^ (f.eb + f.w) % 2 == 1
  let e := x / 2 ^ f.w % 2 ^ f.eb
  let m := x % 2 ^ f.w
  if e = 2 ^ f.eb - 1 ∧ f.infs then (if m = 0 then .inf neg else .nan)
  else if e = 2 ^ f.eb - 1 ∧ m = 2 ^ f.w - 1 then .nan
  else if e = 0 then .fin neg m (f.emin - f.w)
  else .fin neg (m + 2 ^ f.w) ((e : Int) - f.bias - f.w)

/-- Encoding from sign and magnitude bits. -/
def fpSigned (f : FpFmt) (neg : Bool) (mag : Nat) : Nat :=
  (if neg then 2 ^ (f.eb + f.w) else 0) + mag

/-- The result of an overflow (R178). -/
def fpOverflow (f : FpFmt) (r : RMode) (neg : Bool) : Nat :=
  let toInf := match r with
    | .rne => true | .rz => false | .ru => !neg | .rd => neg
  fpSigned f neg (if f.infs && toInf then f.top else f.big)

/-- Whether a magnitude `n` with remainder `rem` of `2^sh` rounds up. -/
def roundsUp (r : RMode) (neg : Bool) (n rem sh : Nat) : Bool :=
  match r with
  | .rne => 2 ^ sh < 2 * rem || (2 * rem == 2 ^ sh && n % 2 == 1)
  | .rz => false
  | .ru => rem != 0 && !neg
  | .rd => rem != 0 && neg

/-- `m × 2^(−sh)` rounded to an integer (`sh` may be negative). -/
def roundShift (r : RMode) (neg : Bool) (m : Nat) (sh : Int) : Nat :=
  if sh ≤ 0 then m * 2 ^ (-sh).toNat
  else
    let k := sh.toNat
    let n := m / 2 ^ k
    if roundsUp r neg n (m % 2 ^ k) k then n + 1 else n

/-- The one rounding of an exact value to a format (R178). -/
def fpRound (f : FpFmt) (r : RMode) : FpVal → Nat
  | .nan => f.nan
  | .inf neg => fpSigned f neg (if f.infs then f.top else f.big)
  | .fin neg m e =>
    if m = 0 then fpSigned f neg 0
    else
      let x : Int := (Nat.log2 m : Int) + e
      let q : Int := (if x < f.emin then f.emin else x) - f.w
      let n := roundShift r neg m (q - e)
      let mag := (q - (f.emin - f.w)).toNat * 2 ^ f.w + n
      if f.big < mag then fpOverflow f r neg else fpSigned f neg mag

/-- A value known from below with a nonzero rest: M stands for (m, m + 1) (used with guard bits). -/
def sticky (m : Nat) (rest : Bool) : Nat := 2 * m + (if rest then 1 else 0)

/-! ### Exact arithmetic (R179) -/

/-- Signed numerator of ±m. -/
def signedOf (neg : Bool) (m : Nat) : Int := if neg then -(m : Int) else m

/-- The exact sum. -/
def fpAdd : FpVal → FpVal → FpVal
  | .nan, _ => .nan
  | _, .nan => .nan
  | .inf a, .inf b => if a = b then .inf a else .nan
  | .inf a, _ => .inf a
  | _, .inf b => .inf b
  | .fin a m d, .fin b n e =>
    if m = 0 ∧ n = 0 then .fin (a && b) 0 0
    else
      let q := if d < e then d else e
      let v := signedOf a m * 2 ^ (d - q).toNat + signedOf b n * 2 ^ (e - q).toNat
      .fin (decide (v < 0)) v.natAbs q

/-- The value with its sign turned. -/
def fpNeg : FpVal → FpVal
  | .nan => .nan
  | .inf a => .inf !a
  | .fin a m e => .fin (!a) m e

/-- The exact product. -/
def fpMul : FpVal → FpVal → FpVal
  | .nan, _ => .nan
  | _, .nan => .nan
  | .inf a, .inf b => .inf (a != b)
  | .inf a, .fin b n _ => if n = 0 then .nan else .inf (a != b)
  | .fin a m _, .inf b => if m = 0 then .nan else .inf (a != b)
  | .fin a m d, .fin b n e => .fin (a != b) (m * n) (d + e)

/-- The quotient, with a sticky bit far below the last place of FP32. -/
def fpDiv : FpVal → FpVal → FpVal
  | .nan, _ => .nan
  | _, .nan => .nan
  | .inf _, .inf _ => .nan
  | .inf a, .fin b _ _ => .inf (a != b)
  | .fin a _ _, .inf b => .fin (a != b) 0 0
  | .fin a m d, .fin b n e =>
    if n = 0 then (if m = 0 then .nan else .inf (a != b))
    else if m = 0 then .fin (a != b) 0 0
    else .fin (a != b) (sticky (m * 2 ^ 64 / n) (m * 2 ^ 64 % n != 0)) (d - e - 65)

/-- Integer square root, one bit of the result at a time from bit `k - 1` down. -/
def isqrtFrom : Nat → Nat → Nat → Nat
  | 0, _, acc => acc
  | k + 1, n, acc =>
    if (acc + 2 ^ k) * (acc + 2 ^ k) ≤ n then isqrtFrom k n (acc + 2 ^ k) else isqrtFrom k n acc

/-- Integer square root. -/
def isqrt (n : Nat) : Nat := isqrtFrom (Nat.log2 n / 2 + 1) n 0

/-- The square root. -/
def fpSqrt : FpVal → FpVal
  | .nan => .nan
  | .inf a => if a then .nan else .inf false
  | .fin a m e =>
    if m = 0 then .fin a 0 0
    else if a then .nan
    else
      let n := if e % 2 = 0 then m else 2 * m
      let d := if e % 2 = 0 then e else e - 1
      let q := isqrt (n * 2 ^ 64)
      .fin false (sticky q (q * q != n * 2 ^ 64)) (d / 2 - 33)

/-- The reciprocal (R182). -/
def fpRcp (x : FpVal) : FpVal := fpDiv (.fin false 1 0) x

/-- The reciprocal square root (R182): −0 and +0 both take the table's results. -/
def fpRsq : FpVal → FpVal
  | .nan => .nan
  | .inf a => if a then .nan else .fin false 0 0
  | .fin a m e =>
    if m = 0 then .inf a
    else if a then .nan
    else
      let n := if e % 2 = 0 then m else 2 * m
      let d := if e % 2 = 0 then e else e - 1
      let q := isqrt (2 ^ 128 / n)
      .fin false (sticky q (q * q * n != 2 ^ 128)) (-(d / 2) - 65)

/-- ln 2 in units of 2^−160. -/
def ln2Fixed : Nat := 0xb17217f7d1cf79abc9e3b39803f2f6af40f34326

/-- Terms of the series of e^y, y in units of 2^−160, from term `k` with value `t`. -/
def expSeries : Nat → Nat → Nat → Nat → Nat → Nat
  | 0, _, _, _, acc => acc
  | n + 1, k, y, t, acc =>
    let t' := t * y / 2 ^ 160 / k
    expSeries n (k + 1) y t' (acc + t')

/-- 2^f for a fraction f = F / 2^160, in units of 2^−160 (log 11). -/
def exp2Frac (f : Nat) : Nat := expSeries 48 1 (f * ln2Fixed / 2 ^ 160) (2 ^ 160) (2 ^ 160)

/-- 2^x (R182), with a sticky bit far below the last place of FP32 (log 11). -/
def fpExp2 : FpVal → FpVal
  | .nan => .nan
  | .inf a => if a then .fin false 0 0 else .inf false
  | .fin a m e =>
    if m = 0 then .fin false 1 0
    else if 16 ≤ (Nat.log2 m : Int) + e then (if a then .fin false 1 (-1000) else .inf false)
    else
      -- x in units of 2^−160, rounded down
      let fixed : Int :=
        if 0 ≤ e + 160 then signedOf a (m * 2 ^ (e + 160).toNat)
        else signedOf a m / 2 ^ (-(e + 160)).toNat
      let n := fixed / 2 ^ 160
      let f := (fixed % 2 ^ 160).toNat
      if f = 0 then .fin false 1 n
      else .fin false (sticky (exp2Frac f) true) (n - 161)

/-- `n` more bits of log2 of y (in units of 2^−256, 1 ≤ y < 2), after the bits in `acc`. -/
def log2Bits : Nat → Nat → Nat → Nat
  | 0, _, acc => acc
  | n + 1, y, acc =>
    let z := y * y / 2 ^ 256
    if 2 ^ 257 ≤ z then log2Bits n (z / 2) (2 * acc + 1) else log2Bits n z (2 * acc)

/-- log2 x (R182), with a sticky bit far below the last place of FP32 (log 11). -/
def fpLog2 : FpVal → FpVal
  | .nan => .nan
  | .inf a => if a then .nan else .inf false
  | .fin a m e =>
    if m = 0 then .inf true
    else if a then .nan
    else
      let l := Nat.log2 m
      let n : Int := (l : Int) + e
      if m = 2 ^ l then .fin (decide (n < 0)) n.natAbs 0
      else
        let v : Int := n * 2 ^ 120 + (log2Bits 120 (m * 2 ^ 256 / 2 ^ l) 0 : Int)
        if 0 ≤ v then .fin false (sticky v.natAbs true) (-121)
        else .fin true (sticky (v.natAbs - 1) true) (-121)

/-! ### Comparisons (R179) -/

/-- a < b as real values; false for a NaN. -/
def fpLt : FpVal → FpVal → Bool
  | .nan, _ => false
  | _, .nan => false
  | .inf a, .inf b => a && !b
  | .inf a, .fin _ _ _ => a
  | .fin _ _ _, .inf b => !b
  | .fin a m d, .fin b n e =>
    let q := if d < e then d else e
    decide (signedOf a m * 2 ^ (d - q).toNat < signedOf b n * 2 ^ (e - q).toNat)

def FpVal.isNan : FpVal → Bool
  | .nan => true | _ => false
def FpVal.neg : FpVal → Bool
  | .nan => false | .inf a => a | .fin a _ _ => a
def FpVal.isZero : FpVal → Bool
  | .fin _ m _ => m == 0 | _ => false
def FpVal.isInf : FpVal → Bool
  | .inf _ => true | _ => false

/-! ### FP32 operations on words -/

/-- The value of an FP32 word. -/
def f32 (x : W32) : FpVal := fpDecode fp32 x.toNat
/-- rne32: the exact value rounded to FP32 (R11). -/
def rne32 (v : FpVal) : W32 := BitVec.ofNat 32 (fpRound fp32 .rne v)

def f32Nan : W32 := 0x7FC00000

def f32Add (a b : W32) : W32 := rne32 (fpAdd (f32 a) (f32 b))
def f32Sub (a b : W32) : W32 := rne32 (fpAdd (f32 a) (fpNeg (f32 b)))
def f32Mul (a b : W32) : W32 := rne32 (fpMul (f32 a) (f32 b))
def f32Div (a b : W32) : W32 := rne32 (fpDiv (f32 a) (f32 b))
/-- x × y + z rounded once (R191). -/
def f32Fma (x y z : W32) : W32 := rne32 (fpAdd (fpMul (f32 x) (f32 y)) (f32 z))
def f32Sqrt (a : W32) : W32 := rne32 (fpSqrt (f32 a))
def f32Exp2 (a : W32) : W32 := rne32 (fpExp2 (f32 a))
def f32Log2 (a : W32) : W32 := rne32 (fpLog2 (f32 a))
def f32Rcp (a : W32) : W32 := rne32 (fpRcp (f32 a))
def f32Rsq (a : W32) : W32 := rne32 (fpRsq (f32 a))

/-- a is below b with −0 below +0 (R179). -/
def f32Below (a b : W32) : Bool :=
  fpLt (f32 a) (f32 b) || ((f32 a).isZero && (f32 b).isZero && (f32 a).neg && !(f32 b).neg)

def f32Min (a b : W32) : W32 :=
  if (f32 a).isNan || (f32 b).isNan then f32Nan else if f32Below b a then b else a
def f32Max (a b : W32) : W32 :=
  if (f32 a).isNan || (f32 b).isNan then f32Nan else if f32Below a b then b else a

/-! ### Conversions (R180, R181) -/

/-- A value in one format as the encoding of another (R180). -/
def fpConvert (src dst : FpFmt) (r : RMode) (x : Nat) : Nat := fpRound dst r (fpDecode src x)

/-- A value rounded to an integer. -/
def fpToIntExact (r : RMode) (neg : Bool) (m : Nat) (e : Int) : Int :=
  signedOf neg (roundShift r neg m (-e))

/-- Conversion to an integer between `lo` and `hi`, saturating; NaN gives 0 (R181). -/
def fpToInt (r : RMode) (lo hi : Int) : FpVal → Int
  | .nan => 0
  | .inf neg => if neg then lo else hi
  | .fin neg m e =>
    let v := fpToIntExact r neg m e
    if v < lo then lo else if hi < v then hi else v

/-- The exact value of an integer. -/
def fpOfInt (i : Int) : FpVal := .fin (decide (i < 0)) i.natAbs 0

end Sys2Proof.Machine
end

