-- ==== Sys2Proof/Machine/Flags.lean ====
section
/-!
DEFINITION. The machine has no flag register; this file holds every test that an instruction turns
into a truth value or a mask: integer orders (09 R223, R235), floating-point compares (07 R179, 09
R231) and FCLASS (09 R232).
-/

namespace Sys2Proof.Machine

/-- Signed a < b. -/
def slt64 (a b : Word) : Bool := decide (a.toInt < b.toInt)
/-- Unsigned a < b. -/
def ult64 (a b : Word) : Bool := decide (a.toNat < b.toNat)

def min64 (a b : Word) : Word := if slt64 b a then b else a
def max64 (a b : Word) : Word := if slt64 a b then b else a
def minu64 (a b : Word) : Word := if ult64 b a then b else a
def maxu64 (a b : Word) : Word := if ult64 a b then b else a

/-- FEQ: equal values, −0 and +0 equal, false for NaN (R179). -/
def f32Eq (a b : W32) : Bool :=
  !(f32 a).isNan && !(f32 b).isNan && !fpLt (f32 a) (f32 b) && !fpLt (f32 b) (f32 a)
/-- FLT. -/
def f32Lt (a b : W32) : Bool := fpLt (f32 a) (f32 b)
/-- FLE. -/
def f32Le (a b : W32) : Bool := f32Lt a b || f32Eq a b

/-- The class mask of FCLASS (R232). -/
def f32Class (a : W32) : Word :=
  let neg := a.getLsbD 31
  let sub := bits a 30 23 == 0
  match f32 a with
  | .nan => 0x100
  | .inf _ => if neg then 0x001 else 0x080
  | .fin _ m _ =>
    if m = 0 then (if neg then 0x008 else 0x010)
    else if sub then (if neg then 0x004 else 0x020)
    else (if neg then 0x002 else 0x040)

end Sys2Proof.Machine
end

