-- ==== Sys2Proof/Machine/Operands.lean ====
section
/-!
DEFINITION. Operand forms: the b operand (08 R195; 09 R219), the registers a form names (06 R158),
the lengths of instructions (08 R196), M-format addresses and sizes (08 R198).
-/

namespace Sys2Proof.Machine

/-- bval: the value of operand b (09 R219). -/
def bval (j : Job) (c : Core) : Opd → Word
  | .reg b => c.reg b
  | .kbank b => j.kbank[b.toNat]
  | .lit .sext w => w.signExtend 64
  | .lit .zext w => w.setWidth 64
  | .lit .fp w => w.setWidth 64

/-- Bytes of an instruction with operand b (08 R196). -/
def opdLen : Opd → Nat
  | .lit _ _ => 8
  | _ => 4

/-- Registers that operand b names (06 R158). -/
def opdRegs : Opd → List Reg
  | .reg b => [b]
  | _ => []

/-- Bytes of a load size. -/
def loadBytes : LoadSize → Nat
  | .b => 1 | .h => 2 | .w => 4 | .d => 8 | .bu => 1 | .hu => 2 | .wu => 4

/-- Whether a load size sign-extends (R198). -/
def loadSigned : LoadSize → Bool
  | .b => true | .h => true | .w => true | .d => true | _ => false

def storeBytes : StoreSize → Nat
  | .b => 1 | .h => 2 | .w => 4 | .d => 8

def wdBytes : WD → Nat
  | .w => 4 | .d => 8

/-- `n` loaded bytes as a dword, sign- or zero-extended (R198). -/
def extend (n : Nat) (signed : Bool) (v : Nat) : Word :=
  if signed then BitVec.ofInt 64 (toInt (8 * n) v) else BitVec.ofNat 64 (v % 2 ^ (8 * n))

/-- The address g[a] + sext64(imm11 × size), modulo 2^64 (R198, 01 R14). -/
def effAddr (base : Word) (i : BitVec 11) (n : Nat) : Word := base + BitVec.ofInt 64 (i.toInt * n)

/-- The low word of a dword. -/
def lo32 (x : Word) : W32 := x.setWidth 32

/-- A word zero-extended, as floating-point results are written (07 R177). -/
def zx (x : W32) : Word := x.setWidth 64

/-- A word sign-extended. -/
def sx (x : W32) : Word := x.signExtend 64

end Sys2Proof.Machine
end

