-- ==== Sys2Proof/Machine/LocalUnit.lean ====
section
/-!
DEFINITION. What the banks and the tag table of a tile do with one access of a core: atomics (02 R63; 10 R267), tag entries and their
ages (02 R46 to R48), and the accesses of the local queue (05 R119; 10 R255, R271).
-/

namespace Sys2Proof.Machine

/-! ### Atomic operations (02 R63; 10 R267) -/

/-- The value an atomic writes, of `n` bytes, from the old value, the operand and the compare value;
none when a failing ACAS writes nothing. Codes of 08 R206. -/
def atomNew (op : BitVec 4) (n old x cmp : Nat) : Option Nat :=
  let o := toInt (8 * n) old
  let y := toInt (8 * n) x
  let m := 2 ^ (8 * n)
  match op.toNat with
  | 0 => some ((old + x) % m)
  | 1 => some (old &&& x)
  | 2 => some (old ||| x)
  | 3 => some (old ^^^ x)
  | 4 => some (if y < o then x else old)
  | 5 => some (if o < y then x else old)
  | 6 => some (min old x)
  | 7 => some (max old x)
  | 8 => some x
  | 9 => if old = cmp then some x else none
  | 10 => some (f32Add (BitVec.ofNat 32 old) (BitVec.ofNat 32 x)).toNat
  | _ => some (f32Max (BitVec.ofNat 32 old) (BitVec.ofNat 32 x)).toNat

/-- Memory after an atomic of `n` bytes at `a`. -/
def atomMem (m : Memory) (a n : Nat) (op : BitVec 4) (x cmp : Nat) : Memory :=
  match atomNew op n (readLe m a n) x cmp with
  | some v => writeLe m a n v
  | none => m

/-- What an atomic returns in its destination register (10 R267). -/
def atomResult (op : BitVec 4) (n old : Nat) : Word :=
  if op.toNat = 10 ∨ op.toNat = 11 then BitVec.ofNat 64 old else extend n true old

/-! ### The tag table (02 R46 to R48) -/

/-- Address of the tag entry of a slot (01 R32). -/
def tagAddr (p t slot : Nat) : Nat := blockAddr p t (0x50_0000 + 8 * slot)

/-- The tag entry of slot `slot` of the tile that acts. -/
def State.tag (s : State) (slot : Nat) : Word := read64 s.mem (tagAddr s.fpkg s.ftile slot)
def State.setTag (s : State) (slot : Nat) (v : Word) : State :=
  { s with mem := write64 s.mem (tagAddr s.fpkg s.ftile slot) v }

/-- Fields of a tag entry (R46). -/
def tagKind (e : Word) : Nat := bits e 63 62
def tagPending (e : Word) : Bool := e.getLsbD 61
def tagDirty (e : Word) : Nat := bits e 60 57
def tagAge (e : Word) : Nat := bits e 56 54
def tagKey (e : Word) : Nat := bits e 53 0
def tagValid (e : Word) : Bool := tagKind e == 1 || tagKind e == 2
def setAge (e : Word) (n : Nat) : Word := setBits e 56 54 n

/-- Slot `w` of tile `t` of package `p` gets age 0; every other valid way of its set below age `old` grows one older (R48). -/
def ageTags (m : Memory) (p t : Nat) (slots : List Nat) (w old : Nat) : Memory :=
  slots.foldl (fun m k =>
    let at_ := tagAddr p t k
    let e := read64 m at_
    if k = w then write64 m at_ (setAge e 0)
    else if tagValid e && decide (tagAge e < old) then write64 m at_ (setAge e (tagAge e + 1))
    else m) m

/-- The set of the tile that acts aged. -/
def State.ageSet (s : State) (slots : List Nat) (w old : Nat) : State := { s with mem := ageTags s.mem s.fpkg s.ftile slots w old }

/-- TGSET of slot `w` with the entry `v`: one of kind 0b00 is written whole as zero; the set ages as for a hit, whatever the kind
(10 R271; log 23). -/
def setEntry (m : Memory) (p t : Nat) (slots : List Nat) (w : Nat) (v : Word) : Memory :=
  ageTags (write64 m (tagAddr p t w) (if bits v 63 62 = 0 then 0 else v)) p t slots w (tagAge (read64 m (tagAddr p t w)))

/-! ### Accesses of the local queue -/

/-- Whether a local access writes. -/
def LocalOp.writes : LocalOp → Bool
  | .load => false | _ => true

/-- Memory after a local access without a result of tile `t` of package `p`: at local address or slot `a`, of `n` bytes. -/
def LocalOp.act (op : LocalOp) (m : Memory) (p t a n : Nat) (v : Word) : Memory :=
  match op with
  | .load => m
  | .store => writeLe m (apAddr p t a) n v.toNat
  | .atomic op _ => atomMem m (apAddr p t a) n op (v.toNat % 2 ^ (8 * n)) 0
  | .tgset first ways => setEntry m p t ((List.range ways).map (fun w => first + w)) a v
  | .tginv => write64 m (tagAddr p t a) 0
  | .tgclr k => clearRange m (tagAddr p t a) (tagAddr p t a + 8 * k)

/-- Physical address at which a local access stands. -/
def LocalOp.at_ (op : LocalOp) (p t a : Nat) : Nat :=
  match op with
  | .tgset _ _ => tagAddr p t a
  | .tginv => tagAddr p t a
  | .tgclr _ => tagAddr p t a
  | _ => apAddr p t a

/-- The `n` bytes of the scratchpad at `a` meet an uncorrectable error. A write narrower than the 16-byte unit that the code
protects reads the rest of it (02 R42), so an error anywhere in the unit meets it. -/
def State.padFlawedAt (s : State) (p t a n : Nat) (write : Bool) : Bool :=
  if write then s.flawed (apAddr p t (a / 16 * 16)) ((a % 16 + n + 15) / 16 * 16)
  else s.flawed (apAddr p t a) n

/-- The same for the tile that acts. -/
def State.padFlawed (s : State) (a n : Nat) (write : Bool) : Bool := s.padFlawedAt s.fpkg s.ftile a n write

/-- A local access meets an uncorrectable error of the scratchpad. -/
def LocalOp.flawed (op : LocalOp) (s : State) (p t a n : Nat) : Bool :=
  match op with
  | .load => s.padFlawedAt p t a n false
  | .store => s.padFlawedAt p t a n true
  | .atomic _ _ => s.padFlawedAt p t a n true
  | _ => false

end Sys2Proof.Machine
end

