-- ==== Sys2Proof/Machine/Routes.lean ====
section
/-!
DEFINITION. The torus of packages: neighbours, links, routes, and which package answers which (13 R342, R343, R348 to R350;
20 R442).
-/

namespace Sys2Proof.Machine

/-- Coordinates of a package in the torus (13 R342). -/
def coords (dx dy p : Nat) : Nat × Nat × Nat := (p % dx, p / dx % dy, p / (dx * dy))

/-- The neighbour of package `p` through port `q` (13 R342). -/
def State.portNeighbour (s : State) (p q : Nat) : Nat :=
  let k := s.pkgAt p
  let (x, y, z) := coords k.dx k.dy p
  let up := q % 2 = 0
  let go := fun (v n : Nat) => if up then (v + 1) % n else (v + n - 1) % n
  match q / 2 with
  | 0 => go x k.dx + k.dx * (y + k.dy * z)
  | 1 => x + k.dx * (go y k.dy + k.dy * z)
  | _ => x + k.dx * (y + k.dy * go z k.dz)

/-- State code of a plane of a port with `lost` failed lanes of 18 (13 R348, R350): 0 full width, 1 half, 2 down, 3
isolated. -/
def planeState (iso down : Bool) (lost : Nat) : Nat :=
  if iso then 3 else if down || 10 < lost then 2 else if lost ≤ 2 then 0 else 1

/-- pstate of PORTSTq. -/
def Port.pstate (k : Port) : Nat := planeState k.iso k.pdown k.plost

/-- The packet plane of the link through port `q` of package `p` carries packets (13 R348 to R350). -/
def State.linkOk (s : State) (p q : Nat) : Bool :=
  let up := fun (k : Package) (q : Nat) => k.ports.getLsbD q && decide ((vget k.port q).pstate < 2)
  up (s.pkgAt p) q && up (s.pkgAt (s.portNeighbour p q)) (q ^^^ 1)

/-- The way round a ring of `n` from `a` to `b`: up, or down where that is shorter (13 R343); none when it is there. -/
def ringWay (n a b : Nat) : Option Bool :=
  let d := (b + n - a) % n
  if d = 0 then none else some (decide (2 * d ≤ n))

/-- The port through which a packet leaves package `p` for package `q`: X, then Y, then Z (13 R343). -/
def State.nextPort (s : State) (p q : Nat) : Option Nat :=
  let k := s.pkgAt p
  let (x, y, z) := coords k.dx k.dy p
  let (x', y', z') := coords k.dx k.dy q
  let port := fun (i : Nat) (up : Bool) => 2 * i + if up then 0 else 1
  match ringWay k.dx x x', ringWay k.dy y y', ringWay k.dz z z' with
  | some u, _, _ => some (port 0 u)
  | none, some u, _ => some (port 1 u)
  | none, none, some u => some (port 2 u)
  | none, none, none => none

/-- The route of a packet from package `p` to package `q`, the same on every virtual channel: the packages it leaves, each
with the port (13 R343). -/
def State.route (s : State) : Nat → Nat → Nat → List (Nat × Nat)
  | 0, _, _ => []
  | n + 1, p, q =>
    match s.nextPort p q with
    | some o => (p, o) :: s.route n (s.portNeighbour p o) q
    | none => []

/-- Every link of the route carries packets. -/
def State.routeOk (s : State) (p q : Nat) : Bool := (s.route Config.maxPackages p q).all (fun x => s.linkOk x.1 x.2)

/-- The packages that packets reach from those of `l`, in at most `n` rounds. -/
def State.routes (s : State) : Nat → List Nat → List Nat
  | 0, l => l
  | n + 1, l =>
    let more := (l.flatMap (fun p => ((List.range 6).filter (s.linkOk p)).map (s.portNeighbour p))).eraseDups.filter
      (fun q => !l.contains q)
    if more.isEmpty then l else s.routes n (l ++ more)

/-- A package that answers no request of another package: quiesced (CAP0.svc = 0b10), removed, or not
brought up (20 R442; log 25). -/
def Package.gone (k : Package) : Bool := k.svc == 2 || k.boot == .off || k.boot == .poweredOff

/-- Requests from package `p` reach package `q`: it answers, and the route carries packets or some reroute remains (13 R343,
R349). -/
def State.reaches (s : State) (p q : Nat) : Bool :=
  p == q || (!(s.pkgAt q).gone && (s.routeOk p q || (s.routes Config.maxPackages [p]).contains q))

end Sys2Proof.Machine
end

