-- ==== Sys2Proof/Machine/Translate.lean ====
section
/-!
DEFINITION. Homes' caches (02 R37 to R41), tenant windows (01 R30), page tables and walks (03 R70 to
R73), TLBs and walk caches (03 R75 to R79).
-/

namespace Sys2Proof.Machine

/-! ### The memory-side cache directory (02 R37 to R41) -/

/-- How an access asks a home to keep its line (R40). -/
inductive Hint where
  | load | bypass | store | noalloc | pref
  deriving DecidableEq, Repr

/-- Mask of the sectors that `n` bytes at `pa` touch in the line of `pa`. -/
def sectorMask (pa n : Nat) : BitVec 4 :=
  let first := sectorOf pa
  let last := min 3 ((pa - lineBase pa + n - 1) / 48)
  BitVec.ofNat 4 ((2 ^ (last + 1) - 2 ^ first) % 16)

/-- What the table of R41 leaves in a present line. -/
def CacheLine.touch (c : CacheLine) (h : Hint) (m : BitVec 4) : CacheLine :=
  match h with
  | .load => { c with valid := c.valid ||| m }
  | .pref => { c with valid := c.valid ||| m }
  | .bypass => c
  | .store => { c with valid := c.valid ||| m, dirty := c.dirty ||| m }
  | .noalloc => { c with valid := c.valid ||| m, dirty := c.dirty ||| m }

/-- Whether the access allocates a line that is not present (R41). -/
def Hint.allocates : Hint → Bool
  | .load => true | .store => true | .pref => true | _ => false

/-- Whether the access counts as a use for replacement (R37); a PREF takes no action on what is valid (R41; log 9). -/
def Hint.uses : Hint → Bool
  | .load => true | .store => true | _ => false

/-- Whether two line bases of one die fall in one set of one slice (R37). -/
def sameSet (a b : Nat) : Bool := Config.homeSlice a == Config.homeSlice b && Config.homeSet a % Config.cacheSets == Config.homeSet b % Config.cacheSets

/-- A die's lines with room for a line at `base` in its set, if it has any: a full set gives up its least recently used line with no
access in progress (R37, R38). -/
def evictFor (busy : Nat → Bool) (l : List CacheLine) (base : Nat) : Option (List CacheLine) :=
  if l.length < Config.cacheWays then some l
  else
    let mine := l.filter (fun c => sameSet c.base base)
    if mine.length < Config.cacheWays then some l
    else (mine.find? (fun c => !busy c.base)).map (fun old => l.erase old)

/-- A die's lines, least recently used first, after an access (R37, R38, R41; log 9); `busy` tells the lines with an access in
progress. -/
def touchLines (busy : Nat → Bool) (l : List CacheLine) (base : Nat) (h : Hint) (m : BitVec 4) : List CacheLine :=
  match l.find? (fun c => c.base == base) with
  | some c =>
    if h.uses then l.filter (fun c => c.base != base) ++ [c.touch h m]
    else l.map (fun d => if d.base = base then d.touch h m else d)
  | none =>
    if h.allocates then match evictFor busy l base with
      | some l => l ++ [(CacheLine.mk base 0 0).touch h m]
      | none => l
    else l

/-- The line at `base` has a request that its home has accepted and not performed (05 R125). -/
def State.lineBusy (s : State) (base : Nat) : Bool := s.reqs.any (fun r => r.st == .accepted && lineBase r.pa == base)

/-- The cache effect of one request of `n` bytes at `pa` (R41). -/
def State.touchHome (s : State) (pa n : Nat) (h : Hint) : State :=
  match s.placeOf pa with
  | .die p d =>
    if (s.region pa).isMmio then s
    else s.modPkg p (fun k =>
      { k with cache := vset k.cache d (touchLines s.lineBusy (vget k.cache d) (lineBase pa) h (sectorMask pa n)) })
  | _ => s

/-- The requests for the `n` bytes at `pa`, one for each line. -/
def State.touchSpan (s : State) (pa n : Nat) (h : Hint) : State :=
  (List.range (n / 192 + 2)).foldl (fun s i =>
    let b := lineBase pa + 192 * i
    let lo := max pa b
    let hi := min (pa + n) (b + 192)
    if lo < hi then s.touchHome lo (hi - lo) h else s) s

/-! ### Tenant windows (01 R30) -/

/-- Permission bits, as bits 2:0 = X, W, R. -/
abbrev Perm := BitVec 3
def permR : Perm := 1
def permW : Perm := 2
def permRW : Perm := 3
def permX : Perm := 4

/-- `have_` grants all of `need`. -/
def grants (have_ need : Perm) : Bool := need &&& have_ == need

/-- Whether the window entry of two dwords covers the 64 KiB frames `lo` to `hi` with `need`. -/
def windowCovers (d0 d1 : Word) (lo hi : Nat) (need : Perm) : Bool :=
  bits d0 0 0 == 1 && bits d0 15 1 == 0 && bits d0 63 56 == 0 && bits d1 15 3 == 0 && bits d1 63 56 == 0
    && decide (bits d0 55 16 ≤ lo) && decide (hi ≤ bits d1 55 16)
    && grants (BitVec.ofNat 3 (bits d1 2 0)) need

/-- The run of offsets, with no reserved one among them, that an offset lies in: HBM, the DDR-5 tier, the H-die and C-die blocks,
the tile blocks, or the scratchpad of one aperture; none for a reserved offset (01 R22, R32; log 77). -/
def mapRow (ddr off : Nat) : Option Nat :=
  if off < hbmTop then some 0
  else if ddrBase ≤ off ∧ off < ddrBase + ddr * 16 * gib then some 1
  else if mmioBase ≤ off ∧ off < mmioBase + 0x1400_0000 then some 2
  else if mmioBase + 0x1_0000_0000 ≤ off ∧ off < mmioBase + 0x2_0000_0000 then some 3
  else if apBase ≤ off ∧ off < apBase + 0x8000_0000 ∧ (off - apBase) % 0x80_0000 < 0x60_0000 then some (4 + (off - apBase) / 0x80_0000)
  else none

/-- The bytes from `lo` to `hi` name no part of a reserved range: both ends lie in one run (01 R22; log 77). -/
def State.unreserved (s : State) (lo hi : Nat) : Bool :=
  let row := fun (a : Nat) => mapRow (s.pkgAt (paPkg a)).ddr (paOff a)
  paPkg lo == paPkg hi && (row lo).isSome && row lo == row hi

/-- The window of two dwords names no part of a reserved range (01 R22). -/
def State.windowSound (s : State) (d0 d1 : Word) : Bool :=
  s.unreserved (bits d0 55 16 * 0x1_0000) (bits d1 55 16 * 0x1_0000 + 0xFFFF)

/-- Some valid window of tenant `u` in package `p` covers the bytes `lo` to `hi` with `need`. -/
def State.windowOk (s : State) (p u lo hi : Nat) (need : Perm) : Bool :=
  let win := (s.tenAt p u).win
  (List.range 16).any (fun w =>
    let d0 := (mget win (2 * w)).getD 0
    let d1 := (mget win (2 * w + 1)).getD 0
    windowCovers d0 d1 (lo / 0x1_0000) (hi / 0x1_0000) need && s.windowSound d0 d1)

/-! ### Leaves -/

/-- Bytes of a page of size code `c` (03 R71). -/
def pageBytes (c : Nat) : Nat :=
  match c with
  | 0 => 0x1_0000 | 1 => 0x20_0000 | _ => 0x4000_0000

/-- Whether a frame, its size and its placement satisfy 01 R23, R24 and R26, and in pilot-light service 20
R437: placement mode 0b10 only. -/
def State.frameOk (s : State) (p frame size pl : Nat) : Bool :=
  let q := paPkg frame
  let last := frame + pageBytes size - 1
  let k := s.pkgAt q
  let a := regionOf k.ddr (paOff frame)
  let b := regionOf k.ddr (paOff last)
  decide (q < (s.pkgAt p).d) && ((s.pkgAt p).svc != 0 || pl / 4 == 2) &&
  match a, b with
  | .hbm, .hbm =>
    let w := hbmWindow k.hbmsplit (paOff frame)
    w == hbmWindow k.hbmsplit (paOff last) &&
    (match w with
     | none => pl == 0 || pl == 12
     | some d => pl == 4 + d)
  | .ddr, .ddr => pl == 8
  | .aperture t _, .aperture t' _ => t == t' && size != 2 && pl == 0
  | .hmmio _, .hmmio _ => size == 0 && pl == 0
  | .cmmio _ _, .cmmio _ _ => size == 0 && pl == 0
  | .tmmio _ _, .tmmio _ _ => size == 0 && pl == 0
  | _, _ => false

/-- Whether a table address lies in HBM or the DDR-5 tier below the domain size (03 R73). -/
def State.tableOk (s : State) (p pa : Nat) : Bool :=
  decide (paPkg pa < (s.pkgAt p).d) &&
  match s.region pa with
  | .hbm => true | .ddr => true | _ => false

/-- Whether a leaf value is well formed at its level (03 R71, R72). -/
def leafFormOk (v : Word) (level : Nat) : Bool :=
  let size := bits v 3 2
  bits v 63 56 == 0 && bits v 7 7 == 0 && size != 3 &&
  (if size = 2 then level == 1 && bits v 29 16 == 0
   else if size = 1 then level == 0 && bits v 20 16 == 0
   else level == 0)

/-- A leaf as a TLB entry of tenant `u` for the page that holds `va`. -/
def leafEntry (u va : Nat) (v : Word) : TlbEntry :=
  let size := bits v 3 2
  { tenant := BitVec.ofNat 8 u, va := va / pageBytes size * pageBytes size, pa := bits v 55 16 * 0x1_0000
    size := BitVec.ofNat 2 size, xwr := BitVec.ofNat 3 (bits v 6 4)
    placement := BitVec.ofNat 4 (bits v 11 8) }

/-- The end of a walk. -/
inductive WalkRes where
  | fault (c : Cause)
  /-- The leaf's page is under migration (03 R87, step 2). -/
  | busy
  /-- A leaf that passed, and where it lies. -/
  | leaf (e : TlbEntry) (at_ : Nat)
  deriving DecidableEq, Repr

/-- Index of a virtual address at a level (03 R70). -/
def vaIndex (va level : Nat) : Nat := va / 2 ^ (16 + 10 * level) % 1024

/-- Whether a page is marked busy by the migration engine (03 R87). -/
def State.pageBusy (s : State) (p u : Nat) (e : TlbEntry) : Bool :=
  (s.pkgAt p).busyPages.any (fun b => b.1 == u && b.2 == e.va)

/-- The checks at a leaf for an access that needs `need` (03 R73 4; 01 R24, R30). -/
def State.leafCheck (s : State) (p u va : Nat) (need : Perm) (v : Word) (at_ level : Nat) : WalkRes :=
  let e := leafEntry u va v
  if bits v 0 0 = 0 then (if s.pageBusy p u e then .busy else .fault .pageAbsent)
  else if !leafFormOk v level then .fault .protection
  else if s.pageBusy p u e then .busy
  else if !s.frameOk p e.pa (bits v 3 2) (bits v 11 8) then .fault .protection
  else if !grants e.xwr need then .fault .protection
  else if !s.windowOk p u e.pa (e.pa + pageBytes (bits v 3 2) - 1) need then .fault .protection
  else .leaf e at_

/-- Prefix of a virtual address above a level. -/
def vaPrefix (va level : Nat) : Nat := va / 2 ^ (26 + 10 * level)

/-- A walker's cache with a table entry made its most recent (03 R77). -/
def Package.cacheTable (k : Package) (w : Nat) (e : WalkEntry) : Package :=
  let old := (vget k.walk w).filter
    (fun x => !(x.tenant == e.tenant && x.level == e.level && x.prefix_ == e.prefix_))
  { k with walk := (vset k.walk w ((e :: old).take Config.walkCacheSize)) }

/-- The line of `pa` has a request that its home has accepted and not performed: whatever arrives now follows it (05 R125). -/
def State.lineTaken (s : State) (pa : Nat) : Bool := s.lineBusy (lineBase pa)

/-- Some line of the `n` bytes at `pa` has one. -/
def State.spanTaken (s : State) (pa n : Nat) : Bool :=
  s.reqs.any (fun r => r.st == .accepted && decide (pa < lineBase r.pa + 192) && decide (lineBase r.pa < pa + n))

/-- A walk from the table of level `level` on. Each entry read is a normal load at its home (03 R77), which ends in Request-Timeout
where that home does not answer (20 R442; 02 R66); each table entry that passes enters the walker's cache. -/
def walkFrom (p w u va : Nat) (need : Perm) : Nat → Nat → State → State × WalkRes
  | level, table, s =>
    let at_ := table + 8 * vaIndex va level
    let v := read64 s.mem at_
    let taken := s.lineTaken at_
    let s := if taken || !s.reaches p (paPkg at_) then s else s.touchHome at_ 8 .load
    if taken then (s, .busy)
    else if !s.reaches p (paPkg at_) then (s, .fault .requestTimeout)
    else match level with
    | 0 =>
      if bits v 1 1 = 1 then (s, s.leafCheck p u va need v at_ 0)
      else if bits v 0 0 = 0 then (s, .fault .pageAbsent)
      else (s, .fault .protection)
    | l + 1 =>
      if bits v 1 1 = 1 then
        if l = 0 ∨ bits v 0 0 = 0 then (s, s.leafCheck p u va need v at_ (l + 1))
        else (s, .fault .protection)
      else if bits v 0 0 = 0 then (s, .fault .pageAbsent)
      else if bits v 63 56 ≠ 0 ∨ bits v 12 2 ≠ 0 then (s, .fault .protection)
      else
        let next := bits v 55 13 * 0x2000
        if !s.tableOk p next then (s, .fault .protection)
        else
          let e : WalkEntry := ⟨BitVec.ofNat 8 u, l, vaPrefix va l, next⟩
          walkFrom p w u va need l next (s.modPkg p (fun k => k.cacheTable w e))

/-- The lowest table of the walk that walker `w` holds for the address (03 R77). -/
def State.cachedTable (s : State) (p w u va : Nat) : Option WalkEntry :=
  let f := fun l => (vget (s.pkgAt p).walk w).find?
    (fun e => e.tenant.toNat == u && e.level == l && e.prefix_ == vaPrefix va l)
  match f 0 with
  | some e => some e
  | none => match f 1 with
    | some e => some e
    | none => f 2

/-- A walk of tenant `u` in package `p` by walker `w` (0 to 3 for the dies, 4 for the H-die) for an
access that needs `need` (03 R73). -/
def State.walk (s : State) (p w u va : Nat) (need : Perm) : State × WalkRes :=
  let root := (s.tenAt p u).troot
  if bits root 0 0 = 0 then (s, .fault .pageAbsent)
  else
    let table := bits root 55 13 * 0x2000
    if !s.tableOk p table then (s, .fault .protection)
    else match s.cachedTable p w u va with
      | some e => walkFrom p w u va need e.level e.table s
      | none => walkFrom p w u va need 3 table s

/-! ### TLBs (03 R75, R76, R92) -/

/-- Which TLB an access uses. -/
inductive TlbSel where
  | core
  | stream (k : Kind)
  | host
  deriving DecidableEq, Repr

/-- The entries of a TLB, most recently used first. -/
def State.tlbOf (s : State) (p t : Nat) : TlbSel → List TlbEntry
  | .core => (s.tileAt (tileKey p t)).tlb
  | .stream .C => (s.tileAt (tileKey p t)).tlbC
  | .stream .T => (s.tileAt (tileKey p t)).tlbT
  | .stream .W => (s.tileAt (tileKey p t)).tlbW
  | .stream _ => (s.tileAt (tileKey p t)).tlbV
  | .host => (s.pkgAt p).hostTlb

/-- The state with a TLB's entries replaced. -/
def State.setTlb (s : State) (p t : Nat) (sel : TlbSel) (l : List TlbEntry) : State :=
  match sel with
  | .core => s.modTile (tileKey p t) (fun k => { k with tlb := l })
  | .stream .C => s.modTile (tileKey p t) (fun k => { k with tlbC := l })
  | .stream .T => s.modTile (tileKey p t) (fun k => { k with tlbT := l })
  | .stream .W => s.modTile (tileKey p t) (fun k => { k with tlbW := l })
  | .stream _ => s.modTile (tileKey p t) (fun k => { k with tlbV := l })
  | .host => s.modPkg p (fun k => { k with hostTlb := l })

def TlbSel.size : TlbSel → Nat
  | .core => Config.coreTlbSize
  | .stream _ => Config.streamTlbSize
  | .host => Config.hostTlbSize

/-- The walker that serves a TLB. -/
def TlbSel.walker (t : Nat) : TlbSel → Nat
  | .host => 4
  | _ => dieOf t

/-- Whether an entry holds the page of `va` for tenant `u`. -/
def TlbEntry.hits (e : TlbEntry) (u va : Nat) : Bool :=
  e.tenant.toNat == u && decide (e.va ≤ va) && decide (va < e.va + pageBytes e.size.toNat)

/-- Whether an entry translates any of the `n` bytes at `va` for tenant `u`. -/
def TlbEntry.meets (e : TlbEntry) (u va n : Nat) : Bool :=
  e.tenant.toNat == u && decide (e.va < va + n) && decide (va < e.va + pageBytes e.size.toNat)

/-- Physical address of `va` through an entry. -/
def TlbEntry.phys (e : TlbEntry) (va : Nat) : Nat := e.pa + (va - e.va)

/-- The outcome of a translation. -/
inductive TrRes where
  | ok (e : TlbEntry) (pa : Nat)
  | fault (c : Cause)
  | wait
  deriving DecidableEq, Repr

/-- The permission checks of an access through a held entry (R79, 01 R30; placement 0b11, 01 R26). -/
def State.entryCheck (s : State) (p u va : Nat) (need : Perm) (e : TlbEntry) : TrRes :=
  if !grants e.xwr need then .fault .protection
  else if !s.windowOk p u e.pa (e.pa + pageBytes e.size.toNat - 1) need then .fault .protection
  else if e.placement = 0b1100 then .fault .protection
  else .ok e (e.phys va)

/-- Translation of `va` for tenant `u` on tile `t` of package `p` through a TLB (03 R75 to R79). A new entry takes the place of the
least recently used one: R75 states that of the core TLB; for the stream TLBs (R76) and the host TLB (R92), and the order of entry
for the walk caches (R77), it is the model's choice (DESIGN CHOICE, log 69). -/
def State.translate (s : State) (p t : Nat) (sel : TlbSel) (u va : Nat) (need : Perm) : State × TrRes :=
  let l := s.tlbOf p t sel
  match l.find? (fun e => e.hits u va) with
  | some e =>
    (s.setTlb p t sel (e :: l.filter (fun x => !(x.hits u va))), s.entryCheck p u va need e)
  | none =>
    match s.walk p (sel.walker t) u va need with
    | (s, .fault c) => (s, .fault c)
    | (s, .busy) => (s, .wait)
    | (s, .leaf e _) =>
      (s.setTlb p t sel ((e :: s.tlbOf p t sel).take sel.size), s.entryCheck p u va need e)

/-- A miss of the core TLB counted, once for the access of the core instruction that acts (09 R248). -/
def State.countMiss (s : State) (u va : Nat) : State :=
  let missed := ((s.jobAt s.key).map (fun j => (j.core s.focus.kind).missed)).getD true
  if missed || (s.tlbOf s.fpkg s.ftile .core).any (fun e => e.hits u va) then s
  else (s.countTile s.tkey (fun k => { k with tlbmiss := k.tlbmiss + 1 })).modCore (fun c => { c with missed := true })

/-- Translation for the core that acts. -/
def State.coreTranslate (s : State) (u va : Nat) (need : Perm) : State × TrRes :=
  (s.countMiss u va).translate s.fpkg s.ftile .core u va need

/-- A prefetch walk into a stream TLB: no entry and no fault when the walk fails (R76). -/
def State.prefetch (s : State) (p t : Nat) (sel : TlbSel) (u va : Nat) (need : Perm) : State :=
  if (s.tlbOf p t sel).any (fun e => e.hits u va) then s
  else match s.walk p (sel.walker t) u va need with
    | (s, .leaf e _) => s.setTlb p t sel ((e :: s.tlbOf p t sel).take sel.size)
    | (s, _) => s

/-- A TLB without the entries of tenant `u` that `f` selects. -/
def dropEntries (u : Nat) (f : TlbEntry → Bool) (l : List TlbEntry) : List TlbEntry :=
  l.filter (fun e => !(e.tenant.toNat == u && f e))

/-- A tile's TLBs without the entries of tenant `u` that `f` selects. -/
def Tile.dropTlb (u : Nat) (f : TlbEntry → Bool) (t : Tile) : Tile :=
  { t with tlb := dropEntries u f t.tlb, tlbC := dropEntries u f t.tlbC, tlbT := dropEntries u f t.tlbT,
           tlbV := dropEntries u f t.tlbV, tlbW := dropEntries u f t.tlbW }

/-- Invalidation in package `p` of the entries of tenant `u` that `f` selects in every core, stream
and host TLB, and of all of the tenant's walk-cache entries (01 R31; 03 R74, R78; 09 R246). -/
def State.invalidate (s : State) (p u : Nat) (f : TlbEntry → Bool) : State :=
  let drop := fun (e : Nat × Tile) => if e.1 / 256 = p then (e.1, e.2.dropTlb u f) else e
  let s := { s with tiles := s.tiles.map drop }
  s.modPkg p (fun k =>
    { k with hostTlb := dropEntries u f k.hostTlb
             walk := k.walk.map (fun l => l.filter (fun e => e.tenant.toNat != u)) })

end Sys2Proof.Machine
end

