-- ==== Sys2Proof/Machine/Request.lean ====
section
/-!
DEFINITION. Requests to homes and tiles (02 R62 to R67; 05 R119 to R130): the queues of a core context stand in
`State.reqs` in program order (log 4); what a release, a fence or a QMARK waits for (log 5); timeouts and links.
-/

namespace Sys2Proof.Machine

/-! ### Scopes (05 R127) -/

/-- Whether a place lies in the instance of scope `sc` that contains tile `t` of package `p`. -/
def inScope (sc : Scope) (p t : Nat) (pl : Place) : Bool :=
  match sc, pl with
  | .tile, .tile q u => q == p && u == t
  | .tile, _ => false
  | .clus, .tile q u => q == p && u / 4 == t / 4
  | .clus, _ => false
  | .die, .tile q u => q == p && dieOf u == dieOf t
  | .die, .die q d => q == p && d == dieOf t
  | .die, .hdie _ => false
  | .pkg, pl => pl.pkg == p
  | .dom, _ => true

/-- Scope code (08 R205). -/
def scopeNum : Scope → Nat
  | .tile => 1 | .clus => 2 | .die => 3 | .pkg => 4 | .dom => 5

/-! ### What stands in the queues of a context (05 R119) -/

/-- It stands in the global load queue. -/
def ReqOp.isLoad : ReqOp → Bool
  | .ldq _ _ => true | .pref => true | _ => false

/-- It stands in the local queue. -/
def ReqOp.isOwn : ReqOp → Bool
  | .own _ => true | _ => false

/-- It accesses memory: it is no fence, QMARK or token. -/
def ReqOp.isAccess : ReqOp → Bool
  | .qmark => false | .fence _ _ => false | .token _ => false | _ => true

/-- A read: a load, or an atomic, which is both (05 R120, R129). -/
def ReqOp.isRead : ReqOp → Bool
  | .ldq _ _ => true | .atomic _ _ => true | .own .load => true | .own (.atomic _ _) => true | _ => false

/-- A write: every access of the store queue, and what writes in the local queue. -/
def ReqOp.isWrite (o : ReqOp) : Bool := o.isAccess && !o.isLoad && o != .own .load

/-- The permission that its translation needs (03 R79). -/
def ReqOp.needs : ReqOp → Perm
  | .ldq _ _ => permR | .pref => permR | .atomic _ _ => permRW | _ => permW

/-- The scope of a release that the access itself is (05 R128, R131). -/
def ReqOp.release : ReqOp → Option Scope
  | .strel sc => some sc
  | .atomic _ sc => sc
  | .own (.atomic _ sc) => sc
  | .hostsig => some .dom
  | _ => none

/-- Whether two entries come from one core context. -/
def Req.sameCtx (a b : Req) : Bool := a.by_ == b.by_

/-- Whether two accesses touch a common sector (05 R122, rule 3). -/
def sameSector (pa pb : Nat) : Bool := lineBase pa == lineBase pb && sectorOf pa == sectorOf pb

/-- One target serves both addresses: a home slice, a tile or the H-die (02 R37, R65). -/
def State.sameTarget (s : State) (pa pb : Nat) : Bool :=
  s.placeOf pa == s.placeOf pb &&
    (lineBase pa == lineBase pb || match s.placeOf pa with
      | .die _ _ => Config.homeSlice (lineBase pa) == Config.homeSlice (lineBase pb)
      | _ => true)

/-- The access lies in the instance of `sc` that contains the tile of its context. -/
def State.inInstance (s : State) (sc : Scope) (r : Req) : Bool :=
  inScope sc (keyPkg r.by_.key) (keyTile r.by_.key) (s.placeOf r.pa)

/-- It has not performed. -/
def Req.pending (r : Req) : Bool := r.st != .unanswered

/-- Whether the older entry `a` keeps the younger `r` of its context from being sent, or, where `r` is no access, from
being over (05 R122, R125, R128 to R130; 10 R262, R264). -/
def State.bars (s : State) (a r : Req) : Bool :=
  a.sameCtx r && a.pending &&
  match a.op with
  | .qmark => r.op.isAccess
  | .token _ => !r.op.isAccess && (match r.op with | .token _ => true | _ => false)
  | .fence k sc => r.op.isAccess && (if k = .rel then r.op.isWrite else s.inInstance sc r)
  | _ =>
    match r.op with
    | .qmark => a.st != .accepted
    | .token _ => true
    | .fence .acq _ => a.op.isRead
    | .fence _ sc => s.inInstance sc a
    | _ =>
      (match r.op.release with
        | some sc => inScope sc (keyPkg r.by_.key) (keyTile r.by_.key) (s.placeOf a.pa)
        | none => false) ||
      (if a.op.isOwn || r.op.isOwn then a.op.isOwn && r.op.isOwn
       else if a.op.isLoad == r.op.isLoad then lineBase a.pa == lineBase r.pa && (a.st == .waiting || a.st == .again)
       else sameSector a.pa r.pa)

/-- Sequence number `a` comes before `b`, modulo 2^16. -/
def seqBefore (a b : BitVec 16) : Bool := a != b && decide ((b - a).toNat < 2 ^ 15)

/-- `a`, sent earlier by one requester to one target, has not been performed there, so it holds `r` (02 R65). -/
def State.holds (s : State) (a r : Req) : Bool :=
  a.sameCtx r && a.op.isAccess && a.op.isLoad == r.op.isLoad && s.sameTarget a.pa r.pa && seqBefore a.seq r.seq &&
    (a.st == .sent || a.st == .accepted || a.st == .lost || a.st == .timedOut)

/-! ### Packets in flight (13 R349) -/

/-- The route from `p` to `q` or that back crosses the link through port `o` of package `n`. -/
def State.crosses (s : State) (n o p q : Nat) : Bool :=
  let l := s.route Config.maxPackages p q ++ s.route Config.maxPackages q p
  l.contains (n, o) || l.contains (s.portNeighbour n o, o ^^^ 1)

/-- The packets in flight on the link through port `o` of package `n` are lost as its packet plane goes down (13 R349). -/
def State.losePackets (s : State) (n o : Nat) : State :=
  { s with reqs := s.reqs.map (fun r =>
      if r.st = .sent ∧ s.crosses n o (keyPkg r.by_.key) (paPkg r.pa) then { r with st := .lost } else r) }

/-! ### The way of a request (02 R65 to R69) -/

/-- The die a place lies on, 4 for the H-die. -/
def Place.node : Place → Nat
  | .tile _ t => dieOf t
  | .die _ d => d
  | .hdie _ => 4

/-- The die-to-die links that a request from die `d` of package `p` crosses to a place: package, and link number
8 × from + to (13 R342). -/
def wayTo (p d : Nat) (pl : Place) : List (Nat × Nat) :=
  if pl.pkg = p then (if pl.node = d then [] else [(p, 8 * d + pl.node)])
  else (p, 8 * d + 4) :: (if pl.node = 4 then [] else [(pl.pkg, 32 + pl.node)])

/-- The links that its answer crosses. -/
def wayBack (p d : Nat) (pl : Place) : List (Nat × Nat) := (wayTo p d pl).map (fun x => (x.1, x.2 % 8 * 8 + x.2 / 8))

/-- The flits that cross the link now are discarded: a CRC error resets it (02 R69). -/
def State.linkBad (s : State) (x : Nat × Nat) : Bool := mget (s.pkgAt x.1).linkErr x.2 == some s.wall

/-- What becomes of a request that travels now: it is answered, it never arrives, or its answer is discarded. -/
inductive Passage where
  | through | lost | unanswered
  deriving DecidableEq, Repr

/-- The passage of a request of tile `t` of package `p` to a place (02 R66, R69; 13 R349; 20 R442). -/
def State.passage (s : State) (p t : Nat) (pl : Place) : Passage :=
  if !s.reaches p pl.pkg || (wayTo p (dieOf t) pl).any s.linkBad then .lost
  else if (wayBack p (dieOf t) pl).any s.linkBad then .unanswered
  else .through

/-- A dictionary of a die-to-die link after one 48-byte sector of line data (R69): a zero sector needs none, one that it
holds is sent as an index, any other goes raw into the place of the least recently used. -/
def dictSend (l : List (List Byte)) (b : List Byte) : List (List Byte) :=
  if b.all (fun x => x == 0) then l
  else if l.contains b then l.erase b ++ [b]
  else (if 64 ≤ l.length then l.drop 1 else l) ++ [b]

/-- The whole 48-byte sectors of a line from offset `o` on that `b` holds. -/
def wholeSectors : Nat → Nat → List Byte → List (List Byte)
  | 0, _, _ => []
  | n + 1, o, b =>
    let skip := (48 - o % 48) % 48
    let b := b.drop skip
    if b.length < 48 then [] else b.take 48 :: wholeSectors n 0 (b.drop 48)

/-- Line data that crosses links (R69). -/
def State.carry (s : State) (way : List (Nat × Nat)) (pa : Nat) (b : List Byte) : State :=
  if way.isEmpty || b.length < 48 then s
  else
    let l := wholeSectors 4 (pa - lineBase pa) b
    way.foldl (fun s x => s.modPkg x.1 (fun k =>
      { k with dicts := mput k.dicts x.2 (l.foldl dictSend ((mget k.dicts x.2).getD [])) })) s

/-- The passage of an entry sent. -/
def State.wayOf (s : State) (r : Req) : Passage := s.passage (keyPkg r.by_.key) (keyTile r.by_.key) (s.placeOf r.pa)

/-- No access that its home has accepted earlier on its line is still to perform (05 R125; 02 R39). -/
def State.inTurn (s : State) (r : Req) : Bool :=
  s.reqs.all (fun a => a.id == r.id || a.st != .accepted || lineBase a.pa != lineBase r.pa
    || (r.st == .accepted && decide (r.acc < a.acc)))

/-- An access may perform: it was sent, it arrives, and no earlier one holds it back. -/
def State.mayPerform (s : State) (r : Req) : Bool :=
  r.op.isAccess && (r.st == .accepted || (r.st == .sent && s.wayOf r != .lost)) && s.inTurn r
    && s.reqs.all (fun a => !s.holds a r)

/-- A home, or the bank of another tile, may accept an access before it performs it (05 R125; log 4). -/
def State.mayAccept (s : State) (r : Req) : Bool :=
  r.op.isAccess && r.st == .sent && s.wayOf r != .lost && !(s.region r.pa).isMmio &&
    s.reqs.all (fun a => !(s.holds a r && a.st != .accepted))

/-- Size code of a failed access (15 R388). -/
def sizeCode (n : Nat) : BitVec 2 :=
  match n with
  | 1 => 0 | 2 => 1 | 4 => 2 | _ => 3

/-- The failed access that a deferred fault's record describes (15 R385, R388). -/
def Req.failed (r : Req) : FailedAccess :=
  { addr := r.va, data := r.data, size := sizeCode r.size
    kind := match r.op with
      | .strel _ => 1 | .atomic _ _ => 2 | .own (.atomic _ _) => 2 | .hostsig => 3 | .ldq _ _ => 4 | _ => 0
    aop := match r.op with
      | .atomic op _ => op | .own (.atomic op _) => op | _ => 0
    ascope := match r.op with
      | .strel sc => BitVec.ofNat 3 (scopeNum sc)
      | .atomic _ (some sc) => BitVec.ofNat 3 (scopeNum sc)
      | .own (.atomic _ (some sc)) => BitVec.ofNat 3 (scopeNum sc)
      | _ => 0 }

/-- The deferred fault of a failed request. -/
def Req.faultInfo (r : Req) (c : Cause) : FaultInfo :=
  { cause := c, eva := r.va, kind := if r.by_.xcore then .X else .A, point := r.point, failed := some r.failed }

/-- The job that issued a request, if it still runs. -/
def State.issuerJob (s : State) (b : Issuer) : Option Job :=
  match s.jobAt b.key with
  | some j => if j.jid = b.jid then some j else none
  | none => none

/-- Update of the job that issued something, if it still runs. -/
def State.modIssuer (s : State) (b : Issuer) (f : Job → Job) : State :=
  match s.issuerJob b with
  | some j => s.setJob b.key (f j)
  | none => s

/-- The request list without request `id`. -/
def State.dropReq (s : State) (id : Nat) : State := { s with reqs := s.reqs.filter (fun r => r.id != id) }

/-- The request list with request `id` replaced. -/
def State.modReq (s : State) (id : Nat) (f : Req → Req) : State :=
  { s with reqs := s.reqs.map (fun r => if r.id = id then f r else r) }

/-- A response that fails request `r` with cause `c` (15 R385): a load waits to be issued again, a
write with Request-Timeout stays and never performs, any other write counts as performed. A job that is gone has no use
for it, and a PREF raises nothing (10 R265). -/
def State.failReq (s : State) (r : Req) (c : Cause) : State :=
  if (s.issuerJob r.by_).isNone || r.op == .pref then s.dropReq r.id
  else
    let s := s.modIssuer r.by_ (fun j => { j with deferred := j.deferred ++ [r.faultInfo c] })
    if r.op.isLoad then s.modReq r.id (fun q => { q with st := .failed })
    else if c = .requestTimeout then s.modReq r.id (fun q => { q with st := .timedOut })
    else s.dropReq r.id

/-- Number of a requester: a queue of a stream of a slot (02 R65). -/
def requester (key : Nat) (k : Kind) (load : Bool) : Nat := (key * 8 + k.code) * 2 + if load then 0 else 1

/-- The load or the store queue of a core context as a requester. -/
def Issuer.queue (b : Issuer) (load : Bool) : Nat := requester b.key (if b.xcore then .X else .A) load

/-- The kept results after one more of a requester and target: at most 64 of them (02 R67). -/
def keepResult (l : List Kept) (k : Kept) : List Kept :=
  let mine := fun (x : Kept) => x.by_ == k.by_ && x.target == k.target
  if 64 ≤ (l.filter mine).length then
    match l.find? mine with
    | some old => l.erase old ++ [k]
    | none => l ++ [k]
  else l ++ [k]

/-- The result that a target has kept of a requester's number. -/
def State.keptOf (s : State) (by_ target : Nat) (seq : BitVec 16) : Option Kept :=
  s.kept.find? (fun k => k.by_ == by_ && k.target == target && k.seq == seq)

/-- Entry of dq0 to dq3 filled with the loaded value (10 R258). -/
def fillDq (id : Nat) (v : Word) (q : List DqEntry) : List DqEntry :=
  q.map (fun e => if e = .waiting id then .val v else e)

/-- Entries of the scale queue filled with the loaded bytes, lowest address first (10 R258). -/
def fillSq (id : Nat) (l : List Byte) (q : List SqEntry) : List SqEntry :=
  q.flatMap (fun e => match e with
    | .waiting i _ => if i = id then l.map .byte else [e]
    | .byte _ => [e])

/-- The effect of a request at its place. -/
def State.applyReq (s : State) (r : Req) : State :=
  match r.op with
  | .ldq q signed =>
    let s := s.touchHome r.pa r.size .load
    let v := extend r.size signed (readLe s.mem r.pa r.size)
    s.modIssuer r.by_ (fun j =>
      if q = 8 then { j with sq := fillSq r.id (readBytes s.mem r.pa r.size) j.sq }
      else { j with dq := vset j.dq q (fillDq r.id v (vget j.dq q)) })
  | .pref => s.touchHome (lineBase r.pa) 192 .pref
  | .own op => { s with mem := op.act s.mem (keyPkg r.by_.key) (keyTile r.by_.key) r.va.toNat r.size r.data }
  | .atomic op _ =>
    let s := s.touchHome r.pa r.size .store
    { s with mem := atomMem s.mem r.pa r.size op (r.data.toNat % 2 ^ (8 * r.size)) 0 }
  | .hostsig =>
    let s := s.touchHome r.pa r.size .store
    let s := { s with mem := writeLe s.mem r.pa r.size r.data.toNat }
    s.modTen (keyPkg r.by_.key) r.tenant.toNat (fun a => { a with signals := a.signals ++ [(r.va, r.data, s.wall)] })
  | _ =>
    let s := s.touchHome r.pa r.size (if r.noalloc then .noalloc else .store)
    { s with mem := writeLe s.mem r.pa r.size r.data.toNat }

/-- A number for a target: its place, and the slice of a home (02 R65). Only equal numbers matter. -/
def State.targetNum (s : State) (pa : Nat) : Nat :=
  match s.placeOf pa with
  | .die p d => (Place.die p d).target + (if Config.homeSlice (lineBase pa) then 1 else 0)
  | pl => pl.target

/-- Key of a requester's numbers at a target (02 R65). -/
def seqKey (by_ target : Nat) : Nat := by_ * 2 ^ 20 + target

/-- The next sequence number of a requester at a target, taken (02 R65). -/
def State.takeSeq (s : State) (by_ target : Nat) : BitVec 16 × State :=
  let k := seqKey by_ target
  let n := (mget s.seqs k).getD 0
  (n, { s with seqs := mput s.seqs k (n + 1) })

/-! ### Sending what waits -/

/-- As many non-idempotent requests as may be outstanding to the target of `r` are (02 R67). -/
def State.full (s : State) (b : Issuer) (load : Bool) (pa : Nat) : Bool :=
  !load && decide (64 ≤ (s.reqs.filter (fun a => a.by_ == b && a.op.isWrite && s.sameTarget a.pa pa
    && a.st != .waiting)).length)

/-- A request leaves its tile: counted, numbered and on its way (01 R36; 02 R65). -/
def State.depart (s : State) (r : Req) : State :=
  let s := s.countReq (keyPkg r.by_.key) (keyTile r.by_.key) (s.placeOf r.pa)
  let (seq, s) := s.takeSeq (r.by_.queue r.op.isLoad) (s.targetNum r.pa)
  s.modReq r.id (fun q => { q with seq := seq, sentAt := s.wall, reissues := 0, st := .sent })

/-- No bank of tile `t` of package `p` keeps an access that it has accepted: a local access follows it there (05 R125). -/
def State.bankFree (s : State) (p t : Nat) : Bool := s.reqs.all (fun a => a.st != .accepted || s.placeOf a.pa != .tile p t)

/-- An access of the local queue performs at its tile; an uncorrectable error of the scratchpad is a deferred fault (15 R385). -/
def State.performOwn (s : State) (op : LocalOp) (r : Req) : State :=
  let p := keyPkg r.by_.key
  let t := keyTile r.by_.key
  if !s.bankFree p t then s
  else if op.flawed s p t r.va.toNat r.size then s.failReq r .dataError
  else (s.applyReq r).dropReq r.id

/-- The translation of a load that is issued again, a miss of the core TLB counted once (09 R248). -/
def State.transAgain (s : State) (r : Req) : State × TrRes :=
  let p := keyPkg r.by_.key
  let t := keyTile r.by_.key
  let s := if r.missed || (s.tlbOf p t .core).any (fun e => e.hits r.tenant.toNat r.va.toNat) then s
    else (s.countTile (tileKey p t) (fun k => { k with tlbmiss := k.tlbmiss + 1 })).modReq r.id (fun q => { q with missed := true })
  s.translate p t .core r.tenant.toNat r.va.toNat r.op.needs

/-- An entry that no `older` one keeps is over, or leaves: a load to be issued again is translated anew (03 R88; 15 R393). -/
def State.letGo (s : State) (older : List Req) (r : Req) : State :=
  if older.any (fun a => s.bars a r) then s
  else match r.op with
    | .qmark => s.dropReq r.id
    | .fence _ _ => s.dropReq r.id
    | .own op => s.performOwn op r
    | .token q => (s.dropReq r.id).modIssuer r.by_ (fun j => { j with tq := vset j.tq q { vget j.tq q with count := (vget j.tq q).count + 1 } })
    | _ =>
      if s.full r.by_ r.op.isLoad r.pa then s
      else if r.st == .waiting then s.depart r
      else match s.transAgain r with
        | (s, .fault c) => s.failReq r c
        | (s, .wait) => s
        | (s, .ok _ pa) => (s.modReq r.id (fun q => { q with pa := pa, missed := false })).depart { r with pa := pa }

/-- The entry of number `id`, if it waits, goes when it may. -/
def State.advance1 (s : State) (id : Nat) : State :=
  match s.reqs.find? (fun r => r.id == id) with
  | none => s
  | some r => if r.st == .waiting || r.st == .again then s.letGo (s.reqs.takeWhile (fun a => a.id != id)) r else s

/-- Every entry of a core context in order. -/
def State.advance (s : State) (b : Issuer) : State :=
  ((s.reqs.filter (fun r => r.by_ == b)).map Req.id).foldl State.advance1 s

/-- Every core context whose local queue waits (05 R119). -/
def State.advanceOwn (s : State) : State :=
  (((s.reqs.filter (fun r => r.op.isOwn)).map Req.by_).eraseDups).foldl State.advance s

/-- The answer to an access: the load queue has its value, a store queue's access is over; with the answer discarded on its
way a load performs again and any other access waits to be answered from the kept result (02 R67). -/
def State.finishReq (s : State) (r : Req) (back : Bool) : State :=
  if r.op.isLoad then (if back then s.dropReq r.id else s.modReq r.id (fun q => { q with st := .lost }))
  else
    let s := { s with kept := keepResult s.kept ⟨r.by_.queue false, s.targetNum r.pa, r.seq, 0, []⟩ }
    if back then s.dropReq r.id else s.modReq r.id (fun q => { q with st := .unanswered })

/-- One access performs, unless it is held back; a tile marked absent answers with an error (01 R24), and so does storage
with an uncorrectable error (15 R385). -/
def State.performReq (s : State) (r : Req) : State :=
  if !s.mayPerform r then s
  else
    let back := s.wayOf r != .unanswered
    let s :=
      if s.absent r.pa then s.failReq r .protection
      else if s.flawed r.pa r.size then s.failReq r .dataError
      else if r.op.isLoad && !back then s.finishReq r back
      else (s.applyReq r).finishReq r back
    (s.advance r.by_).advanceOwn

/-- A home takes an access into the order of its line (05 R125). -/
def State.acceptReq (s : State) (r : Req) : State :=
  if !s.mayAccept r then s
  else
    let (n, s) := s.take
    (s.modReq r.id (fun q => { q with st := .accepted, acc := n })).advance r.by_

/-- Requests of a core context. -/
def ofCtx (b : Issuer) (r : Req) : Bool := r.by_ == b

/-- An entry put at the end of a context's queues, and what may go now goes. Answers its number. -/
def State.queueUp (s : State) (b : Issuer) (u : Tenant) (op : ReqOp) (va : Word) (pa point n : Nat)
    (data : Word) (noalloc : Bool) : Nat × State :=
  let (id, s) := s.take
  let r : Req := { id := id, by_ := b, tenant := u, op := op, va := va, pa := pa, point := point, size := n
                   data := data, noalloc := noalloc, seq := 0, sentAt := 0, reissues := 0, st := .waiting, acc := 0, missed := false }
  (id, { s with reqs := s.reqs ++ [r] }.letGo s.reqs r)

/-- The entries that can go no further: accesses that have failed, and what they hold back (15 R385; 05 R148). -/
def State.stuckIds (s : State) : List Nat :=
  (s.reqs.foldl (fun (acc : List Req) r =>
    if r.st == .timedOut || r.st == .failed
        || acc.any (fun a => if r.st == .waiting || r.st == .again then s.bars a r else r.st != .accepted && s.holds a r) then acc ++ [r] else acc) []).map Req.id

/-- The translations of tenant `u` in package `p` being gone, what has not left its core is translated anew (03 R78, R88). -/
def State.retranslate (s : State) (p u : Nat) : State :=
  { s with reqs := s.reqs.map (fun (r : Req) =>
      if r.st = .waiting ∧ r.op.isAccess ∧ !r.op.isOwn ∧ r.tenant.toNat = u ∧ keyPkg r.by_.key = p then { r with st := .again } else r) }

/-- Whether an entry belongs to job `jid` of slot `key`. -/
def Req.ofJob (r : Req) (key jid : Nat) : Bool := r.by_.key == key && r.by_.jid == jid

/-- Every access that the job has issued has performed or failed, save those held back for good (15 R389). -/
def State.settledJob (s : State) (key jid : Nat) : Bool :=
  let mine := s.reqs.filter (fun r => r.ofJob key jid)
  (mine.isEmpty || (let stuck := s.stuckIds; mine.all (fun r => stuck.contains r.id)))
    && s.circuits.all (fun c => !(c.flow.isSome && c.srcJid == jid && !c.words.isEmpty))

/-- Failed loads of a job are issued again under new sequence numbers (15 R393, step 2). -/
def State.reissueFailed (s : State) (key jid : Nat) : State :=
  let s := { s with reqs := s.reqs.map (fun (r : Req) => if r.st == ReqStatus.failed && r.ofJob key jid then { r with st := .again } else r) }
  (s.advance ⟨key, jid, false⟩).advance ⟨key, jid, true⟩

/-- The issuer that acts. -/
def State.issuer (s : State) : Issuer :=
  ⟨s.key, ((s.jobAt s.key).map Job.jid).getD 0, s.focus.kind == .X⟩

/-- The entry that an access of the core that acts to `pa` would be. -/
def State.newReq (s : State) (op : ReqOp) (pa : Nat) : Req :=
  { id := s.fresh, by_ := s.issuer, tenant := 0, op := op, va := 0, pa := pa, point := 0, size := 0, data := 0, noalloc := false
    seq := 0, sentAt := 0, reissues := 0, st := .waiting, acc := 0, missed := false }

/-- The older writes of the core that acts, those of its own tile apart, have performed at their homes (03 R78, condition 1). -/
def State.storesDone (s : State) : Bool :=
  s.reqs.all (fun a => !(a.by_ == s.issuer && a.pending && a.op.isWrite && !a.op.isOwn))

/-- A request of the core that acts that is not idempotent waits for its target `n`: an earlier number of its store queue has not
been performed there (02 R65), or 64 are outstanding (R67). -/
def State.targetBusy (s : State) (n : Nat) : Bool :=
  let mine := s.reqs.filter (fun a => a.by_ == s.issuer && a.op.isWrite && !a.op.isOwn && a.st != .waiting && a.st != .again
    && s.targetNum a.pa == n)
  mine.any Req.pending || decide (64 ≤ mine.length)

/-- Nothing older keeps an access of the core that acts, which performs as it is issued, from its place (05 R122 to R130;
02 R65, R67): no bar, none of its queue under way to its target, none accepted on its line. -/
def State.clear (s : State) (op : ReqOp) (pa : Nat) : Bool :=
  let r := s.newReq op pa
  s.reqs.all (fun a => !s.bars a r && !(a.sameCtx r && a.pending && a.op.isAccess && a.op.isLoad == op.isLoad
    && a.st != .waiting && a.st != .failed && a.st != .again && s.sameTarget a.pa pa)) && !s.lineTaken pa && !s.full s.issuer op.isLoad pa

/-- A release at the instance of `sc` by the core that acts waits for nothing: every older access in it has performed
(05 R128). -/
def State.released (s : State) (sc : Scope) : Bool :=
  s.reqs.all (fun a => !(ofCtx s.issuer a && a.pending && a.op.isAccess && s.inInstance sc a))

/-- The local queue of the core that acts may go on with a read, or a write: nothing older keeps an access of its own tile (05
R119, R122, R125, R128 to R130). -/
def State.localFree (s : State) (write : Bool) : Bool :=
  let r := s.newReq (.own (if write then .store else .load)) (apAddr s.fpkg s.ftile 0)
  s.reqs.all (fun a => !s.bars a r) && s.bankFree s.fpkg s.ftile

end Sys2Proof.Machine
end

