-- ==== Sys2Proof/Machine/RingUnit.lean ====
section
/-!
DEFINITION. The ring counter unit as a pure machine over one ring entry (02 R53 to R61): what an arriving
operation does, and which waiters an update completes.
-/

namespace Sys2Proof.Machine

/-- Ring status codes (02 R55). -/
inductive RingStatus where
  | ok | orphaned | void | openRange | reset | tooLarge | notJoined | malformed | busy
  deriving DecidableEq, Repr

def RingStatus.code : RingStatus → Nat
  | .ok => 0 | .orphaned => 1 | .void => 2 | .openRange => 3 | .reset => 4 | .tooLarge => 5
  | .notJoined => 6 | .malformed => 7 | .busy => 8

/-- Slots of a ring. -/
def Ring.slots (r : Ring) : Nat := 2 ^ r.lgcount

/-- The result dword (R55): `n` slots from count `k`; fields read zero when nothing is granted. -/
def ringResult (r : Ring) (st : RingStatus) (n : Nat) (k : W32) : Word :=
  if n = 0 then BitVec.ofNat 64 (st.code * 2 ^ 60)
  else
    let i := k.toNat % r.slots
    BitVec.ofNat 64 (st.code * 2 ^ 60 + n % 2 ^ 16 * 2 ^ 44 + i * 2 ^ 23 + (r.base + i * 16 * r.slotsz) % 2 ^ 23)

/-- Code of a ring state (R53). -/
def RingState.code : RingState → Nat
  | .idle => 0 | .active => 1 | .frozen => 2

/-- The four entry dwords (R53). -/
def Ring.entry (r : Ring) : List Word :=
  [ BitVec.ofNat 64 (r.st.code * 2 ^ 62 + r.lgcount % 16 * 2 ^ 52 + r.slotsz % 4096 * 2 ^ 40
      + r.prods.length % 256 * 2 ^ 32 + r.cons.length % 256 * 2 ^ 24 + r.base % 2 ^ 23),
    r.taken ++ r.head, r.claimed ++ r.tail, BitVec.ofNat 64 (r.voids % 256 * 256 + r.ecc.toNat) ]

/-- Distance from `a` up to `b`, modulo 2^32. -/
def dist (a b : W32) : Nat := (b - a).toNat

/-- The invariant of R54 on four counters. -/
def ringInv (slots : Nat) (head taken tail claimed : W32) : Bool :=
  decide (dist head taken ≤ dist head tail) && decide (dist head tail ≤ dist head claimed)
    && decide (dist head claimed ≤ slots)

/-- A completion: who waited, and the result dword. -/
abbrev Done := Issuer × Word

/-- What an update leaves: the ring, the waiters it completes, and whether it froze the ring. -/
structure RingOut where
  ring : Ring
  done : List Done
  froze : Bool

/-- A counter update, checked before it is written (R54): a breach freezes the ring. -/
def Ring.update (r : Ring) (head taken tail claimed : W32) (after : Ring → Ring) (done : List Done) : RingOut :=
  if ringInv r.slots head taken tail claimed then
    ⟨after { r with head := head, taken := taken, tail := tail, claimed := claimed }, done, false⟩
  else ⟨{ r with st := .frozen }, [], true⟩

/-- The open range of a job. -/
def rangeOf (l : List RingRange) (jid : Nat) : Option RingRange := l.find? (fun x => x.jid == jid)
def dropRange (l : List RingRange) (jid : Nat) : List RingRange := l.filter (fun x => x.jid != jid)

def Ring.dropWaiter (r : Ring) (w : Waiter) : Ring := { r with waiters := r.waiters.erase w }

/-- A number of slots as a count. -/
def cnt (n : Nat) : W32 := BitVec.ofNat 32 n

/-- tail advances over `n` slots; on a barrier ring head and taken go with it (R57). -/
def Ring.advance (r : Ring) (n : Nat) (after : Ring → Ring) (done : List Done) : RingOut :=
  let k := if r.slotsz = 0 then cnt n else 0
  r.update (r.head + k) (r.taken + k) (r.tail + cnt n) r.claimed after done

/-- A void range that the unit has filled: tail stands past its start (R60). -/
def Ring.filled (r : Ring) (v : RingRange) : Bool :=
  decide (0 < dist v.start r.tail) && decide (dist v.start r.tail < 2 ^ 31)

/-- The first result that a list of attempts gives. -/
def firstOf {α : Type} : List (Option α) → Option α
  | [] => none
  | some x :: _ => some x
  | none :: l => firstOf l

/-- A fill waiter completes (R57, R58, R269). -/
def Ring.tryFill (r : Ring) (w : Waiter) : Option RingOut :=
  match rangeOf r.claims w.by_.jid with
  | none => some ⟨r.dropWaiter w, [(w.by_, ringResult r .ok 0 0)], false⟩
  | some c =>
    if c.start = r.tail then
      some (r.advance c.len (fun r => { r.dropWaiter w with claims := dropRange r.claims w.by_.jid })
        [(w.by_, ringResult r .ok c.len c.start)])
    else none

/-- The unit fills a void range whose start tail has reached (R60). -/
def Ring.tryVoid (r : Ring) (v : RingRange) : Option RingOut :=
  if v.start = r.tail ∧ v.len ≠ 0 then
    some (r.advance v.len (fun r =>
      if r.slotsz = 0 then { r with voidRanges := r.voidRanges.erase v, voids := r.voids - 1 } else r) [])
  else none

/-- A free waiter completes (R57). -/
def Ring.tryFree (r : Ring) (w : Waiter) : Option RingOut :=
  match rangeOf r.takes w.by_.jid with
  | none => some ⟨r.dropWaiter w, [(w.by_, ringResult r .ok 0 0)], false⟩
  | some c =>
    if c.start = r.head then
      some (r.update (r.head + cnt c.len) r.taken r.tail r.claimed
        (fun r => { r.dropWaiter w with takes := dropRange r.takes w.by_.jid })
        [(w.by_, ringResult r .ok c.len c.start)])
    else none

/-- The unit frees a departed consumer's take (R60). -/
def Ring.tryDeparted (r : Ring) (f : RingRange) : Option RingOut :=
  if f.start = r.head then
    some (r.update (r.head + cnt f.len) r.taken r.tail r.claimed
      (fun r => { r with freeRanges := r.freeRanges.erase f }) [])
  else none

/-- The oldest claim waiter is granted, or is orphaned (R57, R59); with an open claim of its job it is granted nothing (R55,
R56). -/
def Ring.tryClaim (r : Ring) (w : Waiter) (n : Nat) : Option RingOut :=
  if (rangeOf r.claims w.by_.jid).isSome then some ⟨r.dropWaiter w, [(w.by_, ringResult r .openRange 0 0)], false⟩
  else if dist r.head r.claimed + n ≤ r.slots then
    some (r.update r.head r.taken r.tail (r.claimed + cnt n)
      (fun q => { q.dropWaiter w with claims := q.claims ++ [⟨w.by_.jid, r.claimed, n⟩] })
      [(w.by_, ringResult r .ok n r.claimed)])
  else if r.slotsz ≠ 0 ∧ r.cons = [] ∧ r.taken = r.head then
    some ⟨r.dropWaiter w, [(w.by_, ringResult r .orphaned 0 0)], false⟩
  else none

/-- The void range that begins nearest within the next `n` tokens. -/
def Ring.nextVoid (r : Ring) (n : Nat) : Option RingRange :=
  (r.voidRanges.filter (fun v => decide (dist r.taken v.start < n))).foldl
    (fun best v => match best with
      | none => some v
      | some b => if dist r.taken v.start < dist r.taken b.start then some v else some b) none

/-- What RGTAKE `n` is granted now: status, slots and the void range they come from (R60). -/
def Ring.available (r : Ring) (n : Nat) : Option (RingStatus × Nat × Option RingRange) :=
  let have_ := dist r.taken r.tail
  match r.nextVoid n with
  | some v =>
    if v.start = r.taken then (if r.filled v then some (.void, min n v.len, some v) else none)
    else if dist r.taken v.start ≤ have_ then some (.ok, dist r.taken v.start, none) else none
  | none => if n ≤ have_ then some (.ok, n, none) else none

/-- Nothing more will ever be filled (R59). -/
def Ring.dry (r : Ring) : Bool := r.prods == [] && r.claimed == r.tail

/-- The void ranges after `n` tokens of `v` are taken. -/
def Ring.takeVoid (r : Ring) (v : RingRange) (n : Nat) : Ring :=
  if n < v.len then
    { r with voidRanges := r.voidRanges.map (fun x =>
        if x = v then { x with start := x.start + cnt n, len := x.len - n } else x) }
  else { r with voidRanges := r.voidRanges.erase v, voids := r.voids - 1 }

/-- The oldest take waiter is granted, or is orphaned (R57, R59, R60); with an open take of its job it is granted nothing. -/
def Ring.tryTake (r : Ring) (w : Waiter) (n : Nat) : Option RingOut :=
  if (rangeOf r.takes w.by_.jid).isSome then some ⟨r.dropWaiter w, [(w.by_, ringResult r .openRange 0 0)], false⟩
  else match r.available n with
  | some (st, k, v) =>
    some (r.update r.head (r.taken + cnt k) r.tail r.claimed
      (fun q =>
        let q := { q.dropWaiter w with takes := q.takes ++ [⟨w.by_.jid, r.taken, k⟩] }
        match v with
        | some v => q.takeVoid v k
        | none => q)
      [(w.by_, ringResult r st k r.taken)])
  | none =>
    if r.dry then some ⟨r.dropWaiter w, [(w.by_, ringResult r .orphaned 0 0)], false⟩ else none

/-- tail has reached an observed count (10 R269). -/
def Ring.reached (r : Ring) (target : W32) : Bool := decide (dist target r.tail < 2 ^ 31)

/-- An observe waiter completes, or is orphaned. -/
def Ring.tryObs (r : Ring) (w : Waiter) (target : W32) : Option RingOut :=
  if r.reached target then some ⟨r.dropWaiter w, [(w.by_, ringResult r .ok 0 0)], false⟩
  else if r.dry then some ⟨r.dropWaiter w, [(w.by_, ringResult r .orphaned 0 0)], false⟩
  else none

def RingWait.isClaim : RingWait → Bool
  | .claim _ => true | _ => false
def RingWait.isTake : RingWait → Bool
  | .take _ => true | _ => false

/-- One update that a waiter or a range of an active ring calls for: each fill, void range, free,
departed take and observe waiter in order; the oldest claim and the oldest take (R58). -/
def Ring.pump1 (r : Ring) : Option RingOut :=
  if r.st ≠ .active then none
  else
    let of := fun (f : Waiter → Option RingOut) => firstOf (r.waiters.map f)
    firstOf
      [ of (fun w => match w.op with | .fill => r.tryFill w | _ => none),
        firstOf (r.voidRanges.map r.tryVoid),
        of (fun w => match w.op with | .free => r.tryFree w | _ => none),
        firstOf (r.freeRanges.map r.tryDeparted),
        (match r.waiters.find? (fun w => w.op.isClaim) with
          | some w => (match w.op with | .claim n => r.tryClaim w n | _ => none)
          | none => none),
        (match r.waiters.find? (fun w => w.op.isTake) with
          | some w => (match w.op with | .take n => r.tryTake w n | _ => none)
          | none => none),
        of (fun w => match w.op with | .obs k => r.tryObs w k | _ => none) ]

/-- Updates until none is left to make, at most `n`. -/
def pumpFor : Nat → RingOut → RingOut
  | 0, o => o
  | n + 1, o =>
    match o.ring.pump1 with
    | some p => pumpFor n ⟨p.ring, o.done ++ p.done, o.froze || p.froze⟩
    | none => o

/-- Every update that the ring calls for now. -/
def RingOut.pump (o : RingOut) : RingOut :=
  pumpFor (o.ring.waiters.length + o.ring.voidRanges.length + o.ring.freeRanges.length + 1) o

/-- An operation that completes at once. -/
def Ring.answer (r : Ring) (b : Issuer) (st : RingStatus) : RingOut := ⟨r, [(b, ringResult r st 0 0)], false⟩

/-- An operation that waits. -/
def Ring.queue (r : Ring) (b : Issuer) (op : RingWait) : RingOut :=
  RingOut.pump ⟨{ r with waiters := r.waiters ++ [⟨op, b⟩] }, [], false⟩

/-- RGCLAIM `n` arrives (R53, R55 to R57). -/
def Ring.claim (r : Ring) (b : Issuer) (n : Nat) : RingOut :=
  if r.st = .frozen then r.queue b (.claim n)
  else if r.st = .idle ∨ !r.prods.contains b.jid then r.answer b .notJoined
  else if (rangeOf r.claims b.jid).isSome then r.answer b .openRange
  else if n = 0 then r.answer b .ok
  else if r.slots < n then r.answer b .tooLarge
  else r.queue b (.claim n)

/-- RGFILL arrives. -/
def Ring.fill (r : Ring) (b : Issuer) : RingOut :=
  if r.st = .frozen then r.queue b .fill
  else if r.st = .idle ∨ !r.prods.contains b.jid then r.answer b .notJoined
  else r.queue b .fill

/-- RGTAKE `n` arrives. -/
def Ring.take (r : Ring) (b : Issuer) (n : Nat) : RingOut :=
  if r.st = .frozen then r.queue b (.take n)
  else if r.st = .idle ∨ !r.cons.contains b.jid then r.answer b .notJoined
  else if (rangeOf r.takes b.jid).isSome then r.answer b .openRange
  else if n = 0 then r.answer b .ok
  else if r.slots < n then r.answer b .tooLarge
  else r.queue b (.take n)

/-- RGTAKE.obs arrives. -/
def Ring.observe (r : Ring) (b : Issuer) (k : W32) : RingOut :=
  if r.st = .frozen then r.queue b (.obs k)
  else if r.st = .idle ∨ !r.cons.contains b.jid then r.answer b .notJoined
  else r.queue b (.obs k)

/-- RGFREE arrives. -/
def Ring.free (r : Ring) (b : Issuer) : RingOut :=
  if r.st = .frozen then r.queue b .free
  else if r.st = .idle ∨ !r.cons.contains b.jid then r.answer b .notJoined
  else r.queue b .free

/-- RGINIT arrives with its image (R53); a frozen ring answers busy (log 22). -/
def Ring.init (r : Ring) (b : Issuer) (img : Word) : RingOut :=
  if bits img 61 56 ≠ 0 ∨ bits img 23 23 ≠ 0 ∨ bits img 3 0 ≠ 0 then r.answer b .malformed
  else if r.st ≠ .idle then r.answer b .busy
  else
    { Ring.reset with st := .active, lgcount := bits img 55 52, slotsz := bits img 51 40, base := bits img 22 0 }.answer b .ok

/-- RGJOIN arrives (R55, R56, 10 R269). -/
def Ring.join (r : Ring) (b : Issuer) (prod cons : Bool) : RingOut :=
  if r.st = .frozen then r.queue b (.held true prod cons)
  else
    let p := prod && !r.prods.contains b.jid
    let c := cons && !r.cons.contains b.jid
    if (p && decide (255 ≤ r.prods.length)) || (c && decide (255 ≤ r.cons.length)) then r.answer b .busy
    else
      { r with prods := if p then r.prods ++ [b.jid] else r.prods
               cons := if c then r.cons ++ [b.jid] else r.cons }.answer b .ok

/-- Waiters of job `jid` in a role complete with status not-joined (R56). -/
def Ring.expel (o : RingOut) (jid : Nat) (f : RingWait → Bool) : RingOut :=
  let out := o.ring.waiters.filter (fun w => w.by_.jid == jid && f w.op)
  { ring := { o.ring with waiters := o.ring.waiters.filter (fun w => !(w.by_.jid == jid && f w.op)) }
    done := o.done ++ out.map (fun w => (w.by_, ringResult o.ring .notJoined 0 0)), froze := o.froze }

def RingWait.ofProducer : RingWait → Bool
  | .claim _ => true | .fill => true | _ => false
def RingWait.ofConsumer : RingWait → Bool
  | .take _ => true | .obs _ => true | .free => true | _ => false

/-- The producer role of job `jid` ends; an open claim becomes a void range, and the ninth void range
freezes the ring instead (R60). A ninth that falls away on a ring that is already frozen raises Ring-Integrity once more (DESIGN
CHOICE, log 84). -/
def RingOut.leaveProd (o : RingOut) (jid : Nat) : RingOut :=
  if !o.ring.prods.contains jid then o
  else
    let o := Ring.expel o jid RingWait.ofProducer
    let r := { o.ring with prods := o.ring.prods.erase jid, claims := dropRange o.ring.claims jid }
    match rangeOf o.ring.claims jid with
    | none => { o with ring := r }
    | some c =>
      if 8 ≤ r.voids then { o with ring := { r with st := .frozen }, froze := true }
      else { o with ring := { r with voidRanges := r.voidRanges ++ [c], voids := r.voids + 1 } }

/-- The consumer role of job `jid` ends; an open take is to be freed (R60). -/
def RingOut.leaveCons (o : RingOut) (jid : Nat) : RingOut :=
  if !o.ring.cons.contains jid then o
  else
    let o := Ring.expel o jid RingWait.ofConsumer
    let r := { o.ring with cons := o.ring.cons.erase jid, takes := dropRange o.ring.takes jid }
    match rangeOf o.ring.takes jid with
    | none => { o with ring := r }
    | some c => { o with ring := { r with freeRanges := r.freeRanges ++ [c] } }

/-- The end of roles of job `jid`, also at its exit, kill or retirement, which a frozen ring does not
hold up (R56, R60, R61). -/
def Ring.leaveRoles (r : Ring) (jid : Nat) (prod cons : Bool) : RingOut :=
  let o : RingOut := ⟨r, [], false⟩
  let o := if prod then o.leaveProd jid else o
  let o := if cons then o.leaveCons jid else o
  o.pump

/-- RGLEAVE arrives (R56, 10 R269). -/
def Ring.leave (r : Ring) (b : Issuer) (prod cons : Bool) : RingOut :=
  if r.st = .frozen then r.queue b (.held false prod cons)
  else
    let o := r.leaveRoles b.jid prod cons
    { o with done := o.done ++ [(b, ringResult r .ok 0 0)] }

/-- RGRESET arrives with dwords 1 to 3 of its image (R61, 10 R269). A failing image leaves the ring as it is: frozen as R61 has it,
and an active one active (DESIGN CHOICE, log 71). -/
def Ring.resetOp (r : Ring) (b : Issuer) (d1 d2 d3 : Word) : RingOut :=
  if r.st = .idle then { r with prods := [], cons := [] }.answer b .ok
  else
    let head := BitVec.ofNat 32 (bits d1 31 0)
    let taken := BitVec.ofNat 32 (bits d1 63 32)
    let tail := BitVec.ofNat 32 (bits d2 31 0)
    let claimed := BitVec.ofNat 32 (bits d2 63 32)
    if !ringInv r.slots head taken tail claimed then r.answer b .malformed
    else
      let done := r.waiters.map (fun w => (w.by_, ringResult r .reset 0 0))
      RingOut.pump
        ⟨{ r with st := .active, head := head, taken := taken, tail := tail, claimed := claimed
                  voids := bits d3 15 8, waiters := [] },
         done ++ [(b, ringResult r .ok 0 0)], false⟩

/-- The waiters that `f` selects are withdrawn (10 R253). -/
def Ring.withdraw (r : Ring) (f : Waiter → Bool) : RingOut :=
  RingOut.pump ⟨{ r with waiters := r.waiters.filter (fun w => !f w) }, [], false⟩

/-- Every waiter completes with status reset and the ring is cleared (01 R13). -/
def Ring.clear (r : Ring) : RingOut :=
  ⟨Ring.reset, r.waiters.map (fun w => (w.by_, ringResult r .reset 0 0)), false⟩

end Sys2Proof.Machine
end

