-- ==== Sys2Proof/Machine/Ops.lean ====
section
/-!
DEFINITION. What every instruction shares: the checks of 08 R202, retirement, waiting (10 R253),
taking an exception (15 R384 to R391; 09 R244), returning from one (09 R245; 15 R393), and records with
an empty cut (15 R386).
-/

namespace Sys2Proof.Machine

/-! ### Local memories of a tile -/

/-- Instruction word at IMEM address `pc` (01 R32). -/
def State.imem (s : State) (p t pc : Nat) : W32 := read32 s.mem (blockAddr p t (0x40_0000 + pc))

/-- Literal tag of the IMEM word at address `pc` (01 R32). -/
def State.litTag (s : State) (p t pc : Nat) : Bool :=
  (readByte s.mem (blockAddr p t (0x48_0000 + pc / 32))).getLsbD (pc / 4 % 8)

/-- Read of `n` bytes of the scratchpad of the tile that acts. -/
def State.readL (s : State) (a n : Nat) : Nat := readLe s.mem (apAddr s.fpkg s.ftile a) n

/-- Write of `n` bytes of the scratchpad of the tile that acts. -/
def State.writeL (s : State) (a n v : Nat) : State :=
  { s with mem := writeLe s.mem (apAddr s.fpkg s.ftile a) n v }

/-- Memory with a list of dwords written from address `a` up. -/
def writeDwords (m : Memory) (a : Nat) : List Word → Memory
  | [] => m
  | v :: l => writeDwords (write64 m a v) (a + 8) l

/-- `n` dwords read from address `a` up. -/
def readDwords (m : Memory) (a n : Nat) : List Word := (List.range n).map (fun i => read64 m (a + 8 * i))

/-! ### The fault record (15 R387, R388) -/

/-- Cut entry of a stream (R388, dword 8 + k). -/
def Job.cutEntry (j : Job) (k : Kind) : Word :=
  if k.isCore then
    let c := j.core k
    BitVec.ofNat 64 (c.seq.toNat * 2 ^ 32 + (if c.fin then 2 ^ 31 else 0) + c.pc.toNat)
  else
    let e := j.eng k
    BitVec.ofNat 64 (e.words.toNat * 2 ^ 32 + (if e.fin then 2 ^ 31 else 0)
      + (if e.pos.isSome then 2 ^ 30 + 2 ^ 29 else 0) + (if e.push.isSome then 2 ^ 28 else 0)
      + e.pc % 2 ^ 19)

/-- Stop entry of an engine stream (R388, dword 14 + k). -/
def Job.stopEntry (j : Job) (k : Kind) : Word :=
  match (j.eng k).pos with
  | some w => BitVec.ofNat 64 (w.rep % 64 * 2 ^ 58 + w.elem % 2 ^ 48)
  | none => 0

/-- Done mask of the raising stream. -/
def Job.doneMask (j : Job) (k : Kind) : Word :=
  if k.isCore then 0 else match (j.eng k).pos with
    | some w => w.done
    | none => 0

/-- The five mark registers (R388, dword 22). -/
def Job.marks (j : Job) : Word :=
  BitVec.ofNat 64 (j.m.mark.toNat + j.v.mark.toNat * 2 ^ 10 + j.t.mark.toNat * 2 ^ 20
    + j.c.mark.toNat * 2 ^ 30 + j.w.mark.toNat * 2 ^ 40)

/-- Launch tag and phase of a record (06 R165). -/
def recTag (dw : Dw8) : Nat := bits dw[4] 59 48
def recPhase (dw : Dw8) : Nat := bits dw[4] 47 40
def recKernel (dw : Dw8) : Nat := bits dw[0] 63 48
def recTenant (dw : Dw8) : Nat := bits dw[0] 47 40
def recClass (dw : Dw8) : Nat := bits dw[0] 39 38

/-- Handling core of a fault (09 R244). -/
def handlingCore (k : Kind) : Kind := if k.isCore then k else .X

/-- Dword 4 to 6 of the record: the failed access. -/
def failedDwords : Option FailedAccess → List Word
  | some f => [f.addr, f.data, BitVec.ofNat 64 (f.size.toNat + f.kind.toNat * 16 + f.aop.toNat * 256
      + f.ascope.toNat * 4096)]
  | none => [0, 0, 0]

/-- The 32 dwords of the record of a job (R388); `cause` is 0 in a checkpoint frame (15 R399). -/
def Job.faultRecord (j : Job) (key cause : Nat) (f : FaultInfo) : List Word :=
  let h := (j.core (handlingCore f.kind)).h
  [ BitVec.ofNat 64 (recKernel j.qrec.dw * 2 ^ 48 + j.tenant.toNat * 2 ^ 40 + keyTile key * 2 ^ 32
      + keyPkg key * 2 ^ 24 + keySlot key * 2 ^ 22 + (if h then 2 ^ 21 else 0)
      + (if f.failed.isSome then 2 ^ 20 else 0) + f.kind.code * 2 ^ 12 + cause),
    BitVec.ofNat 64 (j.phase.toNat * 2 ^ 16 + j.tag.toNat),
    f.eva, BitVec.ofNat 64 (f.point % 2 ^ 19) ]
  ++ failedDwords f.failed ++ [0]
  ++ allKinds.map j.cutEntry ++ [0]
  ++ [Kind.M, .V, .T, .C, .W].map j.stopEntry
  ++ [j.doneMask f.kind, j.marks] ++ List.replicate 9 0

/-- A record as a vector of 32 dwords. -/
def recordVec (l : List Word) : Vector Word 32 := Vector.ofFn (fun i => nth l i.val 0)

/-! ### Records with an empty cut (15 R386) -/

/-- What dwords 0 and 1 of a record with an empty cut say beside tenant, package and cause: what the fault has of it, zero
for the rest (R388). -/
structure FaultPlace where
  kernel : Nat := 0
  tile : Nat := 0
  slot : Nat := 0
  phase : Nat := 0
  tag : Nat := 0

/-- A fault that freezes no job goes to the fault queue of tenant `u` of package `p`. -/
def State.emptyFaultAt (s : State) (p u : Nat) (w : FaultPlace) (c : Cause) (eva : Word) : State :=
  let d0 := BitVec.ofNat 64 (w.kernel * 2 ^ 48 + u * 2 ^ 40 + w.tile * 2 ^ 32 + p * 2 ^ 24 + w.slot * 2 ^ 22 + 2 ^ 19 + c.code)
  let d1 := BitVec.ofNat 64 (w.phase * 2 ^ 16 + w.tag)
  s.modTen p u (fun a => { a with pending := a.pending ++ [⟨recordVec [d0, d1, eva], none, true⟩] })

/-- The same for a fault that has only a tile: the ring's for Ring-Integrity, zero otherwise. -/
def State.emptyFault (s : State) (p u tile : Nat) (c : Cause) (eva : Word) : State := s.emptyFaultAt p u { tile := tile } c eva

/-! ### Retirement and waiting -/

/-- What a retired instruction leaves in its core: its counters (09 R248; 15 R387), no request, and the end of a stream that
only waited for it (10 R253). An operation that was sent issued in an earlier cycle. -/
def Core.retire (c : Core) : Core :=
  { c with instret := c.instret + 1, issuecyc := if c.asked.isSome then c.issuecyc else c.issuecyc + 1, seq := c.seq + 1
           asked := none, reply := none, missed := false, fin := c.fin || c.leaving, leaving := false }

/-- The core gives up the request of an instruction that has not retired. -/
def Core.unask (c : Core) : Core := { c with asked := none, reply := none, missed := false }

/-- The program counter set from a 64-bit address. -/
def Core.goto (c : Core) (t : Nat) : Core := { c with pc := BitVec.ofNat 19 t }

/-- A result that has come back while the instruction waited: it retires with it (10 R253, case 2). -/
def Core.takeReply (c : Core) (w : W32) : Core :=
  match c.reply with
  | some v =>
    let c := (c.setReg (BitVec.ofNat 6 (bits w 25 20)) v).retire
    c.goto (c.pc.toNat + 4)
  | none => c

/-- Whether a waiting ring operation is withdrawn at a freeze (10 R253). -/
def RingWait.withdrawn : RingWait → Bool
  | .held _ _ _ => false
  | _ => true

/-- Whether a waiter comes from job `jid` of slot `key`. -/
def Waiter.of (w : Waiter) (key jid : Nat) : Bool := w.by_.key == key && w.by_.jid == jid

/-- A result dword reaches the core that waits for it (10 R253). -/
def State.reply (s : State) (d : Done) : State :=
  s.modIssuer d.1 (fun j => j.modCore (if d.1.xcore then .X else .A) (fun c =>
    if c.asked.isSome then { c with reply := some d.2 } else c))

/-- Ring `n` of tile `k` after an operation or update: its waiters get their results, and a freeze goes to
the tenant supervisor with the ring number as EVA (02 R54). -/
def State.putRing (s : State) (k n : Nat) (o : RingOut) : State :=
  let s := o.done.foldl State.reply (s.setRing k n o.ring)
  if o.froze then
    s.emptyFault (k / 256) (((s.tileAt k).tenant.map BitVec.toNat).getD 0) (k % 256) .ringIntegrity (BitVec.ofNat 64 n)
  else s

/-- Withdrawal of the waiters that `f` selects from every ring (10 R253). -/
def State.dropWaiters (s : State) (f : Waiter → Bool) : State :=
  s.tiles.foldl (fun s t =>
    t.2.rings.foldl (fun s r =>
      if r.2.waiters.any f then s.putRing t.1 r.1 (r.2.withdraw f) else s) s) s

/-- Whether some ring holds a wait of a core that is withdrawn at a freeze. -/
def State.mayWithdraw (s : State) (b : Issuer) : Bool :=
  s.tiles.any (fun e => e.2.rings.any (fun r => r.2.waiters.any (fun w => w.by_ == b && w.op.withdrawn)))

/-- The answer to what a core of slot `key` has asked a ring unit reaches it (02 R66). -/
def State.answerComes (s : State) (key : Nat) (c : Core) : Bool :=
  c.asked.all (fun a => s.passage (keyPkg key) (keyTile key) (placeOfNum a.pa) == .through)

/-- The waits of job `j` of slot `key` end as 10 R253 gives: granted ones retire, ungranted ones are withdrawn and issue again;
what waits only for its result stays. -/
def State.endWaits (s : State) (key : Nat) : State :=
  match s.jobAt key with
  | none => s
  | some j =>
    let w := fun (c : Core) => s.imem (keyPkg key) (keyTile key) c.pc.toNat
    let come := fun (c : Core) => if s.answerComes key c then c.takeReply (w c) else c
    let j := { j with a := come j.a, x := come j.x }
    let back := fun (x : Bool) => s.mayWithdraw ⟨key, j.jid, x⟩
    let s := (s.setJob key j).dropWaiters (fun w => w.of key j.jid && w.op.withdrawn)
    s.modJob key (fun j =>
      { j with a := if back false then j.a.unask else j.a, x := if back true then j.x.unask else j.x })

/-! ### Taking an exception -/

/-- Where a job's time not frozen stands (15 R396). -/
def Job.stopClock (j : Job) (now : Nat) : Job := { j with ran := j.ran + (now - j.since), since := now }

/-- CAUSE, EPC and EVA of the handling core (09 R244). -/
def Core.faulted (c : Core) (f : FaultInfo) : Core :=
  { c with cause := BitVec.ofNat 64 (f.cause.code + f.kind.code * 64), epc := c.pc.setWidth 64, eva := f.eva }

/-- Handler address and record area of TRAPV (09 R239). -/
def trapHandler (v : Word) : Nat := bits v 17 2 * 4
def trapArea (v : Word) : Nat := bits v 54 32

/-- Whether a fault goes to the job's own handler (09 R244). -/
def Job.ownHandler (j : Job) (f : FaultInfo) : Bool :=
  let c := j.core (handlingCore f.kind)
  bits j.trapv 0 0 == 1 && !c.fin && !c.h

/-- Delivery of a fault of a frozen job to its own handler (09 R244). -/
def State.toHandler (s : State) (key : Nat) (j : Job) (f : FaultInfo) : State :=
  let hk := handlingCore f.kind
  let at_ := apAddr (keyPkg key) (keyTile key) (trapArea j.trapv)
  let s := { s with mem := writeDwords s.mem at_ (j.faultRecord key f.cause.code f) }
  let c := (j.core hk).faulted f
  let c := { c.goto (trapHandler j.trapv) with
    ecut := BitVec.ofNat 64 (trapArea j.trapv), h := true, stopped := false }
  s.setJob key { j.setCore hk c with
    st := .handler, later := !j.deferred.isEmpty, hcore := hk, hkind := f.kind, freeze := none, astop := none }

/-- Delivery of a fault of a frozen job to the tenant supervisor's fault queue (09 R244; 15 R391). -/
def State.toSupervisor (s : State) (key : Nat) (j : Job) (f : FaultInfo) : State :=
  let hk := handlingCore f.kind
  let c := j.core hk
  let rcd := recordVec (j.faultRecord key f.cause.code f)
  let j' := if !c.h && !c.fin then j.setCore hk (c.faulted f) else j
  let s := s.setJob key { j' with st := .frozen, hcore := hk, freeze := some f, astop := none }
  s.modTen (keyPkg key) j.tenant.toNat (fun a =>
    { a with pending := a.pending ++ [⟨rcd, some (dieOf (keyTile key)), false⟩] })

/-- Delivery of the fault of a job all of whose streams have stopped. -/
def State.deliver (s : State) (key : Nat) (j : Job) (f : FaultInfo) : State :=
  if j.ownHandler f then s.toHandler key j f else s.toSupervisor key j f

/-- There is something to take from channel `c`, or from the scale queue if `c` is 8. -/
def Job.hasInput (j : Job) (c : Nat) : Bool :=
  if c = 8 then (match j.sq with
    | .byte _ :: _ => true
    | _ => false)
  else !(vget j.sw c).q.isEmpty

/-- The stream of kind `k` is inside a word that can go on: it stopped only for its turn or for a page, its input has come, or
there is room where it waits for room or will be, as the word of the channel's reader goes on (03 R82). One that waits for room that
its reader, stopped, will not make is stopped inside the word (DESIGN CHOICE, log 57). -/
def Job.wordGoes (j : Job) : Nat → Kind → Bool
  | 0, _ => false
  | n + 1, k =>
    match (j.eng k).pos with
    | none => false
    | some w =>
      w.active || w.inOn.any j.hasInput
        || w.outOn.any (fun c => decide ((vget j.sw c).q.length < 8) || match (vget j.sw c).bind with
          | some (_, r) => j.wordGoes n r
          | none => false)

/-- An engine stream of the job is running a word, which it finishes before it stops (03 R82). -/
def Job.wordRuns (j : Job) : Bool := [Kind.M, .V, .T, .C, .W].any (j.wordGoes 5)

/-- A core waits for the answer to what it has sent, or a word still runs: the job is not at rest (10 R253; 03 R82). -/
def Job.busyStill (j : Job) : Bool := j.a.asked.isSome || j.x.asked.isSome || j.wordRuns

/-- The last steps of a freeze (15 R389): waits end, and once every access of the job has performed or failed the
fault is delivered. Until then the job is freezing. -/
def State.finishFreeze (s : State) (key : Nat) (f : FaultInfo) : State :=
  let s := s.endWaits key
  match s.jobAt key with
  | none => s
  | some j =>
    if j.busyStill || !s.settledJob key j.jid then s.setJob key { j with st := .freezing, freeze := some f }
    else s.deliver key (j.stopClock (s.phase (keyPkg key))) f

/-- TAKING AN EXCEPTION: a fault of a stream of the job in slot `key` (15 R389). After an A-core fault
the X-core goes on until it stops as 03 R81 gives; any other fault freezes the job at once. A fault
that arises while the job freezes only stops its stream, which raises it again on resumption. -/
def State.takeFault (s : State) (key : Nat) (f : FaultInfo) : State :=
  match s.jobAt key with
  | none => s
  | some j =>
    let j := if f.kind.isCore then j.modCore f.kind (fun c => { c with stopped := true }) else j
    match j.st with
    | .running =>
      if f.kind = .A ∧ !j.x.fin then
        s.setJob key { j with st := .freezing, freeze := some f, astop := some (s.phase (keyPkg key)) }
      else (s.setJob key { j with freeze := some f }).finishFreeze key f
    | .handler => (s.setJob key { j with freeze := some f }).finishFreeze key f
    | .freezing =>
      match j.freeze with
      | some g => if f.kind = .X then (s.setJob key j).finishFreeze key g else s.setJob key j
      | none => s.setJob key j
    | _ => s

/-- The X-core stops at its place in the cut while its job freezes (03 R81). -/
def State.haltX (s : State) (key : Nat) : State :=
  match s.jobAt key with
  | none => s
  | some j =>
    let j := { j with x := { j.x with stopped := true } }
    match j.freeze with
    | some f => (s.setJob key j).finishFreeze key f
    | none => s.setJob key j

/-- A job with a deferred fault that has arrived freezes; the oldest is delivered (15 R385). Faults that arrived
with the one a handler runs for wait for its resumption, or for the end of its streams. -/
def State.noticeDeferred (s : State) (key : Nat) : State :=
  match s.jobAt key with
  | none => s
  | some j =>
    match j.deferred with
    | [] => s
    | f :: rest =>
      if j.st = .running ∨ (j.st = .handler ∧ (!j.later || j.allFinished)) then (s.setJob key { j with deferred := rest }).takeFault key f
      else s

/-! ### Returning from an exception -/

/-- The state a job resumes in: a handler that was interrupted goes on (15 R392, R393). -/
def Job.resumedState (j : Job) : JobState := if j.a.h || j.x.h then .handler else .running

/-- The job with each engine word it stopped inside to be fetched and its descriptors to be read again (15 R394); the time
for which its scale queue has been empty counts anew (17 R413). -/
def Job.refetch (j : Job) : Job :=
  let f := fun (e : Engine) => { e with pos := e.pos.map (fun w => { w with fetched := none }), starved := none }
  { j with m := f j.m, v := f j.v, t := f j.t, c := f j.c, w := f j.w }

/-- An engine stream of the job has stopped inside a word. -/
def Job.insideWord (j : Job) : Bool := [j.m, j.v, j.t, j.c, j.w].any (fun e => e.pos.isSome)

/-- The job with a load of its image to run before its streams (R394, step 2; 06 R164). -/
def Job.reload (j : Job) : Job := { j with c := { j.c with load := some .image } }

/-- The job's image is resident on its tile (06 R164). -/
def State.imageHere (s : State) (key : Nat) (j : Job) : Bool :=
  (s.tileAt (tileKey (keyPkg key) (keyTile key))).resident.any (fun r => r.tenant == j.tenant && r.image == j.kern.image)

/-- RETURNING FROM AN EXCEPTION: resumption of a job (15 R393). Deferred faults come first; then failed
loads are issued again and each stream goes on from its cut. -/
def State.resume (s : State) (key : Nat) : State :=
  match s.jobAt key with
  | none => s
  | some j =>
    match j.deferred with
    | f :: rest => s.deliver key { j with deferred := rest } f
    | [] =>
      let j := { j with a := { j.a with stopped := false }, x := { j.x with stopped := false }
                        st := j.resumedState, later := false, freeze := none, astop := none, since := s.phase (keyPkg key)
                        hcore := if j.a.h then .A else .X }
      let j := if j.insideWord && !s.imageHere key j then j.reload else j
      (s.setJob key j.refetch).reissueFailed key j.jid

/-- A JCTL Resume (15 R392): the handling core that R244 gave an EPC goes on there. -/
def State.resumeFrozen (s : State) (key : Nat) : State :=
  match s.jobAt key with
  | none => s
  | some j =>
    let c := j.core j.hcore
    let j := if j.freeze.isSome && !c.h && !c.fin then j.setCore j.hcore (c.goto c.epc.toNat) else j
    (s.setJob key j).resume key

/-! ### One core instruction -/

/-- What the meaning of a core instruction comes to. -/
inductive Res where
  /-- It retires and goes on at the next instruction. -/
  | next (s : State)
  /-- It retires and goes on at a target that passed 01 R20. -/
  | goto (s : State) (t : Word)
  /-- It retires, and its own effect has placed the program counter or ended the stream. -/
  | placed (s : State)
  /-- Its own effect has done everything, retirement included. -/
  | done (s : State)
  /-- It retires and raises TRAP (09 R243). -/
  | trap (s : State) (code : Word)
  /-- It has no effect and raises a cause. -/
  | raise (s : State) (c : Cause) (eva : Word)
  /-- It waits (10 R253). -/
  | wait (s : State)
  /-- It issues, and waits for the answer to what it has sent. -/
  | sent (s : State)
  /-- It waits at an empty dq0 to dq3 or a full dq4 or dq5, or is REND (03 R81). -/
  | waitDq (s : State)

/-- A cause for which the manual states no EVA (log 18). -/
def raiseFree (s : State) (c : Cause) : Res := .raise s.take.2 c (Config.unstatedEva s.fresh)

/-- A target that breaks 01 R20. -/
def badTarget (t : Word) : Option Cause :=
  if 0x4_0000 ≤ t.toNat then some .localRange else if t.toNat % 4 ≠ 0 then some .misaligned else none

/-- Whether a register number is inside an allotment (06 R158). -/
def regOk (n : Nat) (r : Reg) : Bool := decide (r.toNat < n) || r == 63

/-- Steps 3 and 4 of 08 R202, then the meaning. -/
def checked (j : Job) (c : Core) (sup : Bool) (regs : List Reg) (body : Job → Core → State → Res)
    (s : State) : Res :=
  if sup && !j.sup then raiseFree s .privileged
  else if !regs.all (regOk c.allot) then raiseFree s .allotment
  else body j c s

/-- A core of a freezing job stops before an instruction that would raise a fault: it raises it again on resumption. -/
def State.haltHere (s : State) (kind : Kind) : State := if kind = .X then s.haltX s.key else s

/-- What a core instruction of `len` bytes leaves (09 R219, R220). -/
def settle (len : Nat) (kind : Kind) (freezing : Bool) (s0 : State) : Res → State
  | .next s => s.modCore (fun c => (c.goto (c.pc.toNat + len)).retire)
  | .goto s t => s.modCore (fun c => (c.goto t.toNat).retire)
  | .placed s => s.modCore Core.retire
  | .done s => s
  | .trap s code =>
    if freezing then s0.haltHere kind
    else (s.modCore (fun c => (c.goto (c.pc.toNat + len)).retire)).takeFault s.key
      { cause := .trap, eva := code, kind := kind
        point := ((s0.jobAt s0.key).map (fun j => (j.core kind).pc.toNat)).getD 0, failed := none }
  | .raise s c eva =>
    let s := s.modCore Core.unask
    if freezing then s.haltHere kind
    else s.takeFault s.key
      { cause := c, eva := eva, kind := kind
        point := ((s0.jobAt s0.key).map (fun j => (j.core kind).pc.toNat)).getD 0, failed := none }
  | .wait s => s.modCore (fun c => { c with stallcyc := c.stallcyc + 1 })
  | .sent s => s.modCore (fun c => { c with issuecyc := c.issuecyc + 1 })
  | .waitDq s =>
    if freezing then s.haltX s.key
    else s.modCore (fun c => { c with stallcyc := c.stallcyc + 1 })

/-- Whether the X-core of a freezing job has run for 16 384 core cycles since the A-core stopped
(03 R81). -/
def State.xTimeUp (s : State) (key : Nat) (j : Job) : Bool :=
  match j.astop with
  | some t0 => s.passed (keyPkg key) t0 16384
  | none => false

/-- One core instruction of `len` bytes that names `regs`, for the supervisor only if `sup`. -/
def coreExec (len : Nat) (sup : Bool) (regs : List Reg) (body : Job → Core → State → Res) (s : State) :
    Host.Outcome State Fault Refusal :=
  match s.jobAt s.key with
  | none => .fault .noStream
  | some j =>
    if !s.focus.kind.isCore then .fault .noStream
    else
      let freezing := j.st == .freezing
      if freezing && s.xTimeUp s.key j && (j.core s.focus.kind).asked.isNone then .next (s.haltX s.key)
      else
        let r := checked j (j.core s.focus.kind) sup regs body s
        .next ((settle len s.focus.kind freezing s r).noticeDeferred s.key)

/-! ### Requests that a core waits for (02 R65 to R67; 10 R253) -/

/-- What the place of a request answers: a dword with bytes beside it, an error, or nothing yet. -/
inductive Answer where
  | ok (s : State) (v : Word) (extra : List Byte)
  | err (s : State) (c : Cause) (eva : Word)
  | hold (s : State)

/-- The request of the core that acts that waits for its answer. -/
def State.askOf (s : State) : Option Asked := (s.jobAt s.key).bind (fun j => (j.core s.focus.kind).asked)

/-- The core that acts waits for the answer to `a`. -/
def State.ask (s : State) (a : Asked) : State := s.modCore (fun c => { c with asked := some a })

/-- What travels: a request of a core to a place, as one number of a requester at a target. -/
structure Parcel where
  /-- It counts as a request: no fabric control (01 R36). -/
  counted : Bool
  load : Bool
  place : Place
  target : Nat

/-- The result of a request that is not idempotent is kept where it performed (02 R67). -/
def State.keep (s : State) (p : Parcel) (seq : BitVec 16) (v : Word) (x : List Byte) : State :=
  if p.load then s else { s with kept := keepResult s.kept ⟨s.issuer.queue false, p.target, seq, v, x⟩ }

/-- A request travels to its place: it is lost on the way, or `act` performs it once and `k` has its answer, unless that is
discarded on its way back. A duplicate of one that has performed is answered from the kept result (02 R67). -/
def arrive (s : State) (p : Parcel) (a : Asked) (act : List Byte → State → Answer) (k : State → Word → List Byte → Res) : Res :=
  match s.passage s.fpkg s.ftile p.place with
  | .lost => .sent (s.ask a)
  | .through =>
    match if p.load then none else s.keptOf (s.issuer.queue false) p.target a.seq with
    | some r => k s r.result r.extra
    | none =>
      match act a.data s with
      | .ok s v x => k (s.keep p a.seq v x) v x
      | .err s c e => .raise s c e
      | .hold s => .sent (s.ask { a with held := true })
  | .unanswered =>
    match if p.load then none else s.keptOf (s.issuer.queue false) p.target a.seq with
    | some _ => .sent (s.ask a)
    | none =>
      match act a.data s with
      | .ok t v x => .sent ((if p.load then s else t.keep p a.seq v x).ask a)
      | .err _ _ _ => .sent (s.ask a)
      | .hold t => .sent (t.ask { a with held := true })

/-- The timeout of a request has passed: 8 µs inside the package, 64 µs outside (02 R66). -/
def State.overdue (s : State) (p : Nat) (pl : Place) (sentAt : Nat) : Bool :=
  decide (us (if pl.pkg = p then 8 else 64) ≤ s.wall - sentAt)

/-- A core that has issued in an earlier cycle stalls in this one (09 R248). -/
def Res.stalls : Res → Res
  | .sent s => .wait s
  | r => r

/-- What a core does whose request stands at its place, which cannot act on it yet: while the place reaches the core it says so,
and otherwise the core issues the request again after each timeout and raises Request-Timeout with `late` after three reissues
(02 R66; 20 R442; log 80). -/
def heldAsk (s : State) (pl : Place) (a : Asked) (late : State → Res) : Res :=
  if s.passage s.fpkg s.ftile pl == .through then .wait (s.ask { a with sentAt := s.wall })
  else if !s.overdue s.fpkg pl a.sentAt then .wait s
  else if a.reissues = 3 then late s
  else .wait ((s.countTile s.tkey (fun t => { t with reissue := t.reissue + 1 })).ask { a with sentAt := s.wall, reissues := a.reissues + 1 })

/-- What a core that waits for an answer does in its turn: it polls a place that holds the request, issues it again under
its number when the timeout has passed, and after three reissues raises Request-Timeout with `late` (02 R66). -/
def await (s : State) (p : Parcel) (a : Asked) (late : State → Res) (act : List Byte → State → Answer)
    (k : State → Word → List Byte → Res) : Res :=
  if a.held then
    if s.passage s.fpkg s.ftile p.place == .through then
      match act a.data s with
      | .ok s v x => k (s.keep p a.seq v x) v x
      | .err s c e => .raise s c e
      | .hold s => heldAsk s p.place a late
    else heldAsk s p.place a late
  else if !s.overdue s.fpkg p.place a.sentAt then .wait s
  else if a.reissues = 3 then late s
  else
    (arrive (s.countTile s.tkey (fun t => { t with reissue := t.reissue + 1 })) p
      { a with sentAt := s.wall, reissues := a.reissues + 1 } act k).stalls

/-- A request of the core that acts leaves its tile, counted and numbered (01 R36; 02 R65), with what it carries, once its target has
performed what its store queue sent there before (DESIGN CHOICE, log 80: it is a request of that queue); or the core goes on waiting
for the one it has sent. -/
def exchange (s : State) (p : Parcel) (va : Word) (pa : Nat) (data : List Byte) (late : State → Res)
    (act : List Byte → State → Answer) (k : State → Word → List Byte → Res) : Res :=
  match s.askOf with
  | some a => await s p a late act k
  | none =>
    if !p.load && s.targetBusy p.target then .wait s
    else
    let s := if p.counted then s.countReq s.fpkg s.ftile p.place else s
    let (seq, s) := s.takeSeq (s.issuer.queue p.load) p.target
    arrive s p ⟨va, pa, seq, s.wall, 0, data, false⟩ act k

/-- The most common shape: a destination register gets a value that depends on registers alone. -/
def coreWrite (len : Nat) (regs : List Reg) (d : Reg) (f : Job → Core → Word) (s : State) :
    Host.Outcome State Fault Refusal :=
  coreExec len false (d :: regs) (fun j c s => .next (s.setReg d (f j c))) s

end Sys2Proof.Machine
end

