-- ==== Sys2Proof/Machine/Sm3.lean ====
section
/-!
DEFINITION. The SM3 hash (GB/T 32905), which 04 R98 and 20 R439, R440 name.
-/

namespace Sys2Proof.Machine

/-- Big-endian bytes of a number. -/
def beBytes (n v : Nat) : List Byte := (leBytes n v).reverse

/-- A number from big-endian bytes. -/
def beNat (l : List Byte) : Nat := leNat l.reverse

/-- The padded message: 0x80, zeros, and the bit length in eight bytes. -/
def sm3Pad (m : List Byte) : List Byte :=
  m ++ [0x80] ++ List.replicate ((119 - m.length % 64) % 64) 0 ++ beBytes 8 (8 * m.length)

/-- The permutations P0 and P1. -/
def sm3P0 (x : W32) : W32 := x ^^^ x.rotateLeft 9 ^^^ x.rotateLeft 17
def sm3P1 (x : W32) : W32 := x ^^^ x.rotateLeft 15 ^^^ x.rotateLeft 23

/-- Words from bytes, big-endian. -/
def sm3Words : Nat → List Byte → List W32
  | 0, _ => []
  | n + 1, l => BitVec.ofNat 32 (beNat (l.take 4)) :: sm3Words n (l.drop 4)

/-- The message expansion, `w` held newest first. -/
def sm3Expand : Nat → List W32 → List W32
  | 0, w => w
  | n + 1, w =>
    let x := sm3P1 (nth w 15 0 ^^^ nth w 8 0 ^^^ (nth w 2 0).rotateLeft 15) ^^^
      (nth w 12 0).rotateLeft 7 ^^^ nth w 5 0
    sm3Expand n (x :: w)

/-- The eight working words. -/
structure Sm3V where
  a : W32
  b : W32
  c : W32
  d : W32
  e : W32
  f : W32
  g : W32
  h : W32

/-- Round `j`, with `w` the expanded words from word `j` on. -/
def sm3Round (j : Nat) (w : List W32) (v : Sm3V) : Sm3V :=
  let t : W32 := if j < 16 then 0x79cc4519 else 0x7a879d8a
  let ss1 := (v.a.rotateLeft 12 + v.e + t.rotateLeft (j % 32)).rotateLeft 7
  let ss2 := ss1 ^^^ v.a.rotateLeft 12
  let ff := if j < 16 then v.a ^^^ v.b ^^^ v.c else (v.a &&& v.b) ||| (v.a &&& v.c) ||| (v.b &&& v.c)
  let gg := if j < 16 then v.e ^^^ v.f ^^^ v.g else (v.e &&& v.f) ||| (~~~v.e &&& v.g)
  let tt1 := ff + v.d + ss2 + (nth w 0 0 ^^^ nth w 4 0)
  let tt2 := gg + v.h + ss1 + nth w 0 0
  ⟨tt1, v.a, v.b.rotateLeft 9, v.c, sm3P0 tt2, v.e, v.f.rotateLeft 19, v.g⟩

/-- Rounds from `j`, `n` of them. -/
def sm3Rounds : Nat → Nat → List W32 → Sm3V → Sm3V
  | 0, _, _, v => v
  | n + 1, j, w, v => sm3Rounds n (j + 1) w.tail (sm3Round j w v)

/-- The compression of one 64-byte block. -/
def sm3Block (v : Sm3V) (b : List Byte) : Sm3V :=
  let w := (sm3Expand 52 (sm3Words 16 b).reverse).reverse
  let r := sm3Rounds 64 0 w v
  ⟨v.a ^^^ r.a, v.b ^^^ r.b, v.c ^^^ r.c, v.d ^^^ r.d, v.e ^^^ r.e, v.f ^^^ r.f, v.g ^^^ r.g, v.h ^^^ r.h⟩

/-- `n` blocks. -/
def sm3Blocks : Nat → List Byte → Sm3V → Sm3V
  | 0, _, v => v
  | n + 1, l, v => sm3Blocks n (l.drop 64) (sm3Block v (l.take 64))

/-- The initial value. -/
def sm3Init : Sm3V :=
  ⟨0x7380166f, 0x4914b2b9, 0x172442d7, 0xda8a0600, 0xa96f30bc, 0x163138aa, 0xe38dee4d, 0xb0fb0e4e⟩

/-- SM3 of a message, as a 256-bit number whose top byte is the first byte of the digest. -/
def sm3 (m : List Byte) : BitVec 256 :=
  let p := sm3Pad m
  let v := sm3Blocks (p.length / 64) p sm3Init
  v.a ++ v.b ++ v.c ++ v.d ++ v.e ++ v.f ++ v.g ++ v.h

end Sys2Proof.Machine
end

