-- ==== Sys2Proof/Machine/CaUnit.lean ====
section
/-!
DEFINITION. The content-addressed region at its homes (04 R94 to R111): names, counts, reclaim, pools,
CATEN and CACTL writes. The lines of a domain stand in the CaDomain of its pool package; a line's 192
bytes stand in memory at a pool line base of its die (log 10).
-/

namespace Sys2Proof.Machine

/-! ### Domains and tenants (R94, R95) -/

def catenE (v : Word) : Bool := v.getLsbD 0
def catenDom (v : Word) : Nat := bits v 15 8
/-- Physical address of the root frame. -/
def catenRoots (v : Word) : Nat := bits v 55 16 * 0x1_0000

/-- Pool range of a domain area: first byte, and the byte past the last frame. -/
def CaDomain.lo (c : CaDomain) : Nat := bits c.first 55 16 * 0x1_0000
def CaDomain.hi (c : CaDomain) : Nat := bits c.last 55 16 * 0x1_0000 + 0x1_0000
/-- The pool package. -/
def CaDomain.pool (c : CaDomain) : Nat := paPkg c.lo

/-- State code of CACTL (R94). -/
def CaState.code : CaState → Nat
  | .off => 0 | .init => 1 | .ready => 2 | .error => 3

/-- The pool package and domain that tenant `u`'s operations go to from package `p`: none without a
region (R95). -/
def State.caRegion (s : State) (p u : Nat) : Option (Nat × Nat) :=
  let v := (s.tenAt p u).caten
  let c := s.caAt p (catenDom v)
  if catenE v && c.st == .ready then some (c.pool, catenDom v) else none

/-- Whether the pool package serves the domain (R96). -/
def CaDomain.serving (c : CaDomain) : Bool := c.st == .ready && c.up

/-- Root frames of the member tenants of domain `d` (R99). -/
def State.caRoots (s : State) (d : Nat) : List Nat :=
  (s.tenants.filterMap (fun e =>
    if catenE e.2.caten && catenDom e.2.caten == d then some (catenRoots e.2.caten) else none)).eraseDups

/-! ### Storage (R99) -/

/-- The first line base at or above a physical address of HBM (01 R25). -/
def lineUp (a : Nat) : Nat := a - paOff a + (paOff a + 191) / 192 * 192

/-- Whether the line at `b` lies in the range from `lo` and touches no frame of `roots`. -/
def lineUsable (hi : Nat) (roots : List Nat) (b : Nat) : Bool :=
  decide (b + 192 ≤ hi) && roots.all (fun r => decide (b + 192 ≤ r) || decide (r + 0x1_0000 ≤ b))

/-- Line bases of a pool at die `d`, lowest first (R99; log 10: whole lines inside the pool and outside the
root frames). -/
def poolLines (lo hi : Nat) (roots : List Nat) (d : Nat) : List Nat :=
  (List.range ((hi - lo) / 192)).filterMap (fun i =>
    let b := lineUp lo + 192 * i
    if lineUsable hi roots b && dieHash (paOff b) == d then some b else none)

/-- Capacity of die `d` in lines (R99): floor(3 Nd / 4). -/
def State.caCap (s : State) (c : CaDomain) (dom d : Nat) : Nat :=
  3 * (poolLines c.lo c.hi (s.caRoots dom) d).length / 4

/-- Home die of a name (R99). -/
def nameDie (n : BitVec 128) : Nat := bits n 127 126

/-- Lines held at die `d`, live or awaiting reclaim (R94). -/
def CaDomain.live (c : CaDomain) (d : Nat) : Nat := (c.lines.filter (fun l => nameDie l.name == d)).length

/-- Dead lines that the reclaim engine of die `d` holds, with their domains, oldest first (R106; one that it takes leaves its place:
DESIGN CHOICE, log 88). -/
def Package.deadAt (k : Package) (d : Nat) : List (Nat × BitVec 128) := k.reclaim.filter (fun e => nameDie e.2 == d)

/-- Line bases in use: those of lines whose storage reclaim has not freed. -/
def CaDomain.used (c : CaDomain) : List Nat := (c.lines.filter (fun l => !l.freed)).map CaLine.at_

/-- The lowest free line base of die `d` outside `roots` (log 10). -/
def CaDomain.room (c : CaDomain) (roots : List Nat) (d : Nat) : Option Nat :=
  (poolLines c.lo c.hi roots d).find? (fun b => !c.used.contains b)

/-! ### Counts (R105, R106) -/

/-- The live line of a name. -/
def CaDomain.find (c : CaDomain) (n : BitVec 128) : Option CaLine :=
  c.lines.find? (fun l => l.name == n && !l.dead)

/-- Lines with the line of name `n` changed. -/
def CaDomain.modLine (c : CaDomain) (n : BitVec 128) (f : CaLine → CaLine) : CaDomain :=
  { c with lines := c.lines.map (fun l => if l.name = n then f l else l) }

/-- An increment; a saturated count stays (R105). -/
def CaLine.inc (l : CaLine) : CaLine := if l.count = 0xFFFF_FFFF then l else { l with count := l.count + 1 }

/-- Increment of the line of name `n`. -/
def CaDomain.inc (c : CaDomain) (n : BitVec 128) : CaDomain := c.modLine n CaLine.inc

/-- A decrement: a saturated count stays, and the last one makes the line dead (R105, R106). -/
def CaLine.drop (l : CaLine) : CaLine :=
  if l.dead || l.count == 0xFFFF_FFFF then l
  else if l.count = 1 then { l with count := 0, dead := true }
  else { l with count := l.count - 1 }

/-- Decrement of the line of name `n`; a name that is not live changes nothing. -/
def CaDomain.dec (c : CaDomain) (n : BitVec 128) : CaDomain := c.modLine n CaLine.drop

/-- A decrement of name `n` would make its line dead. -/
def CaDomain.dies (c : CaDomain) (n : BitVec 128) : Bool := (c.find n).any (fun l => l.count == 1)

/-- A decrement of name `n` at its home (R105 to R107): none while the line would die and the reclaim engine of its die holds
4 096 dead lines, of whichever domains. -/
def State.caDec (s : State) (pp dom : Nat) (n : BitVec 128) : Option State :=
  let c := s.caAt pp dom
  let t := s.setCa pp dom (c.dec n)
  if !c.dies n then some t
  else if 4096 ≤ ((s.pkgAt pp).deadAt (nameDie n)).length then none
  else some (t.modPkg pp (fun k => { k with reclaim := k.reclaim ++ [(dom, n)] }))

/-- Increments of a list of names in order, up to the first that is not live: the ones incremented, and
whether every one was live (R102, step 2). -/
def CaDomain.incAll : CaDomain → List (BitVec 128) → List (BitVec 128) → CaDomain × List (BitVec 128) × Bool
  | c, [], done => (c, done, true)
  | c, n :: l, done =>
    if (c.find n).isSome then CaDomain.incAll (c.inc n) l (done ++ [n])
    else
      let r := CaDomain.incAll c l done
      (r.1, r.2.1, false)

/-! ### Names (R97, R98) -/

/-- The name stored at a physical address. -/
def nameAt (m : Memory) (a : Nat) : BitVec 128 := BitVec.ofNat 128 (readLe m a 16)

/-- A name from its digest and index. -/
def nameOf (dig idx : Nat) : BitVec 128 := BitVec.ofNat 128 (dig * 2 ^ 16 + idx * 2 ^ 8)

/-- The first 112 bits of the keyed digest of a line (R98). -/
def caDigest (c : CaDomain) (node : Bool) (content : List Byte) : Nat :=
  bits (sm3 (leBytes 8 c.key0.toNat ++ leBytes 8 c.key1.toNat ++ [if node then 2 else 1] ++ content)) 255 144

/-- The twelve fields of a node line that are not null, in increasing order (R100). -/
def nodeFields (content : List Byte) : List (BitVec 128) :=
  ((List.range 12).map (fun i => BitVec.ofNat 128 (leNat ((content.drop (16 * i)).take 16)))).filter (fun n => n != 0)

/-- Content of a line. -/
def State.caContent (s : State) (l : CaLine) : List Byte := readBytes s.mem l.at_ 192

/-! ### Lookup-or-allocate (R102) -/

/-- What lookup-or-allocate answers. -/
inductive LookRes where
  | match_ (name : BitVec 128) (count : W32)
  | new (name : BitVec 128)
  | deadChild | full | collision
  deriving DecidableEq, Repr

/-- Lines in order of their names. -/
def insertLine (l : CaLine) : List CaLine → List CaLine
  | [] => [l]
  | x :: r => if l.name.toNat < x.name.toNat then l :: x :: r else x :: insertLine l r

/-- A live line matches in step 1 of lookup-or-allocate: its storage holds no uncorrectable error. -/
def State.caMatches (s : State) (node : Bool) (content : List Byte) (l : CaLine) : Bool :=
  l.node == node && !s.flawed l.at_ 192 && s.caContent l == content

/-- The domain with its error log after step 1 has gone through `l`: a candidate whose storage meets an uncorrectable error
(R102). -/
def State.caLogErrors (s : State) (c : CaDomain) (node : Bool) (content : List Byte) (l : List CaLine) : CaDomain :=
  let bad := (l.takeWhile (fun x => !s.caMatches node content x)).filter (fun x => x.node == node && s.flawed x.at_ 192)
  { c with errors := c.errors ++ bad.map CaLine.at_ }

/-- Lookup-or-allocate at the pool package `pp` (R102, R103): a candidate whose storage holds an uncorrectable error does not
match. -/
def State.lookupOrAllocate (s : State) (pp dom : Nat) (node : Bool) (content : List Byte) : State × LookRes :=
  let dig := caDigest (s.caAt pp dom) node content
  let cands := (s.caAt pp dom).lines.filter (fun l => !l.dead && bits l.name 127 16 == dig)
  let c := s.caLogErrors (s.caAt pp dom) node content cands
  match cands.find? (s.caMatches node content) with
  | some l => (s.setCa pp dom (c.inc l.name), .match_ l.name l.inc.count)
  | none =>
    let kids := if node then nodeFields content else []
    let r := c.incAll kids []
    let undo := s.setCa pp dom (r.2.1.foldl CaDomain.dec r.1)
    let d := dig / 2 ^ 110
    if !r.2.2 then (undo, .deadChild)
    else if s.caCap c dom d ≤ c.live d then (undo, .full)
    else
      let taken := (c.lines.filter (fun l => bits l.name 127 82 == dig / 2 ^ 66)).map (fun l => bits l.name 15 8)
      match (List.range 256).find? (fun v => !taken.contains v && !(dig == 0 && v == 0)) with
      | none => (undo, .collision)
      | some v =>
        match c.room (s.caRoots dom) d with
        | none => (undo, .full)
        | some b =>
          let n := nameOf dig v
          let c := { r.1 with lines := insertLine ⟨n, node, 1, b, false, false⟩ r.1.lines }
          (({ s with mem := writeBytes s.mem b content }).setCa pp dom c, .new n)

/-- A live line of the domain matches in step 1 of lookup-or-allocate; `dig` is the digest. -/
def State.caFound (s : State) (c : CaDomain) (dig : Nat) (node : Bool) (content : List Byte) : Bool :=
  c.lines.any (fun l => !l.dead && bits l.name 127 16 == dig && s.caMatches node content l)

/-! ### Waits at a home (R107, R109) -/

/-- Prefix group of a name: bits 127:82 (R102). -/
def groupOf (n : BitVec 128) : Nat := bits n 127 82

/-- The group in which the operations on the root slot at `slot` wait for each other: past those of names (R109). -/
def slotGroup (slot : Nat) : Nat := 2 ^ 46 + slot

/-- What stands first in group `g`. -/
def CaDomain.first_ (c : CaDomain) (g : Nat) : Option CaHeld := c.held.find? (fun h => h.group == g)

/-- Something of group `g` waits at its home ahead of `who` (R107). -/
def CaDomain.behind (c : CaDomain) (g : Nat) (who : CaWaiter) : Bool := (c.first_ g).any (fun h => h.who != who)

/-- The increment that a CANODE of `who` sends for a field of name `n` would wait at the field's home. A CANODE that waits at the
head of that group only for increments of its own lets it pass, so that no two wait for each other (DESIGN CHOICE, log 88). -/
def CaDomain.kidWaits (c : CaDomain) (who : CaWaiter) (n : BitVec 128) : Bool :=
  (c.first_ (groupOf n)).any (fun h => !h.node && h.who != who)

/-- `h` waits at its home, behind all of its group that do. -/
def State.caWait (s : State) (pp dom : Nat) (h : CaHeld) : State :=
  let c := s.caAt pp dom
  let same := fun (x : CaHeld) => x.group == h.group && x.who == h.who
  let l := if c.held.any same then c.held.map (fun x => if same x then h else x) else c.held ++ [h]
  if l = c.held then s else s.setCa pp dom { c with held := l }

/-- The waits that meet `f` end. -/
def State.caLeave (s : State) (pp dom : Nat) (f : CaHeld → Bool) : State :=
  let c := s.caAt pp dom
  if c.held.any f then s.setCa pp dom { c with held := c.held.filter (fun h => !f h) } else s

/-! ### Reclaim (R106, R107) -/

/-- The decrement that heads the way from a reclaim engine to a home reaches it: it is accepted, or it waits there (R107). -/
def State.sendOwed (pp : Nat) (s : State) (o : Owed) : State :=
  let me := CaWaiter.reclaim (nameDie o.node)
  let g := groupOf o.field
  match if (s.caAt pp o.dom).behind g me then none else s.caDec pp o.dom o.field with
  | some s => (s.modPkg pp (fun k => { k with owed := k.owed.erase o })).caLeave pp o.dom (fun h => h.group == g && h.who == me)
  | none => s.caWait pp o.dom ⟨g, me, false⟩

/-- What the reclaim engine of die `d` has sent goes as far as it can, at most `n` decrements: those of one home in the order
sent (R106; 02 R65). -/
def State.sendAll (pp d : Nat) : Nat → State → State
  | 0, s => s
  | n + 1, s =>
    let mine := (s.pkgAt pp).owed.filter (fun o => nameDie o.node == d)
    let heads := (List.range 4).filterMap (fun h => mine.find? (fun o => nameDie o.field == h))
    State.sendAll pp d n (heads.foldl (State.sendOwed pp) s)

/-- The state after the decrements of the reclaim engine of die `d` have gone as far as they can. -/
def State.flushOwed (s : State) (pp d : Nat) : State := s.sendAll pp d (s.pkgAt pp).owed.length

/-- The reclaim engine of die `d` takes its oldest dead line, one of domain `dom`: the storage is freed and a decrement is sent for
each field of a node (R106). -/
def State.caReclaim (s : State) (pp dom d : Nat) : State :=
  let c := s.caAt pp dom
  match (s.pkgAt pp).deadAt d with
  | [] => s
  | e :: _ =>
    match c.lines.find? (fun l => e.1 == dom && l.name == e.2) with
    | none => s
    | some l =>
      let fields := if l.node then nodeFields (s.caContent l) else []
      let s := s.setCa pp dom (c.modLine l.name (fun l => { l with freed := true }))
      let s := s.modPkg pp (fun k =>
        { k with reclaim := k.reclaim.erase e, owed := k.owed ++ fields.map (fun f => Owed.mk dom l.name f) })
      s.flushOwed pp d

/-- Lines of die `d` whose reclaim has begun and of whose decrements none is on the way. -/
def State.caDone (s : State) (pp dom d : Nat) : List CaLine :=
  (s.caAt pp dom).lines.filter (fun l => l.freed && nameDie l.name == d
    && !(s.pkgAt pp).owed.any (fun o => o.dom == dom && o.node == l.name))

/-- What die `d` has sent goes on; every decrement of a reclaim having been accepted, the index is free and CALIVE
falls (R106). -/
def State.caFinish (s : State) (pp dom d : Nat) : State :=
  let s := s.flushOwed pp d
  match s.caDone pp dom d with
  | [] => s
  | l :: _ =>
    let c := s.caAt pp dom
    s.setCa pp dom { c with lines := c.lines.filter (fun x => x.name != l.name) }

/-! ### CACTL (R96) -/

/-- The checks of an enable. -/
def State.caEnableOk (s : State) (p : Nat) (c : CaDomain) : Bool :=
  let lastByte := c.hi - 1
  let n := (s.pkgAt c.pool).hbmsplit
  c.first.getLsbD 0 && decide (c.lo < c.hi) && paPkg lastByte == c.pool && decide (c.pool < (s.pkgAt p).d)
    && decide (paOff c.lo < hbmTop) && decide (paOff lastByte < hbmTop)
    && hbmWindow n (paOff c.lo) == none && hbmWindow n (paOff lastByte) == none

/-- The domain area becomes `c`, with no line, no wait and no reclaim. -/
def State.emptyPool (s : State) (pp dom : Nat) (c : CaDomain) : State :=
  (s.setCa pp dom { c with lines := [], held := [] }).modPkg pp (fun k =>
    { k with reclaim := k.reclaim.filter (fun e => e.1 != dom), owed := k.owed.filter (fun o => o.dom != dom) })

/-- The outcome of an enable that is initialising, in full service (R96, 20 R437). -/
def State.caInit (s : State) (p dom : Nat) : State :=
  let c := s.caAt p dom
  if c.st ≠ .init then s
  else if !s.caEnableOk p c then s.setCa p dom { c with st := .error }
  else if c.pool = p then s.emptyPool p dom { c with st := .ready, up := true }
  else s.setCa p dom { c with st := .ready }

/-- A write of EN = 1: from off the copy becomes initialising, and its checks run at once, except in
pilot-light service, where it stays so until full service (20 R437). -/
def State.caEnable (s : State) (p dom : Nat) : State :=
  let c := s.caAt p dom
  if c.st ≠ .off then s
  else
    let s := s.setCa p dom { c with st := .init }
    if (s.pkgAt p).svc = 0 then s else s.caInit p dom

/-- Memory with root frames zeroed. -/
def nullRoots (m : Memory) (roots : List Nat) : Memory :=
  roots.foldl (fun m r => clearRange m r (r + 0x1_0000)) m

/-- An operation of a core waits at a home of the domain. -/
def CaDomain.serves (c : CaDomain) : Bool := c.held.any (fun h => match h.who with | .op _ => true | .reclaim _ => false)

/-- A write of EN = 0 in a state other than off (log 24): the operations that homes have accepted complete, and until they have
the write waits; then every line of the domain is discarded, the root slots of its tenants become null, and this copy is off. -/
def State.caDisable (s : State) (p dom : Nat) : Option State :=
  let c := s.caAt p dom
  if c.st = .off then some s
  else
    let q := s.caAt c.pool dom
    if q.serves then none
    else
      let s := { s with mem := nullRoots s.mem (s.caRoots dom) }
      let s := s.emptyPool c.pool dom { q with up := false }
      some (s.setCa p dom { s.caAt p dom with st := .off })

/-! ### CATEN (R95, R96, R99, R108) -/

/-- Names in the non-null slots of a root frame. -/
def rootNames (m : Memory) (roots : Nat) : List (BitVec 128) :=
  ((List.range 4096).map (fun i => nameAt m (roots + 16 * i))).filter (fun n => n != 0)

/-- Lines of a pool moved out of a frame that becomes a root frame, one by one; none when a die has no
room (R99). -/
def State.caMove (s : State) (pp dom : Nat) (roots : List Nat) : List CaLine → Option State
  | [] => some s
  | l :: rest =>
    let c := s.caAt pp dom
    match c.room roots (nameDie l.name) with
    | none => none
    | some b =>
      let m := writeBytes s.mem b (s.caContent l)
      (({ s with mem := m }).setCa pp dom (c.modLine l.name (fun x => { x with at_ := b }))).caMove pp dom roots rest

/-- The lines a new root frame displaces. -/
def CaDomain.displaced (c : CaDomain) (frame : Nat) : List CaLine :=
  c.lines.filter (fun l => !l.freed && decide (l.at_ < frame + 0x1_0000) && decide (frame < l.at_ + 192))

/-- The references to a list of names are dropped one after the other, as CADROP would; none while one of them must wait
(R107). -/
def State.caDropAll (s : State) (pp dom : Nat) : List (BitVec 128) → Option State
  | [] => some s
  | n :: l =>
    if ((s.caAt pp dom).first_ (groupOf n)).isSome then none
    else match s.caDec pp dom n with
      | none => none
      | some s => s.caDropAll pp dom l

/-- An operation on a slot of the root frame waits at its home (R109). -/
def CaDomain.slotBusy (c : CaDomain) (frame : Nat) : Bool :=
  c.held.any (fun h => decide (slotGroup frame ≤ h.group) && decide (h.group < slotGroup (frame + 0x1_0000)))

/-- The release of a tenant's root slots (R96): each reference as CADROP, each slot null; none while one of them must wait. -/
def State.caRelease (s : State) (p dom frame : Nat) : Option State :=
  let pp := (s.caAt p dom).pool
  if (s.caAt pp dom).slotBusy frame then none
  else (s.caDropAll pp dom (rootNames s.mem frame)).map (fun s => { s with mem := clearRange s.mem frame (frame + 0x1_0000) })

/-- A write of CATEN of tenant `u` in package `p`; none while it must wait. Where the old E is 0, a change of roots or dom releases
no slot and makes none null but by E's own change (DESIGN CHOICE, log 87). -/
def State.catenWrite (s : State) (p u : Nat) (v : Word) : Option State :=
  let old := (s.tenAt p u).caten
  let dom := catenDom v
  let area := s.caAt p dom
  let frame := catenRoots v
  if bits v 63 56 ≠ 0 ∨ bits v 7 1 ≠ 0 then some s
  else if !(area.first.getLsbD 0 && decide (area.lo ≤ frame) && decide (frame + 0x1_0000 ≤ area.hi)) then some s
  else
    let changed := dom ≠ catenDom old ∨ frame ≠ catenRoots old
    let joins := catenE v && (!catenE old || changed)
    let moved := if joins then
        s.caMove area.pool dom (frame :: s.caRoots dom) ((s.caAt area.pool dom).displaced frame)
      else some s
    match moved with
    | none => some s
    | some s1 =>
      let released := if catenE old && (!catenE v || changed) then
          s1.caRelease p (catenDom old) (catenRoots old)
        else some s1
      match released with
      | none => none
      | some s2 =>
        let s3 := if catenE v && !catenE old then
            { s2 with mem := clearRange s2.mem frame (frame + 0x1_0000) }
          else s2
        some (s3.modTen p u (fun a => { a with caten := v }))

end Sys2Proof.Machine
end

