-- ==== Sys2Proof/Machine/IntOps.lean ====
section
/-!
DEFINITION. Meanings of the integer families: INT, MULDIV, BITS, the immediate family, LHI and AGEN
(09 R223 to R230). One definition per instruction over the pure functions at the top.
-/

namespace Sys2Proof.Machine

/-! ### Pure operations -/

def shl64 (x n : Word) : Word := x <<< (n.toNat % 64)
def shr64 (x n : Word) : Word := x >>> (n.toNat % 64)
def sar64 (x n : Word) : Word := x.sshiftRight (n.toNat % 64)
def rotl64 (x n : Word) : Word := x.rotateLeft (n.toNat % 64)

/-- The 32-bit forms read bits 31:0 and write the sign-extended result (R224). -/
def addw (x y : Word) : Word := sx (lo32 x + lo32 y)
def subw (x y : Word) : Word := sx (lo32 x - lo32 y)
def shlw (x n : Word) : Word := sx (lo32 x <<< (n.toNat % 32))
def shrw (x n : Word) : Word := sx (lo32 x >>> (n.toNat % 32))
def sarw (x n : Word) : Word := sx ((lo32 x).sshiftRight (n.toNat % 32))

def mulh64 (x y : Word) : Word := BitVec.ofInt 64 (x.toInt * y.toInt / 2 ^ 64)
def mulhu64 (x y : Word) : Word := BitVec.ofNat 64 (x.toNat * y.toNat / 2 ^ 64)
def mulw (x y : Word) : Word := sx (lo32 x * lo32 y)

/-- Quotients truncate toward zero; remainders take the sign of the dividend (R227, R228). -/
def div64 (x y : Word) : Word := BitVec.ofInt 64 (x.toInt.tdiv y.toInt)
def divu64 (x y : Word) : Word := BitVec.ofNat 64 (x.toNat / y.toNat)
def rem64 (x y : Word) : Word := BitVec.ofInt 64 (x.toInt.tmod y.toInt)
def remu64 (x y : Word) : Word := BitVec.ofNat 64 (x.toNat % y.toNat)
def divw (x y : Word) : Word := sx (BitVec.ofInt 32 ((lo32 x).toInt.tdiv (lo32 y).toInt))
def divuw (x y : Word) : Word := sx (BitVec.ofNat 32 ((lo32 x).toNat / (lo32 y).toNat))
def remw (x y : Word) : Word := sx (BitVec.ofInt 32 ((lo32 x).toInt.tmod (lo32 y).toInt))
def remuw (x y : Word) : Word := sx (BitVec.ofNat 32 ((lo32 x).toNat % (lo32 y).toNat))

/-- Bits of a word, lowest first. -/
def bitList (x : Word) : List Bool := (List.range 64).map (fun i => x.getLsbD i)

/-- Leading zero bits; 64 for zero (R229). -/
def clz64 (x : Word) : Word := BitVec.ofNat 64 ((bitList x).reverse.takeWhile (fun b => !b)).length
/-- Trailing zero bits; 64 for zero. -/
def ctz64 (x : Word) : Word := BitVec.ofNat 64 ((bitList x).takeWhile (fun b => !b)).length
def popc64 (x : Word) : Word := BitVec.ofNat 64 ((bitList x).filter (fun b => b)).length

/-- A number from its bits, lowest first. -/
def ofBits : List Bool → Nat
  | [] => 0
  | b :: l => (if b then 1 else 0) + 2 * ofBits l

def brev64 (x : Word) : Word := BitVec.ofNat 64 (ofBits (bitList x).reverse)
def bswap64 (x : Word) : Word := BitVec.ofNat 64 (leNat (leBytes 8 x.toNat).reverse)

/-- Low bit and width of a field, cut at bit 63 (R229). -/
def fieldLo (spec : Word) : Nat := bits spec 5 0
def fieldW (spec : Word) : Nat := min (bits spec 11 6 + 1) (64 - fieldLo spec)

def extu64 (x spec : Word) : Word := BitVec.ofNat 64 (x.toNat / 2 ^ fieldLo spec % 2 ^ fieldW spec)
def exts64 (x spec : Word) : Word :=
  BitVec.ofInt 64 (toInt (fieldW spec) (x.toNat / 2 ^ fieldLo spec % 2 ^ fieldW spec))
def ins64 (old x spec : Word) : Word := setBits old (fieldLo spec + fieldW spec - 1) (fieldLo spec) x.toNat

def lndiv64 (x : Word) : Word := BitVec.ofNat 64 (x.toNat / 192)
def lnmod64 (x : Word) : Word := BitVec.ofNat 64 (x.toNat % 192)

/-! ### Shapes -/

/-- g[d] := f(g[a], bval). -/
def opValue (f : Word → Word → Word) (d a : Reg) (b : Opd) (s : State) : Host.Outcome State Fault Refusal :=
  coreWrite (opdLen b) (a :: opdRegs b) d (fun j c => f (c.reg a) (bval j c b)) s

/-- g[d] := f(g[a]). -/
def opOne (f : Word → Word) (d a : Reg) (s : State) : Host.Outcome State Fault Refusal :=
  coreWrite 4 [a] d (fun _ c => f (c.reg a)) s

/-- g[d] := f(g[a], bval), with Integer-Divide where `zero` says the divisor is zero (R228). -/
def opDivide (zero : Word → Bool) (f : Word → Word → Word) (d a : Reg) (b : Opd) (s : State) :
    Host.Outcome State Fault Refusal :=
  coreExec (opdLen b) false (d :: a :: opdRegs b) (fun j c s =>
    if zero (bval j c b) then .raise s .divide 0
    else .next (s.setReg d (f (c.reg a) (bval j c b)))) s

/-- The divisor of a 64-bit form is zero. -/
def zero64 (x : Word) : Bool := x == 0
/-- The divisor of a 32-bit form is zero. -/
def zero32 (x : Word) : Bool := lo32 x == 0

/-! ### INT -/

/-- ADD (R223): g[a] + bval. -/
def execAdd (d a : Reg) (b : Opd) (s : State) : Host.Outcome State Fault Refusal :=
  opValue (fun x y => x + y) d a b s

/-- SUB (R223): g[a] − bval. -/
def execSub (d a : Reg) (b : Opd) (s : State) : Host.Outcome State Fault Refusal :=
  opValue (fun x y => x - y) d a b s

/-- AND (R223): g[a] and bval. -/
def execAnd (d a : Reg) (b : Opd) (s : State) : Host.Outcome State Fault Refusal :=
  opValue (fun x y => x &&& y) d a b s

/-- OR (R223): g[a] or bval. -/
def execOr (d a : Reg) (b : Opd) (s : State) : Host.Outcome State Fault Refusal :=
  opValue (fun x y => x ||| y) d a b s

/-- XOR (R223): g[a] xor bval. -/
def execXor (d a : Reg) (b : Opd) (s : State) : Host.Outcome State Fault Refusal :=
  opValue (fun x y => x ^^^ y) d a b s

/-- SHL (R223): shift left by bval[5:0]. -/
def execShl (d a : Reg) (b : Opd) (s : State) : Host.Outcome State Fault Refusal :=
  opValue shl64 d a b s

/-- SHR (R223): shift right, zeros enter. -/
def execShr (d a : Reg) (b : Opd) (s : State) : Host.Outcome State Fault Refusal :=
  opValue shr64 d a b s

/-- SAR (R223): shift right, bit 63 enters. -/
def execSar (d a : Reg) (b : Opd) (s : State) : Host.Outcome State Fault Refusal :=
  opValue sar64 d a b s

/-- SLT (R223): signed less than. -/
def execSlt (d a : Reg) (b : Opd) (s : State) : Host.Outcome State Fault Refusal :=
  opValue (fun x y => flag (slt64 x y)) d a b s

/-- SLTU (R223): unsigned less than. -/
def execSltu (d a : Reg) (b : Opd) (s : State) : Host.Outcome State Fault Refusal :=
  opValue (fun x y => flag (ult64 x y)) d a b s

/-- MIN (R223): the smaller, signed. -/
def execMin (d a : Reg) (b : Opd) (s : State) : Host.Outcome State Fault Refusal :=
  opValue min64 d a b s

/-- MAX (R223): the larger, signed. -/
def execMax (d a : Reg) (b : Opd) (s : State) : Host.Outcome State Fault Refusal :=
  opValue max64 d a b s

/-- MINU (R223): the smaller, unsigned. -/
def execMinu (d a : Reg) (b : Opd) (s : State) : Host.Outcome State Fault Refusal :=
  opValue minu64 d a b s

/-- MAXU (R223): the larger, unsigned. -/
def execMaxu (d a : Reg) (b : Opd) (s : State) : Host.Outcome State Fault Refusal :=
  opValue maxu64 d a b s

/-- ANDN (R223): g[a] and not bval. -/
def execAndn (d a : Reg) (b : Opd) (s : State) : Host.Outcome State Fault Refusal :=
  opValue (fun x y => x &&& ~~~y) d a b s

/-- ROTL (R223): rotate left by bval[5:0]. -/
def execRotl (d a : Reg) (b : Opd) (s : State) : Host.Outcome State Fault Refusal :=
  opValue rotl64 d a b s

/-- ADDW (R224): the 32-bit form, sign-extended. -/
def execAddw (d a : Reg) (b : Opd) (s : State) : Host.Outcome State Fault Refusal :=
  opValue addw d a b s

/-- SUBW (R224): the 32-bit form, sign-extended. -/
def execSubw (d a : Reg) (b : Opd) (s : State) : Host.Outcome State Fault Refusal :=
  opValue subw d a b s

/-- SHLW (R224): the 32-bit form, sign-extended. -/
def execShlw (d a : Reg) (b : Opd) (s : State) : Host.Outcome State Fault Refusal :=
  opValue shlw d a b s

/-- SHRW (R224): the 32-bit form, sign-extended. -/
def execShrw (d a : Reg) (b : Opd) (s : State) : Host.Outcome State Fault Refusal :=
  opValue shrw d a b s

/-- SARW (R224): the 32-bit form, sign-extended. -/
def execSarw (d a : Reg) (b : Opd) (s : State) : Host.Outcome State Fault Refusal :=
  opValue sarw d a b s

/-! ### MULDIV -/

/-- MUL (R227): bits 63:0 of the product. -/
def execMul (d a : Reg) (b : Opd) (s : State) : Host.Outcome State Fault Refusal :=
  opValue (fun x y => x * y) d a b s

/-- MULH (R227): bits 127:64 of the signed product. -/
def execMulh (d a : Reg) (b : Opd) (s : State) : Host.Outcome State Fault Refusal :=
  opValue mulh64 d a b s

/-- MULHU (R227): bits 127:64 of the unsigned product. -/
def execMulhu (d a : Reg) (b : Opd) (s : State) : Host.Outcome State Fault Refusal :=
  opValue mulhu64 d a b s

/-- MULW (R227): the 32-bit product. -/
def execMulw (d a : Reg) (b : Opd) (s : State) : Host.Outcome State Fault Refusal :=
  opValue mulw d a b s

/-- DIV (R227, R228): signed quotient. -/
def execDiv (d a : Reg) (b : Opd) (s : State) : Host.Outcome State Fault Refusal :=
  opDivide zero64 div64 d a b s

/-- DIVU (R227, R228): unsigned quotient. -/
def execDivu (d a : Reg) (b : Opd) (s : State) : Host.Outcome State Fault Refusal :=
  opDivide zero64 divu64 d a b s

/-- REM (R227, R228): signed remainder. -/
def execRem (d a : Reg) (b : Opd) (s : State) : Host.Outcome State Fault Refusal :=
  opDivide zero64 rem64 d a b s

/-- REMU (R227, R228): unsigned remainder. -/
def execRemu (d a : Reg) (b : Opd) (s : State) : Host.Outcome State Fault Refusal :=
  opDivide zero64 remu64 d a b s

/-- DIVW (R227, R228): signed 32-bit quotient. -/
def execDivw (d a : Reg) (b : Opd) (s : State) : Host.Outcome State Fault Refusal :=
  opDivide zero32 divw d a b s

/-- DIVUW (R227, R228): unsigned 32-bit quotient. -/
def execDivuw (d a : Reg) (b : Opd) (s : State) : Host.Outcome State Fault Refusal :=
  opDivide zero32 divuw d a b s

/-- REMW (R227, R228): signed 32-bit remainder. -/
def execRemw (d a : Reg) (b : Opd) (s : State) : Host.Outcome State Fault Refusal :=
  opDivide zero32 remw d a b s

/-- REMUW (R227, R228): unsigned 32-bit remainder. -/
def execRemuw (d a : Reg) (b : Opd) (s : State) : Host.Outcome State Fault Refusal :=
  opDivide zero32 remuw d a b s

/-! ### BITS -/

/-- CLZ (R229). -/
def execClz (d a : Reg) (s : State) : Host.Outcome State Fault Refusal := opOne clz64 d a s

/-- CTZ (R229). -/
def execCtz (d a : Reg) (s : State) : Host.Outcome State Fault Refusal := opOne ctz64 d a s

/-- POPC (R229). -/
def execPopc (d a : Reg) (s : State) : Host.Outcome State Fault Refusal := opOne popc64 d a s

/-- BREV (R229). -/
def execBrev (d a : Reg) (s : State) : Host.Outcome State Fault Refusal := opOne brev64 d a s

/-- BSWAP (R229). -/
def execBswap (d a : Reg) (s : State) : Host.Outcome State Fault Refusal := opOne bswap64 d a s

/-- EXTU (R229): the field, zero-extended. -/
def execExtu (d a : Reg) (b : Opd) (s : State) : Host.Outcome State Fault Refusal :=
  opValue extu64 d a b s

/-- EXTS (R229): the field, sign-extended. -/
def execExts (d a : Reg) (b : Opd) (s : State) : Host.Outcome State Fault Refusal :=
  opValue exts64 d a b s

/-- INS (R229): g[d] with the field replaced by the low bits of g[a]. -/
def execIns (d a : Reg) (b : Opd) (s : State) : Host.Outcome State Fault Refusal :=
  coreWrite (opdLen b) (a :: opdRegs b) d (fun j c => ins64 (c.reg d) (c.reg a) (bval j c b)) s

/-! ### Immediate family -/

/-- ADDI (R225). -/
def execAddi (d a : Reg) (i : BitVec 14) (s : State) : Host.Outcome State Fault Refusal :=
  opOne (fun x => x + i.signExtend 64) d a s

/-- ANDI (R225). -/
def execAndi (d a : Reg) (i : BitVec 14) (s : State) : Host.Outcome State Fault Refusal :=
  opOne (fun x => x &&& i.signExtend 64) d a s

/-- ORI (R225). -/
def execOri (d a : Reg) (i : BitVec 14) (s : State) : Host.Outcome State Fault Refusal :=
  opOne (fun x => x ||| i.signExtend 64) d a s

/-- XORI (R225). -/
def execXori (d a : Reg) (i : BitVec 14) (s : State) : Host.Outcome State Fault Refusal :=
  opOne (fun x => x ^^^ i.signExtend 64) d a s

/-- SLTI (R225). -/
def execSlti (d a : Reg) (i : BitVec 14) (s : State) : Host.Outcome State Fault Refusal :=
  opOne (fun x => flag (slt64 x (i.signExtend 64))) d a s

/-- SLTUI (R225). -/
def execSltui (d a : Reg) (i : BitVec 14) (s : State) : Host.Outcome State Fault Refusal :=
  opOne (fun x => flag (ult64 x (i.signExtend 64))) d a s

/-- SHLI (R225). -/
def execShli (d a : Reg) (n : BitVec 6) (s : State) : Host.Outcome State Fault Refusal :=
  opOne (fun x => x <<< n.toNat) d a s

/-- SHRI (R225). -/
def execShri (d a : Reg) (n : BitVec 6) (s : State) : Host.Outcome State Fault Refusal :=
  opOne (fun x => x >>> n.toNat) d a s

/-- SARI (R225). -/
def execSari (d a : Reg) (n : BitVec 6) (s : State) : Host.Outcome State Fault Refusal :=
  opOne (fun x => x.sshiftRight n.toNat) d a s

/-- LHI (R226): sext64(imm20 × 2^12). -/
def execLhi (d : Reg) (i : BitVec 20) (s : State) : Host.Outcome State Fault Refusal :=
  coreWrite 4 [] d (fun _ _ => sx (i.setWidth 32 <<< 12)) s

/-! ### AGEN -/

/-- SHADD1 (R230): g[a] + (bval << 1). -/
def execShadd1 (d a : Reg) (b : Opd) (s : State) : Host.Outcome State Fault Refusal :=
  opValue (fun x y => x + y <<< 1) d a b s

/-- SHADD2 (R230): g[a] + (bval << 2). -/
def execShadd2 (d a : Reg) (b : Opd) (s : State) : Host.Outcome State Fault Refusal :=
  opValue (fun x y => x + y <<< 2) d a b s

/-- SHADD3 (R230): g[a] + (bval << 3). -/
def execShadd3 (d a : Reg) (b : Opd) (s : State) : Host.Outcome State Fault Refusal :=
  opValue (fun x y => x + y <<< 3) d a b s

/-- SHADD4 (R230): g[a] + (bval << 4). -/
def execShadd4 (d a : Reg) (b : Opd) (s : State) : Host.Outcome State Fault Refusal :=
  opValue (fun x y => x + y <<< 4) d a b s

/-- LNDIV (R230). -/
def execLndiv (d a : Reg) (s : State) : Host.Outcome State Fault Refusal := opOne lndiv64 d a s

/-- LNMOD (R230). -/
def execLnmod (d a : Reg) (s : State) : Host.Outcome State Fault Refusal := opOne lnmod64 d a s

end Sys2Proof.Machine
end

