-- ==== Sys2Proof/WellFormed.lean ====
section
/-!
DEFINITION. Well-formed instructions: the conditions of spec/08 that the types of Syntax.lean do
not already impose. Decode.lean answers only well-formed instructions.
-/

namespace Sys2Proof

/-- System register numbers that are assigned (09 R239). -/
def sysRegAssigned (n : BitVec 12) : Bool :=
  [0x000#12, 0x001#12, 0x002#12, 0x003#12, 0x004#12, 0x005#12, 0x010#12, 0x011#12, 0x012#12,
   0x013#12, 0x014#12, 0x015#12, 0x016#12, 0x020#12].contains n

/-- System registers that MTSR may name: CAUSE, EPC, EVA and TRAPV (09 R239, R240). -/
def sysRegWritable (n : BitVec 12) : Bool :=
  [0x001#12, 0x002#12, 0x003#12, 0x005#12].contains n

/-- An FCVT format code names an integer format (08 R206). -/
def fmtIsInt (f : BitVec 3) : Bool := decide (5 ≤ f.toNat)

/-- Legal format pairs of FCVT: different, and not both integer (08 R206). -/
def fcvtLegal (src dst : BitVec 3) : Bool := (src != dst) && !(fmtIsInt src && fmtIsInt dst)

/-- A package number of the largest load-store domain (01 R21). -/
def pkgLegal (p : Pkg) : Bool := decide (p.toNat < 144)

/-- The checks on an instruction's fields. -/
def Instr.wf : Instr → Bool
  | .mfsr _ n => sysRegAssigned n
  | .mtsr _ n => sysRegWritable n
  | .fcvt _ _ _ src dst => fcvtLegal src dst
  | .kld _ i | .kst _ i => decide (i.toNat < 64)
  | .ldq q _ _ _ => decide (q.toNat < 4) || q == 8#6
  | .stq q _ _ _ => q == 4#6 || q == 5#6
  | .dqput q _ | .dqget _ q | .dqpeek _ q | .dqstat _ q => decide (q.toNat < 8)
  | .tksend q | .tkwait q | .tktry _ q | .tkstat _ q => decide (q.toNat < 16)
  | _ => true

/-- The checks on an event's operands: a package of the largest domain, and a port or sensor region
that exists where the event names one (13 R342, 20 R433). -/
def Args.wf (i : Instr) (a : Args) : Bool :=
  pkgLegal a.pkg &&
    match i with
    | .flitNackReplay | .planeDown | .laneFailure | .laneRetrain | .portIsolate | .portRetrain =>
      decide (a.idx < 6)
    | .sensorSample | .senstatClear => decide (a.idx < 14)
    | _ => true

end Sys2Proof
end

