-- ==== Sys2Proof/Machine/FpOps.lean ====
section
/-!
DEFINITION. Meanings of the floating-point families (09 R231 to R234; 07 R175 to R183). No instruction
here faults on a value or sets a flag.
-/

namespace Sys2Proof.Machine

/-! ### Shapes -/

/-- g[d] := zext64 of f(f32 g[a], f32 bval) (R177). -/
def fpValue (f : W32 → W32 → W32) (d a : Reg) (b : Opd) (s : State) : Host.Outcome State Fault Refusal :=
  coreWrite (opdLen b) (a :: opdRegs b) d (fun j c => zx (f (lo32 (c.reg a)) (lo32 (bval j c b)))) s

/-- g[d] := zext64 of f(f32 g[a]). -/
def fpOne (f : W32 → W32) (d a : Reg) (s : State) : Host.Outcome State Fault Refusal :=
  coreWrite 4 [a] d (fun _ c => zx (f (lo32 (c.reg a)))) s

/-- g[d] := the truth of a comparison, as a 64-bit integer (R231). -/
def fpTest (f : W32 → W32 → Bool) (d a : Reg) (b : Opd) (s : State) : Host.Outcome State Fault Refusal :=
  coreWrite (opdLen b) (a :: opdRegs b) d (fun j c => flag (f (lo32 (c.reg a)) (lo32 (bval j c b)))) s

/-- FSGN: the sign bit of a becomes a[31] xor b[31], other bits kept (R231). -/
def f32Sgn (a b : W32) : W32 := a ^^^ (b &&& 0x80000000)

/-- The FP32 word whose top 20 bits are the immediate (07 R183). -/
def fimm (i : BitVec 20) : W32 := i.setWidth 32 <<< 12

/-! ### FCVT (R233; 08 R206) -/

/-- The floating-point format of a format code, none for an integer format. -/
def fmtOf : Nat → Option FpFmt
  | 0 => some fp32 | 1 => some bf16 | 2 => some fp16 | 3 => some fp8a | 4 => some fp8b | _ => none

/-- The integer value of a source operand in an integer format. -/
def intSource (src : Nat) (x : Word) : Int :=
  match src with
  | 5 => (lo32 x).toInt
  | 6 => x.toInt
  | _ => x.toNat

/-- The integer result in an integer format, saturated (R181). -/
def intResult (dst : Nat) (r : RMode) (v : FpVal) : Word :=
  match dst with
  | 5 => BitVec.ofInt 64 (fpToInt r (-(2 ^ 31)) (2 ^ 31 - 1) v)
  | 6 => BitVec.ofInt 64 (fpToInt r (-(2 ^ 63)) (2 ^ 63 - 1) v)
  | _ => BitVec.ofInt 64 (fpToInt r 0 (2 ^ 64 - 1) v)

/-- The conversion of a register value from format code `src` to `dst`. -/
def fcvt64 (mode : BitVec 2) (src dst : BitVec 3) (x : Word) : Word :=
  match fmtOf src.toNat, fmtOf dst.toNat with
  | some f, some t => BitVec.ofNat 64 (fpConvert f t (rmode mode) (x.toNat % 2 ^ f.width))
  | some f, none => intResult dst.toNat (rmode mode) (fpDecode f (x.toNat % 2 ^ f.width))
  | none, some t => BitVec.ofNat 64 (fpRound t (rmode mode) (fpOfInt (intSource src.toNat x)))
  | none, none => x

/-! ### The instructions -/

/-- FADD (R231). -/
def execFadd (d a : Reg) (b : Opd) (s : State) : Host.Outcome State Fault Refusal := fpValue f32Add d a b s

/-- FSUB (R231). -/
def execFsub (d a : Reg) (b : Opd) (s : State) : Host.Outcome State Fault Refusal := fpValue f32Sub d a b s

/-- FMUL (R231). -/
def execFmul (d a : Reg) (b : Opd) (s : State) : Host.Outcome State Fault Refusal := fpValue f32Mul d a b s

/-- FDIV (R231). -/
def execFdiv (d a : Reg) (b : Opd) (s : State) : Host.Outcome State Fault Refusal := fpValue f32Div d a b s

/-- FMIN (R231). -/
def execFmin (d a : Reg) (b : Opd) (s : State) : Host.Outcome State Fault Refusal := fpValue f32Min d a b s

/-- FMAX (R231). -/
def execFmax (d a : Reg) (b : Opd) (s : State) : Host.Outcome State Fault Refusal := fpValue f32Max d a b s

/-- FSGN (R231). -/
def execFsgn (d a : Reg) (b : Opd) (s : State) : Host.Outcome State Fault Refusal := fpValue f32Sgn d a b s

/-- FSQRT (R231; 07 R182). -/
def execFsqrt (d a : Reg) (s : State) : Host.Outcome State Fault Refusal := fpOne f32Sqrt d a s

/-- FEXP2 (R231; 07 R182). -/
def execFexp2 (d a : Reg) (s : State) : Host.Outcome State Fault Refusal := fpOne f32Exp2 d a s

/-- FLOG2 (R231; 07 R182). -/
def execFlog2 (d a : Reg) (s : State) : Host.Outcome State Fault Refusal := fpOne f32Log2 d a s

/-- FRCP (R231; 07 R182). -/
def execFrcp (d a : Reg) (s : State) : Host.Outcome State Fault Refusal := fpOne f32Rcp d a s

/-- FRSQ (R231; 07 R182). -/
def execFrsq (d a : Reg) (s : State) : Host.Outcome State Fault Refusal := fpOne f32Rsq d a s

/-- FEQ (R231). -/
def execFeq (d a : Reg) (b : Opd) (s : State) : Host.Outcome State Fault Refusal := fpTest f32Eq d a b s

/-- FLT (R231). -/
def execFlt (d a : Reg) (b : Opd) (s : State) : Host.Outcome State Fault Refusal := fpTest f32Lt d a b s

/-- FLE (R231). -/
def execFle (d a : Reg) (b : Opd) (s : State) : Host.Outcome State Fault Refusal := fpTest f32Le d a b s

/-- FMAD (R231): d × a + b, rounded once. -/
def execFmad (d a : Reg) (b : Opd) (s : State) : Host.Outcome State Fault Refusal :=
  coreWrite (opdLen b) (a :: opdRegs b) d
    (fun j c => zx (f32Fma (lo32 (c.reg d)) (lo32 (c.reg a)) (lo32 (bval j c b)))) s

/-- FCLASS (R232). -/
def execFclass (d a : Reg) (s : State) : Host.Outcome State Fault Refusal :=
  coreWrite 4 [a] d (fun _ c => f32Class (lo32 (c.reg a))) s

/-- FCVT (R233); an illegal pair of formats raises Illegal-Instruction (08 R206). -/
def execFcvt (d a : Reg) (mode : BitVec 2) (src dst : BitVec 3) (s : State) : Host.Outcome State Fault Refusal :=
  if fcvtLegal src dst then coreWrite 4 [a] d (fun _ c => fcvt64 mode src dst (c.reg a)) s
  else coreExec 4 false [] (fun _ _ s => raiseFree s .illegal) s

/-- FLI (R234): a move. -/
def execFli (d : Reg) (i : BitVec 20) (s : State) : Host.Outcome State Fault Refusal := coreWrite 4 [] d (fun _ _ => zx (fimm i)) s

/-- FADDI (R234). -/
def execFaddi (d : Reg) (i : BitVec 20) (s : State) : Host.Outcome State Fault Refusal :=
  coreWrite 4 [] d (fun _ c => zx (f32Add (lo32 (c.reg d)) (fimm i))) s

/-- FMULI (R234). -/
def execFmuli (d : Reg) (i : BitVec 20) (s : State) : Host.Outcome State Fault Refusal :=
  coreWrite 4 [] d (fun _ c => zx (f32Mul (lo32 (c.reg d)) (fimm i))) s

end Sys2Proof.Machine
end

