-- ==== Sys2Proof/Machine/Control.lean ====
section
/-!
DEFINITION. Meanings of the control transfers (09 R235 to R238): BCC, J, JAL, JREG and LOOP.
-/

namespace Sys2Proof.Machine

/-- The target p + 4 × sext64(disp) (08 R200, R201). -/
def relTarget (c : Core) (disp : Int) : Word := c.pc.setWidth 64 + BitVec.ofInt 64 (4 * disp)

/-- A transfer to `t` that leaves `s'`, checked under 01 R20; EVA is the target (log 21). -/
def transfer (s s' : State) (t : Word) : Res :=
  match badTarget t with
  | some c => .raise s c t
  | none => .goto s' t

/-- A branch taken when `cond` holds of g[a] and g[b] (R235); an untaken branch checks no target. -/
def branch (cond : Word → Word → Bool) (a b : Reg) (i : BitVec 10) (s : State) :
    Host.Outcome State Fault Refusal :=
  coreExec 4 false [a, b] (fun _ c s =>
    if cond (c.reg a) (c.reg b) then transfer s s (relTarget c i.toInt) else .next s) s

/-- BEQ (R235; 08 R200). -/
def execBeq (a b : Reg) (i : BitVec 10) (s : State) : Host.Outcome State Fault Refusal :=
  branch (fun x y => x == y) a b i s
/-- BNE. -/
def execBne (a b : Reg) (i : BitVec 10) (s : State) : Host.Outcome State Fault Refusal :=
  branch (fun x y => x != y) a b i s
/-- BLT. -/
def execBlt (a b : Reg) (i : BitVec 10) (s : State) : Host.Outcome State Fault Refusal :=
  branch slt64 a b i s
/-- BGE. -/
def execBge (a b : Reg) (i : BitVec 10) (s : State) : Host.Outcome State Fault Refusal :=
  branch (fun x y => !slt64 x y) a b i s
/-- BLTU. -/
def execBltu (a b : Reg) (i : BitVec 10) (s : State) : Host.Outcome State Fault Refusal :=
  branch ult64 a b i s
/-- BGEU. -/
def execBgeu (a b : Reg) (i : BitVec 10) (s : State) : Host.Outcome State Fault Refusal :=
  branch (fun x y => !ult64 x y) a b i s

/-- J (R236). -/
def execJ (i : BitVec 26) (s : State) : Host.Outcome State Fault Refusal :=
  coreExec 4 false [] (fun _ c s => transfer s s (relTarget c i.toInt)) s

/-- The address after the 4-byte instruction at p. -/
def linkOf (c : Core) : Word := BitVec.ofNat 64 (c.pc.toNat + 4)

/-- JAL (R236): g63 := p + 4. -/
def execJal (i : BitVec 26) (s : State) : Host.Outcome State Fault Refusal :=
  coreExec 4 false [] (fun _ c s => transfer s (s.setReg 63 (linkOf c)) (relTarget c i.toInt)) s

/-- JR (R237). -/
def execJr (a : Reg) (s : State) : Host.Outcome State Fault Refusal :=
  coreExec 4 false [a] (fun _ c s => transfer s s (c.reg a)) s

/-- JALR (R237): the target is read before the link is written. -/
def execJalr (d a : Reg) (s : State) : Host.Outcome State Fault Refusal :=
  coreExec 4 false [d, a] (fun _ c s => transfer s (s.setReg d (linkOf c)) (c.reg a)) s

/-- Loop counter `l` of the core that acts, set (R238). -/
def State.setLc (s : State) (l : BitVec 2) (v : W32) : State :=
  s.modCore (fun c => { c with lc := vset c.lc l.toNat v })

/-- LOOPB (R238). -/
def execLoopb (l : BitVec 2) (i : BitVec 10) (s : State) : Host.Outcome State Fault Refusal :=
  coreExec 4 false [] (fun _ c s =>
    let n := vget c.lc l.toNat
    if n = 0 then .next s
    else if n - 1 = 0 then .next (s.setLc l 0)
    else transfer s (s.setLc l (n - 1)) (relTarget c i.toInt)) s

/-- LCSET (R238): bits 63:32 of g[a] are ignored. -/
def execLcset (l : BitVec 2) (a : Reg) (s : State) : Host.Outcome State Fault Refusal :=
  coreExec 4 false [a] (fun _ c s => .next (s.setLc l (lo32 (c.reg a)))) s

/-- LCGET (R238): the destination is carried in field a. -/
def execLcget (l : BitVec 2) (a : Reg) (s : State) : Host.Outcome State Fault Refusal :=
  coreWrite 4 [] a (fun _ c => zx (vget c.lc l.toNat)) s

end Sys2Proof.Machine
end

