-- ==== Sys2Proof/Machine/System.lean ====
section
/-!
DEFINITION. Meanings of SYS, TLB, PERF and HOST (09 R239 to R251), system registers and host vectors
(20 R427).
-/

namespace Sys2Proof.Machine

/-! ### System registers (R239, R240) -/

/-- The value MFSR gives for register `n` to core `k` of job `j`. -/
def sysRead (s : State) (j : Job) (k : Kind) (n : Nat) : Word :=
  let c := j.core k
  match n with
  | 0x000 => BitVec.ofNat 64 ((if j.sup then 1 else 0) + (if c.h then 4 else 0) + (if k = .X then 8 else 0))
  | 0x001 => c.cause
  | 0x002 => c.epc
  | 0x003 => c.eva
  | 0x004 => c.ecut
  | 0x005 => j.trapv
  | 0x010 => j.tenant.setWidth 64
  | 0x011 => s.focus.slot.setWidth 64
  | 0x012 => BitVec.ofNat 64 c.allot
  | 0x013 => BitVec.ofNat 64 (s.pkgAt s.fpkg).granted
  | 0x014 => BitVec.ofNat 64 s.ftile
  | 0x015 => BitVec.ofNat 64 (dieOf s.ftile)
  | 0x016 => BitVec.ofNat 64 s.fpkg
  | 0x020 => BitVec.ofNat 64 (s.cycle s.fpkg)
  | _ => 0

/-- Whether a value may be written to TRAPV (R240). -/
def trapvOk (v : Word) : Bool :=
  bits v 1 1 == 0 && bits v 31 18 == 0 && bits v 63 55 == 0 && bits v 39 32 == 0 &&
    decide (trapArea v ≤ 0x5F_FF00)

/-- The bits of CAUSE and of EPC that a write keeps (R239). -/
def causeKeep (v : Word) : Word := v &&& 0x1FF
def epcKeep (v : Word) : Word := v &&& 0x7FFFC

/-- NOP (R242). -/
def execNop (s : State) : Host.Outcome State Fault Refusal :=
  coreExec 4 false [] (fun _ _ s => .next s) s

/-- TRAP (R243): it retires, then raises its cause with the code as EVA. -/
def execTrap (code : BitVec 12) (s : State) : Host.Outcome State Fault Refusal :=
  coreExec 4 false [] (fun _ _ s => .trap s (code.setWidth 64)) s

/-- MFSR (R240): fields a and b are not registers. -/
def execMfsr (d : Reg) (n : BitVec 12) (s : State) : Host.Outcome State Fault Refusal :=
  if sysRegAssigned n then
    coreExec 4 false [d] (fun j _ s => .next (s.setReg d (sysRead s j s.focus.kind n.toNat))) s
  else coreExec 4 false [] (fun _ _ s => raiseFree s .illegal) s

/-- The write of a system register by core `k` (R240), none where it raises Illegal-Instruction. -/
def sysWrite (s : State) (c : Core) (n : Nat) (v : Word) : Option State :=
  match n with
  | 0x005 => if trapvOk v then some (s.modCur (fun j => { j with trapv := v })) else none
  | 0x001 => if c.h then some (s.modCore (fun c => { c with cause := causeKeep v })) else none
  | 0x002 => if c.h then some (s.modCore (fun c => { c with epc := epcKeep v })) else none
  | 0x003 => if c.h then some (s.modCore (fun c => { c with eva := v })) else none
  | _ => none

/-- MTSR (R240). A write to TRAPV is seen by the other core at once (log 19). -/
def execMtsr (d : Reg) (n : BitVec 12) (s : State) : Host.Outcome State Fault Refusal :=
  coreExec 4 false [d] (fun _ c s =>
    match sysWrite s c n.toNat (c.reg d) with
    | some s' => .next s'
    | none => raiseFree s .illegal) s

/-- ERET (R245): the handler ends and the job resumes. -/
def execEret (s : State) : Host.Outcome State Fault Refusal :=
  coreExec 4 false [] (fun _ c s =>
    if !c.h then raiseFree s .illegal
    else .done ((s.modCore (fun c =>
      ({ c with h := false, ecut := 0 }.goto c.epc.toNat).retire)).resume s.key)) s

/-! ### Releases -/

/-- `body` once every older access of the core that acts in the instance of `sc` has performed (05 R128); with one that
never does it waits for ever (05 R148). -/
def afterRelease (s : State) (sc : Scope) (body : State → Res) : Res :=
  if s.released sc then body s else .wait s

/-! ### TLB (R246, R247) -/

/-- Bits 63:56 of a virtual address are zero (01 R14). -/
def vaOk (va : Word) : Bool := bits va 63 56 == 0

/-- Every request of tenant `u` in package `p` that has been translated has been accepted at its place (03 R78, condition 3), but for
those that never can be: of these, one that has not left its core is translated anew (`State.retranslate`). -/
def State.translatedGone (s : State) (p u : Nat) : Bool :=
  let mine := s.reqs.filter (fun r => r.tenant.toNat == u && keyPkg r.by_.key == p && r.op.isAccess && !r.op.isOwn
    && (r.st == .waiting || r.st == .sent || r.st == .lost))
  (mine.isEmpty || (let stuck := s.stuckIds; mine.all (fun r => stuck.contains r.id))) &&
    s.jobs.all (fun e => !(keyPkg e.1 == p && e.2.tenant.toNat == u && [e.2.a, e.2.x].any (fun c => c.asked.any (fun a => !a.held))))

/-- The invalidation made, its conditions holding. -/
def State.invalidateNow (s : State) (p u : Nat) (f : TlbEntry → Bool) : State := (s.invalidate p u f).retranslate p u

/-- An invalidation: it waits for the core's earlier stores and for requests already translated (03 R78). -/
def invalidateAfter (s : State) (u : Nat) (f : TlbEntry → Bool) : Res :=
  if s.translatedGone s.fpkg u then afterRelease s .dom (fun s => .next (s.invalidateNow s.fpkg u f)) else .wait s

/-- TLBINV (R246). -/
def execTlbinv (a : Reg) (s : State) : Host.Outcome State Fault Refusal :=
  coreExec 4 true [a] (fun j c s =>
    let va := c.reg a
    if !vaOk va then .raise s .addressForm va
    else invalidateAfter s j.tenant.toNat (fun e => e.hits j.tenant.toNat va.toNat)) s

/-- TLBINVT (R246). -/
def execTlbinvt (s : State) : Host.Outcome State Fault Refusal :=
  coreExec 4 true [] (fun j _ s => invalidateAfter s j.tenant.toNat (fun _ => true)) s

/-- The result dword of a probe that finds an entry (R247). -/
def probeFields (e : TlbEntry) (va : Nat) : Word :=
  BitVec.ofNat 64 (e.phys va / 2 ^ 16 * 2 ^ 16 + e.placement.toNat * 2 ^ 12 + e.xwr.toNat * 16 + e.size.toNat * 4)

/-- What TLBPRB reports of an entry: no valid window covering it is status 2 (R247). -/
def probeEntry (s : State) (p u va : Nat) (e : TlbEntry) : Word :=
  if s.windowOk p u e.pa (e.pa + pageBytes e.size.toNat - 1) 0 then probeFields e va
  else 0x2000_0000_0000_0000

/-- TLBPRB (R247): a probe that makes no TLB entry. -/
def execTlbprb (d a : Reg) (s : State) : Host.Outcome State Fault Refusal :=
  coreExec 4 true [d, a] (fun j c s =>
    let va := c.reg a
    let u := j.tenant.toNat
    if !vaOk va then .next (s.setReg d 0x3000_0000_0000_0000)
    else match (s.tlbOf s.fpkg s.ftile .core).find? (fun e => e.hits u va.toNat) with
      | some e => .next (s.setReg d (probeEntry s s.fpkg u va.toNat e))
      | none => match (s.countMiss u va.toNat).walk s.fpkg (dieOf s.ftile) u va.toNat 0 with
        | (s', .leaf e _) => .next (s'.setReg d (probeEntry s s.fpkg u va.toNat e))
        | (s', .fault .pageAbsent) => .next (s'.setReg d 0x1000_0000_0000_0000)
        | (s', .fault _) => .next (s'.setReg d 0x2000_0000_0000_0000)
        | (s', .busy) => .wait s') s

/-! ### PERF (R248, R249) -/

/-- Place of a tile counter among the five, by its number; the number of a counter of a core context has none. -/
def perfPlace (n : Nat) : Nat := if n = 6 then 3 else if n = 7 then 4 else n

/-- The value of a performance counter at issue: one of the tile's as the cycle at time `now` found it (R249). -/
def perfValue (now : Nat) (t : Tile) (c : Core) (n : Nat) : Word :=
  match n with
  | 3 => c.instret | 4 => c.issuecyc | 5 => c.stallcyc
  | n => t.counterAt now (perfPlace n)

/-- A tile counter cleared in the cycle at time `now`: the events of that cycle count after the clear (R249). -/
def Tile.clearPerf (now : Nat) (t : Tile) (n : Nat) : Tile :=
  let i := perfPlace n
  let v := vget t.counters i - t.counterAt now i
  let t := { t with before := t.before.map (fun b => if b.1 = now then (b.1, vset b.2 i 0) else b) }
  match n with
  | 0 => { t with reqloc := v } | 1 => { t with reqdie := v } | 2 => { t with reqpkg := v }
  | 6 => { t with tlbmiss := v } | 7 => { t with reissue := v } | _ => t

/-- A core-context counter cleared. -/
def Core.clearPerf (c : Core) (n : Nat) : Core :=
  match n with
  | 3 => { c with instret := 0 } | 4 => { c with issuecyc := 0 } | 5 => { c with stallcyc := 0 } | _ => c

/-- Whether a counter is held per core context. -/
def perfOfCore (n : Nat) : Bool := n == 3 || n == 4 || n == 5

/-- PERFRD (R249): the value at issue. -/
def execPerfrd (d : Reg) (b : Opd) (s : State) : Host.Outcome State Fault Refusal :=
  coreExec (opdLen b) false (d :: opdRegs b) (fun j c s =>
    let n := (bval j c b).toNat
    if 7 < n then raiseFree s .illegal
    else .next (s.setReg d (perfValue s.wall (s.tileAt s.tkey) c n))) s

/-- PERFCLR (R249): a tile counter needs tenant supervisor level, checked at step 5. -/
def execPerfclr (b : Opd) (s : State) : Host.Outcome State Fault Refusal :=
  coreExec (opdLen b) false (opdRegs b) (fun j c s =>
    let n := (bval j c b).toNat
    if 7 < n then raiseFree s .illegal
    else if perfOfCore n then .next (s.modCore (fun c => c.clearPerf n))
    else if !j.sup then raiseFree s .privileged
    else .next (s.modTile s.tkey (fun t => t.clearPerf s.wall n))) s

/-! ### HOST (R250, R251; 20 R427) -/

/-- The message of vector `v` at time `now`, while its entry and the function are unmasked (20 R427); one that the Soraro
link cannot take waits (20 R429). -/
def TenantArea.message (a : TenantArea) (up : Bool) (now v : Nat) : TenantArea :=
  if a.msixOff || a.msixMask.getLsbD v then a
  else if up then { a with messages := a.messages ++ [BitVec.ofNat 4 v] }
  else { a with heldMsgs := a.heldMsgs ++ [(BitVec.ofNat 4 v, now)] }

/-- A raise of vector `v` of tenant `u` in package `p` (20 R427): VPEND is set, and the message goes when it was clear. -/
def State.raiseVector (s : State) (p u v : Nat) : State :=
  s.modTen p u (fun a =>
    let bit := a.vpend.getLsbD v
    let a := { a with vpend := a.vpend ||| BitVec.ofNat 16 (2 ^ v), vraise := mput a.vraise v (s.wall, bit) }
    if bit then a else a.message (s.pkgAt p).linkUp s.wall v)

/-- Bits of VPEND cleared by a write of 1. A bit raised in the same core cycle stays, and its message goes (20 R427). -/
def State.clearVpend (s : State) (p u : Nat) (v : Word) : State :=
  s.modTen p u (fun a =>
    (List.range 16).foldl (fun (a : TenantArea) i =>
      if !v.getLsbD i || !a.vpend.getLsbD i then a
      else match mget a.vraise i with
        | some (t, merged) =>
          if t = s.wall then (if merged then { a.message (s.pkgAt p).linkUp s.wall i with vraise := mput a.vraise i (t, false) } else a)
          else { a with vpend := setBits a.vpend i i 0 }
        | none => { a with vpend := setBits a.vpend i i 0 }) a)

/-- HOSTINT (R250): a domain-scope release, then the vector. -/
def execHostint (b : Opd) (s : State) : Host.Outcome State Fault Refusal :=
  coreExec (opdLen b) false (opdRegs b) (fun j c s =>
    let v := (bval j c b).toNat
    if 15 < v then raiseFree s .illegal
    else afterRelease s .dom (fun s => .next (s.raiseVector s.fpkg j.tenant.toNat v))) s

end Sys2Proof.Machine
end

