-- ==== Sys2Proof/Machine/LocalOps.lean ====
section
/-!
DEFINITION. Meanings of the instructions on a tile's own storage: LDL, STL (10 R255), spill and constant
bank (10 R256; 08 R199), data queues and tokens (10 R257, R260 to R262), and the tag table (02 R46 to R48; 10
R270, R271).
-/

namespace Sys2Proof.Machine

/-! ### Scratchpad (10 R255) -/

/-- The check of a local address for an access of `n` bytes aligned to `al`: Local-Range, then
Misaligned-Access (01 R16; 10 R255). -/
def localFault (a : Word) (n al : Nat) : Option Cause :=
  if padSize < a.toNat + n then some .localRange
  else if a.toNat % al ≠ 0 then some .misaligned
  else none

/-- `body` after the check of a local address; EVA is the address (log 21). -/
def withLocal (s : State) (a : Word) (n al : Nat) (body : State → Res) : Res :=
  match localFault a n al with
  | some c => .raise s c a
  | none => body s

/-- `body` unless the access meets an uncorrectable error (10 R255; 15 R384). -/
def soundPad (s : State) (a : Word) (n : Nat) (write : Bool) (body : State → Res) : Res :=
  if s.padFlawed a.toNat n write then .raise s .dataError a else body s

/-- `body` once the local queue may go on (05 R119, R125, R128 to R130). -/
def inLocalQueue (s : State) (write : Bool) (body : State → Res) : Res := if s.localFree write then body s else .wait s

/-- `body` after the checks of an access to the `n` bytes of the scratchpad at `a`, a multiple of `n`. -/
def withPad (s : State) (a : Word) (n : Nat) (write : Bool) (body : State → Res) : Res :=
  withLocal s a 1 n (fun s => inLocalQueue s write (fun s => soundPad s a n write body))

/-- Nothing keeps a local access without a result from its bank: neither its queue nor the accesses it releases (05 R128). -/
def State.ownFree (s : State) (op : LocalOp) : Bool := s.localFree op.writes && (ReqOp.own op).release.all s.released

/-- A local access without a result: it performs now, or stands in its queue, and the core goes on (05 R119; 10 R264, R267). -/
def postLocal (s : State) (j : Job) (c : Core) (op : LocalOp) (a n : Nat) (v : Word) : Res :=
  if s.ownFree op then .next { s with mem := op.act s.mem s.fpkg s.ftile a n v }
  else .next (s.queueUp s.issuer j.tenant (.own op) (BitVec.ofNat 64 a) (op.at_ s.fpkg s.ftile a) c.pc.toNat n v false).2

/-- LDL (R255). -/
def execLdl (d a : Reg) (z : LoadSize) (i : BitVec 11) (s : State) : Host.Outcome State Fault Refusal :=
  coreExec 4 false [d, a] (fun _ c s =>
    let n := loadBytes z
    let ad := effAddr (c.reg a) i n
    withPad s ad n false (fun s => .next (s.setReg d (extend n (loadSigned z) (s.readL ad.toNat n))))) s

/-- STL (R255): an uncorrectable error that it meets is raised at the STL, which waits for its queue first. -/
def execStl (d a : Reg) (z : StoreSize) (i : BitVec 11) (s : State) : Host.Outcome State Fault Refusal :=
  coreExec 4 false [d, a] (fun j c s =>
    let n := storeBytes z
    let ad := effAddr (c.reg a) i n
    withLocal s ad 1 n (fun s =>
      if s.padFlawed ad.toNat n true then inLocalQueue s true (fun s => .raise s .dataError ad)
      else postLocal s j c .store ad.toNat n (c.reg d))) s

/-! ### Spill and constant bank (08 R199) -/

/-- LDS: g[d] := spill dword i. -/
def execLds (d : Reg) (i : BitVec 9) (s : State) : Host.Outcome State Fault Refusal :=
  coreWrite 4 [] d (fun _ c => (mget c.spill i.toNat).getD 0) s

/-- STS: spill dword i := g[d]; a zero is kept as an unlisted entry. -/
def execSts (d : Reg) (i : BitVec 9) (s : State) : Host.Outcome State Fault Refusal :=
  coreExec 4 false [d] (fun _ c s => .next (s.modCore (fun k =>
    { k with spill := if c.reg d = 0 then mdel k.spill i.toNat else mput k.spill i.toNat (c.reg d) }))) s

/-- KLD: g[d] := k[i]. -/
def execKld (d : Reg) (i : BitVec 9) (s : State) : Host.Outcome State Fault Refusal :=
  coreWrite 4 [] d (fun j _ => vget j.kbank i.toNat) s

/-- KST: k[i] := g[d], seen by the other core at once (log 19). -/
def execKst (d : Reg) (i : BitVec 9) (s : State) : Host.Outcome State Fault Refusal :=
  coreExec 4 false [d] (fun _ c s => .next (s.modCur (fun j => { j with kbank := vset j.kbank i.toNat (c.reg d) }))) s

/-! ### Data queues (10 R257, R260, R261) -/

/-- The elements that have entered a queue: those before the first one whose load is on its way (R258). -/
def entered : List DqEntry → List Word
  | .val v :: l => v :: entered l
  | _ => []

/-- The queue-discipline fault of queue `q`. -/
def dqFault (s : State) (q : Nat) : Res := .raise s .queueDiscipline (BitVec.ofNat 64 q)

/-- Neighbour of tile `t` across link `l`, none outside the die (R261). -/
def neighbour (t : Nat) (l : Nat) : Option Nat :=
  let x := colOf t
  let y := rowOf t
  match l with
  | 0 => if y = 0 then none else some (tileFrom (dieOf t) x (y - 1))
  | 1 => if x = 7 then none else some (tileFrom (dieOf t) (x + 1) y)
  | 2 => if y = 7 then none else some (tileFrom (dieOf t) x (y + 1))
  | _ => if x = 0 then none else some (tileFrom (dieOf t) (x - 1) y)

/-- Whether the neighbour of tile `t` across link `l` exists and is present. -/
def State.neighbourPresent (s : State) (p t l : Nat) : Bool :=
  match neighbour t l with
  | some u => s.tilePresent p u
  | none => false

/-- The core that puts to dq `q` below 6, and the one that takes. -/
def dqPutter (q : Nat) : Kind := if q < 4 then .A else .X
def dqTaker (q : Nat) : Kind := if q < 4 then .X else .A

/-- DQPUT to dq0 to dq5. -/
def dqPut (s : State) (j : Job) (q : Nat) (v : Word) : Res :=
  if s.focus.kind ≠ dqPutter q then dqFault s q
  else if (vget j.dq q).length < 64 then .next (s.modCur (fun j => { j with dq := vset j.dq q (vget j.dq q ++ [.val v]) }))
  else if j.finished (dqTaker q) then dqFault s q
  else if 4 ≤ q then .waitDq s
  else .wait s

/-- DQPUT to dq6 or dq7 (side 0 or 1): the first binds it to a link (R261). -/
def nbPut (s : State) (j : Job) (q : Nat) (v : Word) : Res :=
  let n := vget j.nq (q - 6)
  match n.link with
  | none =>
    if bits v 63 2 ≠ 0 ∨ !s.neighbourPresent s.fpkg s.ftile (bits v 1 0) then dqFault s q
    else .next (s.modCur (fun j => { j with nq := vset j.nq (q - 6) { n with link := some (BitVec.ofNat 2 v.toNat) } }))
  | some l =>
    if !s.neighbourPresent s.fpkg s.ftile l.toNat then
      .next (s.modCur (fun j => { j with nq := vset j.nq (q - 6) { n with outq := [] } }))
    else if n.outq.length < 64 then
      .next (s.modCur (fun j => { j with nq := vset j.nq (q - 6) { n with outq := n.outq ++ [v] } }))
    else .wait s

/-- DQPUT (R260). -/
def execDqput (q : BitVec 6) (b : Opd) (s : State) : Host.Outcome State Fault Refusal :=
  coreExec (opdLen b) false (opdRegs b) (fun j c s =>
    if q.toNat < 6 then dqPut s j q.toNat (bval j c b) else nbPut s j q.toNat (bval j c b)) s

/-- DQGET or DQPEEK of dq0 to dq7: the oldest element, which stays when `peek` (R260). -/
def dqTake (peek : Bool) (d : Reg) (s : State) (j : Job) (q : Nat) : Res :=
  if q < 6 then
    if s.focus.kind ≠ dqTaker q then dqFault s q
    else match vget j.dq q with
      | .val v :: rest =>
        let s := if peek then s else s.modCur (fun j => { j with dq := vset j.dq q rest })
        .next (s.setReg d v)
      | [] =>
        if j.finished (dqPutter q) then dqFault s q else if q < 4 then .waitDq s else .wait s
      | .waiting _ :: _ => if q < 4 then .waitDq s else .wait s
  else
    let n := vget j.nq (q - 6)
    if n.link = none then dqFault s q
    else match n.inq with
      | v :: rest =>
        let s := if peek then s else s.modCur (fun j => { j with nq := vset j.nq (q - 6) { n with inq := rest } })
        .next (s.setReg d v)
      | [] => .wait s

/-- DQGET (R260). -/
def execDqget (d : Reg) (q : BitVec 6) (s : State) : Host.Outcome State Fault Refusal :=
  coreExec 4 false [d] (fun j _ s => dqTake false d s j q.toNat) s

/-- DQPEEK (R260). -/
def execDqpeek (d : Reg) (q : BitVec 6) (s : State) : Host.Outcome State Fault Refusal :=
  coreExec 4 false [d] (fun j _ s => dqTake true d s j q.toNat) s

/-- The status dword of DQSTAT (R260). -/
def dqStatus (j : Job) (q : Nat) : Word :=
  if q < 6 then
    BitVec.ofNat 64 ((if j.finished (dqPutter q) then 256 else 0) + (entered (vget j.dq q)).length)
  else
    let n := vget j.nq (q - 6)
    match n.link with
    | some l => BitVec.ofNat 64 (2048 + l.toNat * 512 + n.inq.length)
    | none => BitVec.ofNat 64 n.inq.length

/-- DQSTAT (R260): never waits or faults on direction. -/
def execDqstat (d : Reg) (q : BitVec 6) (s : State) : Host.Outcome State Fault Refusal :=
  coreExec 4 false [d] (fun j _ s => .next (s.setReg d (dqStatus j q.toNat))) s

/-! ### Tokens (06 R156; 10 R262) -/

def TokenQ.producer (q : TokenQ) : Option Kind := q.bind.map Prod.fst
def TokenQ.consumer (q : TokenQ) : Option Kind := q.bind.map Prod.snd

/-- Update of token queue `n` of the job that acts. -/
def State.modTq (s : State) (n : Nat) (f : TokenQ → TokenQ) : State :=
  s.modCur (fun j => { j with tq := vset j.tq n (f (vget j.tq n)) })

/-- Tokens that the core that acts has sent to queue `q` and that have not entered (R262). -/
def State.tokensComing (s : State) (q : Nat) : Nat :=
  (s.reqs.filter (fun r => ofCtx s.issuer r && (match r.op with | .token n => n == q | _ => false))).length

/-- TKSEND (R262): it leaves the core at once; the token enters once every older access of the context has performed. -/
def execTksend (q : BitVec 6) (s : State) : Host.Outcome State Fault Refusal :=
  coreExec 4 false [] (fun j c s =>
    let t := vget j.tq q.toNat
    if t.producer ≠ some s.focus.kind then raiseFree s .queueDiscipline
    else if 32 ≤ t.count + s.tokensComing q.toNat then .raise s .tokenOverflow (BitVec.ofNat 64 q.toNat)
    else .next (s.queueUp s.issuer j.tenant (.token q.toNat) 0 0 c.pc.toNat 0 0 false).2) s

/-- TKWAIT (R262). -/
def execTkwait (q : BitVec 6) (s : State) : Host.Outcome State Fault Refusal :=
  coreExec 4 false [] (fun j _ s =>
    let t := vget j.tq q.toNat
    if t.consumer ≠ some s.focus.kind then raiseFree s .queueDiscipline
    else if 0 < t.count then .next (s.modTq q.toNat (fun t => { t with count := t.count - 1 }))
    else if (t.producer.map j.finished).getD true then raiseFree s .queueDiscipline
    else .wait s) s

/-- TKTRY (R262): 1 with a token, 0 with an empty queue, 2 when its producer has finished too. -/
def execTktry (d : Reg) (q : BitVec 6) (s : State) : Host.Outcome State Fault Refusal :=
  coreExec 4 false [d] (fun j _ s =>
    let t := vget j.tq q.toNat
    if t.consumer ≠ some s.focus.kind then raiseFree s .queueDiscipline
    else if 0 < t.count then .next ((s.modTq q.toNat (fun t => { t with count := t.count - 1 })).setReg d 1)
    else .next (s.setReg d (if (t.producer.map j.finished).getD true then 2 else 0))) s

/-- The status dword of TKSTAT (R262). -/
def tkStatus (j : Job) (t : TokenQ) : Word :=
  match t.bind with
  | none => 1024
  | some (p, c) => BitVec.ofNat 64 ((if j.finished c then 512 else 0) + (if j.finished p then 256 else 0) + t.count)

/-- TKSTAT (R262): never faults on binding. -/
def execTkstat (d : Reg) (q : BitVec 6) (s : State) : Host.Outcome State Fault Refusal :=
  coreExec 4 false [d] (fun j _ s => .next (s.setReg d (tkStatus j (vget j.tq q.toNat)))) s

/-! ### The tag table (02 R46 to R48) -/

/-- A cache geometry (02 R47). -/
structure Geom where
  lgsets : Nat
  ways : Nat
  base : Nat

/-- The geometry of a dword, none where it raises Local-Range (R47). -/
def geomOf (g : Word) : Option Geom :=
  let m : Geom := ⟨bits g 23 20, bits g 19 15 + 1, bits g 14 0⟩
  if bits g 63 24 ≠ 0 ∨ 16 < m.ways ∨ 32768 < m.base + 2 ^ m.lgsets * m.ways then none else some m

def Geom.slots (m : Geom) : Nat := 2 ^ m.lgsets * m.ways

/-- Whether an entry matches a kind and key (R46, R48). -/
def tagMatch (e : Word) (kind key : Nat) : Bool :=
  tagKind e == kind && tagKey e == key && !(kind == 1 && bits e 53 49 != 0)

/-- The ways of a set as slots. -/
def Geom.setSlots (m : Geom) (i : Nat) : List Nat := (List.range m.ways).map (fun w => m.base + i * m.ways + w)

/-- The result dword of TGLOOK (10 R271). -/
def lookResult (code dirty way slot : Nat) : Word :=
  BitVec.ofNat 64 (code * 2 ^ 62 + dirty * 2 ^ 57 + way * 2 ^ 15 + slot)

/-- The way with the greatest age that is not pending, the lowest on a tie (R48). -/
def oldestWay (s : State) : List Nat → Option Nat → Option Nat
  | [], best => best
  | k :: l, best =>
    if tagPending (s.tag k) then oldestWay s l best
    else match best with
      | none => oldestWay s l (some k)
      | some b => oldestWay s l (if tagAge (s.tag b) < tagAge (s.tag k) then some k else best)

/-- TGLOOK's search of a set (R48): the state after it, and the result. -/
def tagLook (s : State) (slots : List Nat) (kind key : Nat) : State × Word :=
  let first := slots.headD 0
  match slots.find? (fun k => tagMatch (s.tag k) kind key) with
  | some k =>
    let e := s.tag k
    if tagPending e then (s, lookResult 1 (tagDirty e) (k - first) k)
    else (s.ageSet slots k (tagAge e), lookResult 0 (tagDirty e) (k - first) k)
  | none =>
    match slots.find? (fun k => !tagValid (s.tag k)) with
    | some k => (s, lookResult 2 (tagDirty (s.tag k)) (k - first) k)
    | none =>
      match oldestWay s slots none with
      | some k => (s, lookResult 2 (tagDirty (s.tag k)) (k - first) k)
      | none => (s, lookResult 3 0 0 0)

/-- `body` with the geometry of g[a], checked first (10 R271; EVA is the dword, log 21). -/
def withGeom (s : State) (g : Word) (body : Geom → Res) : Res :=
  match geomOf g with
  | some m => body m
  | none => .raise s .localRange g

/-- TGLOOK (10 R270, R271). -/
def execTglook (d a : Reg) (b : Opd) (s : State) : Host.Outcome State Fault Refusal :=
  coreExec (opdLen b) false (d :: a :: opdRegs b) (fun j c s =>
    withGeom s (c.reg a) (fun m =>
      let v := bval j c b
      let kind := bits v 63 62
      if kind = 0 ∨ kind = 3 then raiseFree s .illegal
      else if kind = 2 ∧ 8 < m.lgsets then .raise s .localRange (c.reg a)
      else
        let set := (if kind = 1 then bits v 53 0 else bits v 61 54) % 2 ^ m.lgsets
        inLocalQueue s true (fun s =>
          let r := tagLook s (m.setSlots set) kind (bits v 53 0)
          .next (r.1.setReg d r.2)))) s

/-- The slot of g[d] must lie among the geometry's slots (10 R271). -/
def withSlot (s : State) (m : Geom) (slot : Word) (body : Nat → Res) : Res :=
  if m.base ≤ slot.toNat ∧ slot.toNat < m.base + m.slots then body slot.toNat
  else .raise s .localRange slot

/-- TGSET (10 R271). -/
def execTgset (d a : Reg) (b : Opd) (s : State) : Host.Outcome State Fault Refusal :=
  coreExec (opdLen b) false (d :: a :: opdRegs b) (fun j c s =>
    withGeom s (c.reg a) (fun m => withSlot s m (c.reg d) (fun slot =>
      let v := bval j c b
      if bits v 63 62 = 3 then raiseFree s .illegal
      else postLocal s j c (.tgset (m.base + (slot - m.base) / m.ways * m.ways) m.ways) slot 0 v))) s

/-- TGINV (10 R271). -/
def execTginv (d a : Reg) (s : State) : Host.Outcome State Fault Refusal :=
  coreExec 4 false [d, a] (fun j c s =>
    withGeom s (c.reg a) (fun m => withSlot s m (c.reg d) (fun slot => postLocal s j c .tginv slot 0 0))) s

/-- TGCLR (10 R271). -/
def execTgclr (a : Reg) (s : State) : Host.Outcome State Fault Refusal :=
  coreExec 4 false [a] (fun j c s =>
    withGeom s (c.reg a) (fun m => postLocal s j c (.tgclr m.slots) m.base 0 0)) s

/-- TGRD (10 R271). -/
def execTgrd (d a : Reg) (s : State) : Host.Outcome State Fault Refusal :=
  coreExec 4 false [d, a] (fun _ c s =>
    withGeom s (c.reg a) (fun m => inLocalQueue s false (fun s => .next (s.setReg d (s.tag m.base))))) s

end Sys2Proof.Machine
end

