-- ==== Sys2Proof/Machine/RingOps.lean ====
section
/-!
DEFINITION. Meanings of the RING family (10 R268, R269; 02 R53 to R61; 05 R139). The core sends one
operation to a ring counter unit and waits for its result dword.
-/

namespace Sys2Proof.Machine

/-- A ring reference that passed R268: tile key, ring number, and whether it is remote. -/
structure RingRef where
  tile : Nat
  ring : Nat
  remote : Bool

/-- The checks of R268 on a reference of tenant `u`. -/
def ringRef (s : State) (u : Nat) (ref : Word) : Except Cause RingRef :=
  if bits ref 63 24 ≠ 0 ∨ bits ref 6 6 ≠ 0 ∨ (bits ref 7 7 = 0 ∧ bits ref 23 8 ≠ 0) then .error .localRange
  else
    let p := bits ref 23 16
    let t := bits ref 15 8
    if bits ref 7 7 = 0 ∨ (p = s.fpkg ∧ t = s.ftile) then .ok ⟨s.tkey, bits ref 5 0, false⟩
    else if (s.pkgAt s.fpkg).d ≤ p ∨ !s.tilePresent p t then .error .protection
    else if !s.windowOk s.fpkg u (apAddr p t 0) (apAddr p t 0xFFFF) permRW then .error .protection
    else .ok ⟨tileKey p t, bits ref 5 0, true⟩

/-- The place of a tile's ring unit. -/
def tilePlace (k : Nat) : Place := .tile (k / 256) (k % 256)

/-- A ring message from a job of a tenant that a tile served, and whose rings it has cleared since, is not joined (01 R13): of any
job while the tile serves another tenant, and later of one that the clear found running (log 81). -/
def State.outgoing (s : State) (tile : Nat) : Bool :=
  match s.jobAt s.key with
  | some j => match mget (s.tileAt tile).former j.tenant.toNat with
    | some n => decide (j.jid < n) || (s.tileAt tile).tenant != some j.tenant
    | none => false
  | none => false

/-- A ring operation of the core that acts, as its unit performs it: the result dword, or a wait at the ring. -/
def ringAct (r : RingRef) (op : List Byte → Ring → Issuer → RingOut) (data : List Byte) (s : State) : Answer :=
  if s.outgoing r.tile then .ok s (ringResult (s.ringAt r.tile r.ring) .notJoined 0 0) []
  else
    let old := s.askOf
    let t := s.modCore (fun c => { c with asked := some ⟨0, 0, 0, 0, 0, [], true⟩, reply := none })
    let t := t.putRing r.tile r.ring (op data (t.ringAt r.tile r.ring) t.issuer)
    match (t.jobAt t.key).bind (fun j => (j.core t.focus.kind).reply) with
    | some v => .ok (t.modCore (fun c => { c with asked := old, reply := none })) v []
    | none => .hold t

/-- The operation goes to its unit, a remote one as a ring message (R268); the core retires with the result if it is there at
once (R124). -/
def ringSend (s : State) (r : RingRef) (ref : Word) (data : List Byte) (act : List Byte → State → Answer)
    (k : State → Word → List Byte → Res) : Res :=
  let pl := tilePlace r.tile
  if r.remote then
    exchange s ⟨true, false, pl, pl.ringTarget⟩ ref pl.num data (fun s => .raise s .requestTimeout ref) act k
  else match act data s with
    | .ok s v x => k s v x
    | .err s c e => .raise s c e
    | .hold s => .sent (s.ask ⟨ref, pl.num, 0, s.wall, 0, [], true⟩)

/-- A reference as it was sent: what it named then. -/
def sentRef (s : State) (ref : Word) : RingRef :=
  let p := bits ref 23 16
  let t := bits ref 15 8
  if bits ref 7 7 = 0 ∨ (p = s.fpkg ∧ t = s.ftile) then ⟨s.tkey, bits ref 5 0, false⟩ else ⟨tileKey p t, bits ref 5 0, true⟩

/-- Request-Timeout of a ring message that its unit holds: the unit holds it no longer. -/
def ringLate (ref : Word) (s : State) : Res :=
  .raise (s.dropWaiters (fun w => w.by_ == s.issuer)) .requestTimeout ref

/-- The common course of a ring instruction: `check` of g[b] gives its step-5 fault; `rel` is the scope of the release it is;
`carry` what it takes along of the scratchpad. -/
def ringExec (sup : Bool) (d a : Reg) (b : Option Reg) (check : State → Word → Option (Cause × Word))
    (rel : Option Scope) (carry : State → Word → List Byte) (act : Word → RingRef → List Byte → State → Answer)
    (k : Word → State → Word → List Byte → Res) (s : State) : Host.Outcome State Fault Refusal :=
  coreExec 4 sup (d :: a :: b.toList) (fun j c s =>
    let v := (b.map c.reg).getD 0
    match c.asked with
    | some q =>
      match c.reply with
      | some w => if s.answerComes s.key c then k v s w [] else heldAsk s (tilePlace (sentRef s q.va).tile) q (ringLate q.va)
      | none =>
        let r := sentRef s q.va
        if q.held then heldAsk s (tilePlace r.tile) q (ringLate q.va)
        else ringSend s r q.va q.data (act v r) (k v)
    | none =>
      match ringRef s j.tenant.toNat (c.reg a) with
      | .error e => .raise s e (c.reg a)
      | .ok r =>
        match check s v with
        | some (e, eva) => if e = .illegal then raiseFree s e else .raise s e eva
        | none =>
          let go := fun (s : State) => ringSend s r (c.reg a) (carry s v) (act v r) (k v)
          match rel with
          | some sc => afterRelease s sc go
          | none => go s) s

/-- The result dword goes to g[d]. -/
def ringDone (d : Reg) (_ : Word) (s : State) (v : Word) (_ : List Byte) : Res := .next (s.setReg d v)

/-- A ring operation with no data beside g[b]. -/
def ringPlain (sup : Bool) (d a : Reg) (b : Option Reg) (check : State → Word → Option (Cause × Word)) (rel : Option Scope)
    (op : Word → Ring → Issuer → RingOut) (s : State) : Host.Outcome State Fault Refusal :=
  ringExec sup d a b check rel (fun _ _ => []) (fun v r => ringAct r (fun _ => op v)) (ringDone d) s

/-- No check of g[b]. -/
def noCheck (_ : State) (_ : Word) : Option (Cause × Word) := none

/-- The check of a role operand (R269). -/
def roleCheck (_ : State) (v : Word) : Option (Cause × Word) := if bits v 63 2 ≠ 0 then some (.illegal, 0) else none
/-- The checks of a 32-byte local area (R269; 15 R384). -/
def areaCheck (s : State) (v : Word) : Option (Cause × Word) :=
  match localFault v 32 16 with
  | some c => some (c, v)
  | none => if s.flawed (apAddr s.fpkg s.ftile v.toNat) 32 then some (.dataError, v) else none
/-- The check of the extent of an RGINIT image (02 R53). -/
def initCheck (_ : State) (v : Word) : Option (Cause × Word) :=
  let size := 2 ^ bits v 55 52 * 16 * bits v 51 40
  if padSize < bits v 22 0 + max size 1 then some (.localRange, BitVec.ofNat 64 (bits v 22 0)) else none

/-- RGCLAIM (R57, R269). -/
def execRgclaim (d a b : Reg) (_ : Scope) (s : State) : Host.Outcome State Fault Refusal :=
  ringPlain false d a (some b) noCheck none (fun v r i => r.claim i v.toNat) s

/-- RGFILL (R57, R269): a release at its instance. -/
def execRgfill (d a : Reg) (sc : Scope) (s : State) : Host.Outcome State Fault Refusal :=
  ringPlain false d a none noCheck (some sc) (fun _ r i => r.fill i) s

/-- RGTAKE (R57, R60, R269). -/
def execRgtake (d a b : Reg) (_ : Scope) (s : State) : Host.Outcome State Fault Refusal :=
  ringPlain false d a (some b) noCheck none (fun v r i => r.take i v.toNat) s

/-- RGTAKE.obs (R269). -/
def execRgtakeObs (d a b : Reg) (_ : Scope) (s : State) : Host.Outcome State Fault Refusal :=
  ringPlain false d a (some b) noCheck none (fun v r i => r.observe i (lo32 v)) s

/-- RGFREE (R57, R269): a release at its instance. -/
def execRgfree (d a : Reg) (sc : Scope) (s : State) : Host.Outcome State Fault Refusal :=
  ringPlain false d a none noCheck (some sc) (fun _ r i => r.free i) s

/-- RGINIT (R53, R269). -/
def execRginit (d a b : Reg) (s : State) : Host.Outcome State Fault Refusal :=
  ringPlain false d a (some b) initCheck none (fun v r i => r.init i v) s

/-- RGRESET (R61, R269): it takes along dwords 1 to 3 at L[g[b]]. -/
def execRgreset (d a b : Reg) (s : State) : Host.Outcome State Fault Refusal :=
  ringExec true d a (some b) areaCheck none
    (fun s v => readBytes s.mem (apAddr s.fpkg s.ftile (v.toNat + 8)) 24)
    (fun _ r => ringAct r (fun l q i =>
      let dw := fun (k : Nat) => BitVec.ofNat 64 (leNat ((l.drop (8 * k)).take 8))
      q.resetOp i (dw 0) (dw 1) (dw 2))) (ringDone d) s

/-- RGJOIN (R56, R269). -/
def execRgjoin (d a b : Reg) (s : State) : Host.Outcome State Fault Refusal :=
  ringPlain false d a (some b) roleCheck none (fun v r i => r.join i (v.getLsbD 0) (v.getLsbD 1)) s

/-- RGLEAVE (R56, R269). -/
def execRgleave (d a b : Reg) (s : State) : Host.Outcome State Fault Refusal :=
  ringPlain false d a (some b) roleCheck none (fun v r i => r.leave i (v.getLsbD 0) (v.getLsbD 1)) s

/-- One snapshot of the four entry dwords, and status ok. -/
def ringSnap (r : RingRef) (_ : List Byte) (s : State) : Answer :=
  let q := s.ringAt r.tile r.ring
  if s.outgoing r.tile then .ok s (ringResult q .notJoined 0 0) []
  else .ok s (ringResult q .ok 0 0) (q.entry.flatMap (fun w => leBytes 8 w.toNat))

/-- RGSTAT (R269): the snapshot to L[g[b]] before the result; it never waits at its ring. -/
def execRgstat (d a b : Reg) (s : State) : Host.Outcome State Fault Refusal :=
  ringExec false d a (some b) areaCheck none (fun _ _ => []) (fun _ r => ringSnap r)
    (fun at_ s v x => .next (({ s with mem := writeBytes s.mem (apAddr s.fpkg s.ftile at_.toNat) x }).setReg d v)) s

/-- A job that ends leaves the rings of a tile save once they are restored (01 R13; 15 R400). -/
def TileSave.leave (jid : Nat) (v : TileSave) : TileSave := { v with left := v.left ++ [jid] }

/-- Job `jid` leaves the rings of the tile with key `k` without waiting (02 R56, R61). -/
def State.leaveTile (s : State) (k jid : Nat) : State :=
  (s.tileAt k).rings.foldl (fun s r =>
    if r.2.prods.contains jid || r.2.cons.contains jid then s.putRing k r.1 (r.2.leaveRoles jid true true) else s) s

/-- The job leaves every ring it joined, on every tile and in every tile save. -/
def State.leaveRings (s : State) (jid : Nat) : State :=
  let s := s.tiles.foldl (fun s t => s.leaveTile t.1 jid) s
  { s with tenants := s.tenants.map (fun e => (e.1, { e.2 with saves := e.2.saves.map (TileSave.leave jid) })) }

end Sys2Proof.Machine
end

