-- ==== Sys2Proof/Machine/CaOps.lean ====
section
/-!
DEFINITION. Meanings of the CA family (04 R101 to R114; 10 R272; order: 05 R146).
-/

namespace Sys2Proof.Machine

/-- CA status codes (R112). -/
inductive CaStatus where
  | ok | new | mismatch | full | deadChild | noPool
  deriving DecidableEq, Repr

def CaStatus.code : CaStatus → Nat
  | .ok => 0 | .new => 1 | .mismatch => 2 | .full => 3 | .deadChild => 4 | .noPool => 5

/-- The result dword (R112); `kind` is 0 none, 1 data, 2 node. -/
def caResult (st : CaStatus) (kind : Nat) (count : W32) : Word :=
  BitVec.ofNat 64 (st.code * 2 ^ 60 + kind * 2 ^ 58 + count.toNat)

/-- Kind code of a line. -/
def CaLine.kind (l : CaLine) : Nat := if l.node then 2 else 1

/-- Step-5 checks of the local ranges of an operation: Local-Range for each, then Misaligned-Access (R113,
R272). EVA is the address (log 21). -/
def caRangeFault : List (Word × Nat) → Option (Cause × Word)
  | l =>
    match l.find? (fun r => decide (padSize < r.1.toNat + r.2)) with
    | some r => some (.localRange, r.1)
    | none => match l.find? (fun r => r.1.toNat % 16 != 0) with
      | some r => some (.misaligned, r.1)
      | none => none

/-- The name at a local address. -/
def State.localName (s : State) (a : Nat) : BitVec 128 := BitVec.ofNat 128 (s.readL a 16)

/-- A name written to a local address in one write (R113). -/
def State.putName (s : State) (a : Nat) (n : BitVec 128) : State := s.writeL a 16 n.toNat

/-- The first of the 16-byte names from local address `a` whose zero field is not zero (R101). -/
def badName (s : State) (a n : Nat) : Option Word :=
  ((List.range n).find? (fun i => bits (s.localName (a + 16 * i)) 7 0 != 0)).map (fun i => BitVec.ofNat 64 (a + 16 * i))

/-- The bytes of a name, as stored. -/
def nameBytes (n : BitVec 128) : List Byte := leBytes 16 n.toNat

/-- The name that 16 bytes hold. -/
def bytesName (l : List Byte) : BitVec 128 := BitVec.ofNat 128 (leNat (l.take 16))

/-- An error answer for which the manual states no EVA (log 18). -/
def errFree (s : State) (c : Cause) : Answer := .err s.take.2 c (Config.unstatedEva s.fresh)

/-- A core's waits in a domain end. -/
def State.caEnd (s : State) (pp dom : Nat) (who : Issuer) : State := s.caLeave pp dom (fun h => h.who == .op who)

/-- An operation at its home, behind what waits there in the group `g` (R107, R109); `node` marks a CANODE. -/
def caGate (pp dom g : Nat) (node : Bool) (act : State → Answer) (s : State) : Answer :=
  let me := CaWaiter.op s.issuer
  if (s.caAt pp dom).behind g me then .hold (s.caWait pp dom ⟨g, me, false⟩)
  else match act s with
    | .ok t v x => .ok (t.caEnd pp dom s.issuer) v x
    | .err t e eva => .err (t.caEnd pp dom s.issuer) e eva
    | .hold t => .hold (t.caWait pp dom ⟨g, me, node⟩)

/-- Status no-pool when the pool package does not serve the domain (R96). -/
def caServed (pp dom : Nat) (act : State → Answer) (s : State) : Answer :=
  if (s.caAt pp dom).serving then act s else .ok (s.caEnd pp dom s.issuer) (caResult .noPool 0 0) []

/-- An operation that has what it carries travels to the place of target `n` in the pool package; its result dword goes to g[d]
and what the answer brings to the local address `out` (R113, R114; EVA log 18). -/
def caSend (d : Reg) (out : Word) (n dom : Nat) (data : List Byte) (act : Nat → Nat → List Byte → State → Answer) (s : State) : Res :=
  let pl := placeOfNum (n / 4)
  let here := dieOf s.ftile
  let s := if s.askOf.isSome || s.targetBusy n then s else s.carry (wayTo s.fpkg here pl) 0 data
  exchange s ⟨true, false, pl, n⟩ (BitVec.ofNat 64 dom) n data (fun s => raiseFree (s.caEnd pl.pkg dom s.issuer) .requestTimeout)
    (fun l => caServed pl.pkg dom (act pl.pkg dom l))
    (fun s v x =>
      let s := s.carry (wayBack s.fpkg here pl) 0 x
      .next (({ s with mem := writeBytes s.mem (apAddr s.fpkg s.ftile out.toNat) x }).setReg d v))

/-- The common course of an operation: range checks, then name checks, then the region of the tenant; `req` gives the target
and what the operation carries, or none where it has nothing to do. -/
def caExec (regs : List Reg) (d : Reg) (ranges : Core → List (Word × Nat)) (names : Core → State → Option Word)
    (rel : Bool) (out : Core → Word) (req : Nat → Nat → Job → Core → State → Option (Nat × List Byte))
    (act : Core → Nat → Nat → List Byte → State → Answer) (s : State) : Host.Outcome State Fault Refusal :=
  coreExec 4 false (d :: regs) (fun j c s =>
    match c.asked with
    | some a => caSend d (out c) a.pa a.va.toNat a.data (act c) s
    | none =>
    match caRangeFault (ranges c) with
    | some (e, eva) => .raise s e eva
    | none =>
      match (ranges c).find? (fun r => s.flawed (apAddr s.fpkg s.ftile r.1.toNat) r.2) with
      | some r => .raise s .dataError r.1
      | none =>
      match names c s with
      | some eva => .raise s .caName eva
      | none =>
        match s.caRegion s.fpkg j.tenant.toNat with
        | none => .next (s.setReg d (caResult .noPool 0 0))
        | some (pp, dom) =>
          let go := fun (s : State) =>
            match req pp dom j c s with
            | none => .next (s.setReg d (caResult .ok 0 0))
            | some (n, data) => caSend d (out c) n dom data (act c) s
          inLocalQueue s true (fun s => if rel then afterRelease s .dom go else go s)) s

/-- Target number of the home of a name: of the two slices of its die the first (DESIGN CHOICE, log 80). -/
def nameTarget (pp : Nat) (d : Nat) : Nat := (Place.die pp d).target

/-- CAPUT and CANODE (R102). -/
def caPut (node : Bool) (d a b : Reg) (s : State) : Host.Outcome State Fault Refusal :=
  caExec [a, b] d (fun c => [(c.reg a, 192), (c.reg b, 16)])
    (fun c s => if node then badName s (c.reg a).toNat 12 else none) false (fun c => c.reg b)
    (fun pp dom _ c s =>
      let content := readBytes s.mem (apAddr s.fpkg s.ftile (c.reg a).toNat) 192
      some (nameTarget pp (caDigest (s.caAt pp dom) node content / 2 ^ 110), content))
    (fun c pp dom content s =>
      let dig := caDigest (s.caAt pp dom) node content
      let kind := if node then 2 else 1
      caGate pp dom (dig / 2 ^ 66) node (fun s =>
        let q := s.caAt pp dom
        if node && !s.caFound q dig node content && (nodeFields content).any (q.kidWaits (.op s.issuer)) then .hold s
        else match s.lookupOrAllocate pp dom node content with
        | (s, .match_ n k) => .ok s (caResult .ok kind k) (nameBytes n)
        | (s, .new n) => .ok s (caResult .new kind 1) (nameBytes n)
        | (s, .deadChild) => .ok s (caResult .deadChild 0 0) []
        | (s, .full) => .ok s (caResult .full 0 0) []
        | (s, .collision) => .err s .caCollision (c.reg b)) s) s

/-- CAPUT. -/
def execCaput (d a b : Reg) (s : State) : Host.Outcome State Fault Refusal := caPut false d a b s
/-- CANODE. -/
def execCanode (d a b : Reg) (s : State) : Host.Outcome State Fault Refusal := caPut true d a b s

/-- An operation on the line named at L = g[a]: null does nothing, a name that is not live raises CA-Name
with EVA = L (R101, R113). -/
def caNamed (d a : Reg) (more : Core → List (Word × Nat)) (regs : List Reg) (out : Core → Word)
    (act : Nat → Nat → CaLine → State → Answer) (s : State) : Host.Outcome State Fault Refusal :=
  caExec (a :: regs) d (fun c => more c ++ [(c.reg a, 16)]) (fun c s => badName s (c.reg a).toNat 1) false out
    (fun pp _ _ c s =>
      let n := s.localName (c.reg a).toNat
      if n = 0 then none else some (nameTarget pp (nameDie n), nameBytes n))
    (fun c pp dom data =>
      let n := bytesName data
      caGate pp dom (groupOf n) false (fun s =>
        match (s.caAt pp dom).find n with
        | none => .err s .caName (c.reg a)
        | some l => act pp dom l s)) s

/-- CAGET (R113): the 192 bytes of the line to c; an uncorrectable error in them raises Data-Error (15 R384; EVA log 18). -/
def execCaget (d a b : Reg) (s : State) : Host.Outcome State Fault Refusal :=
  caNamed d a (fun c => [(c.reg b, 192)]) [b] (fun c => c.reg b) (fun _ _ l s =>
    if s.flawed l.at_ 192 then errFree s .dataError
    else .ok s (caResult .ok l.kind l.count) (s.caContent l)) s

/-- CAREF (R105). -/
def execCaref (d a : Reg) (s : State) : Host.Outcome State Fault Refusal :=
  caNamed d a (fun _ => []) [] (fun _ => 0) (fun pp dom l s =>
    .ok (s.setCa pp dom ((s.caAt pp dom).inc l.name)) (caResult .ok l.kind l.inc.count) []) s

/-- CADROP (R105, R106): it waits at the home while the line would die and the reclaim queue is full (R107). -/
def execCadrop (d a : Reg) (s : State) : Host.Outcome State Fault Refusal :=
  caNamed d a (fun _ => []) [] (fun _ => 0) (fun pp dom l s =>
    match s.caDec pp dom l.name with
    | none => .hold s
    | some t => .ok t (caResult .ok l.kind l.drop.count) []) s

/-- Target number of the home of a root slot: its place and slice are those of its physical address (R108; 02 R65). -/
def State.slotTarget (s : State) (slot : Nat) : Nat :=
  (s.placeOf slot).target + if Config.homeSlice (lineBase slot) then 1 else 0

/-- The slot's bytes are read at its home (R108; 02 R41). -/
def State.readSlot (s : State) (slot : Nat) : State := s.touchHome slot 16 .load

/-- Name `n` written to the slot. -/
def State.writeSlot (s : State) (slot : Nat) (n : BitVec 128) : State :=
  { s.touchHome slot 16 .store with mem := writeLe s.mem slot 16 n.toNat }

/-- An operation on root slot g[a] with names at L = g[b]: a domain-scope release and acquire (05 R146). It carries the address
of its slot and the names it reads; the slot takes one operation at a time (R109). -/
def caSlot (d a b : Reg) (n reads : Nat) (act : Core → Nat → Nat → Nat → List Byte → State → Answer) (s : State) :
    Host.Outcome State Fault Refusal :=
  caExec [a, b] d (fun c => [(c.reg b, 16 * n)])
    (fun c s => match badName s (c.reg b).toNat reads with
      | some eva => some eva
      | none => if 4096 ≤ (c.reg a).toNat then some (c.reg a) else none)
    true (fun c => c.reg b)
    (fun _ _ j c s =>
      let slot := catenRoots (s.tenAt s.fpkg j.tenant.toNat).caten + 16 * (c.reg a).toNat
      some (s.slotTarget slot, leBytes 8 slot ++ readBytes s.mem (apAddr s.fpkg s.ftile (c.reg b).toNat) (16 * reads)))
    (fun c pp dom data s =>
      let slot := leNat (data.take 8)
      caGate pp dom (slotGroup slot) false (fun s =>
        if s.flawed slot 16 then errFree s .dataError else act c pp dom slot (data.drop 8) s) s) s

/-- CAROOT (R111): the plain form. It reports no kind (R112's table says none of it: DESIGN CHOICE, log 89). -/
def execCaroot (d a b : Reg) (s : State) : Host.Outcome State Fault Refusal :=
  caSlot d a b 1 0 (fun _ _ _ slot _ s => .ok (s.readSlot slot) (caResult .ok 0 0) (nameBytes (nameAt s.mem slot))) s

/-- CAROOT.ref (R111): the named line is counted before the slot accepts its next operation. -/
def execCarootRef (d a b : Reg) (s : State) : Host.Outcome State Fault Refusal :=
  caSlot d a b 1 0 (fun _ pp dom slot _ s =>
    let n := nameAt s.mem slot
    if n = 0 then .ok (s.readSlot slot) (caResult .ok 0 0) (nameBytes n)
    else caGate pp dom (groupOf n) false (fun s =>
      match (s.caAt pp dom).find n with
      | none => .ok (s.readSlot slot) (caResult .ok 0 0) (nameBytes n)
      | some l =>
        .ok ((s.readSlot slot).setCa pp dom ((s.caAt pp dom).inc n)) (caResult .ok l.kind l.inc.count) (nameBytes n)) s) s

/-- A name that an operation puts into a slot is checked at its home (R110): a null name needs none, and one that is not live
raises CA-Name with address `l`. -/
def caChecked (pp dom : Nat) (n : BitVec 128) (l : Word) (act : State → Answer) (s : State) : Answer :=
  if n = 0 then act s
  else caGate pp dom (groupOf n) false (fun s => if ((s.caAt pp dom).find n).isNone then .err s .caName l else act s) s

/-- CASWAP (R110). -/
def execCaswap (d a b : Reg) (s : State) : Host.Outcome State Fault Refusal :=
  caSlot d a b 1 1 (fun c pp dom slot names =>
    let n := bytesName names
    caChecked pp dom n (c.reg b) (fun s =>
      .ok (s.writeSlot slot n) (caResult .ok 0 0) (nameBytes (nameAt s.mem slot)))) s

/-- CACAS (R110): the expected name at L, the new name at L + 16. -/
def execCacas (d a b : Reg) (s : State) : Host.Outcome State Fault Refusal :=
  caSlot d a b 2 2 (fun c pp dom slot names s =>
    let e := bytesName names
    let n := bytesName (names.drop 16)
    let cur := nameAt s.mem slot
    if cur ≠ e then .ok (s.readSlot slot) (caResult .mismatch 0 0) (nameBytes cur)
    else caChecked pp dom n (c.reg b + 16) (fun s => .ok (s.writeSlot slot n) (caResult .ok 0 0) (nameBytes e)) s) s

end Sys2Proof.Machine
end

