-- ==== Sys2Proof/Machine/Reduce.lean ====
section
/-!
DEFINITION. Combining steps that engines and collectives share: SMX (07 R191) and the reductions of
13 R367.
-/

namespace Sys2Proof.Machine

/-- NaN or +inf (R191). -/
def f32Spoils (x : W32) : Bool := (f32 x).isNan || ((f32 x).isInf && !(f32 x).neg)

/-- −inf in FP32. -/
def f32NegInf : W32 := 0xFF800000

/-- The common scale of an SMX merge (R191): the maximum and the two factors; none when the result is
NaN throughout, and no factors when the maximum is −inf. -/
inductive SmxScale where
  | spoiled
  | empty
  | scaled (m a1 a2 : W32)
  deriving DecidableEq, Repr

def smxScale (m1 m2 : W32) : SmxScale :=
  if f32Spoils m1 || f32Spoils m2 then .spoiled
  else
    let m := f32Max m1 m2
    if m = f32NegInf then .empty
    else .scaled m (f32Exp2 (f32Sub m1 m)) (f32Exp2 (f32Sub m2 m))

/-- The maximum field of a merge. -/
def SmxScale.m : SmxScale → W32
  | .spoiled => f32Nan | .empty => f32NegInf | .scaled m _ _ => m

/-- A sum or value field of a merge: x1 takes the fused product, x2 the rounded one. -/
def SmxScale.mix (k : SmxScale) (x1 x2 : W32) : W32 :=
  match k with
  | .spoiled => f32Nan
  | .empty => 0
  | .scaled _ a1 a2 => f32Fma x1 a1 (f32Mul x2 a2)

/-- The combining step of ops 0 to 4 of a collective (13 R367), on elements of 2 or 4 bytes. -/
def reduceStep (op : Nat) (x y : Nat) : Nat :=
  match op with
  | 0 => (f32Add (BitVec.ofNat 32 x) (BitVec.ofNat 32 y)).toNat
  | 1 => fpRound bf16 .rne (fpAdd (fpDecode bf16 x) (fpDecode bf16 y))
  | 2 => (x + y) % 2 ^ 32
  | 3 => (f32Max (BitVec.ofNat 32 x) (BitVec.ofNat 32 y)).toNat
  | _ => (f32Min (BitVec.ofNat 32 x) (BitVec.ofNat 32 y)).toNat

end Sys2Proof.Machine
end

