-- ==== Sys2Proof/Machine/Fabric.lean ====
section
/-!
DEFINITION. The fabric: ports (13 R342, R348 to R350), circuits and their breaks (R351 to R363), flows
(R354 to R357) and collectives (R365 to R368).
-/

namespace Sys2Proof.Machine

/-! ### Ports -/

/-- cstate of PORTSTq; every port reads down in pilot-light service (20 R437). -/
def Package.cstate (k : Package) (q : Nat) : Nat :=
  let w := vget k.port q
  if k.svc == 0 then 2 else planeState w.iso false w.clost

/-- PORTSTq (R350). -/
def State.portStatus (s : State) (p q : Nat) : Word :=
  let k := s.pkgAt p
  let w := vget k.port q
  BitVec.ofNat 64 (w.pstate * 2 ^ 62 + k.cstate q * 2 ^ 60 + min w.plost 2 * 2 ^ 58 + min w.clost 2 * 2 ^ 56
    + s.portNeighbour p q % 256 * 256 + q)

/-- Circuit tracks of a port in service (R342, R348). -/
def State.portTracks (s : State) (p q : Nat) : Nat :=
  if !((s.pkgAt p).ports.getLsbD q) then 0
  else match (s.pkgAt p).cstate q with
    | 0 => 10 | 1 => 5 | _ => 0

/-! ### Circuits: both ends -/

/-- Slot key of the running job of number `jid`: a checkpointed job may resume in another slot. -/
def State.keyOfJob (s : State) (jid : Nat) : Option Nat := (s.jobs.find? (fun e => e.2.jid == jid)).map Prod.fst

/-- Update of the job of a number. -/
def State.modJobOf (s : State) (jid : Nat) (f : Job → Job) : State :=
  match s.keyOfJob jid with
  | some key => s.modJob key f
  | none => s

/-- The job of a number stands in a frame (15 R398). -/
def State.inFrame (s : State) (jid : Nat) : Bool := s.tenants.any (fun e => e.2.frames.any (fun f => f.job.jid == jid))

/-- Update of the send record of a circuit, while it still belongs to it. -/
def State.modSend (s : State) (c : Circuit) (f : SendRec → SendRec) : State :=
  if c.flow.isSome then s else s.modJobOf c.srcJid (fun j =>
    let r := vget j.send c.srcRec
    if r.circ = c.id ∧ r.st ≠ .free then { j with send := vset j.send c.srcRec (f r) } else j)

/-- Update of the landing record of a circuit, while it still belongs to it. -/
def State.modLand (s : State) (c : Circuit) (f : LandRec → LandRec) : State :=
  if c.flow.isSome then s else s.modJobOf c.dstJid (fun j =>
    let r := vget j.land c.dstRec
    if r.circ = some c.id ∧ r.st ≠ .free then { j with land := vset j.land c.dstRec (f r) } else j)

/-- Circuit `id`. -/
def State.circ (s : State) (id : Nat) : Option Circuit := s.circuits.find? (fun c => c.id == id)
def State.setCirc (s : State) (c : Circuit) : State :=
  { s with circuits := s.circuits.map (fun x => if x.id = c.id then c else x) }
def State.dropCirc (s : State) (id : Nat) : State :=
  { s with circuits := s.circuits.filter (fun c => c.id != id) }

/-- Where a break arises. -/
inductive BreakEnd where
  | sender | link | receiver
  deriving DecidableEq, Repr

/-- The state of an ended record: closed by CCLOSE of the sender, broken by any other cause (R364). -/
def endState (cause : Nat) : RecState := if cause = 1 then .closed else .broken

/-- The sender's record shows a break with its cause, and no resume point yet (R360). -/
def State.showBreak (s : State) (c : Circuit) (code : BitVec 4) : State :=
  s.modSend c (fun r => { r with st := endState code.toNat, cause := code, resume := none })

/-- The end of a circuit at both ends (R352, R360): the receiver's record has cause and resume point at once; the sender's
shows a break that arose there, and the rest comes with signal and notice. -/
def State.endCircuit (s : State) (c : Circuit) (cause : Nat) (e : BreakEnd) : State :=
  let code := BitVec.ofNat 4 cause
  let n := BitVec.ofNat 32 c.delivered
  let s := s.modLand c (fun r => { r with st := endState cause, cause := code, delivered := n })
  let s := if e = .sender then s.showBreak c code else s
  s.setCirc { c with alive := false, links := [], words := [], endedAt := s.wall
                     signal := if e = .sender then none else some code, notice := some (code, n) }

/-- Another cause meets, in the same fabric cycle, the one that ended a circuit: the lowest code is recorded at both ends
(R360). Ends that cannot exchange notices record each its own. -/
def State.recause (s : State) (c : Circuit) (cause : Nat) (e : BreakEnd) : State :=
  match c.notice with
  | some (code, n) =>
    if c.endedAt ≠ s.wall ∨ code.toNat ≤ cause then s
    else
      let new := BitVec.ofNat 4 cause
      let s := if e = .sender then s.showBreak c new else s
      if e = .sender ∧ !s.reaches (keyPkg c.src) c.dstPkg then s
      else
        let s := s.modLand c (fun r => { r with st := endState cause, cause := new })
        s.setCirc { c with signal := if e = .sender then none else c.signal.map (fun _ => new), notice := some (new, n) }
  | none => s

/-- The lease of a program circuit has run out (R363). -/
def State.expired (s : State) (c : Circuit) : Bool := c.flow.isNone && decide (c.leaseEnd ≤ s.phase (keyPkg c.src))

/-- The cause that is recorded where `cause` arises: a lease that ran out in an earlier cycle came first, and one that runs out
in this cycle meets it (R360, R363). -/
def State.firstCause (s : State) (c : Circuit) (cause : Nat) : Nat :=
  if !s.expired c then cause
  else if c.leaseEnd + Config.cycleUnits ≤ s.phase (keyPkg c.src) then 3 else min cause 3

/-- One word of a circuit lands, or the window is full (R352): the circuit, memory, and whether it fitted. -/
def landWord (m : Memory) (c : Circuit) (w : Nat × W32) : Memory × Circuit × Bool :=
  if c.flow.isSome then
    (write32 m (apAddr c.dstPkg c.dstTile w.1) w.2, { c with delivered := c.delivered + 1 }, true)
  else if c.next + 4 ≤ c.stop then
    (write32 m (apAddr c.dstPkg c.dstTile c.next) w.2, { c with next := c.next + 4, delivered := c.delivered + 1 }, true)
  else (m, c, false)

/-- Words land in order until one does not fit. -/
def landWords : Memory → Circuit → List (Nat × W32) → Memory × Circuit × Bool
  | m, c, [] => (m, c, true)
  | m, c, w :: l =>
    match landWord m c w with
    | (m, c, true) => landWords m c l
    | r => r

/-- Up to `n` beats on the way land; a full window breaks the circuit with cause 7 (R352). -/
def State.landBeat (s : State) (c : Circuit) (n : Nat) : State :=
  let (m, c', ok) := landWords s.mem { c with words := c.words.drop n } (c.words.take n).flatten
  let s := { s with mem := m }
  let s := (s.setCirc c').modLand c' (fun r => { r with delivered := BitVec.ofNat 32 c'.delivered })
  if ok then s else s.endCircuit c' 7 .receiver

/-- A circuit breaks with a cause (R359, R360). Words already sent land when the break arises at the
sender; otherwise those on the way never land. -/
def State.breakCircuit (s : State) (id cause : Nat) (e : BreakEnd) : State :=
  match s.circ id with
  | none => s
  | some c =>
    let cause := s.firstCause c cause
    if !c.alive then s.recause c cause e
    else
      let s := if e = .sender then s.landBeat c c.words.length else s
      match s.circ id with
      | some c => if c.alive then s.endCircuit c cause e else s
      | none => s

/-- The open circuits that `f` selects break. -/
def State.breakAll (s : State) (f : Circuit → Bool) (cause : Nat) (e : BreakEnd) : State :=
  s.circuits.foldl (fun s c => if c.alive && f c then s.breakCircuit c.id cause e else s) s

/-- A flow goes back to the packet plane with its meter entry cleared (R357). -/
def State.clearFlow (s : State) (id : Nat) : State :=
  { s with circuits := s.circuits.filter (fun c => c.flow != some id)
           flows := s.flows.map (fun x => if x.id = id then { x with st := .metered, bytes := 0 } else x) }

/-- A broken circuit whose words past the resume point are to be sent again once its notice has come (R357). -/
def Circuit.unsettled (c : Circuit) : Bool := !c.alive && c.sent != c.delivered

/-- A job's circuits break with cause job end (R358); a promoted one's flow is over where all it carried has landed (R357). -/
def State.jobEndCircuits (s : State) (jid : Nat) : State :=
  let s := s.breakAll (fun c => c.srcJid == jid) 8 .sender
  let s := s.breakAll (fun c => c.flow.isNone && c.dstJid == jid) 8 .receiver
  (s.circuits.filterMap (fun c => if c.srcJid = jid ∧ !c.unsettled then c.flow else none)).foldl State.clearFlow s

/-- The flows of a job that has gone, which sends nothing again, are over. -/
def State.endFlows (s : State) (jid : Nat) : State :=
  (s.circuits.filterMap (fun c => if c.srcJid = jid then c.flow else none)).foldl State.clearFlow s

/-- A break notice of the job's circuits is on its way, to an end that it reaches (R360). -/
def State.noticesComing (s : State) (jid : Nat) : Bool :=
  s.circuits.any (fun c => c.flow.isNone && c.srcJid == jid && c.notice.isSome && s.reaches c.dstPkg (keyPkg c.src))

/-- Circuits on port `q` of package `p`, in either direction, on tracks from `low` up. -/
def State.onPort (s : State) (p q low : Nat) (c : Circuit) : Bool :=
  let n := s.portNeighbour p q
  c.links.any (fun l => l.node == 516 && decide (low ≤ l.track) &&
    ((l.pkg == p && l.dir == 4 + q) || (l.pkg == n && l.dir == 4 + (q ^^^ 1))))

/-- The circuits of a port break. -/
def State.breakPort (s : State) (p q low cause : Nat) : State := s.breakAll (s.onPort p q low) cause .link

/-! ### The probe (R353) -/

/-- A place on a path. -/
inductive Hop where
  | port
  | router (p d c : Nat)
  | hdie (p : Nat)
  | done
  deriving DecidableEq, Repr

/-- A step the probe may take: the link (track 0), the next hop, and the link's tracks (R342). -/
structure Move where
  link : Link
  hop : Hop
  tracks : Nat

/-- The minimal directions of one dimension of the torus of `n` packages, from `a` to `b`: 0 up, 1 down. -/
def ringDirs (n a b : Nat) : List Nat :=
  let d := (b + n - a) % n
  if d = 0 then [] else if 2 * d < n then [0] else if n < 2 * d then [1] else [0, 1]

/-- The ports that lead nearer to package `q` from `p`, X before Y before Z. -/
def State.minimalPorts (s : State) (p q : Nat) : List Nat :=
  let k := s.pkgAt p
  let (x, y, z) := coords k.dx k.dy p
  let (x', y', z') := coords k.dx k.dy q
  (ringDirs k.dx x x') ++ (ringDirs k.dy y y').map (· + 2) ++ (ringDirs k.dz z z').map (· + 4)

/-- The minimal moves from a hop to the port of tile `dt` of package `dp`, from tile `(sp, st)` (R353;
log 26: a die's own links to the other dies reach every cluster router of it). -/
def State.moves (s : State) (sp st dp dt : Nat) : Hop → List Move
  | .port => [⟨⟨sp, st, 0, 0⟩, .router sp (dieOf st) (clusterOf st), 2⟩]
  | .router p d c =>
    if p = dp ∧ d = dieOf dt then
      let e := clusterOf dt
      let mesh := fun (dir n : Nat) => (⟨⟨p, 256 + 16 * d + c, dir, 0⟩, .router p d n, 4⟩ : Move)
      if c = e then [⟨⟨dp, dt, 1, 0⟩, .done, 2⟩]
      else
        (if c % 4 < e % 4 then [mesh 0 (c + 1)] else if e % 4 < c % 4 then [mesh 1 (c - 1)] else [])
        ++ (if c / 4 < e / 4 then [mesh 2 (c + 4)] else if e / 4 < c / 4 then [mesh 3 (c - 4)] else [])
    else if p = dp then [⟨⟨p, 512 + d, dieOf dt, 0⟩, .router p (dieOf dt) (clusterOf dt), 8⟩]
    else [⟨⟨p, 512 + d, 4, 0⟩, .hdie p, 8⟩]
  | .hdie p =>
    if p = dp then [⟨⟨p, 516, dieOf dt, 0⟩, .router p (dieOf dt) (clusterOf dt), 8⟩]
    else (s.minimalPorts p dp).map (fun q =>
      let n := s.portNeighbour p q
      ⟨⟨p, 516, 4 + q, 0⟩, .hdie n, min (s.portTracks p q) (s.portTracks n (q ^^^ 1))⟩)
  | .done => []

/-- A track of a link is taken. -/
def State.taken (s : State) (l : Link) (t : Nat) : Bool :=
  s.circuits.any (fun c => c.alive && c.links.contains { l with track := t })

/-- The lowest free track of a move. -/
def State.freeTrack (s : State) (m : Move) : Option Nat :=
  (List.range m.tracks).find? (fun t => !s.taken m.link t)

/-- A probe under way. -/
structure Probe where
  hop : Hop
  /-- Hops left and links reserved, newest first. -/
  path : List (Hop × Link)
  /-- Directions tried, by hop. -/
  tried : List (Hop × Link)
  back : Nat

/-- Lease that a circuit has left, in fabric cycles; a promoted circuit has none (R353). -/
def State.leaseLeft (s : State) (c : Circuit) : Nat :=
  if c.flow.isSome then 0 else (c.leaseEnd - s.phase (keyPkg c.src) + (Config.cycleUnits - 1)) / Config.cycleUnits

/-- The circuit of classes 1 to 3 with the least lease left on some link of `ms`, and the track it gives up (R353). -/
def State.preempted (s : State) (ms : List Move) : Option (Circuit × Move × Nat) :=
  let all := ms.flatMap (fun m => (List.range m.tracks).filterMap (fun t =>
    (s.circuits.find? (fun c => c.alive && c.cls != 0 && c.links.contains { m.link with track := t })).map
      (fun c => (c, m, t))))
  all.foldl (fun best x =>
    match best with
    | none => some x
    | some b => if s.leaseLeft x.1 < s.leaseLeft b.1 then some x else best) none

/-- The probe of R353 with `fuel` moves left: the reserved links, or none. -/
def State.probeFrom (s : State) (sp st dp dt cls : Nat) : Nat → Probe → State × Option (List Link)
  | 0, _ => (s, none)
  | fuel + 1, q =>
    if q.hop = .done then (s, some (q.path.map Prod.snd))
    else
      let minimal := s.moves sp st dp dt q.hop
      let ms := minimal.filter (fun m => !q.tried.contains (q.hop, m.link))
      let advance := fun (s : State) (m : Move) (t : Nat) =>
        s.probeFrom sp st dp dt cls fuel { q with hop := m.hop, path := (q.hop, { m.link with track := t }) :: q.path }
      match ms.findSome? (fun m => (s.freeTrack m).map (fun t => (m, t))) with
      | some (m, t) => advance s m t
      | none =>
        match (if cls = 0 then s.preempted minimal else none) with
        | some (c, m, t) => advance (s.breakCircuit c.id 4 .link) m t
        | none =>
          match q.path with
          | [] => (s, none)
          | (h, l) :: rest =>
            if q.back = 3 then (s, none)
            else s.probeFrom sp st dp dt cls fuel
              ⟨h, rest, (h, { l with track := 0 }) :: q.tried, q.back + 1⟩

/-- A probe for a circuit of class `cls` from tile `(sp, st)` to tile `(dp, dt)`. In pilot-light service there is
no circuit plane (20 R437). -/
def State.probe (s : State) (sp st dp dt cls : Nat) : State × Option (List Link) :=
  if (s.pkgAt sp).svc = 0 then (s, none)
  else s.probeFrom sp st dp dt cls 64 ⟨.port, [], [], 0⟩

/-! ### Flows (R354 to R357) -/

/-- The meter entry of a flow. -/
def State.findFlow (s : State) (p t dp dt : Nat) (label : Byte) : Option Flow :=
  s.flows.find? (fun f => f.pkg == p && f.tile == t && f.dstPkg == dp && f.dstTile == dt && f.label == label)

/-- Whether two tiles share a cluster router's meter. -/
def Flow.ofMeter (f : Flow) (p t : Nat) : Bool := f.pkg == p && f.tile / 4 == t / 4

/-- A flow that a full table may replace: neither promoted nor in hold-off. -/
def Flow.replaceable (f : Flow) : Bool :=
  match f.st with
  | .metered => true | .probing => true | _ => false

/-- A flow with a circuit of its own. -/
def Flow.circuited (f : Flow) : Bool :=
  match f.st with
  | .promoted _ => true | .probing => true | _ => false

/-- The replaceable flow of least count. -/
def leastFlow (l : List Flow) : Option Flow :=
  (l.filter Flow.replaceable).foldl (fun b f => match b with
    | none => some f
    | some g => if f.bytes < g.bytes then some f else b) none

/-- A flow's promoted circuit closes: every word sent on it lands (R357), and its meter entry is cleared; a broken one waits for its
notice and the words to be sent again. -/
def State.closeFlow (s : State) (f : Flow) : State :=
  match s.circuits.find? (fun c => c.flow == some f.id) with
  | some c =>
    if c.alive then (s.landBeat c c.words.length).clearFlow f.id
    else if c.unsettled then s
    else s.clearFlow f.id
  | none => s.clearFlow f.id

/-- A flow has been sent `n` more bytes by a word of class `cls`. -/
def Flow.sentMore (f : Flow) (n cls now : Nat) (ok : Bool) (b : Issuer) : Flow :=
  { f with bytes := f.bytes + n, lastSent := now, cls := cls, eligible := ok, by_ := b }

/-- The meter's window of cluster `c` of package `p` has run its FMWIN core cycles (R354). -/
def State.windowOver (s : State) (p c : Nat) : Bool :=
  s.passed p ((mget (s.pkgAt p).meterFrom c).getD 0) (s.pkgAt p).fmwin

/-- A new window begins: every count of the cluster's meter is cleared (R354). -/
def State.newWindow (s : State) (p c : Nat) : State :=
  let s := s.modPkg p (fun k => { k with meterFrom := mput k.meterFrom c (s.phase p) })
  { s with flows := s.flows.map (fun f => if f.pkg = p ∧ f.tile / 4 = c then { f with bytes := 0 } else f) }

/-- `n` bytes of elements of `esize` bytes sent on a flow (R354, R355): an ineligible word first closes the circuit
of a promoted flow. Label 0 is never metered. -/
def State.meterFlow (s : State) (p t dp dt : Nat) (label : Byte) (cls esize n : Nat) : State :=
  if label = 0 then s
  else
    let s := if s.windowOver p (t / 4) then s.newWindow p (t / 4) else s
    let ok := decide (4 ≤ esize)
    match s.findFlow p t dp dt label with
    | some f =>
      let s := if !ok && f.circuited then s.closeFlow f else s
      { s with flows := s.flows.map (fun x => if x.id = f.id then x.sentMore n cls (s.phase p) ok s.issuer else x) }
    | none =>
      let (id, s) := s.take
      let f : Flow := ⟨id, p, t, dp, dt, label, n, cls, s.issuer, s.phase p, ok, .metered⟩
      let mine := s.flows.filter (fun x => x.ofMeter p t)
      if mine.length < 64 then { s with flows := s.flows ++ [f] }
      else match leastFlow mine with
        | some old => let s := s.closeFlow old; { s with flows := s.flows.filter (fun x => x.id != old.id) ++ [f] }
        | none => s

/-! ### Domino entries (R365) -/

def Domino.v (e : Domino) : Bool := (vget e.dw 0).getLsbD 63
def Domino.op (e : Domino) : Nat := bits (vget e.dw 0) 62 60
def Domino.acc (e : Domino) : Bool := (vget e.dw 0).getLsbD 59
def Domino.dmask (e : Domino) : Nat := bits (vget e.dw 0) 58 55
def Domino.n (e : Domino) : Nat := bits (vget e.dw 0) 54 47
def Domino.pfirst (e : Domino) : Nat := bits (vget e.dw 0) 46 39
def Domino.pstride (e : Domino) : Nat := bits (vget e.dw 0) 38 31
def Domino.ptile (e : Domino) : Nat := bits (vget e.dw 0) 30 23
def Domino.sbase (e : Domino) : Nat := bits (vget e.dw 0) 22 0
def Domino.rpkg (e : Domino) : Nat := bits (vget e.dw 1) 63 56
def Domino.rtile (e : Domino) : Nat := bits (vget e.dw 1) 55 48
def Domino.dbase (e : Domino) : Nat := bits (vget e.dw 1) 22 0
def Domino.count (e : Domino) : Nat := bits (vget e.dw 2) 31 0

/-- Package of peer `k` in a domain of `d` packages. -/
def Domino.peer (e : Domino) (d k : Nat) : Nat := (e.pfirst + k * e.pstride) % d

/-- Packages of the peers in ring order. -/
def Domino.peers (e : Domino) (d : Nat) : List Nat := (List.range e.n).map (e.peer d)

/-- Element bytes. -/
def Domino.esize (e : Domino) : Nat := if e.op = 1 then 2 else 4

/-- Bytes of a contribution or landing. -/
def Domino.extent (e : Domino) : Nat := if e.op = 5 then 4 * (e.count + 2) else e.esize * e.count

/-- No element twice. -/
def noTwice : List Nat → Bool
  | [] => true
  | x :: l => !l.contains x && noTwice l

/-- Malformed in a domain of `d` packages (R365). -/
def Domino.malformed (e : Domino) (d : Nat) : Bool :=
  bits (vget e.dw 1) 47 23 != 0 || bits (vget e.dw 2) 63 32 != 0 || vget e.dw 3 != 0
    || e.n == 0 || decide (144 < e.n) || e.pstride == 0 || decide (143 < e.pstride)
    || decide (d ≤ e.pfirst) || decide (d ≤ e.rpkg) || !noTwice (e.peers d)
    || (e.acc && decide (4 < e.op)) || (e.dmask != 0 && e.op != 7)
    || decide (padSize < e.sbase + e.extent) || decide (padSize < e.dbase + e.extent)

/-- Whether the entry names tile `t` of package `p` as a participant (R366). -/
def Domino.names (e : Domino) (d p t : Nat) : Bool :=
  (e.rpkg == p && e.rtile == t) || (e.ptile == t && (e.peers d).contains p)

/-- The participants, as package × 256 + tile; a tile that is root and peer counts once. -/
def Domino.participants (e : Domino) (d : Nat) : List Nat :=
  (tileKey e.rpkg e.rtile :: (e.peers d).map (fun p => tileKey p e.ptile)).eraseDups

/-- Entry `i` of tenant `u` in package `p`. -/
def State.domAt (s : State) (p u i : Nat) : Domino := (mget (s.tenAt p u).domino i).getD Domino.reset
def State.setDom (s : State) (p u i : Nat) (e : Domino) : State :=
  s.modTen p u (fun a => { a with domino := mput a.domino i e })

/-! ### A generation (R367, R368) -/

/-- The data a generation moves, or the failure that ends it: package, cause, EVA. -/
abbrev Gen := State × Option (Nat × Cause × Nat)

/-- What stops a sequencer's access to `n` bytes at local address `a` of tile `t` of package `p` (R367): the package's window
must grant `need`, the tile must be present, and the storage without an uncorrectable error (R368). -/
def State.seqFault (s : State) (p u t a n : Nat) (need : Perm) : Option (Cause × Nat) :=
  if !s.tilePresent p t || !s.windowOk p u (apAddr p t a) (apAddr p t a + n - 1) need then some (.protection, apAddr p t a)
  else if s.flawed (apAddr p t a) n then some (.dataError, apAddr p t a)
  else none

/-- Reads of the elements at local addresses `l` of a tile, or the first failure. -/
def State.seqRead (s : State) (p u t n : Nat) : List Nat → Except (Cause × Nat) (List Nat)
  | [] => .ok []
  | a :: l =>
    match s.seqFault p u t a n permR with
    | some e => .error e
    | none => match s.seqRead p u t n l with
      | .ok r => .ok (readLe s.mem (apAddr p t a) n :: r)
      | .error e => .error e

/-- Landings of elements at local addresses of a tile, with `f` of the old and new values; `need` is what
the window must grant. -/
def State.seqLand (s : State) (p u t n : Nat) (need : Perm) (f : Nat → Nat → Nat) :
    List (Nat × Nat) → State × Option (Cause × Nat)
  | [] => (s, none)
  | (a, v) :: l =>
    match s.seqFault p u t a n need with
    | some e => (s, some e)
    | none =>
      let at_ := apAddr p t a
      State.seqLand { s with mem := writeLe s.mem at_ n (f (readLe s.mem at_ n) v) } p u t n need f l

/-- The check of a package's own copy when the generation reaches it (R368): none when it passes. -/
def State.copyFault (s : State) (p u i : Nat) : Option (Cause × Nat) :=
  let e := s.domAt p u i
  let d := (s.pkgAt p).d
  if !e.v then some (.protection, i)
  else if e.malformed d then some (.engineWord, i)
  else if !(e.rpkg == p || (e.peers d).contains p) then some (.protection, i)
  else none

/-- The failure of a chunk that does not reach package `p` from the root's (R368): it arises where the chunk is sent from, at
the first element it was for (log 66). -/
def State.chunkLost (s : State) (root : Domino) (p at_ : Nat) : Option (Nat × Cause × Nat) :=
  if s.reaches root.rpkg p then none else some (root.rpkg, .requestTimeout, apAddr p root.ptile at_)

/-- The contribution of a peer's package for elements `is` (of size `n`, from its own sbase). -/
def State.contribution (s : State) (root : Domino) (u i n : Nat) (is : List Nat) (p : Nat) :
    Except (Nat × Cause × Nat) (List Nat) :=
  match s.chunkLost root p (root.sbase + n * nth is 0 0) with
  | some e => .error e
  | none =>
  match s.copyFault p u i with
  | some (c, eva) => .error (p, c, eva)
  | none =>
    let e := s.domAt p u i
    match s.seqRead p u e.ptile n (is.map (fun k => e.sbase + n * k)) with
    | .ok l => .ok l
    | .error e => .error (p, e.1, e.2)

/-- The partial over the peers in ring order. -/
def State.partials (s : State) (root : Domino) (u i n : Nat) (is : List Nat) (f : List Nat → List Nat → List Nat) :
    List Nat → Option (List Nat) → Except (Nat × Cause × Nat) (List Nat)
  | [], acc => .ok (acc.getD [])
  | p :: ps, acc =>
    match s.contribution root u i n is p with
    | .error e => .error e
    | .ok c => s.partials root u i n is f ps (some (match acc with | none => c | some a => f a c))

/-- SMX of two contributions laid out as m, s, v (R191). -/
def smxList (x y : List Nat) : List Nat :=
  let w := fun (l : List Nat) (k : Nat) => BitVec.ofNat 32 (nth l k 0)
  let k := smxScale (w x 0) (w y 0)
  k.m.toNat :: (List.range (x.length - 1)).map (fun j => (k.mix (w x (j + 1)) (w y (j + 1))).toNat)

/-- One chunk of a reduction landed at the root: elements `is` of the contribution (R367). An SMX chunk
carries the header in front. -/
def State.reduceChunk (s : State) (u i : Nat) (root : Domino) (is : List Nat) : Gen :=
  let d := (s.pkgAt root.rpkg).d
  let n := root.esize
  let idx := if root.op = 5 then 0 :: 1 :: is else is
  let f := if root.op = 5 then smxList else fun a b => List.zipWith (reduceStep root.op) a b
  match s.partials root u i n idx f (root.peers d) none with
  | .error e => (s, some e)
  | .ok r =>
    let need := if root.acc then permRW else permW
    let g := if root.acc then reduceStep root.op else fun _ v => v
    match s.seqLand root.rpkg u root.rtile n need g ((idx.zip r).map (fun x => (root.dbase + n * x.1, x.2))) with
    | (s, some e) => (s, some (root.rpkg, e.1, e.2))
    | (s, none) => (s, none)

/-- Tiles that a broadcast lands on in a peer package (R367). -/
def Domino.landings (root e : Domino) : List Nat :=
  if root.op = 7 then (List.range 4).filterMap (fun d =>
    if e.dmask / 2 ^ d % 2 = 1 then some (d * 64 + e.ptile % 64) else none)
  else [e.ptile]

/-- The words of a chunk landed on the tiles of one peer package. -/
def State.castTiles (s : State) (u p : Nat) (ws : List (Nat × Nat)) : List Nat → State × Option (Cause × Nat)
  | [] => (s, none)
  | t :: ts =>
    match s.seqLand p u t 4 permW (fun _ v => v) ws with
    | (s, none) => s.castTiles u p ws ts
    | r => r

/-- The words of a chunk landed on the peers in ring order. -/
def State.castPeers (s : State) (u i : Nat) (root : Domino) (is vals : List Nat) : List Nat → Gen
  | [] => (s, none)
  | p :: ps =>
    match s.chunkLost root p (root.dbase + 4 * nth is 0 0) with
    | some e => (s, some e)
    | none =>
    match s.copyFault p u i with
    | some (c, eva) => (s, some (p, c, eva))
    | none =>
      let e := s.domAt p u i
      match s.castTiles u p ((is.zip vals).map (fun x => (e.dbase + 4 * x.1, x.2))) (root.landings e) with
      | (s, some e) => (s, some (p, e.1, e.2))
      | (s, none) => s.castPeers u i root is vals ps

/-- One chunk of a BCAST or MCAST. -/
def State.castChunk (s : State) (u i : Nat) (root : Domino) (is : List Nat) : Gen :=
  match s.seqRead root.rpkg u root.rtile 4 (is.map (fun k => root.sbase + 4 * k)) with
  | .error e => (s, some (root.rpkg, e.1, e.2))
  | .ok vals => s.castPeers u i root is vals (root.peers (s.pkgAt root.rpkg).d)

/-- Chunks in order until one fails. -/
def runChunks (f : State → List Nat → Gen) : State → List (List Nat) → Gen
  | s, [] => (s, none)
  | s, c :: cs =>
    match f s c with
    | (s, none) => runChunks f s cs
    | r => r

/-- Element numbers in chunks of 1 KiB (R367). -/
def chunksOf (first per count : Nat) : List (List Nat) :=
  (List.range ((count + per - 1) / per)).map (fun c =>
    (List.range (min per (count - c * per))).map (fun k => first + c * per + k))

/-- A generation of entry `i` of tenant `u`, by the root's copy. -/
def State.generation (s : State) (u i : Nat) (root : Domino) : Gen :=
  if 6 ≤ root.op then runChunks (fun s c => s.castChunk u i root c) s (chunksOf 0 256 root.count)
  else if root.op = 5 then
    runChunks (fun s c => s.reduceChunk u i root c) s
      (if root.count = 0 then [[]] else chunksOf 2 256 root.count)
  else runChunks (fun s c => s.reduceChunk u i root c) s (chunksOf 0 (1024 / root.esize) root.count)

/-- The packages an entry involves. -/
def Domino.packages (e : Domino) (d : Nat) : List Nat := (e.rpkg :: e.peers d).eraseDups

/-- The pending generation of an entry fires at its root (R366, R367): its data moves, and the copies show it in
flight. -/
def State.fire (s : State) (p u i : Nat) : State :=
  let root := s.domAt p u i
  let d := (s.pkgAt p).d
  if !root.v ∨ root.malformed d ∨ root.rpkg ≠ p ∨ root.inflight ∨
      !(root.participants d).all (fun k => root.readies.contains k) then s
  else
    let s := (root.packages d).foldl (fun s q => s.setDom q u i { s.domAt q u i with inflight := true }) s
    let s := s.setDom p u i { s.domAt p u i with readies := [], failing := false }
    match s.generation u i root with
    | (s, none) => s
    | (s, some (q, c, eva)) =>
      let s := s.emptyFault q u 0 c (BitVec.ofNat 64 eva)
      s.setDom p u i { s.domAt p u i with failing := true }

/-- The generation completes: each participant package counts it and notes its status (R368). -/
def State.complete (s : State) (p u i : Nat) : State :=
  let root := s.domAt p u i
  if !root.inflight ∨ root.rpkg ≠ p then s
  else
    (root.packages (s.pkgAt p).d).foldl (fun s q =>
      let e := s.domAt q u i
      s.setDom q u i { e with done := e.done + 1, failed := root.failing, inflight := false }) s

end Sys2Proof.Machine
end

