-- ==== Sys2Proof/Machine/Span.lean ====
section
/-!
DEFINITION. Reads and writes of spans of virtual memory by engines and by the package's own agents (dispatcher,
fault queue, migration, host): one request per line (02 R36, R39), each translated and checked (03 R79; 01
R24, R33; 05 R126).
-/

namespace Sys2Proof.Machine

/-- Who makes an access: package and tile, the TLB it uses (none: an agent of the H-die, which walks anew),
the tenant, and whether a tile counts its requests. -/
structure Party where
  pkg : Nat
  tile : Nat
  sel : Option TlbSel
  tenant : Nat
  counted : Bool

/-- The dispatcher and the other agents of package `p` acting for tenant `u`. -/
def agent (p u : Nat) : Party := ⟨p, 0, none, u, false⟩

/-- Translation for a party. -/
def State.trFor (s : State) (q : Party) (va : Nat) (need : Perm) : State × TrRes :=
  match q.sel with
  | some sel => s.translate q.pkg q.tile sel q.tenant va need
  | none =>
    match s.walk q.pkg 4 q.tenant va need with
    | (s, .fault c) => (s, .fault c)
    | (s, .busy) => (s, .wait)
    | (s, .leaf e _) => (s, s.entryCheck q.pkg q.tenant va need e)

/-- What a span access comes to. -/
inductive SpanRes (α : Type) where
  | ok (v : α)
  | fault (c : Cause) (eva : Word)
  | wait

/-- The physical address of a virtual one for a party, with the checks of the access before it leaves: Address-Form (01
R14), translation, no MMIO (01 R33), a present tile (01 R24); a line whose home has an earlier request to perform makes it
wait (05 R125). -/
def State.place1 (s : State) (q : Party) (va : Nat) (need : Perm) : State × SpanRes Nat :=
  if 2 ^ 56 ≤ va then (s, .fault .addressForm (BitVec.ofNat 64 va))
  else
    match s.trFor q va need with
    | (s, .fault c) => (s, .fault c (BitVec.ofNat 64 va))
    | (s, .wait) => (s, .wait)
    | (s, .ok _ pa) =>
      if (s.region pa).isMmio then (s, .fault .protection (BitVec.ofNat 64 va))
      else if !q.counted && !s.reaches q.pkg (paPkg pa) then (s, .fault .requestTimeout (BitVec.ofNat 64 va))
      else if !q.counted && s.absent pa then (s, .fault .protection (BitVec.ofNat 64 va))
      else if s.lineTaken pa then (s, .wait)
      else (s, .ok pa)

/-- Bytes from `pa` on that stay in its line and in its 64 KiB frame. -/
def pieceRoom (pa : Nat) : Nat := min (192 - (pa - lineBase pa)) (0x1_0000 - pa % 0x1_0000)

/-! ### Requests of an engine stream (02 R65 to R67) -/

/-- Update of the engine stream that acts. -/
def State.modEng (s : State) (f : Engine → Engine) : State := s.modCur (fun j => j.modEng s.focus.kind f)

/-- The request that the engine stream that acts waits for. -/
def State.engAsked (s : State) : Option Asked := (s.jobAt s.key).bind (fun j => (j.eng s.focus.kind).asked)

/-- The engine stream that acts waits for `a`, or for nothing. -/
def State.engAsk (s : State) (a : Option Asked) : State := s.modEng (fun e => { e with asked := a })

/-- The access is a write at its home. -/
def Hint.writes : Hint → Bool
  | .store => true | .noalloc => true | _ => false

/-- One number of the engine stream that acts at the target of `pa`, and the kept result of a write (02 R65, R67). -/
def State.numbered (s : State) (pa : Nat) (write : Bool) : State :=
  let by_ := requester s.key s.focus.kind false
  let target := s.targetNum pa
  let (n, s) := s.takeSeq by_ target
  if write then { s with kept := keepResult s.kept ⟨by_, target, n, 0, []⟩ } else s

/-- One request of a party to the home of `pa`, which it reaches (R35, R41). -/
def State.request (s : State) (q : Party) (pa n : Nat) (h : Hint) : State :=
  (if q.counted then s.numbered pa h.writes else s).touchHome pa n h

/-- The whole sectors of a line that a run which entered it at `from_` has with the `n` bytes at `pa` cross links (02 R69). -/
def State.carryPiece (s : State) (q : Party) (write : Bool) (from_ pa n : Nat) : State :=
  let way := if write then wayTo q.pkg (dieOf q.tile) (s.placeOf pa) else wayBack q.pkg (dieOf q.tile) (s.placeOf pa)
  if !q.counted || way.isEmpty then s
  else (List.range 4).foldl (fun s i =>
    let a := lineBase pa + 48 * i
    if from_ ≤ a ∧ pa < a + 48 ∧ a + 48 ≤ pa + n then s.carry way a (readBytes s.mem a 48) else s) s

/-- Where the run that entered its line at `f` entered the line of `pa`, to which it has come. -/
def lineFrom (f pa : Nat) : Nat := if lineBase f = lineBase pa then f else pa

/-- The same for each piece, the first of a run that entered its line at `f`. -/
def State.carryPieces (s : State) (q : Party) (write : Bool) (f : Nat) (l : List (Nat × Nat)) : State :=
  l.foldl (fun s x => s.carryPiece q write (lineFrom f x.1) x.1 x.2) s

/-- The passage of requests to `ways` of one element or span: lost if one is, else unanswered if one is (02 R66, R69). -/
def State.passageOf (s : State) (q : Party) (ways : List Place) : Passage :=
  let l := ways.map (s.passage q.pkg q.tile)
  if l.contains .lost then .lost else if l.contains .unanswered then .unanswered else .through

/-- The same for the requests at pieces `l`. -/
def State.passageAll (s : State) (q : Party) (l : List (Nat × Nat)) : Passage := s.passageOf q (l.map (fun x => s.placeOf x.1))

/-- The homes of the requests at pieces `l`, one for each line but `line`, which the run has asked for already (01 R36). -/
def State.newLines (s : State) : Option Nat → List (Nat × Nat) → List Place
  | _, [] => []
  | line, (pa, _) :: l =>
    (if line = some (lineBase pa) then [] else [s.placeOf pa]) ++ s.newLines (some (lineBase pa)) l

/-- The requests to `ways` for the access at `va` travel: they perform now, or the stream waits, issuing them again after each
timeout under their numbers, and after three reissues raises Request-Timeout (02 R66). A write whose answer is discarded has
performed: only its answer is waited for (`held`). The requests in `count` count as they first leave (01 R36). -/
def State.travelTo (s : State) (q : Party) (va : Word) (pa target : Nat) (ways count : List Place) (write : Bool) :
    State × SpanRes Unit :=
  if !q.counted then (s, .ok ())
  else
    let mark : List Byte := if write then [1] else []
    let place := ways.headD (.hdie q.pkg)
    let go := fun (s : State) (a : Asked) (again : Bool) =>
      match s.passageOf q ways with
      | .through => (if again then s.engAsk none else s, SpanRes.ok ())
      | .lost => (s.engAsk (some a), .wait)
      | .unanswered => if write then (s.engAsk (some { a with held := true }), .ok ()) else (s.engAsk (some a), .wait)
    match s.engAsked.filter (fun a => a.va == va && a.pa == pa && a.data == mark && !a.held) with
    | none =>
      let seq := (mget s.seqs (seqKey (requester s.key s.focus.kind false) target)).getD 0
      go (count.foldl (fun s pl => s.countReq q.pkg q.tile pl) s) ⟨va, pa, seq, s.wall, 0, mark, false⟩ false
    | some a =>
      if !s.overdue q.pkg place a.sentAt then (s, .wait)
      else if a.reissues = 3 then (s.engAsk none, .fault .requestTimeout va)
      else
        go (s.countTile (tileKey q.pkg q.tile) (fun t => { t with reissue := t.reissue + 1 }))
          { a with sentAt := s.wall, reissues := a.reissues + 1 } true

/-- The same for the requests at pieces `l`. -/
def State.travel (s : State) (q : Party) (va : Word) (l : List (Nat × Nat)) (count : List Place) (write : Bool) :
    State × SpanRes Unit :=
  let pa := (l.head?.map Prod.fst).getD 0
  s.travelTo q va pa (s.targetNum pa) (l.map (fun x => s.placeOf x.1)) count write

/-- What stands of an access or a load that waits, begun at `s` and come to `x`: the request that is to be issued again, and what
counts of it; a page that it waits for leaves nothing. -/
def State.heldBack (s x : State) : State :=
  let t := x.tileAt x.tkey
  let lost := s.engAsked.isNone && x.engAsked.isSome
  (s.engAsk x.engAsked).modTile s.tkey (fun k =>
    { k with reissue := t.reissue, reqloc := if lost then t.reqloc else k.reqloc, reqdie := if lost then t.reqdie else k.reqdie
             reqpkg := if lost then t.reqpkg else k.reqpkg, before := t.before })

/-- The stream still waits for the answer to a write that has performed: it is answered from the kept result when a reissue
comes through (02 R67). -/
def State.settleAsked (s : State) (q : Party) : State × SpanRes Unit :=
  match s.engAsked with
  | some a =>
    if !a.held then (s, .ok ())
    else if !s.overdue q.pkg (s.placeOf a.pa) a.sentAt then (s, .wait)
    else if a.reissues = 3 then (s.engAsk none, .fault .requestTimeout a.va)
    else
      let s := s.countTile (tileKey q.pkg q.tile) (fun t => { t with reissue := t.reissue + 1 })
      if s.passage q.pkg q.tile (s.placeOf a.pa) = .through then (s.engAsk none, .ok ())
      else (s.engAsk (some { a with sentAt := s.wall, reissues := a.reissues + 1 }), .wait)
  | none => (s, .ok ())

/-! ### Spans -/

/-- The pieces of a span of `n` bytes at `va`: physical address and length of each; nothing is requested
yet. `fuel` bounds their number. -/
def State.pieces (s : State) (q : Party) (need : Perm) : Nat → Nat → Nat → State × SpanRes (List (Nat × Nat))
  | 0, _, _ => (s, .ok [])
  | fuel + 1, va, n =>
    if n = 0 then (s, .ok [])
    else
      match s.place1 q va need with
      | (s, .fault c e) => (s, .fault c e)
      | (s, .wait) => (s, .wait)
      | (s, .ok pa) =>
        let k := min n (pieceRoom pa)
        match s.pieces q need fuel (va + k) (n - k) with
        | (s, .ok l) => (s, .ok ((pa, k) :: l))
        | r => r

/-- The pieces of a span at `va` up to the first whose answer is an error, and that error: Data-Error where storage holds one (15
R384), Protection from a tile marked absent (01 R24). -/
def State.failing (s : State) (q : Party) : Nat → List (Nat × Nat) → List (Nat × Nat) × Option (Cause × Word)
  | _, [] => ([], none)
  | va, (pa, k) :: l =>
    if s.flawed pa k then ([(pa, k)], some (.dataError, BitVec.ofNat 64 va))
    else if q.counted && s.absent pa then ([(pa, k)], some (.protection, BitVec.ofNat 64 va))
    else ((pa, k) :: (s.failing q (va + k) l).1, (s.failing q (va + k) l).2)

/-- The pieces of a span whose requests have been answered. -/
def State.sentPieces (s : State) (q : Party) (need : Perm) (va n : Nat) (write : Bool) : State × SpanRes (List (Nat × Nat)) :=
  match s.pieces q need n va n with
  | (s, .ok l) =>
    let (sent, bad) := s.failing q va l
    match s.travel q (BitVec.ofNat 64 va) sent (if s.engAsked.isSome then [] else s.newLines none sent) write, bad with
    | (s, .ok _), none => (s, .ok l)
    | (s, .ok _), some (c, e) => (s, .fault c e)
    | (s, .fault c e), _ => (s, .fault c e)
    | (s, .wait), _ => (s, .wait)
  | r => r

/-- Read of `n` bytes at `va`. -/
def State.spanRead (s : State) (q : Party) (va n : Nat) (need : Perm) (h : Hint) : State × SpanRes (List Byte) :=
  match s.sentPieces q need va n false with
  | (s, .ok l) =>
    ((l.foldl (fun s x => s.request q x.1 x.2 h) s).carryPieces q false 0 l, .ok (l.flatMap (fun x => readBytes s.mem x.1 x.2)))
  | (s, .fault c e) => (s, .fault c e)
  | (s, .wait) => (s, .wait)

/-- The pieces written in order. -/
def State.putPieces (s : State) (q : Party) (h : Hint) : List (Nat × Nat) → List Byte → State
  | [], _ => s
  | (pa, k) :: l, b =>
    let s := s.request q pa k h
    State.putPieces (({ s with mem := writeBytes s.mem pa (b.take k) }).carryPiece q true pa pa k) q h l (b.drop k)

/-- Write of bytes at `va`: nothing is written when any byte of the span fails its checks. -/
def State.spanWrite (s : State) (q : Party) (va : Nat) (b : List Byte) (h : Hint) : State × SpanRes Unit :=
  match s.sentPieces q permW va b.length true with
  | (s, .ok l) => (s.putPieces q h l b, .ok ())
  | (s, .fault c e) => (s, .fault c e)
  | (s, .wait) => (s, .wait)

/-- Bytes as dwords. -/
def bytesDwords : Nat → List Byte → List Word
  | 0, _ => []
  | n + 1, l => BitVec.ofNat 64 (leNat (l.take 8)) :: bytesDwords n (l.drop 8)

/-- What an agent reads as `n` dwords at `va`: one normal load for each line (log 28). -/
def State.peekDwords (s : State) (p u va n : Nat) : SpanRes (List Word) :=
  match (s.spanRead (agent p u) va (8 * n) permR .load).2 with
  | .ok b => .ok (bytesDwords n b)
  | .fault c e => .fault c e
  | .wait => .wait

/-- What that read leaves in the caches of homes and walks (02 R41; 03 R77). -/
def State.peeked (s : State) (p u va n : Nat) : State := (s.spanRead (agent p u) va (8 * n) permR .load).1

/-- One dword that an agent reads. -/
def State.peek64 (s : State) (p u va : Nat) : SpanRes Word :=
  match s.peekDwords p u va 1 with
  | .ok l => .ok (nth l 0 0)
  | .fault c e => .fault c e
  | .wait => .wait

/-- What an agent does with what it has read. -/
def SpanRes.bind {α β : Type} (r : SpanRes α) (f : α → SpanRes β) : SpanRes β :=
  match r with
  | .ok v => f v
  | .fault c e => .fault c e
  | .wait => .wait

/-- An agent's answer, or what stands for one that did not come. -/
def SpanRes.getD {α : Type} (r : SpanRes α) (d : α) : α :=
  match r with
  | .ok v => v
  | _ => d

/-- An agent's read must wait for a page under migration or for a line (03 R87). -/
def SpanRes.waits {α : Type} (r : SpanRes α) : Bool :=
  match r with
  | .wait => true
  | _ => false

/-! ### Whole areas, page by page (15 R398, R400) -/

/-- Bytes laid from offset `o` up. -/
def laid (o : Nat) (l : List Byte) : List (Nat × Byte) := (List.range l.length).zip l |>.map (fun x => (o + x.1, x.2))

/-- Byte at an offset of an area as read back. -/
def slotByte : List (Nat × Byte) → Nat → Byte
  | [], _ => 0
  | (k, b) :: l, o => if k = o then b else slotByte l o

/-- Dword at an offset of an area. -/
def slotDword (l : List (Nat × Byte)) (o : Nat) : Word :=
  BitVec.ofNat 64 (leNat ((List.range 8).map (fun i => slotByte l (o + i))))

/-- The 64 KiB pages of an area of `n` bytes at `va`, each with its physical address: nothing is written yet. -/
def State.areaPages (s : State) (q : Party) (need : Perm) (va : Nat) : Nat → State × SpanRes (List (Nat × Nat))
  | 0 => (s, .ok [])
  | k + 1 =>
    match s.areaPages q need va k with
    | (s, .ok l) =>
      match s.place1 q (va + 0x1_0000 * k) need with
      | (s, .ok pa) =>
        if s.spanTaken pa 0x1_0000 then (s, .wait)
        else if s.flawed pa 0x1_0000 then (s, .fault .dataError (BitVec.ofNat 64 (va + 0x1_0000 * k)))
        else (s, .ok (l ++ [(0x1_0000 * k, pa)]))
      | (s, .fault c e) => (s, .fault c e)
      | (s, .wait) => (s, .wait)
    | r => r

/-- An area of `k` pages of 64 KiB at `va` holds the slice `l` and zeros elsewhere. -/
def State.putArea (s : State) (q : Party) (va k : Nat) (l : List (Nat × Byte)) : State × SpanRes Unit :=
  match s.areaPages q permW va k with
  | (s, .ok ps) =>
    let s := ps.foldl (fun s x => s.touchSpan x.2 0x1_0000 .store) s
    ({ s with mem := ps.foldl (fun m x =>
        layAt (clearRange m x.2 (x.2 + 0x1_0000)) x.2
          ((l.filter (fun c => decide (x.1 ≤ c.1) && decide (c.1 < x.1 + 0x1_0000))).map
            (fun c => (c.1 - x.1, c.2)))) s.mem }, .ok ())
  | (s, .fault c e) => (s, .fault c e)
  | (s, .wait) => (s, .wait)

/-- The listed bytes of an area of `k` pages at `va`. -/
def State.getArea (s : State) (q : Party) (va k : Nat) : State × SpanRes (List (Nat × Byte)) :=
  match s.areaPages q permR va k with
  | (s, .ok ps) =>
    (ps.foldl (fun s x => s.touchSpan x.2 0x1_0000 .load) s, .ok (ps.flatMap (fun x => (sliceOf s.mem x.2 (x.2 + 0x1_0000)).map (fun c => (c.1 + x.1, c.2)))))
  | (s, .fault c e) => (s, .fault c e)
  | (s, .wait) => (s, .wait)

/-- Dwords as bytes. -/
def dwordBytes (l : List Word) : List Byte := l.flatMap (fun w => leBytes 8 w.toNat)

/-- Dwords laid from offset `o` up. -/
def laidDwords (o : Nat) (l : List Word) : List (Nat × Byte) := laid o (dwordBytes l)

end Sys2Proof.Machine
end

