-- ==== Sys2Proof/Machine/Image.lean ====
section
/-!
DEFINITION. Kernel descriptors (06 R161, R162; 03 R89), code images (08 R217), their loading into IMEM, EMEM and a DMEM bank (08 R218; 11 R318), and
residency (06 R164; 01 R34).
-/

namespace Sys2Proof.Machine

/-! ### Kernel descriptors (06 R161, R162; 03 R89) -/

/-- A level dword is well formed. -/
def levelOk (v : Word) : Bool := bits v 63 62 != 3 && bits v 61 16 == 0
def levelMark (v : Word) : Nat := bits v 63 62
def levelCount (v : Word) : Nat := bits v 15 0

/-- The limits of R162 on the levels in use. -/
def levelsOk (l : List Word) : Bool :=
  l.all levelOk && decide ((l.filter (fun v => levelMark v == 0)).length ≤ 4)
    && decide ((l.filter (fun v => levelMark v == 2)).length ≤ 1)
    && decide (((l.filter (fun v => levelMark v != 0)).map levelCount).foldl (· * ·) 1 ≤ 2 ^ 24)

/-- A binding byte is well formed (R161). -/
def bindOk (b : Nat) : Bool := b == 0xFF || (decide (b / 16 < 7) && decide (b % 16 < 7))

/-- Variants of a footprint table. -/
def variantCount (v : Vector Word 4) : Nat := bits (vget v 0) 1 0
def variantFoot (v : Vector Word 4) (i : Nat) : Nat := bits (vget v (i + 1)) 63 40
/-- The low 32 bits of a variant entry, laid out as the entries of a record. -/
def variantEntry (v : Vector Word 4) (i : Nat) : Nat := bits (vget v (i + 1)) 31 0

/-- The variant table is well formed (03 R89); the reserved bits of entries from the count up are not looked at (DESIGN CHOICE,
log 68). -/
def variantsOk (v : Vector Word 4) : Bool :=
  bits (vget v 0) 63 2 == 0 &&
    (List.range (variantCount v)).all (fun i =>
      bits (vget v (i + 1)) 39 32 == 0 && bits (vget v (i + 1)) 15 14 == 0)

/-- The kernel of 32 descriptor dwords read at `at_`, none when malformed (R161). -/
def parseKernel (l : List Word) (at_ : Nat) : Option Kernel :=
  let w := fun (k : Nat) => nth l k 0
  let n := bits (w 4) 2 0
  let levels := (l.drop 5).take n
  let variants : Vector Word 4 := Vector.ofFn (fun i => w (12 + i.val))
  let k : Kernel :=
    { image := BitVec.ofNat 64 (bits (w 0) 55 0), alloc := bits (w 1) 54 52, accbase := bits (w 1) 47 39
      acccount := bits (w 1) 38 29, smask := BitVec.ofNat 7 (bits (w 1) 28 22), xoff := bits (w 1) 15 0
      eoff := BitVec.ofNat 64 (bits (w 2) 59 0), entries := BitVec.ofNat 32 (bits (w 3) 31 0), levels := levels
      est := bits (w 11) 31 0, variants := variants, sched := BitVec.ofNat 64 (bits (w 16) 55 0)
      tqbind := #v[w 17, w 18], at_ := BitVec.ofNat 64 at_ }
  if bits (w 0) 63 56 ≠ 0 ∨ (w 0).toNat % 256 ≠ 0 ∨ bits (w 1) 63 55 ≠ 0 ∨ bits (w 1) 51 48 ≠ 0
      ∨ bits (w 1) 21 16 ≠ 0 ∨ 512 < k.acccount ∨ 512 < k.accbase + k.acccount then none
  else if bits (w 2) 63 60 ≠ 0 ∨ bits (w 3) 63 32 ≠ 0 ∨ bits (w 3) 15 14 ≠ 0 ∨ bits (w 4) 63 3 ≠ 0 ∨ 6 < n then none
  else if ((l.drop (5 + n)).take (6 - n)).any (fun v => v != 0) then none
  else if !levelsOk levels ∨ bits (w 11) 63 32 ≠ 0 ∨ !variantsOk variants ∨ bits (w 16) 63 56 ≠ 0 then none
  else if (List.range 8).any (fun i => !bindOk (bits (w 17) (8 * i + 7) (8 * i)) || !bindOk (bits (w 18) (8 * i + 7) (8 * i)))
      ∨ (l.drop 19).any (fun v => v != 0) then none
  else some k

/-! ### Image headers (08 R217) -/

/-- The fields of an image header. -/
structure ImageHdr where
  ibase : Nat
  ilen : Nat
  ebase : Nat
  elen : Nat
  dlen : Nat
  ioff : Nat
  moff : Nat
  eoff : Nat
  doff : Nat
  deriving DecidableEq, Repr

/-- The header in the first 256 bytes of an image, as 32 dwords: none where it fails R217. Bits that no field
names are reserved (log 29). -/
def parseHdr (h : List Word) : Option ImageHdr :=
  let w := fun (k : Nat) => nth h k 0
  let v : ImageHdr :=
    { ibase := bits (w 1) 17 0, ilen := bits (w 1) 48 32, ebase := bits (w 2) 13 0, elen := bits (w 2) 46 32
      dlen := bits (w 3) 10 0, ioff := bits (w 4) 31 0, moff := bits (w 5) 31 0, eoff := bits (w 6) 31 0
      doff := bits (w 7) 31 0 }
  if bits (w 0) 31 0 ≠ 0x4E58_4531 ∨ bits (w 0) 47 32 ≠ 1 ∨ bits (w 0) 63 48 ≠ 0 then none
  else if bits (w 1) 31 18 ≠ 0 ∨ bits (w 1) 63 49 ≠ 0 ∨ v.ibase % 256 ≠ 0 ∨ v.ilen = 0 ∨ 65536 < v.ilen
      ∨ 0x4_0000 < v.ibase + 4 * v.ilen then none
  else if bits (w 2) 31 14 ≠ 0 ∨ bits (w 2) 63 47 ≠ 0 ∨ 16384 < v.elen ∨ 16384 < v.ebase + v.elen then none
  else if bits (w 3) 63 11 ≠ 0 ∨ 1024 < v.dlen then none
  else if [4, 5, 6, 7].any (fun k => bits (w k) 63 32 != 0 || (w k).toNat % 8 != 0) then none
  else if bits (w 8) 63 32 ≠ 0 ∨ bits (w 9) 63 32 ≠ 0 then none
  else if (h.drop 10).any (fun x => x != 0) then none
  else some v

/-- The template row of an image's header: a kernel descriptor with image = 0 (R217). -/
def templateOk (h : List Word) : Bool := ((parseKernel h 0).map (fun k => k.image == 0)).getD false

/-- Whether two ranges of `n` and `m` items share one. -/
def overlap (a n b m : Nat) : Bool := n != 0 && m != 0 && decide (a < b + m) && decide (b < a + n)

/-- Residency without the images whose IMEM words `[i, i + n)` bytes or EMEM entries `[e, e + m)` a write
touches (R164). -/
def endResidency (l : List Resident) (i n e m : Nat) : List Resident :=
  l.filter (fun r => !(overlap r.ibase (4 * r.ilen) i n || overlap r.ebase r.elen e m))

/-- IMEM words written from address `a`, each with its literal tag. -/
def writeImem (m : Memory) (p t a : Nat) : List (W32 × Bool) → Memory
  | [] => m
  | (w, tag) :: l =>
    let m := write32 m (blockAddr p t (0x40_0000 + a)) w
    let at_ := blockAddr p t (0x48_0000 + a / 32)
    let old := (readByte m at_).toNat
    let bit := 2 ^ (a / 4 % 8)
    let new := old - old / bit % 2 * bit + (if tag then bit else 0)
    writeImem (writeByte m at_ (BitVec.ofNat 8 new)) p t (a + 4) l

/-- EMEM entries written from index `i`; bits 63:48 are dropped (R32). -/
def writeEmem (m : Memory) (p t i : Nat) : List Word → Memory
  | [] => m
  | w :: l => writeEmem (write64 m (blockAddr p t (0x44_0000 + 8 * i)) (BitVec.ofNat 64 (bits w 47 0))) p t (i + 1) l

/-- Words with their tags from the bytes of the IMEM and mask sections. -/
def taggedWords (n : Nat) (words mask : List Byte) : List (W32 × Bool) :=
  (List.range n).map (fun k =>
    (BitVec.ofNat 32 (leNat ((words.drop (4 * k)).take 4)), (nth mask (k / 8) 0).getLsbD (k % 8)))

/-- The party of a load: the C stream of a tile. -/
def loader (p t u : Nat) : Party := ⟨p, t, some (.stream .C), u, true⟩

/-- Where a job's DMEM bank lies (R32). -/
def dmemAddr (p t slot : Nat) : Nat := blockAddr p t (0x46_0000 + slot * 0x8000)

/-- One section of an image read with X (R218). -/
def State.section (s : State) (q : Party) (va n : Nat) : State × SpanRes (List Byte) :=
  if n = 0 then (s, .ok []) else s.spanRead q va n permX .load

/-- Sections read one after another. -/
def State.sections (s : State) (q : Party) : List (Nat × Nat) → State × SpanRes (List (List Byte))
  | [] => (s, .ok [])
  | (va, n) :: l =>
    match s.section q va n with
    | (s, .fault c e) => (s, .fault c e)
    | (s, .wait) => (s, .wait)
    | (s, .ok b) =>
      match s.sections q l with
      | (s, .ok r) => (s, .ok (b :: r))
      | r => r

/-- CPYCODE of an image for the job in `slot` of tile `(p, t)` (R218): the whole image, or its DMEM section alone.
A faulting read leaves everything unloaded. The job runs from the ranges that the load of its own image fills (R164). -/
def State.loadImage (s : State) (p t slot u va : Nat) (whole : Bool) : State × SpanRes Unit :=
  let q := loader p t u
  if va % 256 ≠ 0 then (s, .fault .engineWord (BitVec.ofNat 64 va))
  else
    match s.section q va 512 with
    | (s, .fault c e) => (s, .fault c e)
    | (s, .wait) => (s, .wait)
    | (s, .ok hb) =>
      match (parseHdr (bytesDwords 32 hb)).filter (fun _ => templateOk (bytesDwords 32 (hb.drop 256))) with
      | none => (s, .fault .engineWord (BitVec.ofNat 64 va))
      | some h =>
        let code := if whole then [(va + h.ioff, 4 * h.ilen), (va + h.moff, (h.ilen + 7) / 8), (va + h.eoff, 8 * h.elen)]
          else [(va, 0), (va, 0), (va, 0)]
        match s.sections q (code ++ [(va + h.doff, 32 * h.dlen)]) with
        | (s, .fault c e) => (s, .fault c e)
        | (s, .wait) => (s, .wait)
        | (s, .ok l) =>
          let m := if whole then
              writeEmem (writeImem s.mem p t h.ibase (taggedWords h.ilen (nth l 0 []) (nth l 1 []))) p t h.ebase
                (bytesDwords h.elen (nth l 2 []))
            else s.mem
          let s := { s with mem := writeBytes m (dmemAddr p t slot) (nth l 3 []) }
          let s := if whole then
              (s.modJob (slotKey p t slot) (fun j =>
                if j.kern.image.toNat = va then { j with code := some ⟨h.ibase, 4 * h.ilen, h.ebase, h.elen⟩ } else j)).modTile (tileKey p t) (fun k =>
                { k with resident := endResidency k.resident h.ibase (4 * h.ilen) h.ebase h.elen ++
                    [⟨BitVec.ofNat 8 u, BitVec.ofNat 64 va, h.ibase, h.ilen, h.ebase, h.elen, h.dlen⟩] })
            else s
          (s, .ok ())

/-- The residency entry of an image on a tile (R164). -/
def Tile.image (t : Tile) (u : Nat) (va : Word) : Option Resident :=
  t.resident.find? (fun r => r.tenant.toNat == u && r.image == va)

/-- The header of an image as the dispatcher reads it; none in it when it cannot be read or fails R217. -/
def State.peekHdr (s : State) (p u : Nat) (va : Word) : SpanRes (Option ImageHdr) :=
  if va.toNat % 256 ≠ 0 then .ok none
  else match (s.spanRead (agent p u) va.toNat 256 permX .load).2 with
    | .ok b => .ok (parseHdr (bytesDwords 32 b))
    | .fault _ _ => .ok none
    | .wait => .wait

end Sys2Proof.Machine
end

