-- ==== Sys2Proof/Machine/Records.lean ====
section
/-!
DEFINITION. Continuation records (06 R165, R166), kernel descriptors (06 R161, R162; 03 R89), class queues
(14 R376), launches and their status (14 R372 to R375), phase instances (03 R90; 10 R276), producer sets (06 R170)
and the supervisor's fault queue (15 R390, R391).
-/

namespace Sys2Proof.Machine

/-! ### Record fields (R165) -/

def recLv (dw : Dw8) : Bool := (vget dw 0).getLsbD 34
def recE (dw : Dw8) : Bool := (vget dw 0).getLsbD 33
def recRs (dw : Dw8) : Bool := (vget dw 0).getLsbD 32
def recIentry (dw : Dw8) : Nat := bits (vget dw 0) 31 14
def recEentry (dw : Dw8) : Nat := bits (vget dw 0) 13 0
def recFrame (dw : Dw8) : Word := BitVec.ofNat 64 (bits (vget dw 1) 55 0)
def recJoin (dw : Dw8) : Nat := bits (vget dw 2) 55 0
/-- Loop index `i`, 0 to 5. -/
def recIndex (dw : Dw8) (i : Nat) : Nat :=
  if i < 4 then bits (vget dw 3) (16 * i + 15) (16 * i) else bits (vget dw 4) (16 * (i - 4) + 15) (16 * (i - 4))
def recDv (dw : Dw8) : Bool := (vget dw 5).getLsbD 12
def recPlaunch (dw : Dw8) : Nat := bits (vget dw 5) 11 0

/-- Byte offsets of the fields of a record that break R166, lowest first; the kernel field's when its number
is not below `ktlen`. -/
def recFaults (dw : Dw8) (ktlen : Nat) : List Nat :=
  let w := vget dw
  (if bits (w 0) 15 14 ≠ 0 then [1] else []) ++ (if bits (w 0) 37 35 ≠ 0 then [4] else [])
    ++ (if ktlen ≤ recKernel dw then [6] else []) ++ (if bits (w 1) 63 56 ≠ 0 then [15] else [])
    ++ (if bits (w 2) 63 56 ≠ 0 then [23] else []) ++ (if bits (w 4) 39 32 ≠ 0 then [36] else [])
    ++ (if bits (w 4) 63 60 ≠ 0 then [39] else []) ++ (if bits (w 5) 63 13 ≠ 0 then [41] else [])
    ++ (if w 6 ≠ 0 then [48] else []) ++ (if w 7 ≠ 0 then [56] else [])

/-- A record with its level bit set as its path gives (R165). -/
def setLv (dw : Dw8) (sup : Bool) : Dw8 := vset dw 0 (setBits (vget dw 0) 34 34 (if sup then 1 else 0))

/-- The record that SPAWN stores from an image (R168). -/
def spawned (img : Dw8) (u : Tenant) (cls : Nat) (sup : Bool) : Dw8 :=
  let d := setBits (vget img 0) 47 40 u.toNat
  let d := setBits d 39 38 (max (bits d 39 38) cls)
  setLv (vset img 0 d) sup

/-- Eight dwords from a list. -/
def dw8 (l : List Word) : Dw8 := Vector.ofFn (fun i => nth l i.val 0)

/-! ### Kernels and schedules (R160; 14 R383) -/

/-- Address of kernel `k`'s descriptor (R160). -/
def State.kernelAt (s : State) (p u k : Nat) : Nat := bits (s.tenAt p u).ktbase 55 8 * 256 + 256 * k

/-- The kernel of a descriptor as the dispatcher reads it: `none` when its read faults or it is malformed. It waits for a page
under migration (03 R87). -/
def State.kernel (s : State) (p u k : Nat) : SpanRes (Option Kernel) :=
  let at_ := s.kernelAt p u k
  match s.peekDwords p u at_ 32 with
  | .ok l => .ok (parseKernel l at_)
  | .fault _ _ => .ok none
  | .wait => .wait

/-- A schedule entry is well formed (14 R383). -/
def schedEntryOk (l : List Word) : Bool :=
  let w := fun (k : Nat) => nth l k 0
  let t : BitVec 192 := w 3 ++ w 2 ++ w 1
  bits (w 0) 63 21 == 0 && decide (bits (w 0) 20 18 < 7) &&
    (List.range 8).all (fun i => bits t (24 * i + 22) (24 * i + 18) == 0)

def schedEntry (l : List Word) : SchedEntry :=
  let w := fun (k : Nat) => nth l k 0
  ⟨bits (w 0) 20 18, bits (w 0) 17 0, w 3 ++ w 2 ++ w 1⟩

/-- No two entries share a key. -/
def keysDiffer : List SchedEntry → Bool
  | [] => true
  | e :: l => l.all (fun x => !(x.kind == e.kind && x.point == e.point)) && keysDiffer l

/-- `n` schedule entries of four dwords each. -/
def schedList : Nat → List Word → List SchedEntry
  | 0, _ => []
  | n + 1, l => schedEntry (l.take 4) :: schedList n (l.drop 4)

/-- Whether each of `n` entries is well formed. -/
def schedListOk : Nat → List Word → Bool
  | 0, _ => true
  | n + 1, l => schedEntryOk (l.take 4) && schedListOk n (l.drop 4)

/-- The schedule table of a kernel (14 R383): none when malformed or when its read faults. -/
def State.schedule (s : State) (p u : Nat) (k : Kernel) : SpanRes (Option (List SchedEntry)) :=
  let va := k.sched.toNat
  if va = 0 then .ok (some [])
  else if va % 32 ≠ 0 then .ok none
  else match s.peek64 p u va with
    | .wait => .wait
    | .fault _ _ => .ok none
    | .ok h =>
      let n := bits h 6 0
      if bits h 63 7 ≠ 0 ∨ n = 0 ∨ 64 < n then .ok none
      else match s.peekDwords p u (va + 32) (4 * n) with
        | .wait => .wait
        | .fault _ _ => .ok none
        | .ok l =>
          let es := schedList n l
          .ok (if schedListOk n l && keysDiffer es then some es else none)

/-- What the dispatcher's reads of a descriptor and of its schedule table leave in the caches (02 R41). -/
def State.readKernel (s : State) (p u k : Nat) (kern : Option Kernel) : State :=
  let s := s.peeked p u (s.kernelAt p u k) 32
  match kern with
  | none => s
  | some q =>
    if q.sched = 0 then s
    else match s.peek64 p u q.sched.toNat with
      | .ok h => s.peeked p u q.sched.toNat (4 * (bits h 6 0 + 1))
      | _ => s

/-! ### Faults of the dispatcher (15 R386, R388) -/

/-- What a record says of its place in a fault record. -/
def recPlace (dw : Dw8) : FaultPlace := { kernel := recKernel dw, phase := recPhase dw, tag := recTag dw }

/-- The same for the job of a record in slot `key`. -/
def jobPlace (dw : Dw8) (key : Nat) : FaultPlace := { recPlace dw with tile := keyTile key, slot := keySlot key }

/-- A fault with an empty cut about a queued record. -/
def State.recordFault (s : State) (p u : Nat) (dw : Dw8) (c : Cause) (eva : Nat) : State :=
  s.emptyFaultAt p u (recPlace dw) c (BitVec.ofNat 64 eva)

/-! ### Class queues (14 R376) -/

/-- Records class queue `c` holds at most. -/
def TenantArea.queueCap (a : TenantArea) (c : Nat) : Nat :=
  if a.rqbase.getLsbD 0 && !a.backingOff.getLsbD c then 2 ^ a.rqcap else 64

/-- Room for one more record in class queue `c`. -/
def TenantArea.hasRoom (a : TenantArea) (c : Nat) : Bool := decide ((vget a.queues c).length < a.queueCap c)

/-- A record made ready to wait. -/
def qrec (dw : Dw8) (die tile : Option Nat) (expanded : Bool) : QRec := ⟨dw, die, tile, 0, expanded, none⟩

/-- Address of place `i` of the backing of queue `c` (log 30). -/
def TenantArea.backing (a : TenantArea) (c i : Nat) : Nat :=
  bits a.rqbase 55 12 * 0x1000 + c * 64 * 2 ^ a.rqcap + 64 * i

/-- The lowest free place of the backing of queue `c`; the first 64 stand for the part on chip (log 30). -/
def TenantArea.freePlace (a : TenantArea) (c : Nat) : Nat :=
  let q := vget a.queues c
  64 + ((List.range (q.length + 1)).find? (fun i => !q.any (fun r => r.slot == some (64 + i)))).getD 0

/-- A fault on the backing of queue `c` at `eva`: it goes to the supervisor, and the queue holds only its part on chip until
RQBASE is written (R376). -/
def State.backingFault (s : State) (p u c : Nat) (dw : Dw8) (e : Cause) (eva : Word) : State :=
  (s.emptyFaultAt p u (recPlace dw) e eva).modTen p u (fun a =>
    { a with backingOff := setBits a.backingOff c c 1
             queues := vset a.queues c (((vget a.queues c).filter (fun r => r.slot.isNone)).take 64) })

/-- A backed record as its place holds it: the dispatcher keeps its tenant, class and level (log 30). -/
def keepFields (old new : Dw8) : Dw8 :=
  let d := setBits (vget new 0) 47 40 (recTenant old)
  setLv (vset new 0 (setBits d 39 38 (recClass old))) (recLv old)

/-- Record `r` of queue `c` changed by `f`. -/
def State.modRecord (s : State) (p u c : Nat) (r : QRec) (f : QRec → QRec) : State :=
  s.modTen p u (fun a => { a with queues := vset a.queues c ((vget a.queues c).map (fun x => if x = r then f x else x)) })

/-- A backed record of queue `c` read from its place; it stays there, or comes on chip. -/
def State.recall (s : State) (p u c : Nat) (r : QRec) (onChip : Bool) : State :=
  match r.slot with
  | none => s
  | some i =>
    match s.spanRead (agent p u) ((s.tenAt p u).backing c i) 64 permR .load with
    | (s, .ok b) => s.modRecord p u c r (fun x => { x with dw := keepFields r.dw (dw8 (bytesDwords 8 b)), slot := if onChip then none else x.slot })
    | (s, .fault e a) => s.backingFault p u c r.dw e a
    | (s, .wait) => s

/-- The place of a backed record is on a page under migration. -/
def State.recallWaits (s : State) (p u c : Nat) (r : QRec) : Bool :=
  match r.slot with
  | none => false
  | some i => (s.peekDwords p u ((s.tenAt p u).backing c i) 8).waits

/-- Queue `c` put right: a backed record among the first 64 comes on chip, and one beyond them goes to the backing while there is one
(R376); a job started again may stand beyond them without (log 30). -/
def State.stow (s : State) (p u c : Nat) : State :=
  let q := vget (s.tenAt p u).queues c
  let s := match (q.take 64).find? (fun r => r.slot.isSome) with
    | some r => s.recall p u c r true
    | none => s
  let a := s.tenAt p u
  match if a.rqbase.getLsbD 0 && !a.backingOff.getLsbD c then ((vget a.queues c).drop 64).find? (fun r => r.slot.isNone) else none with
  | none => s
  | some r =>
    let i := a.freePlace c
    match s.spanWrite (agent p u) (a.backing c i) (dwordBytes r.dw.toList) .store with
    | (s, .ok _) => s.modRecord p u c r (fun x => { x with slot := some i })
    | (s, .fault e v) => s.backingFault p u c r.dw e v
    | (s, .wait) => s

/-- Every queue of a tenant put right, and its backed records read. -/
def State.stowAll (s : State) (p u : Nat) : State :=
  (List.range 4).foldl (fun s c =>
    let s := s.stow p u c
    (vget (s.tenAt p u).queues c).foldl (fun s r => s.recall p u c r false) s) s

/-- A record at the end of its class queue, from now on; a package that is stopping or stopped discards it (20 R441; log 82). -/
def State.enqueue (s : State) (p u : Nat) (r : QRec) : State :=
  let c := recClass r.dw
  if (s.pkgAt p).quiesce ≠ 0 then s
  else (s.modTen p u (fun a => { a with queues := vset a.queues c (vget a.queues c ++ [{ r with since := s.phase p }]) })).stow p u c

/-- Every queued record of a tenant. -/
def TenantArea.records (a : TenantArea) : List QRec := a.queues.toList.flatten

/-- The class queues without the records that `f` selects. -/
def TenantArea.dropRecords (a : TenantArea) (f : QRec → Bool) : TenantArea :=
  { a with queues := a.queues.map (fun q => q.filter (fun r => !f r)) }

/-! ### Jobs of a launch -/

/-- The running jobs of tenant `u` in package `p`, with their slot keys. -/
def State.jobsOf (s : State) (p u : Nat) : List (Nat × Job) :=
  s.jobs.filter (fun e => keyPkg e.1 == p && e.2.tenant.toNat == u)

/-- Running and checkpointed jobs of a launch tag. -/
def State.jobsOfTag (s : State) (p u tag : Nat) : List Job :=
  ((s.jobsOf p u).map Prod.snd ++ (s.tenAt p u).frames.map Frame.job).filter (fun j => j.tag.toNat == tag)

/-- Queued records of a launch tag. -/
def TenantArea.ofTag (a : TenantArea) (tag : Nat) : List QRec := a.records.filter (fun r => recTag r.dw == tag)

def TenantArea.launch (a : TenantArea) (tag : Nat) : Option Launch := a.launches.find? (fun l => l.tag.toNat == tag)

/-- The launch that a record's tag names has failed or is ending: no record of it is made any more (R374; 03 R90). -/
def TenantArea.refuses (a : TenantArea) (dw : Dw8) : Bool := ((a.launch (recTag dw)).map (fun l => l.final.isSome)).getD false

/-- A record enqueued by SPAWN or a join (06 R168, R169). -/
def State.enqueueSpawn (s : State) (p u die : Nat) (dw : Dw8) : State :=
  if (s.tenAt p u).refuses dw then s else s.enqueue p u (qrec dw (some die) none false)

/-- A record ahead of its class queue (15 R402). -/
def State.enqueueFirst (s : State) (p u : Nat) (r : QRec) : State :=
  let c := recClass r.dw
  if (s.tenAt p u).refuses r.dw || (s.pkgAt p).quiesce != 0 then s
  else
    let r := { r with since := s.phase p, slot := none }
    (s.modTen p u (fun a => { a with queues := vset a.queues c (r :: vget a.queues c) })).stow p u c

/-- A launch of a tenant changed. -/
def State.modLaunch (s : State) (p u tag : Nat) (f : Launch → Launch) : State :=
  s.modTen p u (fun a => { a with launches := a.launches.map (fun l => if l.tag.toNat = tag then f l else l) })

/-! ### Producer sets (R170) -/

/-- The producer set of a launch in flight is empty. -/
def State.producersGone (s : State) (p u : Nat) (l : Launch) : Bool :=
  l.expanded && ((s.tenAt p u).ofTag l.tag.toNat).isEmpty
    && (s.jobsOfTag p u l.tag.toNat).all (fun j => j.triggered)

/-- Dependencies whose producer set is empty become met, and stay met. -/
def State.settleDeps (s : State) (p u : Nat) : State :=
  s.modTen p u (fun a => { a with launches := a.launches.map (fun l =>
    if s.producersGone p u l then { l with met := true } else l) })

/-- The dependency on a producer tag is met (R170). -/
def State.depMet (s : State) (p u tag : Nat) : Bool :=
  match (s.tenAt p u).launch tag with
  | none => true
  | some l => l.met || s.producersGone p u l

/-- A record that depends on a producer may start (R167). -/
def State.depStarted (s : State) (p u : Nat) (dw : Dw8) : Bool :=
  if !recDv dw then true
  else match (s.tenAt p u).launch (recPlaunch dw) with
    | none => true
    | some l => l.expanded && ((s.tenAt p u).ofTag (recPlaunch dw)).isEmpty

/-! ### Phase instances (03 R90; 10 R276) -/

def PhaseInst.is (i : PhaseInst) (tag phase : Nat) : Bool := i.tag.toNat == tag && i.phase.toNat == phase

def TenantArea.phaseOf (a : TenantArea) (tag phase : Nat) : Option PhaseInst :=
  a.phases.find? (fun i => i.is tag phase)

/-- The lowest variant that fits the budget now (R90); a kernel without variants has footprint 0 and
fits any budget, one exceeded by a lowered TBUDGET too (DESIGN CHOICE, log 90). -/
def TenantArea.pickVariant (a : TenantArea) (k : Kernel) : Option (Nat × Nat) :=
  if variantCount k.variants = 0 then some (0, 0)
  else ((List.range (variantCount k.variants)).map (fun i => (i, variantFoot k.variants i))).find?
    (fun x => decide (a.tcommit + x.2 ≤ a.tbudget))

/-- No variant can ever fit (R90). -/
def TenantArea.neverFits (a : TenantArea) (k : Kernel) : Bool :=
  variantCount k.variants != 0 &&
    (List.range (variantCount k.variants)).all (fun i => decide (a.tbudget < variantFoot k.variants i))

/-- The instance has been charged. -/
def TenantArea.chargedAt (a : TenantArea) (tag phase : Nat) : Bool := ((a.phaseOf tag phase).map PhaseInst.charged).getD false

/-- An instance is charged with the variant that fits; sealed while its records were queued, it stays so (R276). -/
def TenantArea.charge (a : TenantArea) (tag phase : Nat) (k : Kernel) : TenantArea :=
  if a.chargedAt tag phase then a
  else match a.pickVariant k with
    | none => a
    | some (i, foot) =>
      let sealed := ((a.phaseOf tag phase).map PhaseInst.sealed_).getD false
      { a with tcommit := a.tcommit + foot
               phases := a.phases.filter (fun x => !x.is tag phase) ++ [⟨BitVec.ofNat 12 tag, BitVec.ofNat 8 phase, i, foot, sealed, true⟩] }

/-- Whether an instance still holds a queued or running job. -/
def State.phaseBusy (s : State) (p u : Nat) (i : PhaseInst) : Bool :=
  ((s.tenAt p u).ofTag i.tag.toNat).any (fun r => recPhase r.dw == i.phase.toNat)
    || (s.jobsOfTag p u i.tag.toNat).any (fun j => j.phase == i.phase)

/-- The charges of sealed instances that hold nothing are released (R276). -/
def State.releasePhases (s : State) (p u : Nat) : State :=
  let gone := (s.tenAt p u).phases.filter (fun i => i.sealed_ && !s.phaseBusy p u i)
  s.modTen p u (fun a =>
    { a with tcommit := a.tcommit - (gone.map PhaseInst.foot).foldl (· + ·) 0
             phases := a.phases.filter (fun i => !(gone.contains i)) })

/-- Instances that `f` selects become sealed. -/
def State.sealPhases (s : State) (p u : Nat) (f : PhaseInst → Bool) : State :=
  (s.modTen p u (fun a => { a with phases := a.phases.map (fun i => if f i then { i with sealed_ := true } else i) })).releasePhases p u

/-- One instance is sealed, one whose records are all queued too (R276). -/
def State.sealInstance (s : State) (p u tag phase : Nat) : State :=
  let a := s.tenAt p u
  let s := if (a.phaseOf tag phase).isNone && (a.ofTag tag).any (fun r => recPhase r.dw == phase) then
      s.modTen p u (fun a => { a with phases := a.phases ++ [⟨BitVec.ofNat 12 tag, BitVec.ofNat 8 phase, 0, 0, true, false⟩] })
    else s
  s.sealPhases p u (fun i => i.is tag phase)

/-! ### Launch status (14 R374) -/

def LaunchStatus.code : LaunchStatus → Nat
  | .accepted => 1 | .complete => 2 | .malformed => 3 | .overBudget => 4 | .contextDead => 5 | .tagBusy => 6
  | .argFault => 7

def launchTag (dw : Dw8) : Nat := bits (vget dw 0) 11 0
def launchClass (dw : Dw8) : Nat := bits (vget dw 0) 39 38
def launchKernel (dw : Dw8) : Nat := bits (vget dw 0) 63 48
/-- Address of the completion slot, bits 3:0 cleared (R373). -/
def launchDone (dw : Dw8) : Nat := bits (vget dw 4) 55 4 * 16

/-- A status in the completion slot of a launch, unless its page is under migration; a fault there goes to the supervisor
(R374). -/
def State.putStatus (s : State) (p u : Nat) (dw : Dw8) (st : LaunchStatus) : Option State :=
  let d0 := BitVec.ofNat 64 (st.code * 2 ^ 60 + launchTag dw)
  match s.spanWrite (agent p u) (launchDone dw) (dwordBytes [d0, BitVec.ofNat 64 (s.cycle p)]) .store with
  | (s, .ok _) => some s
  | (s, .fault c _) =>
    some (s.emptyFaultAt p u { kernel := launchKernel dw, tag := launchTag dw } c (BitVec.ofNat 64 (launchDone dw)))
  | (_, .wait) => none

/-- The statuses that wait, written in their order as far as their pages let them (03 R87). -/
def State.flushStatuses (s : State) (p u : Nat) : State :=
  (s.tenAt p u).statuses.foldl (fun s x =>
    if ((s.tenAt p u).statuses.head?) ≠ some x then s
    else match s.putStatus p u x.1 x.2 with
      | some s => s.modTen p u (fun a => { a with statuses := a.statuses.drop 1 })
      | none => s) s

/-- A status written, after those that wait. -/
def State.writeStatus (s : State) (p u : Nat) (dw : Dw8) (st : LaunchStatus) : State :=
  (s.modTen p u (fun a => { a with statuses := a.statuses ++ [(dw, st)] })).flushStatuses p u

/-- A status of the launch would wait. -/
def State.statusWaits (s : State) (p u : Nat) (dw : Dw8) : Bool :=
  !(s.tenAt p u).statuses.isEmpty || (s.place1 (agent p u) (launchDone dw) permW).2.waits

/-- A launch whose work is over gets its final status and leaves flight (R374). -/
def State.finishLaunch (s : State) (p u : Nat) (l : Launch) : State :=
  let tag := l.tag.toNat
  let jobs := !(s.jobsOfTag p u tag).isEmpty
  let fin := match l.final with
    | some st => if jobs then none else some st
    | none => if l.expanded && ((s.tenAt p u).ofTag tag).isEmpty && !jobs then some .complete else none
  match fin with
  | none => s
  | some st =>
    if s.statusWaits p u l.dw then s
    else
    let s := s.writeStatus p u l.dw st
    let s := s.modTen p u (fun a => { a with launches := a.launches.filter (fun x => x.tag != l.tag) })
    s.sealPhases p u (fun i => i.tag == l.tag)

/-- Statuses that wait, dependencies, launches and phase charges after records or jobs of a tenant have gone. -/
def State.settleTenant (s : State) (p u : Nat) : State :=
  let s := (s.flushStatuses p u).settleDeps p u
  let s := (s.tenAt p u).launches.foldl (fun s l => s.finishLaunch p u l) s
  s.releasePhases p u

/-- A launch fails after it was accepted: its queued records go and no more are made (R374). -/
def State.failLaunch (s : State) (p u tag : Nat) (st : LaunchStatus) : State :=
  let s := s.modLaunch p u tag (fun l => { l with final := some st, expanded := true })
  let s := s.modTen p u (fun a => a.dropRecords (fun r => recTag r.dw == tag))
  s.settleTenant p u

/-! ### The push windows (14 R372) -/

/-- TCTL state (14 R370): 0 off, 1 running, 2 tearing down. -/
def TenantArea.tstate (a : TenantArea) : Nat := bits a.tctl 9 8

/-- A submit of the dwords staged in a window (R372, R382). -/
def State.submit (s : State) (p u : Nat) (sup : Bool) : State :=
  let a := s.tenAt p u
  let dw := if sup then a.pushS else a.pushJ
  let q := if sup then a.queueS else a.queueJ
  if a.tstate = 0 ∨ 32 ≤ q.length then s.modTen p u (fun a => { a with ovf := true })
  else if a.tstate = 2 then s.writeStatus p u dw .contextDead
  else if sup then s.modTen p u (fun a => { a with queueS := a.queueS ++ [dw] })
  else s.modTen p u (fun a => { a with queueJ := a.queueJ ++ [dw] })

/-- LQSTAT (R370). -/
def TenantArea.lqstat (a : TenantArea) : Word :=
  BitVec.ofNat 64 (a.queueJ.length + a.queueS.length * 2 ^ 8 + (if a.ovf then 2 ^ 16 else 0) + a.launches.length * 2 ^ 32)

/-! ### Taking a launch (14 R373) -/

/-- The reserved fields and address rules of a launch record. -/
def launchFormOk (dw : Dw8) : Bool :=
  let w := vget dw
  bits (w 0) 47 40 == 0 && bits (w 0) 37 33 == 0 && bits (w 0) 31 12 == 0 && bits (w 1) 63 56 == 0
    && bits (w 2) 63 56 == 0 && bits (w 2) 2 0 == 0 && bits (w 3) 63 7 == 0 && decide (bits (w 3) 6 0 ≤ 64)
    && bits (w 4) 63 56 == 0 && bits (w 4) 3 0 == 0 && bits (w 5) 63 13 == 0 && w 6 == 0 && w 7 == 0

/-- The launch record that is considered next, with its window: the windows alternate (R372). -/
def TenantArea.nextLaunch (a : TenantArea) : Option (Bool × Dw8) :=
  match a.queueJ, a.queueS with
  | [], [] => none
  | j :: _, [] => some (false, j)
  | [], t :: _ => some (true, t)
  | j :: _, t :: _ => if a.lastS then some (false, j) else some (true, t)

/-- The queue of a window without its first record. -/
def TenantArea.popLaunch (a : TenantArea) (sup : Bool) : TenantArea :=
  if sup then { a with queueS := a.queueS.drop 1, lastS := true }
  else { a with queueJ := a.queueJ.drop 1, lastS := false }

/-- The dispatcher takes the next launch record of a tenant (R373). Nothing happens while 64 launches are in
flight, the package is quiesced (20 R441), or a page that it reads or writes is under migration (03 R87). -/
def State.takeLaunch (s : State) (p u : Nat) : State :=
  let a := s.tenAt p u
  match a.nextLaunch with
  | none => s
  | some (sup, dw) =>
    let tag := launchTag dw
    let k := launchKernel dw
    let args := bits (vget dw 2) 55 0
    let n := bits (vget dw 3) 6 0
    let answer := fun (s : State) (st : LaunchStatus) => (s.modTen p u (fun a => a.popLaunch sup)).writeStatus p u dw st
    if (s.pkgAt p).quiesce ≠ 0 ∨ s.statusWaits p u dw then s
    else if (a.launch tag).isSome then answer s .tagBusy
    else if 64 ≤ a.launches.length then s
    else if !launchFormOk dw ∨ bits a.ktlen 15 0 ≤ k then answer s .malformed
    else match s.kernel p u k with
      | .wait => s
      | .fault _ _ => answer s .malformed
      | .ok none => answer (s.readKernel p u k none) .malformed
      | .ok (some kern) =>
        match s.peekDwords p u args n with
        | .wait => s
        | .fault _ _ => answer (s.readKernel p u k none) .argFault
        | .ok l =>
          let s := answer ((s.readKernel p u k none).peeked p u args n) .accepted
          s.modTen p u (fun a => { a with launches := a.launches ++
            [⟨BitVec.ofNat 12 tag, dw, sup, l, kern, 0, false, none, false⟩] })

/-! ### Expansion (06 R163; 14 R375) -/

/-- Records of a launch: the product of the spatial counts. -/
def Kernel.records (k : Kernel) : Nat :=
  ((k.levels.filter (fun v => levelMark v != 0)).map levelCount).foldl (· * ·) 1

/-- The iteration numbers of record `n`, lowest spatial level fastest; zero for temporal levels. -/
def iterations : List Word → Nat → List Nat
  | [], _ => []
  | v :: l, n =>
    if levelMark v = 0 then 0 :: iterations l n
    else n % max 1 (levelCount v) :: iterations l (n / max 1 (levelCount v))

/-- Combined index of the levels marked tiles, lowest fastest. -/
def tileIndex : List Word → List Nat → Nat
  | v :: l, i :: is => if levelMark v = 1 then i + levelCount v * tileIndex l is else tileIndex l is
  | _, _ => 0

/-- Iteration number of the level marked dies. -/
def dieIndex : List Word → List Nat → Option Nat
  | v :: l, i :: is => if levelMark v = 2 then some i else dieIndex l is
  | _, _ => none

/-- Whether a die has a present tile. -/
def State.diePresent (s : State) (p d : Nat) : Bool := (List.range 64).any (fun i => s.tilePresent p (d * 64 + i))

/-- Home die and tile of a record (R375): none while no tile of the package is present. -/
def State.homeOf (s : State) (p : Nat) (levels : List Word) (is : List Nat) : Option (Nat × Nat) :=
  let it := tileIndex levels is
  let die := match dieIndex levels is with
    | some i => i % 4
    | none => it / 64 % 4
  match ((List.range 4).map (fun k => (die + k) % 4)).find? (s.diePresent p) with
  | none => none
  | some d =>
    ((List.range 64).map (fun k => d * 64 + (it + k) % 64)).find? (s.tilePresent p) |>.map (fun t => (d, t))

/-- A 16-bit index field. -/
def idx16 (l : List Nat) (i : Nat) : Nat := nth l i 0 % 2 ^ 16

/-- The record of iteration numbers `is` of a launch (R163, R165). -/
def launchRecord (l : Launch) (u : Nat) (is : List Nat) : Dw8 :=
  let d := vget l.dw
  let e := if variantCount l.kern.variants = 0 then 0 else 1
  dw8 [
    BitVec.ofNat 64 (launchKernel l.dw * 2 ^ 48 + u * 2 ^ 40 + launchClass l.dw * 2 ^ 38
      + (if l.sup then 2 ^ 34 else 0) + e * 2 ^ 33 + bits (d 0) 32 32 * 2 ^ 32 + l.kern.entries.toNat),
    d 1, 0,
    BitVec.ofNat 64 (idx16 is 3 * 2 ^ 48 + idx16 is 2 * 2 ^ 32 + idx16 is 1 * 2 ^ 16 + idx16 is 0),
    BitVec.ofNat 64 (l.tag.toNat * 2 ^ 48 + idx16 is 5 * 2 ^ 16 + idx16 is 4),
    d 5, 0, 0 ]

/-- The expansion has ended: the instance it made, of phase 0, is sealed (R276), and a launch without records completes. -/
def State.endExpansion (s : State) (p u tag : Nat) : State :=
  let s := s.modLaunch p u tag (fun l => { l with expanded := true })
  (s.sealInstance p u tag 0).settleTenant p u

/-- The spawner makes one record of a launch (R375); it pauses while the class queue is full, while no tile is
present, and in a quiesced package (20 R441). -/
def State.expand (s : State) (p u tag : Nat) : State :=
  match (s.tenAt p u).launch tag with
  | none => s
  | some l =>
    if l.expanded ∨ (s.pkgAt p).quiesce ≠ 0 then s
    else if l.kern.records ≤ l.made then s.endExpansion p u tag
    else
      let is := iterations l.kern.levels l.made
      match s.homeOf p l.kern.levels is with
      | none => s
      | some (d, t) =>
        if !(s.tenAt p u).hasRoom (launchClass l.dw) then s
        else
          let s := s.enqueue p u (qrec (launchRecord l u is) (some d) (some t) true)
          let s := s.modLaunch p u tag (fun l => { l with made := l.made + 1 })
          if l.made + 1 = l.kern.records then s.endExpansion p u tag else s

/-! ### The supervisor's fault queue (15 R390, R391) -/

def TenantArea.fqcap (a : TenantArea) : Nat := 2 ^ bits a.fqctl 3 0
def TenantArea.fqfull (a : TenantArea) : Bool := (a.fqtail - a.fqhead).toNat == a.fqcap
def TenantArea.fqopen (a : TenantArea) : Bool := a.fqbase.getLsbD 0 && !a.fqfull

/-- An empty-cut record that finds no room is dropped and counted (R391). -/
def TenantArea.dropEmpty (a : TenantArea) : TenantArea :=
  match a.pending.find? (fun r => r.empty) with
  | some r => { a with pending := a.pending.erase r
                       fqlost := if a.fqlost = 0xFFFF_FFFF then a.fqlost else a.fqlost + 1 }
  | none => a

/-- The record that FQREC spawns is enqueued once its class queue has room (R391; 10 R273). -/
def State.spawnFault (s : State) (p u : Nat) : State :=
  let a := s.tenAt p u
  match a.fqspawn with
  | none => s
  | some (dw, die) =>
    if !a.hasRoom (recClass dw) then s
    else (s.modTen p u (fun a => { a with fqspawn := none })).enqueue p u (qrec dw die none false)

/-- The oldest pending record is written, FQTAIL advances, the vector is raised, and FQREC is spawned, in that order (R391). A
record waits while the spawn of the one before it does. -/
def State.writeFaultRecord (s : State) (p u : Nat) : State :=
  let s := s.spawnFault p u
  let a := s.tenAt p u
  if a.fqspawn.isSome then s
  else if !a.fqopen then s.modTen p u TenantArea.dropEmpty
  else
    match a.pending with
    | [] => s
    | r :: rest =>
      let at_ := bits a.fqbase 55 8 * 256 + 256 * (a.fqtail.toNat % a.fqcap)
      let rec_ := setLv (vset a.fqrec 1 (setBits (vget a.fqrec 1) 55 0 at_)) true
      let rec_ := vset rec_ 0 (setBits (vget rec_ 0) 47 40 u)
      match s.spanWrite (agent p u) at_ (dwordBytes r.dws.toList) .store with
      | (s, .fault _ _) => s.modTen p u (fun a => { a with fqbase := setBits a.fqbase 0 0 0 })
      | (s, .wait) => s
      | (s, .ok _) =>
        let s := s.modTen p u (fun a => { a with pending := rest, fqtail := a.fqtail + 1 })
        let s := if a.fqctl.getLsbD 8 then s.raiseVector p u (bits a.fqctl 15 12) else s
        if a.fqctl.getLsbD 16 then (s.modTen p u (fun a => { a with fqspawn := some (rec_, r.die) })).spawnFault p u else s

end Sys2Proof.Machine
end

