-- ==== Sys2Proof/Machine/Scheduler.lean ====
section
/-!
DEFINITION. The life of a job (06 R153 to R157, R164, R167; 01 R13; 14 R376 to R378): what it starts with, which record
a die's dispatcher starts, a tile's change of tenant, retirement with the join decrement, and kill.
-/

namespace Sys2Proof.Machine

/-! ### What a job starts with (R155) -/

/-- A core context at job start. -/
def Core.start (pc allot : Nat) (frame : Word) (idx : List Nat) (lc : List Nat) (on : Bool) : Core :=
  { pc := BitVec.ofNat 19 pc
    g := Vector.ofFn (fun i => if i.val = 1 then frame else if 2 ≤ i.val ∧ i.val < 8 then BitVec.ofNat 64 (nth idx (i.val - 2) 0) else 0)
    allot := allot, lc := Vector.ofFn (fun i => BitVec.ofNat 32 (nth lc i.val 0)), h := false, cause := 0, epc := 0
    eva := 0, ecut := 0, instret := 0, issuecyc := 0, stallcyc := 0, seq := 0, fin := !on, stopped := false
    spill := [], asked := none, reply := none, missed := false, leaving := false }

/-- An engine stream at job start. -/
def Engine.start (pc : Nat) (on : Bool) : Engine :=
  { pc := pc, link := 0, ec := Vector.replicate 2 0, mark := 0, words := 0, fin := !on, pos := none, push := none, last := pc
    ending := false, threshold := none, load := none, starved := none, suspect := 0, asked := none }

/-- Counts of the temporal levels, upward from level 0 (R163). -/
def Kernel.temporal (k : Kernel) : List Nat := (k.levels.filter (fun v => levelMark v == 0)).map levelCount

/-- Entry offset of an engine stream (R161). -/
def Kernel.offset (k : Kernel) : Kind → Nat
  | .M => bits k.eoff 11 0 | .V => bits k.eoff 23 12 | .T => bits k.eoff 35 24 | .C => bits k.eoff 47 36
  | .W => bits k.eoff 59 48 | _ => 0

/-- Binding of token queue `q` (R156, R161). -/
def Kernel.binding (k : Kernel) (q : Nat) : Option (Kind × Kind) :=
  let b := bits (vget k.tqbind (q / 8)) (8 * (q % 8) + 7) (8 * (q % 8))
  match kindOf (b / 16), kindOf (b % 16) with
  | some x, some y => some (x, y)
  | _, _ => none

/-- A job as it starts (R155): entries `ie` (IMEM address) and `ee` (EMEM index), launch arguments `args`. -/
def Job.fresh (jid now : Nat) (r : QRec) (k : Kernel) (sched : List SchedEntry) (ie ee : Nat) (args : List Word)
    (load : Option Load) : Job :=
  let on := fun (x : Kind) => k.smask.getLsbD x.code
  let core := fun (pc : Nat) (x : Kind) =>
    Core.start pc (8 * (k.alloc + 1)) (recFrame r.dw) ((List.range 6).map (recIndex r.dw)) k.temporal (on x)
  let eng := fun (x : Kind) => Engine.start (if on x then ee + k.offset x else 0) (on x)
  let c := eng .C
  { jid := jid, qrec := r, tenant := BitVec.ofNat 8 (recTenant r.dw), cls := recClass r.dw, sup := recLv r.dw, code := none
    tag := BitVec.ofNat 12 (recTag r.dw), phase := BitVec.ofNat 8 (recPhase r.dw), kern := k, sched := sched
    a := core ie .A, x := core (ie + 4 * k.xoff) .X, trapv := 0
    kbank := Vector.ofFn (fun i => nth args i.val 0)
    m := eng .M, v := eng .V, t := eng .T
    c := { c with load := load, fin := c.fin && load.isNone }
    w := eng .W
    tq := Vector.ofFn (fun i => ⟨k.binding i.val, 0⟩), dq := Vector.replicate 6 [], nq := Vector.replicate 2 ⟨none, [], []⟩
    sq := [], vreg := [], sw := Vector.replicate 8 ⟨none, []⟩, resB := none
    traps := ⟨Vector.replicate 3 0, Vector.replicate 3 0⟩
    send := Vector.replicate 16 ⟨0, .free, 0, 0, none⟩, land := Vector.replicate 16 ⟨0, .free, 0, 0, none, 0, 0⟩
    st := .running, drain := none, toEnd := false, freeze := none, astop := none, deferred := [], later := false, hcore := .A, hkind := .A, triggered := false
    start := now, ran := 0, since := now }

/-! ### A tile's change of tenant (01 R13; 15 R400) -/

def tagTableBytes : Nat := 0x4_0000

/-- Every ring of a tile cleared: its waiters complete with status reset. -/
def State.clearRings (s : State) (k : Nat) : State :=
  let s := (s.tileAt k).rings.foldl (fun s r => s.putRing k r.1 r.2.clear) s
  s.modTile k (fun t => { t with rings := [] })

/-- The scratchpad, accumulator store, DMEM and tag table of a tile cleared. -/
def clearTileMem (m : Memory) (p t : Nat) : Memory :=
  let m := clearRange m (apAddr p t 0) (apAddr p t padSize)
  let m := clearRange m (blockAddr p t 0) (blockAddr p t 0x40_0000)
  let m := clearRange m (blockAddr p t 0x46_0000) (blockAddr p t 0x48_0000)
  clearRange m (blockAddr p t 0x50_0000) (blockAddr p t (0x50_0000 + tagTableBytes))

/-- A range of counts as saved. -/
def RingRange.image (x : RingRange) : List Word := [BitVec.ofNat 64 x.jid, x.start.setWidth 64, BitVec.ofNat 64 x.len]

/-- A ring entry as a tile save holds it: its fields, then its registrations and ranges, each list after its length (log 20). -/
def Ring.image (r : Ring) : List Word :=
  let jobs := fun (l : List Nat) => BitVec.ofNat 64 l.length :: l.map (BitVec.ofNat 64)
  let ranges := fun (l : List RingRange) => BitVec.ofNat 64 l.length :: l.flatMap RingRange.image
  [r.st.code, r.lgcount, r.slotsz, r.base, r.head.toNat, r.taken.toNat, r.tail.toNat, r.claimed.toNat, r.voids, r.ecc.toNat].map (BitVec.ofNat 64)
    ++ jobs r.prods ++ jobs r.cons ++ ranges r.claims ++ ranges r.takes ++ ranges r.voidRanges ++ ranges r.freeRanges

/-- Offset of ring `n` in a tile save (log 20). -/
def ringOffset (n : Nat) : Nat := 0x64_0000 + 0x7000 * n

/-- A list of `k` dwords an entry after its length, at offset `o` of a save, and where the next one begins. -/
def savedList (l : List (Nat × Byte)) (k o : Nat) : List (List Nat) × Nat :=
  let n := min 255 (slotDword l o).toNat
  ((List.range n).map (fun i => (List.range k).map (fun x => (slotDword l (o + 8 + 8 * (k * i + x))).toNat)), o + 8 + 8 * k * n)

/-- Ring `n` as a save holds it (log 20). -/
def Ring.back (l : List (Nat × Byte)) (n : Nat) : Ring :=
  let o := ringOffset n
  let f := fun (i : Nat) => (slotDword l (o + 8 * i)).toNat
  let jobs := fun (r : List (List Nat)) => r.map (fun x => nth x 0 0)
  let ranges := fun (r : List (List Nat)) => r.map (fun x => RingRange.mk (nth x 0 0) (BitVec.ofNat 32 (nth x 1 0)) (nth x 2 0))
  let ps := savedList l 1 (o + 80)
  let cs := savedList l 1 ps.2
  let cl := savedList l 3 cs.2
  let ta := savedList l 3 cl.2
  let vo := savedList l 3 ta.2
  let fr := savedList l 3 vo.2
  { st := if f 0 = 1 then .active else if f 0 = 2 then .frozen else .idle
    lgcount := f 1, slotsz := f 2, base := f 3, head := BitVec.ofNat 32 (f 4), taken := BitVec.ofNat 32 (f 5)
    tail := BitVec.ofNat 32 (f 6), claimed := BitVec.ofNat 32 (f 7), voids := f 8, ecc := BitVec.ofNat 8 (f 9)
    prods := jobs ps.1, cons := jobs cs.1, claims := ranges cl.1, takes := ranges ta.1, voidRanges := ranges vo.1
    freeRanges := ranges fr.1, waiters := [] }

/-- Scratchpad at +0, tag table at +0x60_0000 and the 64 ring entries, as a tile save holds them (R400; log 20). -/
def tileImage (m : Memory) (p t : Nat) (rings : Map Ring) : List (Nat × Byte) :=
  sliceOf m (apAddr p t 0) (apAddr p t padSize)
    ++ (sliceOf m (blockAddr p t 0x50_0000) (blockAddr p t (0x50_0000 + tagTableBytes))).map (fun c => (c.1 + padSize, c.2))
    ++ rings.flatMap (fun r => laidDwords (ringOffset r.1) r.2.image)

/-- Pages of a tile save: 8 MiB. -/
def savePages : Nat := 0x80

/-- Address of tile `t`'s save (R400). -/
def TenantArea.saveAt (a : TenantArea) (t : Nat) : Nat := bits a.cktile 55 23 * 0x80_0000 + 0x80_0000 * t

/-- Tenant `u`'s save of the tile with key `k`. -/
def TenantArea.saveOf (a : TenantArea) (k : Nat) : Option TileSave := a.saves.find? (fun x => x.tileKey == k)

/-- The tile's save for the checkpointed jobs of its outgoing tenant, its waiters over (R400); none while it must wait. One that
meets a fault is not made: the fault goes to the supervisor with an empty cut (log 20). -/
def State.saveTile (s : State) (p t : Nat) : Option State :=
  let k := tileKey p t
  match (s.tileAt k).tenant with
  | none => some s
  | some u0 =>
    let u := u0.toNat
    let a := s.tenAt p u
    if a.frames.any (fun f => f.tileKey == k) && a.cktile.getLsbD 0 then
      let rings := (s.tileAt k).rings.map (fun r => (r.1, { r.2 with waiters := [] }))
      match s.putArea (agent p u) (a.saveAt t) savePages (tileImage s.mem p t rings) with
      | (_, .wait) => none
      | (s, .fault c e) => some (s.emptyFaultAt p u {} c e)
      | (s, .ok _) =>
        some (s.modTen p u (fun a => { a with saves := a.saves.filter (fun x => x.tileKey != k) ++ [⟨k, rings.map Prod.fst, []⟩] }))
    else some s

/-- A save laid back in place of the clear: its rings as memory holds them, left by the jobs that have ended since (R400; 01 R13). -/
def State.layTile (s : State) (p t u : Nat) (sv : TileSave) (l : List (Nat × Byte)) : State :=
  let k := tileKey p t
  let m := layAt s.mem (apAddr p t 0) (l.filter (fun c => decide (c.1 < padSize)))
  let m := layAt m (blockAddr p t 0x50_0000)
    ((l.filter (fun c => decide (padSize ≤ c.1) && decide (c.1 < padSize + tagTableBytes))).map (fun c => (c.1 - padSize, c.2)))
  let s := { s with mem := m }
  let s := s.modTile k (fun t => { t with rings := sv.rings.map (fun n => (n, Ring.back l n)), former := t.former.filter (fun e => e.1 != u) })
  let s := s.modTen p u (fun a => { a with saves := a.saves.filter (fun x => x.tileKey != k) })
  sv.left.foldl (fun s jid => s.leaveTile k jid) s

/-- The tile cleared for tenant `u` (01 R13). -/
def State.clearTile (s : State) (p t u : Nat) : State :=
  let s := s.clearRings (tileKey p t)
  let s := { s with mem := clearTileMem s.mem p t }
  s.modTile (tileKey p t) (fun t =>
    { t with tenant := some (BitVec.ofNat 8 u)
             former := match t.tenant with
               | some v => mput t.former v.toNat s.fresh
               | none => t.former })

/-- A tile takes tenant `u`: nothing when it serves it already; none while its save or that of `u` must wait (R400). A save that
cannot be read leaves the tile cleared, and its fault goes to the supervisor (log 20). -/
def State.takeTenant (s : State) (p t u : Nat) : Option State :=
  let k := tileKey p t
  if (s.tileAt k).tenant = some (BitVec.ofNat 8 u) then some s
  else match s.saveTile p t with
    | none => none
    | some s =>
      match (s.tenAt p u).saveOf k with
      | none => some (s.clearTile p t u)
      | some sv =>
        match s.getArea (agent p u) ((s.tenAt p u).saveAt t) savePages with
        | (_, .wait) => none
        | (s, .fault c e) =>
          some (((s.clearTile p t u).modTen p u (fun a => { a with saves := a.saves.filter (fun x => x.tileKey != k) })).emptyFaultAt p u {} c e)
        | (s, .ok l) => some ((s.clearTile p t u).layTile p t u sv l)

/-! ### Room on a tile (R158, R164, R167; 02 R50) -/

/-- The running jobs of a tile with their slot keys. -/
def State.tileJobs (s : State) (p t : Nat) : List (Nat × Job) :=
  (List.range 4).filterMap (fun sl => (s.jobAt (slotKey p t sl)).map (fun j => (slotKey p t sl, j)))

/-- Free registers of a tile's core file (R158). -/
def State.freeRegs (s : State) (p t : Nat) (k : Kind) : Nat :=
  256 - ((s.tileJobs p t).map (fun e => (e.2.core k).allot)).foldl (· + ·) 0

def CodeRange.meets (a b : CodeRange) : Bool := overlap a.i a.n b.i b.n || overlap a.e a.m b.e b.m

/-- The ranges of an image: those it is resident in, else those its header states. -/
def State.rangesOf (s : State) (p t u : Nat) (image : Word) : SpanRes (Option CodeRange) :=
  match (s.tileAt (tileKey p t)).image u image with
  | some r => .ok (some ⟨r.ibase, 4 * r.ilen, r.ebase, r.elen⟩)
  | none => (s.peekHdr p u image).bind (fun o => .ok (o.map (fun h => ⟨h.ibase, 4 * h.ilen, h.ebase, h.elen⟩)))

/-- The image may be run or loaded now: it is resident, or its ranges meet none that a running job runs from (R164); a header on a page under migration is waited for (03 R87). -/
def State.imageOk (s : State) (p t u : Nat) (image : Word) : Bool :=
  ((s.tileAt (tileKey p t)).image u image).isSome ||
    match s.rangesOf p t u image with
    | .wait => false
    | .ok (some r) => (s.tileJobs p t).all (fun e => (e.2.code.map (fun q => !r.meets q)).getD true)
    | _ => true

/-- Tile `t` has room for a job of tenant `u` with allotments `na` and `nx`: everything of R167 but the slot, the
phase charge and the dependency. -/
def State.admits (s : State) (p t u na nx : Nat) (k : Kernel) : Bool :=
  let tile := s.tileAt (tileKey p t)
  let js := (s.tileJobs p t).map Prod.snd
  s.tilePresent p t && !tile.testing && (js.isEmpty || tile.tenant == some (BitVec.ofNat 8 u))
    && decide (na ≤ s.freeRegs p t .A) && decide (nx ≤ s.freeRegs p t .X)
    && js.all (fun j => !overlap j.kern.accbase j.kern.acccount k.accbase k.acccount)
    && s.imageOk p t u k.image

/-- The lowest idle slot of a tile that is held for no other record. -/
def State.idleSlot (s : State) (p t : Nat) (r : Option QRec) : Option Nat :=
  (List.range 4).find? (fun sl =>
    (s.jobAt (slotKey p t sl)).isNone &&
      (s.pkgAt p).heldSlots.all (fun h => h.1 != slotKey p t sl || some h.2 == r
        || !(s.tenAt p (recTenant h.2.dw)).records.contains h.2))

/-! ### Which record (R377, R378) -/

/-- Core cycles a record has waited. -/
def State.waited (s : State) (p : Nat) (r : QRec) : Nat := s.since p r.since / Config.cycleUnits

/-- Effective class (R377). -/
def State.effClass (s : State) (p : Nat) (r : QRec) : Nat :=
  let c := recClass r.dw
  let dage := (s.pkgAt p).dage
  if c = 0 then 0 else if dage = 0 then c else max 1 (c - s.waited p r / dage)

/-- The home of a record allows tile `t` (R377). -/
def State.homeAllows (s : State) (p t : Nat) (r : QRec) : Bool :=
  let w := s.waited p r
  let ds := (s.pkgAt p).dsteal
  let near := r.homeDie == some (dieOf t)
  r.homeDie.isNone || r.homeTile == some t || (near && (r.homeTile.isNone || decide (ds ≤ w))) || decide (2 * ds ≤ w)

/-- A tile reserved for class 0. -/
def State.reserved0 (s : State) (p t : Nat) : Bool := (vget (s.pkgAt p).c0mask (dieOf t)).getLsbD (t % 64)

/-- The kernel and schedule of a record that passes R166: none when it fails, a wait when what the check reads is on a page
under migration (03 R87). -/
def State.validRecord (s : State) (p u : Nat) (r : QRec) : SpanRes (Option (Kernel × List SchedEntry)) :=
  if recFaults r.dw (bits (s.tenAt p u).ktlen 15 0) ≠ [] then .ok none
  else (s.kernel p u (recKernel r.dw)).bind (fun k => match k with
    | none => .ok none
    | some k => (s.schedule p u k).bind (fun l => .ok (l.map (fun l => (k, l)))))

/-- A record enqueued in this core cycle, which the dispatcher first considers in the next (R378). -/
def State.isNew (s : State) (p : Nat) (r : QRec) : Bool := decide (s.cycle p ≤ r.since / Config.cycleUnits)

/-- A record that the dispatcher may consider: enqueued in an earlier core cycle (R378), and not on a page under migration. -/
def State.arrived (s : State) (p u : Nat) (r : QRec) : Bool := !s.isNew p r && !s.recallWaits p u (recClass r.dw) r

/-- A record that may start on a tile. -/
structure Cand where
  u : Nat
  r : QRec
  kern : Kernel
  sched : List SchedEntry
  slot : Nat
  /-- The frame that it resumes from (15 R401). -/
  frame : Option Nat

/-- The units that the resumed job takes back are free: Pinwheel if it held it, the matrix engine inside a word. -/
def Frame.unitsFree (f : Frame) (t : Tile) : Bool :=
  (f.pw.isNone || t.pwHolder.isNone) && (f.job.m.pos.isNone || t.mHolder.isNone)

/-- A checkpointed job that may resume on its own tile, ahead of the records of its class queue (15 R401). -/
def State.frameCand (s : State) (p t u cls : Nat) : Option Cand :=
  match s.idleSlot p t none with
  | none => none
  | some sl =>
    ((s.tenAt p u).frames.find? (fun f => f.tileKey == tileKey p t && f.job.cls == cls
        && s.admits p t u f.job.a.allot f.job.x.allot f.job.kern && f.unitsFree (s.tileAt f.tileKey))).map
      (fun f => ⟨u, f.job.qrec, f.job.kern, f.job.sched, sl, some f.idx⟩)

/-- The first record of a class queue that is eligible for tile `t`. A record whose uncharged instance fits no
variant now blocks later uncharged ones (03 R90). None starts from behind one that is not yet considered: a queue starts in its
order, and a job killed to be restarted stands ahead of it (R378; 15 R402). -/
def State.scanQueue (s : State) (p t u : Nat) : Bool → List QRec → Option Cand
  | _, [] => none
  | blocked, r :: rest =>
    if s.isNew p r then none
    else match if s.arrived p u r then s.validRecord p u r else .wait with
    | .wait => s.scanQueue p t u blocked rest
    | .fault _ _ => s.scanQueue p t u blocked rest
    | .ok none => s.scanQueue p t u blocked rest
    | .ok (some (k, l)) =>
      let a := s.tenAt p u
      let charged := a.chargedAt (recTag r.dw) (recPhase r.dw)
      let n := 8 * (k.alloc + 1)
      if !charged && (a.pickVariant k).isNone then s.scanQueue p t u true rest
      else if !charged && blocked then s.scanQueue p t u blocked rest
      else match s.idleSlot p t (some r) with
        | none => s.scanQueue p t u blocked rest
        | some sl =>
          if s.homeAllows p t r && s.depStarted p u r.dw && s.admits p t u n n k then some ⟨u, r, k, l, sl, none⟩
          else s.scanQueue p t u blocked rest

/-- Tenants of a package that the model lists. -/
def State.tenantsOf (s : State) (p : Nat) : List Nat :=
  (s.tenants.filter (fun e => e.1 / 256 == p)).map (fun e => e.1 % 256)

/-- The candidate of tenant `u`'s class queue `c` for a tile. -/
def State.candOf (s : State) (p t u c : Nat) : Option Cand :=
  (s.frameCand p t u c).or (s.scanQueue p t u false (vget (s.tenAt p u).queues c))

/-- The best of a list by a measure, the first among equals. -/
def best {α : Type} (lt : α → α → Bool) : List α → Option α
  | [] => none
  | x :: l => match best lt l with
    | none => some x
    | some y => if lt y x then some y else some x

/-- Oldest class-0 candidate of any tenant. -/
def State.class0Cand (s : State) (p t : Nat) : Option Cand :=
  best (fun x y => decide (x.r.since < y.r.since)) ((s.tenantsOf p).filterMap (fun u => s.candOf p t u 0))

/-- Candidate of a tenant among classes 1 to 3: the lowest effective class, the oldest among equals. -/
def State.tenantCand (s : State) (p t u : Nat) : Option Cand :=
  best (fun x y =>
      let a := s.effClass p x.r
      let b := s.effClass p y.r
      decide (a < b) || (a == b && decide (x.r.since < y.r.since)))
    ([1, 2, 3].filterMap (fun c => s.candOf p t u c))

/-- Quantum of a tenant (R370). -/
def TenantArea.quantum (a : TenantArea) : Nat := max 1 a.tquant

/-- Deficit of a tenant on a die. -/
def Package.deficitOf (k : Package) (d u : Nat) : Nat := (mget k.deficit (256 * d + u)).getD 0

/-- One tenant in the round: its candidate, cost, deficit and quantum. -/
structure Share where
  c : Cand
  cost : Nat
  def_ : Nat
  q : Nat

/-- Failing visits before the deficit covers the cost. -/
def Share.rounds (x : Share) : Nat := (x.cost - x.def_ + x.q - 1) / x.q

/-- The tenants with a candidate for the tile, from `ptr` on, wrapping. -/
def State.shares (s : State) (p t d : Nat) : List Share :=
  let from_ := vget (s.pkgAt p).ptr d
  let us := s.tenantsOf p
  ((us.filter (fun u => decide (from_ ≤ u))) ++ us.filter (fun u => decide (u < from_))).filterMap (fun u =>
    (s.tenantCand p t u).map (fun c => ⟨c, c.kern.est + 1, (s.pkgAt p).deficitOf d u, (s.tenAt p u).quantum⟩))

/-- Number shares in visiting order. -/
def inOrder {α : Type} : Nat → List α → List (Nat × α)
  | _, [] => []
  | n, x :: l => (n, x) :: inOrder (n + 1) l

/-- The round of R378 in closed form: the winner is the first to be visited with a sufficient deficit; every
visit that fails adds a quantum. -/
def State.drr (s : State) (p t d : Nat) : Option (Cand × Package) :=
  let l := inOrder 0 (s.shares p t d)
  let m := l.length
  match best (fun x y => decide (x.2.rounds * m + x.1 < y.2.rounds * m + y.1)) l with
  | none => none
  | some (w, x) =>
    let j := x.rounds
    let k := l.foldl (fun (k : Package) (e : Nat × Share) =>
      let v := if e.1 = w then e.2.def_ + j * e.2.q - e.2.cost
        else e.2.def_ + (j + if e.1 < w then 1 else 0) * e.2.q
      { k with deficit := mput k.deficit (256 * d + e.2.c.u) v }) (s.pkgAt p)
    some (x.c, { k with ptr := vset k.ptr d x.c.u })

/-- A tenant with no queued record in classes 1 to 3 on the die has deficit 0 (R378). -/
def State.idleDeficits (s : State) (p d : Nat) : State :=
  let onDie := fun (r : QRec) => r.homeDie.isNone || r.homeDie == some d || decide (2 * (s.pkgAt p).dsteal ≤ s.waited p r)
  let busy := fun u => [1, 2, 3].any (fun c => (vget (s.tenAt p u).queues c).any onDie)
  s.modPkg p (fun k => { k with deficit := k.deficit.filter (fun e => e.1 / 256 != d || busy (e.1 % 256)) })

/-- What die `d`'s dispatcher starts now: tile and candidate, with the package its deficits leave. -/
def State.choose (s : State) (p d : Nat) : Option (Nat × Cand × Package) :=
  firstOf ((List.range 64).map (fun i =>
    let t := d * 64 + i
    match s.class0Cand p t with
    | some c => some (t, c, s.pkgAt p)
    | none => if s.reserved0 p t then none else (s.drr p t d).map (fun x => (t, x.1, x.2))))

/-! ### Starting a job -/

/-- The code load that the job's C stream runs first (R164; 08 R218). -/
def State.loadFor (s : State) (p t u : Nat) (image : Word) : Option Load :=
  match (s.tileAt (tileKey p t)).image u image with
  | none => some .image
  | some r => if r.dlen = 0 then none else some .dmem

/-- Entries of a record: the chosen variant's, the kernel's defaults, or the record's own (R165; 03 R90). -/
def entriesOf (dw : Dw8) (k : Kernel) (variant : Nat) : Nat :=
  if recE dw then (if variantCount k.variants = 0 then k.entries.toNat else variantEntry k.variants variant)
  else bits (vget dw 0) 31 0

/-- The candidate starts on tile `t`, which serves its tenant: the record leaves its queue, its instance is charged, HBMSPLIT locks
(01 R27). -/
def State.startOn (s : State) (p t : Nat) (c : Cand) : State :=
  let u := c.u
  let tag := recTag c.r.dw
  let cls := recClass c.r.dw
  let code := (s.rangesOf p t u c.kern.image).getD none
  let s := s.readKernel p u (recKernel c.r.dw) (some c.kern)
  let s := if ((s.tileAt (tileKey p t)).image u c.kern.image).isSome then s else s.peeked p u c.kern.image.toNat 32
  let s := (s.modTen p u (fun a => { a with queues := vset a.queues cls ((vget a.queues cls).erase c.r) })).stow p u cls
  let s := s.modTen p u (fun a => a.charge tag (recPhase c.r.dw) c.kern)
  let variant := (((s.tenAt p u).phaseOf tag (recPhase c.r.dw)).map PhaseInst.variant).getD 0
  let e := BitVec.ofNat 32 (entriesOf c.r.dw c.kern variant)
  let args := (((s.tenAt p u).launch tag).map Launch.args).getD []
  let load := s.loadFor p t u c.kern.image
  let (jid, s) := s.take
  let s := { s with mem := clearRange s.mem (dmemAddr p t c.slot) (dmemAddr p t c.slot + 0x8000) }
  let s := s.modPkg p (fun k => { k with hbmLocked := true, heldSlots := k.heldSlots.filter (fun h => h.2 != c.r) })
  let s := s.setJob (slotKey p t c.slot)
    { Job.fresh jid (s.phase p) c.r c.kern c.sched (bits e 31 14) (bits e 13 0) args load with code := code }
  s.settleTenant p u

/-- The candidate starts on tile `t`, which takes its tenant; none while that must wait. -/
def State.startJob (s : State) (p t : Nat) (c : Cand) : Option State := (s.takeTenant p t c.u).map (fun s => s.startOn p t c)

/-! ### Records that cannot run (R166; 03 R90) -/

/-- Every queued record of a package with its tenant. -/
def State.allRecords (s : State) (p : Nat) : List (Nat × QRec) :=
  (s.tenantsOf p).flatMap (fun u => (s.tenAt p u).records.map (fun r => (u, r)))

/-- A record that fails R166: its launch fails, or its fault goes to the supervisor. -/
def State.rejectRecord (s : State) (p u : Nat) (r : QRec) : State :=
  let a := s.tenAt p u
  if r.expanded && (a.launch (recTag r.dw)).isSome then s.failLaunch p u (recTag r.dw) .malformed
  else
    let eva := match recFaults r.dw (bits a.ktlen 15 0) with
      | o :: _ => o
      | [] => s.kernelAt p u (recKernel r.dw)
    let s := s.modTen p u (fun a => { a with queues := a.queues.map (fun q => q.erase r) })
    (s.recordFault p u r.dw .engineWord eva).settleTenant p u

/-- The first record that fails its check. -/
def State.badRecord (s : State) (p : Nat) : Option (Nat × QRec) :=
  (s.allRecords p).find? (fun x => s.arrived p x.1 x.2 && match s.validRecord p x.1 x.2 with
    | .ok none => true
    | _ => false)

/-- The first record of an uncharged instance that can never fit, of a launch in flight (03 R90). The manual gives no end to an
instance whose tag names no launch in flight: its records stay queued (DESIGN CHOICE, log 67). -/
def State.overBudget (s : State) (p : Nat) : Option (Nat × QRec) :=
  (s.allRecords p).find? (fun x =>
    let a := s.tenAt p x.1
    s.arrived p x.1 x.2 && (a.launch (recTag x.2.dw)).isSome && !a.chargedAt (recTag x.2.dw) (recPhase x.2.dw) &&
      match s.validRecord p x.1 x.2 with
      | .ok (some (k, _)) => a.neverFits k
      | _ => false)

/-- Records considered now that cannot run are taken out, the first of each sort (R166; 03 R90). -/
def State.weedOut (s : State) (p : Nat) : State :=
  let s := match s.badRecord p with
    | some (u, r) => s.rejectRecord p u r
    | none => s
  match s.overBudget p with
  | some (u, r) => s.failLaunch p u (recTag r.dw) .overBudget
  | none => s


/-! ### Retirement (R157, R169) -/

/-- What the join decrement comes to. -/
inductive JoinRes where
  | done (s : State)
  /-- The parent's queue is full, or a page is under migration. -/
  | wait

/-- The parent record is enqueued as by SPAWN of the retiring job. -/
def State.enqueueParent (s : State) (p t : Nat) (j : Job) (img : Dw8) : Option State :=
  let u := j.tenant.toNat
  let dw := spawned img j.tenant j.cls j.sup
  if (s.tenAt p u).hasRoom (recClass dw) then some (s.enqueueSpawn p u (dieOf t) dw) else none

/-- The join decrement of a retiring job of slot `key` (R169). -/
def State.joinDecrement (s : State) (key : Nat) (j : Job) : JoinRes :=
  let p := keyPkg key
  let t := keyTile key
  let at_ := recJoin j.qrec.dw
  let u := j.tenant.toNat
  let fail := fun (s : State) (c : Cause) => JoinRes.done (s.emptyFaultAt p u (jobPlace j.qrec.dw key) c (BitVec.ofNat 64 at_))
  if at_ = 0 then .done s
  else if at_ % 64 ≠ 0 then fail s .misaligned
  else match s.place1 (agent p u) at_ permRW with
    | (s, .fault c _) => fail s c
    | (_, .wait) => .wait
    | (s, .ok pa) =>
      if s.flawed pa 8 then fail s .dataError
      else
      let v := read64 s.mem pa - 1
      let s := { s.touchHome pa 8 .store with mem := write64 s.mem pa v }
      if v ≠ 0 then .done s
      else match s.spanRead (agent p u) (at_ + 64) 64 permR .load with
        | (s, .fault c _) => fail s c
        | (_, .wait) => .wait
        | (s, .ok b) =>
          match s.enqueueParent p t j (dw8 (bytesDwords 8 b)) with
          | some s => .done s
          | none => .wait

/-- The tile's units that job `jid` holds become free (11 R282; 12 R321). -/
def State.freeUnits (s : State) (k jid : Nat) : State :=
  s.modTile k (fun t => { t with mHolder := if t.mHolder = some jid then none else t.mHolder
                                 pwHolder := if t.pwHolder = some jid then none else t.pwHolder })

/-- What of job `jid` waits at the homes of content-addressed lines goes (04 R107). -/
def Package.dropHeld (jid : Nat) (k : Package) : Package :=
  { k with ca := k.ca.map (fun e => (e.1, { e.2 with held := e.2.held.filter (fun h => !h.who.ofJob jid) })) }

/-- The job's requests, waiters and circuits end, and its slot is freed. -/
def State.removeJob (s : State) (key : Nat) (j : Job) : State :=
  let s := ((s.jobEndCircuits j.jid).endFlows j.jid).dropWaiters (fun w => w.of key j.jid)
  let s := { s with reqs := s.reqs.filter (fun r => !r.ofJob key j.jid), pkgs := s.pkgs.map (fun (e : Nat × Package) => (e.1, e.2.dropHeld j.jid)) }
  (s.freeUnits (key / 4) j.jid).delJob key

/-- Whether job `j` of slot `key` can retire (R157). -/
def State.mayRetire (s : State) (key : Nat) (j : Job) : Bool :=
  j.allFinished && (j.st == .running || j.st == .handler) && j.deferred.isEmpty && s.reqs.all (fun r => !r.ofJob key j.jid)

/-- Retirement of the job in slot `key`, once every access of it has performed. -/
def State.retireJob (s : State) (key : Nat) : State :=
  match s.jobAt key with
  | none => s
  | some j =>
    if !(j.allFinished && (j.st == .running || j.st == .handler)) then s
    else if !s.mayRetire key j then s.noticeDeferred key
    else match s.joinDecrement key j with
      | .wait => s
      | .done s => ((s.leaveRings j.jid).removeJob key j).settleTenant (keyPkg key) j.tenant.toNat

/-! ### Kill (05 R151; 15 R392, R402) -/

/-- A killed job that has come to rest, what it issued having performed or failed, leaves its rings and its slot; its join
counter stays. A restartable one is enqueued again if it was asked for. -/
def State.finishKill (s : State) (key : Nat) : State :=
  match s.jobAt key with
  | none => s
  | some j =>
    match j.st with
    | .killing again =>
      let s := s.endWaits key
      let p := keyPkg key
      let u := j.tenant.toNat
      if ((s.jobAt key).map Job.busyStill).getD false || !s.settledJob key j.jid then s
      else
        let s := (s.leaveRings j.jid).removeJob key j
        (if again && recRs j.qrec.dw then s.enqueueFirst p u j.qrec else s).settleTenant p u
    | _ => s

/-- Kill of the job in slot `key`: its streams stop as in a freeze (15 R389), and it goes once what it issued has performed. -/
def State.killJob (s : State) (key : Nat) (again : Bool) : State :=
  match s.jobAt key with
  | none => s
  | some j =>
    match j.st with
    | .killing _ => s.finishKill key
    | _ => (s.setJob key { j with st := .killing again, freeze := none, astop := none }).finishKill key

/-- A core of a job that EXIT ends: an operation that it has sent retires first (10 R253). -/
def Core.exit (c : Core) : Core := if c.asked.isSome then { c with leaving := true } else { c with fin := true }

/-- EXIT (R157): both cores stop, and each engine stream stops with the word it is running. -/
def Job.exitAll (j : Job) : Job :=
  let stop := fun (e : Engine) =>
    if e.pos.isSome || e.push.isSome then { e with ending := true } else { e with fin := true }
  { j with a := j.a.exit, x := j.x.exit, m := stop j.m, v := stop j.v, t := stop j.t, c := stop j.c, w := stop j.w }

/-- A matrix engine that the job in slot `key` holds is free once its M stream has finished (11 R282). -/
def State.freeMatrix (s : State) (key : Nat) : State :=
  match s.jobAt key with
  | none => s
  | some j =>
    if !j.m.fin then s
    else s.modTile (key / 4) (fun t => { t with mHolder := if t.mHolder = some j.jid then none else t.mHolder })

end Sys2Proof.Machine
end

