-- ==== Sys2Proof/Machine/Engine.lean ====
section
/-!
DEFINITION. What every engine word shares (11 R278 to R289, R293, R294; 14 R381; 15 R387, R394): the pop, the holds,
descriptors, the loop over repetitions and elements, element accesses, switch channels, completion, push and chain.
A word runs in one step until it is complete, faults or must wait (log 13).
-/

namespace Sys2Proof.Machine

/-! ### The stream that acts -/

/-- EMEM index of the word of the stream that acts. -/
def State.epc (s : State) : Nat := ((s.jobAt s.key).map (fun j => (j.eng s.focus.kind).pc)).getD 0

/-- That index as EVA of Engine-Word and Switch-Config (R289). -/
def State.eidx (s : State) : Word := BitVec.ofNat 64 s.epc

/-- A fault of the engine stream that acts at word `point`: its stop, then the exception (R289; 15 R389). -/
def State.engineFault (s : State) (pos : Option WordPos) (c : Cause) (eva : Word) (point : Nat) : State :=
  (s.modEng (fun e => { e with pos := pos })).takeFault s.key
    { cause := c, eva := eva, kind := s.focus.kind, point := point, failed := none }

/-- A word that starts. -/
def WordPos.first : WordPos :=
  { rep := 0, elem := 0, done := 0, a := Touch.start, b := Touch.start, held := [], packed := [], marked := 0, taken := false
    scales := [], broken := false, active := false, outOn := none, inOn := none, left := 0, made := 0, suspect := false
    undo := [], used := [], fetched := none, header := [] }

/-! ### Completion, push and chain (R278, steps 5 to 7; R279, R280) -/

/-- The stream finishes (06 R153); the M stream gives up the matrix engine (R282). -/
def State.finishStream (s : State) : State :=
  let s := s.modEng (fun e => { e with fin := true, ending := false })
  match s.focus.kind, s.jobAt s.key with
  | .M, some j => s.modTile s.tkey (fun t => if t.mHolder = some j.jid then { t with mHolder := none } else t)
  | _, _ => s

/-- After the push of the last completed word: its stream finishes if it was the last, and an
Arithmetic-Threshold fault is raised before the next (R303), of a word that a freeze let finish at the resumption. -/
def State.afterPush (s : State) : State :=
  match s.jobAt s.key with
  | none => s
  | some j =>
    let e := j.eng s.focus.kind
    let fin := fun (s : State) => if e.ending then s.finishStream else s
    match e.threshold with
    | none => fin s
    | some n =>
      if j.st ≠ .running ∧ j.st ≠ .handler then s
      else (fin (s.modEng (fun e => { e with threshold := none }))).engineFault none .threshold (n.setWidth 64) e.last

/-- The pending push of the stream that acts, if any, is made (R279; 06 R156). -/
def State.settlePush (s : State) : State :=
  match s.jobAt s.key with
  | none => s
  | some j =>
    let e := j.eng s.focus.kind
    match e.push with
    | none => s.afterPush
    | some q =>
      let t := vget j.tq q.toNat
      if t.producer ≠ some s.focus.kind then
        s.take.2.engineFault none .queueDiscipline (Config.unstatedEva s.fresh) e.last
      else if 32 ≤ t.count then s.engineFault none .tokenOverflow (q.setWidth 64) e.last
      else
        ((s.modTq q.toNat (fun t => { t with count := t.count + 1 })).modEng (fun e => { e with push := none })).afterPush

/-- The word of the stream that acts is complete: `nxt` is where it goes instead of the next word. -/
def State.completeWord (s : State) (push : Option (BitVec 4)) (chain : Chain) (nxt : Option Nat) : State :=
  let pcOf := fun (e : Engine) => match chain with
    | .next => nxt.getD (e.pc + 1)
    | .link => e.link.toNat
    | .stop => e.pc
  (s.modEng (fun e => { e with pos := none, words := e.words + 1, starved := none, suspect := 0, last := e.pc, pc := pcOf e
                               ending := e.ending || chain == .stop, push := push, asked := none })).settlePush

/-! ### Start of a word (R278, steps 1 to 3; R381) -/

/-- What a run of a word comes to. -/
inductive WRes where
  /-- Complete; the second part overrides the next PC. -/
  | done (s : State) (nxt : Option Nat)
  | fault (s : State) (w : WordPos) (c : Cause) (eva : Word)
  | wait (s : State) (w : WordPos)

/-- A word whose descriptors passed: the channels it uses (true for those it reads), the scale bytes its first
repetition takes, and its run from a position. -/
structure Plan where
  uses : List (Nat × Bool)
  scale : Nat
  run : WordPos → State → WRes

/-- A word without inputs to wait for. -/
def Plan.of (run : WordPos → State → WRes) : Plan := ⟨[], 0, run⟩

/-- What the pop of a word comes to (06 R156). -/
inductive PopRes where
  | ok | wait | refused
  deriving DecidableEq, Repr

def popCheck (j : Job) (k : Kind) : Option (BitVec 4) → PopRes
  | none => .ok
  | some q =>
    let t := vget j.tq q.toNat
    if t.consumer ≠ some k then .refused
    else if 0 < t.count then .ok
    else if (t.producer.map j.finished).getD true then .refused else .wait

/-- One token taken. -/
def State.popToken (s : State) : Option (BitVec 4) → State
  | none => s
  | some q => s.modTq q.toNat (fun t => { t with count := t.count - 1 })

/-- What a class of words holds for its job (R282; 12 R321). -/
inductive Hold where
  | none | matrix | pinwheel
  deriving DecidableEq, Repr

/-- The unit is free or held by the job. -/
def Hold.free (h : Hold) (t : Tile) (jid : Nat) : Bool :=
  match h with
  | .none => true
  | .matrix => t.mHolder.isNone || t.mHolder == some jid
  | .pinwheel => t.pwHolder.isNone || t.pwHolder == some jid

/-- Pinwheel taken by a job: cleared when it was free (12 R321). -/
def Tile.takePw (t : Tile) (jid : Nat) : Tile :=
  if t.pwHolder = some jid then t else { t with pwHolder := some jid, pw := Pinwheel.reset }

/-- The unit taken. -/
def Hold.take (h : Hold) (t : Tile) (jid : Nat) : Tile :=
  match h with
  | .none => t
  | .matrix => { t with mHolder := some jid }
  | .pinwheel => t.takePw jid

/-- The engine of kind `k` is inside a word of the job, which goes on: its job runs, or waits for it (03 R82). -/
def Job.occupies (j : Job) (k : Kind) : Bool := (j.eng k).pos.isSome && (j.st == .running || j.wordGoes 5 k)

/-- The engine of the stream that acts serves another slot, inside a word (R282, R381). Of streams that several jobs have
resumed inside a word it goes on with the one it serves. -/
def State.engineTaken (s : State) : Bool :=
  let inside := ((s.jobAt s.key).map (fun j => (j.eng s.focus.kind).pos.isSome)).getD false
  let slot := ((s.tileAt s.tkey).issueOf s.focus.kind).slot
  (s.tileJobs s.fpkg s.ftile).any (fun e =>
    e.1 != s.key && e.2.occupies s.focus.kind && (!inside || keySlot e.1 == slot))

/-- The rail that feeds an engine: the matrix engine 0, vector and Pinwheel 1, transpose and copy 2. -/
def railOf : Kind → Nat
  | .M => 0 | .V => 1 | .W => 1 | _ => 2

/-- A droop window is open on the engine's rail: the effects of its words are held until it closes (15 R404; log 58). -/
def State.drooping (s : State) : Bool := (s.pkgAt s.fpkg).droop.getLsbD (railOf s.focus.kind)

/-- Whether the channel is bound with kind `k` as its reader or writer (R295). -/
def Channel.boundAs (c : Channel) (k : Kind) (reads : Bool) : Bool :=
  match c.bind with
  | some (p, q) => if reads then q == k else p == k
  | none => false

/-- The first repetition finds a beat, or room, on a channel. -/
def Channel.ready (c : Channel) (reads : Bool) : Bool := if reads then !c.q.isEmpty else decide (c.q.length < 8)

/-- Scale bytes that have entered and stand at the front of the queue. -/
def scaleFront : List SqEntry → List Byte
  | .byte b :: l => b :: scaleFront l
  | _ => []

/-- An LDQ to the scale queue is outstanding (R300). -/
def scaleComing (q : List SqEntry) : Bool := q.any (fun e => match e with
  | .waiting _ _ => true | .byte _ => false)

/-- The inputs of a first repetition are there (R381); a scale queue that can never be filled does not hold
the word back, which then raises Queue-Imbalance (R300). -/
def Plan.ready (p : Plan) (j : Job) : Bool :=
  p.uses.all (fun u => (vget j.sw u.1).ready u.2) &&
    (decide (p.scale ≤ (scaleFront j.sq).length) || (j.a.fin && !scaleComing j.sq))

/-- The word's channels are bound for it. -/
def Plan.bound (p : Plan) (j : Job) (k : Kind) : Bool := p.uses.all (fun u => (vget j.sw u.1).boundAs k u.2)

/-- A word that waits for scale bytes notes the phase since which the queue has been empty with no LDQ outstanding (R300). -/
def Engine.starve (e : Engine) (j : Job) (now : Nat) : Engine :=
  { e with starved := if j.sq = [] then some (e.starved.getD now) else none }

/-! ### Descriptors (R34, R283 to R287; 01 R34) -/

/-- Descriptor `i` of the job that acts, as four dwords. -/
def State.desc (s : State) (i : Nat) : List Word :=
  readDwords s.mem (dmemAddr s.fpkg s.ftile s.focus.slot.toNat + 32 * i) 4

/-- The descriptors of the word that runs, as they were fetched. -/
def State.heldDesc (s : State) : Option (List Word) :=
  (((s.jobAt s.key).bind (fun j => (j.eng s.focus.kind).pos)).bind (fun w => w.fetched)).map Prod.snd

/-- The first descriptor of a word. -/
def State.desc1 (s : State) (w : EW) : List Word :=
  match s.heldDesc with
  | some l => l.take 4
  | none => s.desc w.desc.toNat

/-- The second descriptor of a pair operation: none at 1 023 (R278). -/
def State.desc2 (s : State) (w : EW) : Option (List Word) :=
  if w.desc.toNat = 1023 then none
  else match s.heldDesc with
    | some l => some (l.drop 4)
    | none => some (s.desc (w.desc.toNat + 1))

/-- EMEM entry `i` of a tile. -/
def State.emem (s : State) (p t i : Nat) : BitVec 48 :=
  BitVec.ofNat 48 (readLe s.mem (blockAddr p t (0x44_0000 + 8 * i)) 8)

/-- The position of a word with the word and its descriptors held (R34). -/
def State.holdWord (s : State) (d : BitVec 10) (w : WordPos) : WordPos :=
  if w.fetched.isSome then w
  else { w with fetched := some (s.emem s.fpkg s.ftile s.epc, s.desc d.toNat ++ s.desc (d.toNat + 1)) }

/-! ### The course of a word -/

/-- The stream that acts, as the party of its accesses (03 R76). -/
def State.party (s : State) : Party :=
  ⟨s.fpkg, s.ftile, some (.stream s.focus.kind), ((s.jobAt s.key).map (fun j => j.tenant.toNat)).getD 0, true⟩

/-- A started word goes on from position `w`, once its last access has been answered. -/
def State.goOn (s : State) (push : Option (BitVec 4)) (chain : Chain) (d : BitVec 10) (w : WordPos) (p : Option Plan) : State :=
  let w := { s.holdWord d w with suspect := false }
  match s.settleAsked s.party with
  | (s, .wait) => s.modEng (fun e => { e with pos := some w })
  | (s, .fault c eva) => s.engineFault (some { w with active := false }) c eva s.epc
  | (s, .ok _) =>
    match s.jobAt s.key, p with
    | some j, some p =>
      if !p.bound j s.focus.kind then s.engineFault (some w) .switchConfig s.eidx s.epc
      else match p.run { w with active := false, outOn := none, inOn := none } s with
        | .done s nxt => s.completeWord push chain nxt
        | .fault s w c eva => s.engineFault (some w) c eva s.epc
        | .wait s w => s.modEng (fun e => { e with pos := some w })
    | _, _ => s.engineFault (some w) .engineWord s.eidx s.epc

/-- A word starts: its pop is made and its unit taken. -/
def State.beginWord (s : State) (jid : Nat) (hold : Hold) (pop : Option (BitVec 4)) : State :=
  (s.popToken pop).modTile s.tkey (fun t => hold.take t jid)

/-- A word whose pop token is there starts when its unit and its inputs are (R381); a word that is to fault starts. One that
starts in a droop window has no effect beyond that until the window closes (15 R404). -/
def State.startWord (s : State) (j : Job) (hold : Hold) (pop push : Option (BitVec 4)) (chain : Chain)
    (d : BitVec 10) (plan : Job → State → Option Plan) : State :=
  if !hold.free (s.tileAt s.tkey) j.jid then s
  else
    let ready := match plan j s with
      | some p => !p.bound j s.focus.kind || p.ready j
      | none => true
    if !ready then s.modEng (fun e => e.starve j (s.phase s.fpkg))
    else
      let s := s.beginWord j.jid hold pop
      if s.drooping then s.modEng (fun e => { e with pos := some (s.holdWord d { WordPos.first with active := true, suspect := true }) })
      else s.goOn push chain d WordPos.first (plan j s)

/-- The word that the stream which acts is inside has been suspect in 8 executions in a row (15 R404). -/
def State.droopDue (s : State) : Bool :=
  ((s.jobAt s.key).map (fun j => (j.eng s.focus.kind).pos.isSome && decide (Config.droopRetries ≤ (j.eng s.focus.kind).suspect))).getD false
    && !s.engineTaken

/-- Data-Error at repetition 0, element 0: none of the held effects performs; scale bytes taken are presented again. -/
def State.droopFault (s : State) : State :=
  let scales := (((s.jobAt s.key).bind (fun j => (j.eng s.focus.kind).pos)).map WordPos.scales).getD []
  (s.modEng (fun e => { e with suspect := 0 })).take.2.engineFault (some { WordPos.first with scales := scales }) .dataError
    (Config.unstatedEva s.fresh) s.epc

/-- One engine word of class `own` (none: any stream runs it). It follows what its tile's banks have accepted (05 R125). -/
def engineExec (own : Option Kind) (hold : Hold) (pop push : Option (BitVec 4)) (chain : Chain)
    (d : BitVec 10) (plan : Job → State → Option Plan) (s : State) : Host.Outcome State Fault Refusal :=
  match s.jobAt s.key with
  | none => .fault .noStream
  | some j =>
    if s.focus.kind.isCore then .fault .noStream
    else if own.any (fun k => k != s.focus.kind) then .next (s.engineFault none .engineWord s.eidx s.epc)
    else if s.engineTaken || !s.bankFree s.fpkg s.ftile then .next s
    else if s.droopDue then .next s.droopFault
    else match (j.eng s.focus.kind).pos with
      | some w => if s.drooping then .next s else .next (s.goOn push chain d w (plan j s))
      | none =>
        match popCheck j s.focus.kind pop with
        | .refused => .next (s.take.2.engineFault none .queueDiscipline (Config.unstatedEva s.fresh) s.epc)
        | .wait => .next s
        | .ok => .next (s.startWord j hold pop push chain d plan)

/-! ### Patterns (R283 to R287) -/

/-- Dword `k` of a descriptor. -/
def dw (d : List Word) (k : Nat) : Word := nth d k 0

/-- Repetitions of a word. -/
def ewReps (w : EW) : Nat := w.rep.toNat + 1

/-- A pattern (R283); esize in bytes, 0 for 4-bit codes. -/
structure Pat where
  space : Nat
  hint : Bool
  esize : Nat
  base : Nat
  e0 : Nat
  e1 : Nat
  e2 : Nat
  gran : Nat
  s1 : Int
  s2 : Int
  b0 : Nat
  b1 : Nat
  aux : W32
  deriving DecidableEq, Repr

/-- Bytes of a step granule. -/
def granBytes (c : Nat) : Nat := nth [16, 64, 192, 256, 1024, 8192, 65536, 1048576] c 16

/-- First reserved bit of base in each space (R284). -/
def baseBits (space : Nat) : Nat := nth [56, 23, 22, 3, 39, 16] space 0

/-- A bound, where 0 means the extent. -/
def boundOf (b e : Nat) : Nat := if b = 0 then e else b

/-- The pattern in a descriptor, for an operation that accepts `spaces` (R283, R284). -/
def parsePat (d : List Word) (spaces : List Nat) : Option Pat :=
  let d0 := dw d 0
  let d1 := dw d 1
  let code := bits d0 59 57
  let p : Pat :=
    { space := bits d0 63 61, hint := d0.getLsbD 60 && bits d0 63 61 == 0, esize := nth [0, 1, 2, 4, 8, 16] code 0
      base := bits d0 55 0, e0 := bits d1 63 48, e1 := bits d1 47 32, e2 := bits d1 31 16
      gran := granBytes (bits d1 15 13), s1 := toInt 32 (bits (dw d 2) 63 32), s2 := toInt 32 (bits (dw d 2) 31 0)
      b0 := boundOf (bits (dw d 3) 63 48) (bits d1 63 48), b1 := boundOf (bits (dw d 3) 47 32) (bits d1 47 32)
      aux := lo32 (dw d 3) }
  if !spaces.contains p.space ∨ 5 < code ∨ d0.getLsbD 56 ∨ bits d1 12 0 ≠ 0 ∨ 2 ^ baseBits p.space ≤ p.base then none
  else if p.space = 2 ∧ (p.esize ≠ 4 ∨ p.base % 4 ≠ 0 ∨ p.s1 % 4 ≠ 0 ∨ p.s2 % 4 ≠ 0) then none
  else some p

/-- Elements of a pattern (R285). -/
def Pat.n (p : Pat) : Nat := p.e0 * p.e1 * p.e2

/-- Coordinates of element `k` in pattern order. -/
def Pat.i0 (p : Pat) (k : Nat) : Nat := k % p.e0
def Pat.i1 (p : Pat) (k : Nat) : Nat := k / p.e0 % p.e1
def Pat.i2 (p : Pat) (k : Nat) : Nat := k / p.e0 / p.e1

/-- Element at coordinates, as its number in pattern order. -/
def Pat.at_ (p : Pat) (x y z : Nat) : Nat := x + p.e0 * (y + p.e1 * z)

/-- Byte address of element `k` in repetition `r` (R285). -/
def Pat.addr (p : Pat) (step : BitVec 12) (r k : Nat) : Word :=
  let x := if p.esize = 0 then p.i0 k / 2 else p.i0 k * p.esize
  BitVec.ofInt 64 (p.base + r * step.toInt * p.gran + x + p.i1 k * p.s1 + p.i2 k * p.s2)

/-- Element `k` is in bound (R286). -/
def Pat.inB (p : Pat) (k : Nat) : Bool := decide (p.i0 k < p.b0) && decide (p.i1 k < p.b1)

/-- The 4-bit element `k` is the upper nibble of its byte (07 R184). -/
def Pat.high (p : Pat) (k : Nat) : Bool := p.esize == 0 && p.i0 k % 2 == 1

/-- Bytes that an access of one element touches. -/
def Pat.bytes (p : Pat) : Nat := max 1 p.esize

/-- The channel of a pattern in switch space. -/
def Pat.chan (p : Pat) (reads : Bool) : List (Nat × Bool) := if p.space = 3 then [(p.base, reads)] else []

/-! ### A word as it runs -/

/-- A new repetition starts new runs. -/
def Touch.rep (t : Touch) : Touch := { t with next := none }

/-- A word that runs: state and position. -/
structure Run where
  s : State
  w : WordPos

/-- What a part of a word comes to. -/
inductive Got (α : Type) where
  | ok (r : Run) (v : α)
  | fault (r : Run) (c : Cause) (eva : Word)
  /-- For a channel or the scale queue: what it has done stands. -/
  | wait (r : Run)
  /-- For a page or for an answer: its element starts anew. -/
  | hold (r : Run)

/-- One part after another. -/
def Got.bind {α β : Type} (x : Got α) (f : Run → α → Got β) : Got β :=
  match x with
  | .ok r v => f r v
  | .fault r c e => .fault r c e
  | .wait r => .wait r
  | .hold r => .hold r

/-- The runs of one side of a word. -/
def Run.side (r : Run) (src : Bool) : Touch := if src then r.w.a else r.w.b
def Run.setSide (r : Run) (src : Bool) (t : Touch) : Run :=
  { r with w := if src then { r.w with a := t } else { r.w with b := t } }

/-- The stream waits at element start `r` for the page or the answer that `x` met: what stands is what it has sent, with its
count, and the node lines it has read. -/
def Run.heldAt (r x : Run) : Run :=
  let t := x.s.tileAt x.s.tkey
  { s := (r.s.engAsk x.s.engAsked).modTile r.s.tkey (fun k =>
      { k with reissue := t.reissue, reqloc := t.reqloc, reqdie := t.reqdie, reqpkg := t.reqpkg, before := t.before })
    w := { r.w with active := true, left := x.w.left, made := 0, a := { r.w.a with nodes := x.w.a.nodes } } }

/-- A run in which no access of an element has been made. -/
def Run.anew (r : Run) : Run := { r with w := { r.w with left := 0, made := 0 } }

/-- An answer brought the fault: Data-Error, Request-Timeout, or Protection from a tile marked absent (15 R385); the elements
after the failed one may have issued. -/
def State.answeredBy (s : State) (c : Cause) (eva : Word) : Bool :=
  match c with
  | .dataError => true
  | .requestTimeout => true
  | .protection => match (s.trFor s.party eva.toNat 0).2 with
    | .ok _ pa => s.absent pa
    | _ => false
  | _ => false

/-- Elements after element `k` of repetition `rep`, which has failed, that had issued and are done: up to `n` of them from
number `k + 1 + i` on, each independent of it (05 R126; 15 R387). -/
def doneAhead (f : Nat → Run → Got Unit) (free : Nat → Nat → State → Bool) (k : Nat) : Nat → Nat → Run → Run
  | 0, _, r => r
  | n + 1, i, r =>
    if r.w.done.getLsbD i then doneAhead f free k n (i + 1) r
    else if !free k (k + 1 + i) r.s then r
    else match f (k + 1 + i) r.anew with
      | .ok x _ => doneAhead f free k n (i + 1) { x with w := { x.w with done := x.w.done ||| BitVec.ofNat 64 (2 ^ i) } }
      | _ => r

/-- The stop at a failed element (15 R387). How many elements had issued is open: at most 64 are outstanding (log 14). -/
def Run.failed (r : Run) (f : Nat → Run → Got Unit) (free : Nat → Nat → State → Bool) (k left : Nat) (c : Cause) (eva : Word) : Run :=
  if r.s.answeredBy c eva then
    let n := min (min (Config.elemsMax - 1) left) (Config.elemsAhead r.s.fresh)
    (doneAhead f free k n 0 { r with s := r.s.take.2 }).anew
  else r.anew

/-- The word goes on behind element `k`. -/
def Run.after (r : Run) (k : Nat) : Run := { r with w := { r.w with elem := k + 1, done := r.w.done >>> 1, left := 0, made := 0 } }

/-- The answer to the last access is still awaited. -/
def Run.unanswered (r : Run) : Bool := r.s.engAsked.any (fun a => a.held)

/-- Elements from `k` on, `n` of them, of repetition `rep`; the first is skipped if `skip`, a later one if the done mask has it
(15 R394). `free i j` says that element j does not depend on element i. -/
def elemsFrom (f : Nat → Run → Got Unit) (free : Nat → Nat → State → Bool) (rep : Nat) : Nat → Nat → Bool → Run → Got Unit
  | 0, k, _, r => if r.unanswered then .hold r else .ok { r with w := { r.w with rep := rep, elem := k } } ()
  | n + 1, k, skip, r =>
    let r := { r with w := { r.w with rep := rep, elem := k, made := 0 } }
    if skip then elemsFrom f free rep n (k + 1) (r.w.done.getLsbD 0) (r.after k)
    else if r.unanswered then .wait { r with w := { r.w with active := true } }
    else match f k r with
      | .ok r _ => elemsFrom f free rep n (k + 1) (r.w.done.getLsbD 0) (r.after k)
      | .fault x c e => .fault (x.failed f free k n c e) c e
      | .wait x => .wait x
      | .hold x => .wait (r.heldAt x)

/-- A repetition from element `k` on; one that begins starts new runs and has no element done. -/
def Run.atElem (r : Run) (k : Nat) : Run :=
  if k = 0 ∧ r.w.done = 0 then { r with w := { r.w with a := r.w.a.rep, b := r.w.b.rep } } else r

/-- Repetitions from `rep` on, of `n` elements each, the first from element `k`. -/
def repsFrom (f : Nat → Nat → Run → Got Unit) (free : Nat → Nat → Nat → State → Bool) (n : Nat) : Nat → Nat → Nat → Run → Got Unit
  | 0, _, _, r => .ok r ()
  | m + 1, rep, k, r =>
    (elemsFrom (f rep) (free rep) rep (n - k) k false (r.atElem k)).bind (fun r _ => repsFrom f free n m (rep + 1) 0 r)

/-- A word of `reps` repetitions of `n` elements, each done by `f`, then `last`; `free` says which elements of a repetition are
independent (05 R126). -/
def loopAhead (free : Nat → Nat → Nat → State → Bool) (reps n : Nat) (f : Nat → Nat → Run → Got Unit) (last : Run → Got Unit)
    (w : WordPos) (s : State) : WRes :=
  match (repsFrom f free n (reps - w.rep) w.rep w.elem ⟨s, w⟩).bind (fun r _ => last r) with
  | .ok r _ => .done r.s none
  | .fault r c e => .fault r.s r.w c e
  | .wait r => .wait r.s r.w
  | .hold r => .wait r.s { r.w with active := true }

/-- The same where no element is done ahead of one that has failed (log 14). -/
def loopWord (reps n : Nat) (f : Nat → Nat → Run → Got Unit) (last : Run → Got Unit) (w : WordPos) (s : State) : WRes :=
  loopAhead (fun _ _ _ _ => false) reps n f last w s

/-- Nothing after the last repetition. -/
def noEnd (r : Run) : Got Unit := .ok r ()

/-! ### Element accesses (R284 to R288; 01 R14 to R16, R19) -/

/-- The requests for the pieces of one element: a piece that goes on in the line of its run is no new request (02 R36). -/
def State.sendPieces (q : Party) (h : Hint) : Option Nat → List (Nat × Nat) → State → State
  | _, [], s => s
  | line, (pa, n) :: l, s =>
    let s := if line = some (lineBase pa) then s.touchHome pa n h else s.request q pa n h
    State.sendPieces q h (some (lineBase pa)) l s

/-- The requests of one access of the element under way travel; they count unless an earlier run of the element has sent them (01
R36). -/
def Run.travel (r : Run) (va : Word) (l : List (Nat × Nat)) (line : Option Nat) (write : Bool) : Got Unit :=
  let q := r.s.party
  match r.s.travel q va l (if r.w.made < r.w.left then [] else r.s.newLines line l) write with
  | (s, x) =>
    let r : Run := { s := s, w := { r.w with made := r.w.made + 1, left := max r.w.left (r.w.made + 1) } }
    match x with
    | .ok _ => .ok r ()
    | .fault c e => .fault r c e
    | .wait => .hold r

/-- The line of the last piece. -/
def lastLine (l : List (Nat × Nat)) : Nat := (l.getLast?.map (fun x => lineBase (x.1 + x.2 - 1))).getD 0

/-- Prefetch for the page of `va` when the word touches it first (03 R76): `later lo hi` is the first later element
outside the page. -/
def Run.prefetch (r : Run) (src : Bool) (va : Nat) (need : Perm) (later : Nat → Nat → Option Nat) : Run :=
  let q := r.s.party
  let sel := TlbSel.stream r.s.focus.kind
  match (r.s.tlbOf q.pkg q.tile sel).find? (fun e => e.hits q.tenant va) with
  | none => r
  | some e =>
    let t := r.side src
    if t.pages.contains e.va then r
    else
      let r := r.setSide src { t with pages := e.va :: t.pages }
      match later e.va (e.va + pageBytes e.size.toNat) with
      | some a => if a < 2 ^ 56 then { r with s := r.s.prefetch q.pkg q.tile sel q.tenant a need } else r
      | none => r

/-- The requests of one access have come to their homes: the run stands behind them; line data that a read brings crosses links (02
R69). -/
def Run.entered (r : Run) (src : Bool) (h : Hint) (line : Option Nat) (fin : Nat) (l : List (Nat × Nat)) : Run :=
  let t := r.side src
  let first := (l.head?.map Prod.fst).getD 0
  let was := if line.isSome then lineFrom t.from_ first else first
  let s := State.sendPieces r.s.party h line l r.s
  let s := if h.writes then s else s.carryPieces r.s.party false was l
  ({ r with s := s }).setSide src
    { r.side src with next := some fin, line := lastLine l, was := was, from_ := l.foldl (fun (f : Nat) (x : Nat × Nat) => lineFrom f x.1) was }

/-- A span of `n` bytes at global address `va`, whose first nibble is at `nib` and which ends at `fin`: its pieces,
translated, checked, and sent on their way as requests. `red` is a reduce-copy's destination, an aperture page (R315). -/
def globalSpan (r : Run) (src : Bool) (need : Perm) (h : Hint) (red : Bool) (va : Word) (n nib fin : Nat)
    (later : Nat → Nat → Option Nat) : Got (List (Nat × Nat)) :=
  let q := r.s.party
  match r.s.pieces q need n va.toNat n with
  | (s, .fault c _) => .fault { r with s := s } c va
  | (s, .wait) => .hold { r with s := s }
  | (s, .ok l) =>
    if red && l.any (fun x => match s.region x.1 with
        | .aperture _ _ => false | _ => true) then .fault { r with s := s } .protection va
    else
      let t := r.side src
      let line := if t.next = some nib then some t.line else none
      let (sent, bad) := s.failing q va.toNat l
      (({ r with s := s }).travel va sent line h.writes).bind (fun r _ =>
        match bad with
        | some (c, _) => .fault r c va
        | none =>
          let r := r.prefetch src va.toNat need later
          let r := r.prefetch src (va.toNat + n - 1) need later
          .ok (r.entered src h line fin l) l)

/-- Pieces of an element at address `ad`, unless they hold an uncorrectable error (15 R384). -/
def Run.sound (r : Run) (ad : Word) (l : List (Nat × Nat)) : Got (List (Nat × Nat)) :=
  if r.s.flawedAt l then .fault r .dataError ad else .ok r l

/-- A span of a remote tile's scratchpad (R284, R316): the tile is that of the base. -/
def remoteSpan (r : Run) (p : Pat) (counted : Bool) (ad : Word) (n nib fin : Nat) : Got (List (Nat × Nat)) :=
  let q := r.s.party
  let pk := bits (BitVec.ofNat 64 p.base) 38 31
  let tl := bits (BitVec.ofNat 64 p.base) 30 23
  let la := (ad - BitVec.ofNat 64 (p.base / 2 ^ 23 * 2 ^ 23)).toNat
  if (r.s.pkgAt q.pkg).d ≤ pk ∨ !r.s.tilePresent pk tl ∨
      !r.s.windowOk q.pkg q.tenant (apAddr pk tl 0) (apAddr pk tl 0xFFFF) permW then .fault r .protection ad
  else if padSize < la + n then .fault r .localRange ad
  else
    let l := (List.range n).map (fun i => (apAddr pk tl (la + i), 1))
    if !counted then .ok r l
    else
      let t := r.side false
      let line := if t.next = some nib then some t.line else none
      (r.travel ad l line true).bind (fun r _ =>
        if r.s.flawedAt l then .fault r .dataError ad else .ok (r.entered false .store line fin l) l)

/-- The job's accumulator window: first row and rows. -/
def State.window (s : State) : Nat × Nat := ((s.jobAt s.key).map (fun j => (j.kern.accbase, j.kern.acccount))).getD (0, 0)

/-- Physical address of accumulator byte offset `o` of the job's window (01 R19, R32). -/
def State.accAddr (s : State) (o : Nat) : Nat := blockAddr s.fpkg s.ftile (s.window.1 * 8192 + o)

/-- The first later element of a pattern that lies outside a page. -/
def Pat.later (p : Pat) (step : BitVec 12) (reps r k lo hi : Nat) : Option Nat :=
  let out := fun (r k : Nat) =>
    let a := (p.addr step r k).toNat
    if p.inB k && !(decide (lo ≤ a) && decide (a < hi)) then some a else none
  match (List.range (p.n - (k + 1))).findSome? (fun i => out r (k + 1 + i)) with
  | some a => some a
  | none => (List.range (reps - (r + 1))).findSome? (fun i =>
      (List.range p.n).findSome? (fun k => out (r + 1 + i) k))

/-- How a word uses a pattern: its step and repetitions, the side, the permission, whether it reduces, and whether
remote requests count. -/
structure Use where
  step : BitVec 12
  reps : Nat
  src : Bool
  need : Perm
  red : Bool := false
  counted : Bool := true

def ewUse (w : EW) (src : Bool) : Use := { step := w.step, reps := ewReps w, src := src, need := if src then permR else permW }

/-- Where an element at address `ad` lies, in pieces, after every check of its access; `high` marks an upper nibble. -/
def Pat.placeAt (p : Pat) (u : Use) (ad : Word) (high : Bool) (later : Nat → Nat → Option Nat) (r : Run) :
    Got (List (Nat × Nat)) :=
  let n := p.bytes
  let nib := 2 * ad.toNat + (if high then 1 else 0)
  let fin := nib + (if p.esize = 0 then 1 else 2 * p.esize)
  match p.space with
  | 0 =>
    let h := if u.red then Hint.store else if u.src then (if p.hint then .bypass else .load)
      else (if p.hint then .noalloc else .store)
    globalSpan r u.src u.need h u.red ad n nib fin later
  | 1 =>
    if padSize < ad.toNat + n then .fault r .localRange ad
    else if r.s.padFlawed ad.toNat n (!u.src) then .fault r .dataError ad
    else .ok r [(apAddr r.s.fpkg r.s.ftile ad.toNat, n)]
  | 2 =>
    if r.s.window.2 * 8192 < ad.toNat + 4 then .fault r .localRange ad else r.sound ad [(r.s.accAddr ad.toNat, 4)]
  | _ => remoteSpan r p u.counted ad n nib fin

/-- Where element `k` of repetition `rep` lies. -/
def Pat.place (p : Pat) (u : Use) (rep k : Nat) (r : Run) : Got (List (Nat × Nat)) :=
  p.placeAt u (p.addr u.step rep k) (p.high k) (p.later u.step u.reps rep k) r

/-- The bytes at pieces. -/
def State.bytesAt (s : State) (l : List (Nat × Nat)) : List Byte := l.flatMap (fun x => readBytes s.mem x.1 x.2)

/-- Bytes laid at pieces in order. -/
def putBytes (m : Memory) : List (Nat × Nat) → List Byte → Memory
  | [], _ => m
  | (pa, n) :: l, b => putBytes (writeBytes m pa (b.take n)) l (b.drop n)

/-- Element `k`, in bound, read from its place. -/
def Pat.read (p : Pat) (u : Use) (rep k : Nat) (r : Run) : Got Nat :=
  (p.place u rep k r).bind (fun r l =>
    let v := leNat (r.s.bytesAt l)
    .ok r (if p.esize = 0 then (if p.high k then v / 16 else v % 16) else v))

/-- Element `k`, in bound, written at its place: `f` makes the new value of the old. -/
def Pat.write (p : Pat) (u : Use) (f : Nat → Nat) (rep k : Nat) (r : Run) : Got Unit :=
  (p.place u rep k r).bind (fun r l =>
    let old := leNat (r.s.bytesAt l)
    let new := if p.esize = 0 then (if p.high k then old % 16 + 16 * (f (old / 16) % 16) else old / 16 * 16 + f (old % 16) % 16)
      else f old
    let s := { r.s with mem := putBytes r.s.mem l (leBytes p.bytes new) }
    .ok { r with s := if p.space = 0 then s.carryPieces s.party true r.w.b.was l else s } ())

/-! ### Switch channels (R293, R294) -/

/-- Update of channel `c` of the job that acts. -/
def State.modSw (s : State) (c : Nat) (f : Channel → Channel) : State :=
  s.modCur (fun j => { j with sw := vset j.sw c (f (vget j.sw c)) })

/-- What stands in channel `c`, oldest first. -/
def State.beats (s : State) (c : Nat) : List Beat := ((s.jobAt s.key).map (fun j => (vget j.sw c).q)).getD []

/-- A set of channels with `c` added. -/
def addChan (b : BitVec 8) (c : Nat) : BitVec 8 := b ||| BitVec.ofNat 8 (2 ^ c)

/-- The mark of channel `c` has been taken. -/
def WordPos.ended (w : WordPos) (c : Nat) : Bool := w.marked.getLsbD c

/-- The word waits for a beat of channel `c`. -/
def Run.awaits (r : Run) (c : Nat) : Run := { r with w := { r.w with inOn := some c } }

/-- A beat is at hand for a consumer of channel `c` that needs `n` bytes; an early mark is consumed, and zeros
stand for the rest (R294). -/
def takeBeat (c n : Nat) (r : Run) : Got Unit :=
  if n ≤ r.w.held.length ∨ r.w.ended c then .ok r ()
  else match r.s.beats c with
    | [] => .wait (r.awaits c)
    | .beat b :: _ =>
      .ok { r with s := r.s.modSw c (fun k => { k with q := k.q.drop 1 }), w := { r.w with held := r.w.held ++ b } } ()
    | .mark :: _ =>
      .ok { r with s := r.s.modSw c (fun k => { k with q := k.q.drop 1 }), w := { r.w with marked := addChan r.w.marked c } } ()

/-- The first `n` held bytes, zeros past their end. -/
def WordPos.peek (w : WordPos) (n : Nat) : List Byte := (w.held ++ List.replicate n 0).take n

/-- `n` held bytes used. -/
def Run.use (r : Run) (n : Nat) : Run := { r with w := { r.w with held := r.w.held.drop n } }

/-- The mark at a consumer's end (R294). -/
def endRead (c : Nat) (r : Run) : Got Unit :=
  if r.w.ended c then .ok r ()
  else match r.s.beats c with
    | [] => .wait (r.awaits c)
    | .beat _ :: _ => .fault r .switchConfig r.s.eidx
    | .mark :: _ =>
      .ok { r with s := r.s.modSw c (fun k => { k with q := k.q.drop 1 }), w := { r.w with marked := addChan r.w.marked c } } ()

/-- A beat or mark enters channel `c` when there is room. -/
def putBeat (c : Nat) (b : Beat) (r : Run) : Got Unit :=
  if 8 ≤ (r.s.beats c).length then .wait { r with w := { r.w with outOn := some c } }
  else .ok { r with s := r.s.modSw c (fun k => { k with q := k.q ++ [b] }) } ()

/-- Full beats of packed bytes are sent before more are packed; `n` bounds their number. -/
def flushBeats (c : Nat) : Nat → Run → Got Unit
  | 0, r => .ok r ()
  | n + 1, r =>
    if r.w.packed.length < 1024 then .ok r ()
    else (putBeat c (.beat (r.w.packed.take 1024)) r).bind (fun r _ =>
      flushBeats c n { r with w := { r.w with packed := r.w.packed.drop 1024 } })

def flushFull (c : Nat) (r : Run) : Got Unit := flushBeats c (r.w.packed.length / 1024) r

/-- Bytes packed for a channel. -/
def Run.pack (r : Run) (b : List Byte) : Run := { r with w := { r.w with packed := r.w.packed ++ b } }

/-- A producer's end (R293, R294): the last beat, padded, then the mark. -/
def endWrite (c : Nat) (r : Run) : Got Unit :=
  (flushFull c r).bind (fun r _ =>
    let last : Got Unit :=
      if r.w.packed = [] then .ok r ()
      else (putBeat c (.beat ((r.w.packed ++ List.replicate 1024 0).take 1024)) r).bind
        (fun r _ => .ok { r with w := { r.w with packed := [] } } ())
    last.bind (fun r _ => putBeat c .mark r))

/-- The bytes a 4-bit element of number `g` in its word leaves packed. -/
def packNibble (l : List Byte) (g v : Nat) : List Byte :=
  if g % 2 = 0 then l ++ [BitVec.ofNat 8 (v % 16)]
  else match l.getLast? with
    | some b => l.dropLast ++ [BitVec.ofNat 8 (b.toNat % 16 + 16 * (v % 16))]
    | none => l

/-! ### Elements from any space to any space (R313, R314) -/

/-- A beat at hand where the source is a channel. -/
def Pat.fetch (p : Pat) (r : Run) : Got Unit := if p.space = 3 then takeBeat p.base p.bytes r else .ok r ()

/-- Room to pack where the destination is a channel. -/
def Pat.room (p : Pat) (g : Nat) (r : Run) : Got Unit :=
  if p.space = 3 ∧ (p.esize ≠ 0 ∨ g % 2 = 0) then flushFull p.base r else .ok r ()

/-- The value of element `k` (number `g` of its word) as it is taken: an element that is not wanted reads zero
and is not fetched, but keeps its place in a channel (R286, R293). -/
def Pat.get (p : Pat) (u : Use) (wanted : Bool) (rep k g : Nat) (r : Run) : Got Nat :=
  if p.space = 3 then
    let b := leNat (r.w.peek p.bytes)
    .ok r (if !wanted then 0 else if p.esize = 0 then (if g % 2 = 1 then b / 16 else b % 16) else b)
  else if wanted then p.read u rep k r
  else .ok r 0

/-- Bytes of the source channel used by element number `g`. -/
def Pat.used (p : Pat) (g : Nat) (r : Run) : Run :=
  if p.space = 3 ∧ (p.esize ≠ 0 ∨ g % 2 = 1) then r.use p.bytes else r

/-- A full beat is sent at once when the channel has room. -/
def tryFlush (c : Nat) (r : Run) : Run :=
  match flushFull c r with
  | .ok r _ => r
  | .wait r => { r with w := { r.w with outOn := none } }
  | .fault r _ _ => r
  | .hold r => r

/-- Element `k` made `f old` if it is wanted; one that is not keeps its place in a channel as zeros. -/
def Pat.put (p : Pat) (u : Use) (wanted : Bool) (f : Nat → Nat) (rep k g : Nat) (r : Run) : Got Unit :=
  if p.space = 3 then
    let v := if wanted then f 0 else 0
    let r := if p.esize = 0 then { r with w := { r.w with packed := packNibble r.w.packed g v } }
      else r.pack (leBytes p.esize v)
    .ok (if p.esize = 0 ∧ g % 2 = 0 then r else tryFlush p.base r) ()
  else if wanted then p.write u f rep k r
  else .ok r ()

/-- One element moved: element `ks` of the source, wanted or not, to element `kd` of the destination through `f`
(new source value, old destination value); `g` is its number in the word. -/
def moveElem (ps pd : Pat) (us ud : Use) (f : Nat → Nat → Nat) (wanted : Bool) (rep ks kd g : Nat) (r : Run) : Got Unit :=
  (ps.fetch r).bind (fun r _ => (pd.room g r).bind (fun r _ =>
    (ps.get us wanted rep ks g r).bind (fun r v =>
      (pd.put ud (pd.inB kd) (f v) rep kd g r).bind (fun r _ => .ok (ps.used g r) ()))))

/-- The marks of a word that reads `ps` and writes `pd`. -/
def endPair (ps pd : Pat) (r : Run) : Got Unit :=
  (if ps.space = 3 then endRead ps.base r else .ok r ()).bind (fun r _ =>
    if pd.space = 3 then endWrite pd.base r else .ok r ())

end Sys2Proof.Machine
end

