-- ==== Sys2Proof/Machine/FabOps.lean ====
section
/-!
DEFINITION. Meanings of the FAB family: circuits (13 R358 to R364; 18 R416) and collectives (13 R366, R369).
-/

namespace Sys2Proof.Machine

/-! ### Records and handles (R358; 18 R416) -/

def sendHandle (i : Nat) (r : SendRec) : Word := BitVec.ofNat 64 (i * 2 ^ 11 + r.seq % 2 ^ 11)
def landHandle (slot i : Nat) (r : LandRec) : Word :=
  BitVec.ofNat 64 (2 ^ 15 + slot * 2 ^ 13 + i * 2 ^ 9 + r.seq % 2 ^ 9)

/-- The send record a handle names, none when stale or released. -/
def Job.findSend (j : Job) (h : Word) : Option Nat :=
  let i := bits h 14 11
  let r := vget j.send i
  if h.getLsbD 15 = false ∧ r.st ≠ .free ∧ r.seq % 2 ^ 11 = bits h 10 0 then some i else none

/-- The landing record of the job in slot `slot` that a handle names. -/
def Job.findLand (j : Job) (slot : Nat) (h : Word) : Option Nat :=
  let i := bits h 12 9
  let r := vget j.land i
  if h.getLsbD 15 ∧ bits h 14 13 = slot ∧ r.st ≠ .free ∧ r.seq % 2 ^ 9 = bits h 8 0 then some i else none

/-- The lowest free send record (R416), none when all are in use. -/
def Job.freeSend (j : Job) : Option Nat := (List.range 16).find? (fun i => (vget j.send i).st == .free)
def Job.freeLand (j : Job) : Option Nat := (List.range 16).find? (fun i => (vget j.land i).st == .free)

/-- A send record released: its sequence rises for the next use. -/
def SendRec.release (r : SendRec) : SendRec := { r with st := .free, seq := r.seq + 1, cause := 0, resume := none }
def LandRec.release (r : LandRec) : LandRec := { r with st := .free, seq := r.seq + 1, cause := 0, circ := none }

/-! ### COPEN and CLAND (R361, R362) -/

/-- COPEN status codes. -/
inductive OpenStatus where
  | ok | noPath | noLanding | busy
  deriving DecidableEq, Repr

def OpenStatus.code : OpenStatus → Nat
  | .ok => 0 | .noPath => 1 | .noLanding => 2 | .busy => 3

def openResult (st : OpenStatus) (h : Word) : Word := BitVec.ofNat 64 (st.code * 2 ^ 60) ||| h

/-- The landing that a COPEN of tenant `u` to address `la` of tile `(p, t)` may use: its slot key, job number
and record (R362). -/
def State.landing (s : State) (u : Tenant) (p t la : Nat) (h : Word) : Option (Nat × Nat × Nat) :=
  let slot := bits h 14 13
  let key := slotKey p t slot
  match s.jobAt key with
  | none => none
  | some j =>
    if j.tenant ≠ u then none
    else match j.findLand slot h with
      | none => none
      | some i =>
        let r := vget j.land i
        if (r.st = .opened ∧ r.circ.isSome) ∨ la < r.base ∨ r.base + 4 * r.len ≤ la then none
        else some (key, j.jid, i)

/-- The path is reserved: both records open. The lease does not run yet (R362). -/
def openCircuit (s : State) (j : Job) (i p t la key jid r : Nat) (links : List Link) : State :=
  let (id, s) := s.take
  let lr := ((s.jobAt key).map (fun k => vget k.land r)).getD ⟨0, .free, 0, 0, none, 0, 0⟩
  let c : Circuit :=
    { id := id, src := s.key, srcJid := j.jid, srcRec := i, flow := none, dst := key, dstJid := jid, dstRec := r
      cls := j.cls, links := links, leaseEnd := s.phase s.fpkg + 2 ^ 128, next := la
      stop := lr.base + 4 * lr.len, dstPkg := p, dstTile := t, words := [], sent := 0, delivered := 0
      first := 0, alive := true, endedAt := 0, signal := none, notice := none }
  let s := { s with circuits := s.circuits ++ [c] }
  let s := s.modJob key (fun k =>
    { k with land := vset k.land r { lr with st := .opened, circ := some id, cause := 0, delivered := 0 } })
  s.modCur (fun k =>
    { k with send := vset k.send i { vget k.send i with st := .opened, circ := id, cause := 0, resume := none } })

/-- COPEN at the receiver (R362): its landing, then the probe (R353). The request's dwords are what the operation carries. -/
def copenAct (data : List Byte) (s : State) : Answer :=
  let d0 := BitVec.ofNat 64 (leNat (data.take 8))
  let p := bits d0 38 31
  let t := bits d0 30 23
  let la := bits d0 22 0
  match s.jobAt s.key with
  | none => .ok s 0 []
  | some j =>
    match j.freeSend with
    | none => .ok s (openResult .busy 0) []
    | some i =>
      match s.landing j.tenant p t la (BitVec.ofNat 64 (leNat (data.drop 8))) with
      | none => .ok s (openResult .noLanding 0) []
      | some (key, jid, r) =>
        match s.probe s.fpkg s.ftile p t j.cls with
        | (s, none) => .ok s (openResult .noPath 0) []
        | (s, some links) =>
          .ok (openCircuit s j i p t la key jid r links) (openResult .ok (sendHandle i (vget j.send i))) []

/-- COPEN's result is written: the lease of the circuit that it names runs from this cycle (R362). -/
def State.startLease (s : State) (v : Word) (lease : Nat) : State :=
  if bits v 63 60 ≠ 0 then s
  else { s with circuits := s.circuits.map (fun c =>
    if c.alive ∧ c.flow = none ∧ c.src = s.key ∧ c.srcJid = s.issuer.jid ∧ c.srcRec = bits v 14 11 then
      { c with leaseEnd := s.phase s.fpkg + cycles lease } else c) }

/-- COPEN sends its request to the receiver's tile; it is no request that R36 counts. -/
def copenSend (d : Reg) (a : Word) (lease : Nat) (data : List Byte) (pl : Place) (s : State) : Res :=
  exchange s ⟨false, false, pl, pl.unitTarget⟩ a pl.num data (fun s => .raise s .requestTimeout a) copenAct
    (fun s v _ => .next ((s.startLease v lease).setReg d v))

/-- The course of COPEN after its first step-5 checks (log 27: busy comes before the other answers). In pilot-light service it
always answers no-path (20 R437). -/
def copenBody (d : Reg) (a lease : Word) (s : State) (j : Job) : Res :=
  let d0 := BitVec.ofNat 64 (s.readL a.toNat 8)
  let d1 := BitVec.ofNat 64 (s.readL (a.toNat + 8) 8)
  if bits d0 63 39 ≠ 0 ∨ bits d1 63 16 ≠ 0 then raiseFree s .illegal
  else
    let p := bits d0 38 31
    let t := bits d0 30 23
    if (s.pkgAt s.fpkg).d ≤ p ∨ !s.tilePresent p t ∨
        !s.windowOk s.fpkg j.tenant.toNat (apAddr p t 0) (apAddr p t 0xFFFF) permRW then .raise s .protection a
    else if (s.pkgAt s.fpkg).svc = 0 then .next (s.setReg d (openResult .noPath 0))
    else if j.freeSend.isNone then .next (s.setReg d (openResult .busy 0))
    else copenSend d a lease.toNat (leBytes 8 d0.toNat ++ leBytes 8 d1.toNat) (.tile p t) s

/-- A lease operand (R361). -/
def leaseOk (v : Word) : Bool := decide (1 ≤ v.toNat) && decide (v.toNat ≤ 2 ^ 20)

/-- COPEN (R361, R362). -/
def execCopen (d a : Reg) (b : Opd) (s : State) : Host.Outcome State Fault Refusal :=
  coreExec (opdLen b) false (d :: a :: opdRegs b) (fun j c s =>
    let v := bval j c b
    match c.asked with
    | some q => copenSend d q.va v.toNat q.data (placeOfNum q.pa) s
    | none =>
    if !leaseOk v then raiseFree s .illegal
    else withLocal s (c.reg a) 16 16 (fun s => inLocalQueue s false (fun s => soundPad s (c.reg a) 16 false (fun s => copenBody d (c.reg a) v s j)))) s

/-- CLAND (R361). -/
def execCland (d a : Reg) (b : Opd) (s : State) : Host.Outcome State Fault Refusal :=
  coreExec (opdLen b) false (d :: a :: opdRegs b) (fun j c s =>
    let n := (bval j c b).toNat
    if n = 0 ∨ 1572864 < n then raiseFree s .illegal
    else withLocal s (c.reg a) (4 * n) 4 (fun s =>
      match j.freeLand with
      | none => .next (s.setReg d (openResult .busy 0))
      | some i =>
        let r := vget j.land i
        let q : LandRec := { r with st := .opened, base := (c.reg a).toNat, len := n, circ := none, cause := 0, delivered := 0 }
        let s := s.modCur (fun j => { j with land := vset j.land i q })
        .next (s.setReg d (openResult .ok (landHandle s.focus.slot.toNat i r))))) s

/-! ### CHOLD, CCLOSE, CSTAT (R363, R364) -/

/-- The open circuit of send record `i`. -/
def State.sendCirc (s : State) (j : Job) (i : Nat) : Option Circuit :=
  let r := vget j.send i
  if r.st = .opened then (s.circ r.circ).filter (fun c => c.alive) else none

/-- CHOLD (R363): remaining := min(remaining + bval, 2^20); too late once the lease has run out. -/
def execChold (a : Reg) (b : Opd) (s : State) : Host.Outcome State Fault Refusal :=
  coreExec (opdLen b) false (a :: opdRegs b) (fun j c s =>
    let v := bval j c b
    let h := c.reg a
    if !leaseOk v ∨ h.getLsbD 15 then raiseFree s .illegal
    else match (j.findSend h).bind (s.sendCirc j) with
      | none => .next s
      | some q =>
        if s.expired q then .next s
        else .next (s.setCirc { q with leaseEnd := min (q.leaseEnd + cycles v.toNat) (s.phase s.fpkg + cycles (2 ^ 20)) })) s

/-- The close of send record `i` (R363): words already sent land, both ends close, the record is free. -/
def State.closeSend (s : State) (j : Job) (i : Nat) : State :=
  let s := if (vget j.send i).st = .free then s else s.breakCircuit (vget j.send i).circ 1 .sender
  s.modCur (fun j => { j with send := vset j.send i (vget j.send i).release })

/-- The close of landing record `i` (R363). -/
def State.closeLand (s : State) (j : Job) (i : Nat) : State :=
  let s := match (vget j.land i).circ with
    | some q => s.breakCircuit q 2 .receiver
    | none => s
  s.modCur (fun j => { j with land := vset j.land i (vget j.land i).release })

/-- CCLOSE (R363): a stale handle does nothing. -/
def execCclose (a : Reg) (s : State) : Host.Outcome State Fault Refusal :=
  coreExec 4 false [a] (fun j c s =>
    let h := c.reg a
    if h.getLsbD 15 then
      match j.findLand s.focus.slot.toNat h with
      | some i => .next (s.closeLand j i)
      | none => .next s
    else match j.findSend h with
      | some i => .next (s.closeSend j i)
      | none => .next s) s

/-- State code of a record (R364). -/
def RecState.code : RecState → Nat
  | .opened => 0 | .broken => 1 | .closed => 2 | .free => 3

/-- The status dword of an ended or open record. -/
def recStatus (st : RecState) (cause : BitVec 4) (lease count : Nat) : Word :=
  BitVec.ofNat 64 (st.code * 2 ^ 60 + cause.toNat * 2 ^ 56 + lease % 2 ^ 21 * 2 ^ 32 + count % 2 ^ 32)

/-- The status dword of CSTAT (R364). -/
def circuitStatus (s : State) (j : Job) (h : Word) : Word :=
  if h.getLsbD 15 then
    match j.findLand s.focus.slot.toNat h with
    | none => recStatus .free 0 0 0
    | some i =>
      let r := vget j.land i
      recStatus r.st r.cause 0 r.delivered.toNat
  else
    match j.findSend h with
    | none => recStatus .free 0 0 0
    | some i =>
      let r := vget j.send i
      if r.st = .opened then
        let left := ((s.circ r.circ).map s.leaseLeft).getD 0
        recStatus .opened 0 left 0
      else recStatus r.st r.cause 0 ((r.resume.map BitVec.toNat).getD 0xFFFF_FFFF)

/-- CSTAT (R364). -/
def execCstat (d a : Reg) (s : State) : Host.Outcome State Fault Refusal :=
  coreExec 4 false [d, a] (fun j c s => .next (s.setReg d (circuitStatus s j (c.reg a)))) s

/-! ### Collectives (R369) -/

/-- An entry operand; `target` says whether bits 63:32 may be set. -/
def entryOk (v : Word) (target : Bool) : Bool := bits v 31 10 == 0 && (target || bits v 63 32 == 0)
def entryOf (v : Word) : Nat := bits v 9 0

/-- The course of DMSET after its step-5 checks: it waits while a generation is in flight. -/
def dmsetBody (v : Word) (i : Nat) (j : Job) (s : State) : Res :=
  let u := j.tenant.toNat
  let old := s.domAt s.fpkg u i
  let dw : Vector Word 4 := Vector.ofFn (fun k => BitVec.ofNat 64 (s.readL (v.toNat + 8 * k.val) 8))
  let e := { old with dw := dw, readies := [] }
  if e.v && e.malformed (s.pkgAt s.fpkg).d then .raise s .engineWord v
  else if old.inflight then .wait s
  else .next (s.setDom s.fpkg u i e)

/-- DMSET (R369). -/
def execDmset (a : Reg) (b : Opd) (s : State) : Host.Outcome State Fault Refusal :=
  coreExec (opdLen b) false (a :: opdRegs b) (fun j c s =>
    let v := bval j c b
    if !entryOk (c.reg a) false then raiseFree s .illegal
    else withLocal s v 32 16 (fun s => inLocalQueue s false (fun s => soundPad s v 32 false (dmsetBody v (entryOf (c.reg a)) j)))) s

/-- A ready reaches the root's package (R366): held, or discarded with a record of empty cut. -/
def State.ready (s : State) (u i root p t : Nat) : State :=
  let e := s.domAt root u i
  if e.v && !e.malformed (s.pkgAt root).d && e.names (s.pkgAt root).d p t then
    s.setDom root u i { e with readies := e.readies ++ [tileKey p t] }
  else s.emptyFault root u 0 .protection (BitVec.ofNat 64 i)

/-- A ready at the root's package: one that is held already for the pending generation makes the next wait (R366). -/
def readyAct (u i root : Nat) (_ : List Byte) (s : State) : Answer :=
  if (s.domAt root u i).readies.contains s.tkey then .hold s else .ok (s.ready u i root s.fpkg s.ftile) 0 []

/-- The ready travels to the H-die of the root's package. -/
def readySend (v : Word) (u i root : Nat) (s : State) : Res :=
  let pl : Place := .hdie root
  exchange s ⟨false, false, pl, pl.unitTarget⟩ v pl.num [] (fun s => .raise s .requestTimeout v) (readyAct u i root)
    (fun s _ _ => .next s)

/-- DMREADY (R366, R369): a domain-scope release. -/
def execDmready (a : Reg) (s : State) : Host.Outcome State Fault Refusal :=
  coreExec 4 false [a] (fun j c s =>
    let v := c.reg a
    let u := j.tenant.toNat
    let i := entryOf v
    match c.asked with
    | some q => readySend v u i (placeOfNum q.pa).pkg s
    | none =>
    if !entryOk v false then raiseFree s .illegal
    else
      let e := s.domAt s.fpkg u i
      if !e.v ∨ !e.names (s.pkgAt s.fpkg).d s.fpkg s.ftile then .raise s .protection v
      else afterRelease s .dom (readySend v u i e.rpkg)) s

/-- The result dword of DMWAIT and DMSTAT for the tile that acts. -/
def dmResult (s : State) (u i : Nat) : Word :=
  let e := s.domAt s.fpkg u i
  let held := e.v && (s.domAt e.rpkg u i).readies.contains s.tkey
  BitVec.ofNat 64 ((if !e.v then 2 * 2 ^ 60 else if e.failed then 2 ^ 60 else 0)
    + (if e.inflight then 2 ^ 59 else 0) + (if held then 2 ^ 58 else 0) + e.done.toNat)

/-- DMWAIT (R369). -/
def execDmwait (d a : Reg) (s : State) : Host.Outcome State Fault Refusal :=
  coreExec 4 false [d, a] (fun j c s =>
    let v := c.reg a
    if !entryOk v true then raiseFree s .illegal
    else
      let e := s.domAt s.fpkg j.tenant.toNat (entryOf v)
      if !e.v ∨ (e.done - BitVec.ofNat 32 (bits v 63 32)).toNat < 2 ^ 31 then
        .next (s.setReg d (dmResult s j.tenant.toNat (entryOf v)))
      else .wait s) s

/-- DMSTAT (R369). -/
def execDmstat (d a : Reg) (s : State) : Host.Outcome State Fault Refusal :=
  coreExec 4 false [d, a] (fun j c s =>
    let v := c.reg a
    if !entryOk v false then raiseFree s .illegal
    else .next (s.setReg d (dmResult s j.tenant.toNat (entryOf v)))) s

end Sys2Proof.Machine
end

