-- ==== Sys2Proof/Machine/CopyOps.lean ====
section
/-!
DEFINITION. Meanings of the copy words (11 R314 to R319; 04 R118; 08 R218; 13 R354 to R357).
-/

namespace Sys2Proof.Machine

/-! ### Pair copies (R314) -/

/-- The two patterns of a pair copy: equal N and esize, source aux unused. -/
def copyPair (s : State) (w : EW) (from_ into : List Nat) : Option (Pat × Pat) :=
  match parsePat (s.desc1 w) from_, (s.desc2 w).bind (fun d => parsePat d into) with
  | some ps, some pd => if ps.n ≠ pd.n ∨ ps.esize ≠ pd.esize ∨ ps.aux ≠ 0 then none else some (ps, pd)
  | _, _ => none

/-- Physical address of an element at address `ad`, where it has one. -/
def State.physAt (s : State) (p : Pat) (ad : Word) : Option Nat :=
  match p.space with
  | 0 => match (s.trFor s.party ad.toNat 0).2 with
    | .ok _ pa => some pa
    | _ => none
  | 1 => some (apAddr s.fpkg s.ftile ad.toNat)
  | 2 => some (s.accAddr ad.toNat)
  | 4 => some (apAddr (p.base / 2 ^ 31) (p.base / 2 ^ 23 % 256) (ad.toNat - p.base / 2 ^ 23 * 2 ^ 23))
  | _ => none

/-- The sector, or the 16-byte unit of a tile, that holds `pa` (05 R126). -/
def State.unitOf (s : State) (pa : Nat) : Nat :=
  match s.region pa with
  | .hbm => lineBase pa + 48 * sectorOf pa
  | .ddr => lineBase pa + 48 * sectorOf pa
  | _ => pa / 16 * 16

/-- The units that element `k` of repetition `rep` touches; none where that is not known. -/
def Pat.units (p : Pat) (step : BitVec 12) (rep k : Nat) (s : State) : Option (List Nat) :=
  if !p.inB k then some []
  else (s.physAt p (p.addr step rep k)).map (fun pa => [s.unitOf pa, s.unitOf (pa + p.bytes - 1)])

/-- Element `j` of a pair copy does not depend on element `k`: neither writes what the other touches (05 R126). -/
def copyFree (ps pd : Pat) (step : BitVec 12) (rep k j : Nat) (s : State) : Bool :=
  let apart := fun (a b : List Nat) => a.all (fun x => !b.contains x)
  match ps.units step rep k s, pd.units step rep k s, ps.units step rep j s, pd.units step rep j s with
  | some a, some b, some c, some d => apart b c && apart b d && apart a d
  | _, _, _, _ => false

/-- The run of a pair copy: element k to element k through `f`. -/
def copyRun (w : EW) (ps pd : Pat) (ud : Use) (f : Nat → Nat → Nat) : WordPos → State → WRes :=
  loopAhead (copyFree ps pd w.step) (ewReps w) pd.n
    (fun rep k r => moveElem ps pd (ewUse w true) ud f (ps.inB k && pd.inB k) rep k k (rep * pd.n + k) r)
    (endPair ps pd)

/-- CPY. -/
def execCpy (w : EW) (s : State) : Host.Outcome State Fault Refusal :=
  engineExec (some .C) .none w.pop w.push w.chain w.desc (fun _ s =>
    match copyPair s w [0, 1, 2, 3] [0, 1, 2, 3] with
    | some (ps, pd) =>
      if pd.aux ≠ 0 then none
      else some { uses := ps.chan true ++ pd.chan false, scale := 0
                  run := copyRun w ps pd (ewUse w false) (fun v _ => v) }
    | none => none) s

/-- Bytes of an element of reduction code `op` (R315). -/
def redBytes (op : Nat) : Nat := nth [4, 2, 4, 4, 4] op 0

/-- CPYRED (R315): dst := op(dst, src). -/
def execCpyred (w : EW) (s : State) : Host.Outcome State Fault Refusal :=
  engineExec (some .C) .none w.pop w.push w.chain w.desc (fun _ s =>
    match copyPair s w [0, 1, 2, 3] [0, 1] with
    | some (ps, pd) =>
      let op := bits pd.aux 2 0
      if bits pd.aux 31 3 ≠ 0 ∨ 4 < op ∨ pd.esize ≠ redBytes op then none
      else some { uses := ps.chan true, scale := 0
                  run := copyRun w ps pd { ewUse w false with need := permRW, red := true }
                    (fun v old => reduceStep op old v) }
    | none => none) s

/-! ### CPYPK (R316; 13 R354 to R357) -/

/-- The circuit of a promoted flow. -/
def Flow.circuit (f : Flow) : Option Nat :=
  match f.st with
  | .promoted c => some c
  | _ => none

/-- The open circuit on which elements of `esize` bytes of a flow travel. -/
def State.flowCircuit (s : State) (f : Option Flow) (esize : Nat) : Option Circuit :=
  if esize < 4 then none else ((f.bind Flow.circuit).bind s.circ).filter (fun c => c.alive)

/-- Words put on a circuit in beats of at most 8 (R351). -/
def addBeat (beats : List (List (Nat × W32))) (l : List (Nat × W32)) : List (List (Nat × W32)) :=
  match beats.getLast? with
  | some b => if b.length + l.length ≤ 8 then beats.dropLast ++ [b ++ l] else beats ++ [l]
  | none => [l]

/-- The words of element number `g` of a CPYPK word go on the flow's circuit: `esize` bytes of `v` for local address `at_`,
lowest address first (R355, R356). -/
def Circuit.carry (c : Circuit) (g esize at_ v : Nat) : Circuit :=
  { c with sent := c.sent + esize / 4, first := if c.sent = 0 then g else c.first
           words := addBeat c.words ((List.range (esize / 4)).map (fun i => (at_ + 4 * i, BitVec.ofNat 32 (v / 2 ^ (32 * i))))) }

/-- The word that used a promoted circuit is complete: the next one counts its own words. -/
def Circuit.rest (c : Circuit) : Circuit := { c with sent := 0, delivered := 0, first := 0 }

/-- The label and the flow of a CPYPK word. -/
def pkLabel (pd : Pat) : Byte := BitVec.ofNat 8 (bits pd.aux 7 0)
def State.pkFlow (s : State) (pd : Pat) : Option Flow :=
  s.findFlow s.fpkg s.ftile (pd.base / 2 ^ 31) (pd.base / 2 ^ 23 % 256) (pkLabel pd)

/-- One element of CPYPK, number `g` of its word, on the packet plane. -/
def packetElem (w : EW) (ps pd : Pat) (g : Nat) (r : Run) : Got Unit :=
  let rep := g / pd.n
  let k := g % pd.n
  (ps.get (ewUse w true) (ps.inB k) rep k g r).bind (fun r v => pd.write (ewUse w false) (fun _ => v) rep k r)

/-- Elements in order on the packet plane. -/
def packetElems (w : EW) (ps pd : Pat) : List Nat → Run → Got Unit
  | [], r => .ok r ()
  | g :: l, r => (packetElem w ps pd g r).bind (fun r _ => packetElems w ps pd l r)

/-- Before element number `g`: where the circuit that carried earlier elements of the word has broken, the word waits for the
break notice and sends them again, from the one that contains the resume point on (R357). -/
def cpypkResend (w : EW) (ps pd : Pat) (g : Nat) (r : Run) : Got Unit :=
  let flow := r.s.pkFlow pd
  match flow, (flow.bind Flow.circuit).bind r.s.circ with
  | some f, some c =>
    if c.alive ∨ c.sent = 0 then .ok r ()
    else if c.notice.isSome then .hold r
    else
      let sent := ((List.range (g - c.first)).map (· + c.first)).filter (fun g => pd.inB (g % pd.n))
      (packetElems w ps pd (sent.drop (c.delivered / (pd.esize / 4))) r).bind (fun r _ =>
        .ok { r with s := r.s.clearFlow f.id } ())
  | _, _ => .ok r ()

/-- Element `k` of CPYPK: metered, on the packet plane or on the circuit of its promoted flow, which no request
counts (02 R36). An ineligible word first closes the circuit (R355). -/
def cpypkElem (w : EW) (ps pd : Pat) (cls rep k : Nat) (r : Run) : Got Unit :=
  let g := rep * pd.n + k
  (cpypkResend w ps pd g r).bind (fun r _ =>
    if !pd.inB k then .ok r ()
    else
      let flow := r.s.pkFlow pd
      let r := match flow with
        | some f => if pd.esize < 4 && f.circuited then { r with s := r.s.closeFlow f } else r
        | none => r
      let meter := fun (r : Run) =>
        Got.ok { r with s := r.s.meterFlow r.s.fpkg r.s.ftile (pd.base / 2 ^ 31) (pd.base / 2 ^ 23 % 256) (pkLabel pd) cls pd.esize pd.esize } ()
      match r.s.flowCircuit flow pd.esize with
      | some c =>
        (ps.get (ewUse w true) (ps.inB k) rep k g r).bind (fun r v =>
          (pd.place { ewUse w false with counted := false } rep k r).bind (fun r l =>
            let at_ := (l.head?.map Prod.fst).getD 0 - apAddr c.dstPkg c.dstTile 0
            meter { r with s := r.s.setCirc (c.carry g pd.esize at_ v) }))
      | none => (packetElem w ps pd g r).bind (fun r _ => meter r))

/-- The end of a CPYPK word: every word on the circuit has landed. -/
def cpypkEnd (w : EW) (ps pd : Pat) (r : Run) : Got Unit :=
  (cpypkResend w ps pd (ewReps w * pd.n) r).bind (fun r _ =>
    match (((r.s.pkFlow pd).bind Flow.circuit).bind r.s.circ).filter (fun c => c.alive) with
    | some c => if c.words.isEmpty then .ok { r with s := r.s.setCirc c.rest } () else .hold r
    | none => .ok r ())

/-- CPYPK. -/
def execCpypk (w : EW) (s : State) : Host.Outcome State Fault Refusal :=
  engineExec (some .C) .none w.pop w.push w.chain w.desc (fun j s =>
    match copyPair s w [0, 1, 2] [4] with
    | some (ps, pd) =>
      if bits pd.aux 31 8 ≠ 0 then none
      else some (Plan.of (loopWord (ewReps w) pd.n (cpypkElem w ps pd j.cls) (cpypkEnd w ps pd)))
    | none => none) s

/-! ### CPYCK (R317) -/

/-- A word put on a circuit, in a beat of its own where `first`: the receiver takes nothing from one that has ended. -/
def State.sendWord (s : State) (id : Nat) (first : Bool) (v : W32) : State :=
  match s.circ id with
  | some c =>
    let beats := if first then c.words ++ [[(0, v)]] else addBeat c.words [(0, v)]
    s.setCirc { c with sent := c.sent + 1, words := if c.alive then beats else c.words }
  | none => s

/-- Elements of the destination in bound among the first `g` of a word: the words it has sent. -/
def Pat.sentOf (p : Pat) (g : Nat) : Nat :=
  g / p.n * ((List.range p.n).filter p.inB).length + ((List.range (g % p.n)).filter p.inB).length

/-- The status dword is written and the word is complete. -/
def cpyckEnd (pd : Pat) (broken : Bool) (g : Nat) (r : Run) : WRes :=
  let a := bits pd.aux 22 0
  if padSize < a + 8 then .fault r.s r.w .localRange (BitVec.ofNat 64 a)
  else if r.s.padFlawed a 8 true then .fault r.s r.w .dataError (BitVec.ofNat 64 a)
  else
    let v := (if broken then 2 ^ 60 else 0) + pd.sentOf g % 2 ^ 32
    .done (r.s.writeL a 8 v) none

/-- Elements from number `g` on, `n` of them left, `room` words of this turn's beat; the word stops reading when its send record
`rec` is no longer open. -/
def cpyckLoop (ps pd : Pat) (us : Use) (rec : Option Nat) : Nat → Nat → Nat → Run → WRes
  | 0, _, g, r => cpyckEnd pd false g { r with w := { r.w with rep := us.reps - 1, elem := pd.n } }
  | n + 1, room, g, r =>
    let rep := g / pd.n
    let k := g % pd.n
    let r := { r with w := { r.w with rep := rep, elem := k, made := 0 } }
    match rec.bind (fun i => (r.s.jobAt r.s.key).bind (fun j =>
        let x := vget j.send i
        if x.st = .opened then some x.circ else none)) with
    | none => cpyckEnd pd true g { r with w := { r.w with broken := true } }
    | some c =>
      if !pd.inB k then cpyckLoop ps pd us rec n room (g + 1) r
      else match room with
        | 0 => .wait r.s { r.w with active := true }
        | room + 1 => match ps.get us (ps.inB k) rep k g r with
          | .ok r v =>
            let s := r.s.sendWord c (room == 7) (BitVec.ofNat 32 v)
            cpyckLoop ps pd us rec n room (g + 1)
              { r with s := s, w := { r.w with rep := (g + 1) / pd.n, elem := (g + 1) % pd.n, left := 0 } }
          | .fault r c e => .fault r.s r.w c e
          | .wait r => .wait r.s r.w
          | .hold x => let y := r.heldAt x; .wait y.s y.w

/-- A circuit whose lease has run out breaks before its sender puts more on it (13 R363). -/
def State.checkLease (s : State) (rec : Option Nat) : State :=
  match rec.bind (fun i => (s.jobAt s.key).bind (fun j => s.circ (vget j.send i).circ)) with
  | some c => if c.alive && s.expired c then s.breakCircuit c.id 3 .sender else s
  | none => s

/-- The word stands where it has sent nothing, and has not run since its descriptors were read: its handle is checked (R317; 15
R394). -/
def WordPos.unsent (w : WordPos) : Bool := (w.fetched.isNone || w.suspect) && w.rep == 0 && w.elem == 0

/-- CPYCK: a beat of eight words a turn (R320). -/
def execCpyck (w : EW) (s : State) : Host.Outcome State Fault Refusal :=
  engineExec (some .C) .none w.pop w.push w.chain w.desc (fun j s =>
    match copyPair s w [1] [5] with
    | some (ps, pd) =>
      let named := j.findSend (BitVec.ofNat 64 pd.base)
      let rec_ := named.filter (fun i => (vget j.send i).st == .opened && !(s.circ (vget j.send i).circ).any s.expired)
      if ps.esize ≠ 4 ∨ bits pd.aux 31 23 ≠ 0 ∨ pd.aux.toNat % 8 ≠ 0 ∨ (rec_.isNone ∧ j.c.pos.all WordPos.unsent) then none
      else some (Plan.of (fun p s =>
        let s := s.checkLease named
        let g := p.rep * pd.n + p.elem
        cpyckLoop ps pd (ewUse w true) (if p.broken then none else rec_) (ewReps w * pd.n - g) 8 g ⟨s, p⟩))
    | none => none) s

/-! ### CPYCODE (R318; 08 R218) -/

/-- CPYCODE. -/
def execCpycode (w : EW) (s : State) : Host.Outcome State Fault Refusal :=
  engineExec (some .C) .none w.pop w.push w.chain w.desc (fun j s =>
    let d := s.desc1 w
    let d0 := dw d 0
    if bits d0 63 61 ≠ 0 ∨ d0.getLsbD 56 ∨ bits d0 7 0 ≠ 0 ∨ bits (dw d 1) 63 1 ≠ 0 ∨ dw d 2 ≠ 0 ∨ dw d 3 ≠ 0
        ∨ w.rep ≠ 0 ∨ w.step ≠ 0 then none
    else some (Plan.of (fun p s =>
      match s.loadImage s.fpkg s.ftile s.focus.slot.toNat j.tenant.toNat (bits d0 55 0) (!(dw d 1).getLsbD 0) with
      | (s, .ok _) => .done s none
      | (s, .fault c e) => .fault s p c (if c = .engineWord then s.eidx else e)
      | (x, .wait) => .wait (s.heldBack x) { p with active := true }))) s

/-! ### CPYOUT (R319; 04 R118) -/

/-- A copy of a tree: root location, depth, lines, and the destination as a pattern of one line. -/
structure Tree where
  root : Nat
  h : Nat
  n : Nat
  hint : Bool
  base : Nat
  gran : Nat

/-- The tree in a descriptor (R319). -/
def parseTree (d : List Word) : Option Tree :=
  let d0 := dw d 0
  let d1 := dw d 1
  let d2 := dw d 2
  let t : Tree :=
    { root := bits d0 55 0, h := bits d1 3 0, n := bits d1 63 32, hint := d2.getLsbD 60, base := bits d2 55 0
      gran := granBytes (bits d1 15 13) }
  if bits d0 63 61 ≠ 1 ∨ d0.getLsbD 56 ∨ 2 ^ 23 ≤ t.root ∨ t.root % 16 ≠ 0 ∨ bits d1 12 4 ≠ 0 ∨ bits d1 31 16 ≠ 0
      ∨ bits d2 63 61 ≠ 0 ∨ d2.getLsbD 56 ∨ dw d 3 ≠ 0 ∨ t.h = 0 ∨ 8 < t.h ∨ t.n = 0 ∨ 12 ^ t.h < t.n then none
  else some t

/-- Destination of leaf `j` in repetition `rep`. -/
def Tree.dest (t : Tree) (step : BitVec 12) (rep j : Nat) : Word :=
  BitVec.ofInt 64 (t.base + rep * step.toInt * t.gran + 192 * j)

/-- Field `i` of a node line. -/
def fieldAt (content : List Byte) (i : Nat) : BitVec 128 := BitVec.ofNat 128 (leNat ((content.drop (16 * i)).take 16))

/-- The copy stream's request for the content-addressed line named `n` travels to its home: it counts as it first leaves, and is numbered
as it comes there (01 R36; 02 R65). One for a node line, which the word reads once, counts by itself; `leaf` marks the others. -/
def Run.caTravel (r : Run) (pp : Nat) (n : BitVec 128) (eva : Word) (leaf : Bool) : Got Unit :=
  let pl := Place.die pp (nameDie n)
  let made := if leaf then r.w.made + 1 else r.w.made
  match r.s.travelTo r.s.party eva (n.toNat % 2 ^ 56) pl.target [pl] (if leaf && r.w.made < r.w.left then [] else [pl]) false with
  | (s, x) =>
    let r : Run := { s := s, w := { r.w with made := made, left := max r.w.left made } }
    match x with
    | .ok _ => .ok { r with s := (r.s.takeSeq (requester r.s.key r.s.focus.kind false) pl.target).2 } ()
    | .fault c e => .fault r c e
    | .wait => .hold r

/-- The 192 bytes of a line come to the tile (02 R69). -/
def State.caBrings (s : State) (pl : Place) (l : CaLine) : State := s.carry (wayBack s.fpkg (dieOf s.ftile) pl) l.at_ (s.caContent l)

/-- The line named `n` as its home reads it for the walk: it must be live, and a node or a data line as its level has it (R118). -/
def Run.caLine (r : Run) (pp dom : Nat) (n : BitVec 128) (node : Bool) (eva : Word) : Got (List Byte) :=
  (r.caTravel pp n eva (!node)).bind (fun r _ =>
    let c := r.s.caAt pp dom
    match if c.serving then c.find n else none with
    | none => .fault r .caName eva
    | some l =>
      if l.node ≠ node then .fault r .caName eva
      else if r.s.flawed l.at_ 192 then .fault r .dataError eva
      else .ok { r with s := r.s.caBrings (.die pp (nameDie n)) l } (r.s.caContent l))

/-- The walk to leaf `j` from the line named `n` at level `lvl`: its 192 bytes. A null name stands for zeros, the root's too
(DESIGN CHOICE, log 83). Each node is read once, and what it held goes on. `dest` gives the destination of a leaf, for the EVA of
CA-Name. -/
def treeWalk (pp dom : Nat) (dest : Nat → Word) (j : Nat) : Nat → BitVec 128 → Run → Got (List Byte)
  | lvl, n, r =>
    if n = 0 then .ok r (List.replicate 192 0)
    else
      let eva := dest (j / 12 ^ lvl * 12 ^ lvl)
      match lvl with
      | 0 => r.caLine pp dom n false eva
      | k + 1 =>
        match r.w.a.nodes.find? (fun x => x.1 == n) with
        | some x => treeWalk pp dom dest j k (fieldAt x.2 (j / 12 ^ k % 12)) r
        | none =>
          (r.caLine pp dom n true eva).bind (fun r b =>
            treeWalk pp dom dest j k (fieldAt b (j / 12 ^ k % 12)) (r.setSide true { r.w.a with nodes := (n, b) :: r.w.a.nodes }))

/-- The first later leaf of the word whose destination lies outside a page (03 R76). -/
def Tree.later (t : Tree) (step : BitVec 12) (reps rep j lo hi : Nat) : Option Nat :=
  let out := fun (rep j : Nat) =>
    let a := (t.dest step rep j).toNat
    if lo ≤ a ∧ a < hi then none else some a
  match (List.range (t.n - (j + 1))).findSome? (fun i => out rep (j + 1 + i)) with
  | some a => some a
  | none => (List.range (reps - (rep + 1))).findSome? (fun i => (List.range t.n).findSome? (out (rep + 1 + i)))

/-- Leaf `j` of repetition `rep` copied. -/
def cpyoutLeaf (w : EW) (t : Tree) (tenant rep j : Nat) (r : Run) : Got Unit :=
  let dest := t.dest w.step rep
  if padSize < t.root + 16 then .fault r .localRange (BitVec.ofNat 64 t.root)
  else if r.s.flawed (apAddr r.s.fpkg r.s.ftile t.root) 16 then .fault r .dataError (BitVec.ofNat 64 t.root)
  else match r.s.caRegion r.s.fpkg tenant with
    | none => .fault r .caName (dest j)
    | some (pp, dom) =>
      (treeWalk pp dom dest j t.h (r.s.localName t.root) r).bind (fun r b =>
        let later := t.later w.step (ewReps w) rep j
        (globalSpan r false permW (if t.hint then .noalloc else .store) false (dest j) 192 (2 * (dest j).toNat)
            (2 * ((dest j).toNat + 192)) later).bind (fun r l =>
          .ok { r with s := ({ r.s with mem := putBytes r.s.mem l b }).carryPieces r.s.party true r.w.b.was l } ()))

/-- CPYOUT. -/
def execCpyout (w : EW) (s : State) : Host.Outcome State Fault Refusal :=
  engineExec (some .C) .none w.pop w.push w.chain w.desc (fun j s =>
    (parseTree (s.desc1 w)).map (fun t =>
      Plan.of (loopWord (ewReps w) t.n (cpyoutLeaf w t j.tenant.toNat) noEnd))) s

end Sys2Proof.Machine
end

