-- ==== Sys2Proof/Decode.lean ====
section
/-!
DEFINITION. Decoding of core words and engine words (spec/08), and the encoder written from the
same tables. Decoding is total and rejects by name.
-/

namespace Sys2Proof

/-- Why a word is no instruction (08 R202, R209). -/
inductive DecodeError where
  /-- The literal lies past the end of IMEM: Local-Range at step 1 (R196). -/
  | litOutside
  /-- A major opcode or function code that is not assigned (R203, R204, R206). -/
  | unassigned
  /-- A nonzero unused or reserved field (R193). -/
  | unusedField
  /-- bsel 0b11, or bsel that must be 0b00 (R195). -/
  | badBsel
  /-- A literal kind from 3 to 63 (R195). -/
  | badLitKind
  /-- The word after the instruction carries no literal tag (R196). -/
  | untaggedLit
  /-- An illegal size, condition, scope, format or queue code (R198, R200, R204, R205, R206). -/
  | badCode
  /-- A system register that is unassigned, or read-only in MTSR (09 R240). -/
  | badSysReg
  /-- An engine word with an illegal class, opn or chain (R207, R208, R209). -/
  | badEngineWord
  deriving DecidableEq, Repr

/-- What the fetch of the word after an instruction gives (08 R196). -/
inductive LitFetch where
  | outside
  | word (tagged : Bool) (w : W32)
  deriving DecidableEq, Repr

/-- Result of decoding. -/
abbrev Dec := Except DecodeError Instr

/-! ### Fields (08 R192) -/

/-- Major opcode. -/
def fOp (w : W32) : BitVec 6 := w.extractLsb' 26 6
/-- Field d. -/
def fD (w : W32) : Reg := w.extractLsb' 20 6
/-- Field a. -/
def fA (w : W32) : Reg := w.extractLsb' 14 6
/-- Field b. -/
def fB (w : W32) : Reg := w.extractLsb' 8 6
/-- Field bsel. -/
def fBsel (w : W32) : BitVec 2 := w.extractLsb' 6 2
/-- Field fn. -/
def fFn (w : W32) : BitVec 6 := w.extractLsb' 0 6

/-- `x` if the condition on the word's fields holds, else an error. -/
def need (c : Bool) (e : DecodeError) (x : Dec) : Dec := if c then x else .error e

/-- The second operand (08 R195, R196). -/
def decodeOpd (w : W32) (l : LitFetch) : Except DecodeError Opd :=
  match fBsel w with
  | 0#2 => .ok (.reg (fB w))
  | 1#2 => .ok (.kbank (fB w))
  | 2#2 =>
    match l with
    | .outside => .error .litOutside
    | .word tagged v =>
      match fB w with
      | 0#6 => if tagged then .ok (.lit .sext v) else .error .untaggedLit
      | 1#6 => if tagged then .ok (.lit .zext v) else .error .untaggedLit
      | 2#6 => if tagged then .ok (.lit .fp v) else .error .untaggedLit
      | _ => .error .badLitKind
  | _ => .error .badBsel

/-- Instruction with a d, an a and a "value" b. -/
def decDAV (w : W32) (l : LitFetch) (k : Reg → Reg → Opd → Instr) : Dec :=
  (decodeOpd w l).map (k (fD w) (fA w))

/-- Instruction with a "value" b whose fields d (`zd`) or a (`za`) must be zero. -/
def decV (zd za : Bool) (w : W32) (l : LitFetch) (k : Opd → Instr) : Dec :=
  match decodeOpd w l with
  | .error e => .error e
  | .ok o => need ((!zd || fD w == 0) && (!za || fA w == 0)) .unusedField (.ok (k o))

/-- Instruction without a "value" b: bsel must be 0, and each field named zero must be. -/
def decZ (zd za zb : Bool) (w : W32) (i : Instr) : Dec :=
  need (fBsel w == 0) .badBsel
    (need ((!zd || fD w == 0) && (!za || fA w == 0) && (!zb || fB w == 0)) .unusedField (.ok i))

/-- Scope code of a scoped operation: 1 to 5 (08 R205). -/
def decScope : BitVec 3 → Option Scope
  | 1#3 => some .tile
  | 2#3 => some .clus
  | 3#3 => some .die
  | 4#3 => some .pkg
  | 5#3 => some .dom
  | _ => none

/-- M-format load size (08 R198). -/
def decLoadSize : BitVec 3 → Option LoadSize
  | 0#3 => some .b
  | 1#3 => some .h
  | 2#3 => some .w
  | 3#3 => some .d
  | 4#3 => some .bu
  | 5#3 => some .hu
  | 6#3 => some .wu
  | _ => none

/-- M-format store size (08 R198). -/
def decStoreSize : BitVec 3 → Option StoreSize
  | 0#3 => some .b
  | 1#3 => some .h
  | 2#3 => some .w
  | 3#3 => some .d
  | _ => none

/-- Size bits 7:6 of MEMX (08 R206). -/
def decWD2 : BitVec 2 → Option WD
  | 0#2 => some .w
  | 1#2 => some .d
  | _ => none

/-- Fence kind bits 7:6 (08 R206). -/
def decFence : BitVec 2 → Option FenceKind
  | 0#2 => some .acq
  | 1#2 => some .rel
  | 2#2 => some .sc
  | _ => none

/-- Space and scope code of ATOM (08 R206). -/
def decSpace : BitVec 3 → AtomSpace
  | 0#3 => .globalRelaxed
  | 1#3 => .globalScoped .tile
  | 2#3 => .globalScoped .clus
  | 3#3 => .globalScoped .die
  | 4#3 => .globalScoped .pkg
  | 5#3 => .globalScoped .dom
  | 6#3 => .localRelaxed
  | _ => .localTile

/-- `k` applied to a decoded code, or badCode. -/
def withCode {α : Type} (o : Option α) (k : α → Dec) : Dec :=
  match o with
  | some x => k x
  | none => .error .badCode


/-! ### Families (08 R203, R204) -/

/-- SYS, major 0x00 (09 R240, R242). -/
def decodeSys (w : W32) : Dec :=
  match fFn w with
  | 0x01#6 => need (w == 1#32) .unusedField (.ok .nop)
  | 0x02#6 => need (w.extractLsb' 20 6 == 0#6 && fBsel w == 0) .unusedField (.ok (.trap (w.extractLsb' 8 12)))
  | 0x03#6 => need (fBsel w == 0) .badBsel
      (need (sysRegAssigned (w.extractLsb' 8 12)) .badSysReg (.ok (.mfsr (fD w) (w.extractLsb' 8 12))))
  | 0x04#6 => need (fBsel w == 0) .badBsel
      (need (sysRegWritable (w.extractLsb' 8 12)) .badSysReg (.ok (.mtsr (fD w) (w.extractLsb' 8 12))))
  | 0x05#6 => need (w == 5#32) .unusedField (.ok .eret)
  | _ => .error .unassigned

/-- INT, major 0x01. -/
def decodeInt (w : W32) (l : LitFetch) : Dec :=
  match fFn w with
  | 0x00#6 => decDAV w l .add
  | 0x01#6 => decDAV w l .sub
  | 0x02#6 => decDAV w l .and
  | 0x03#6 => decDAV w l .or
  | 0x04#6 => decDAV w l .xor
  | 0x05#6 => decDAV w l .shl
  | 0x06#6 => decDAV w l .shr
  | 0x07#6 => decDAV w l .sar
  | 0x08#6 => decDAV w l .slt
  | 0x09#6 => decDAV w l .sltu
  | 0x0A#6 => decDAV w l .min
  | 0x0B#6 => decDAV w l .max
  | 0x0C#6 => decDAV w l .minu
  | 0x0D#6 => decDAV w l .maxu
  | 0x0E#6 => decDAV w l .andn
  | 0x0F#6 => decDAV w l .rotl
  | 0x20#6 => decDAV w l .addw
  | 0x21#6 => decDAV w l .subw
  | 0x25#6 => decDAV w l .shlw
  | 0x26#6 => decDAV w l .shrw
  | 0x27#6 => decDAV w l .sarw
  | _ => .error .unassigned

/-- MULDIV, major 0x02. -/
def decodeMuldiv (w : W32) (l : LitFetch) : Dec :=
  match fFn w with
  | 0x00#6 => decDAV w l .mul
  | 0x01#6 => decDAV w l .mulh
  | 0x02#6 => decDAV w l .mulhu
  | 0x03#6 => decDAV w l .div
  | 0x04#6 => decDAV w l .divu
  | 0x05#6 => decDAV w l .rem
  | 0x06#6 => decDAV w l .remu
  | 0x20#6 => decDAV w l .mulw
  | 0x23#6 => decDAV w l .divw
  | 0x24#6 => decDAV w l .divuw
  | 0x25#6 => decDAV w l .remw
  | 0x26#6 => decDAV w l .remuw
  | _ => .error .unassigned

/-- BITS, major 0x03. -/
def decodeBits (w : W32) (l : LitFetch) : Dec :=
  match fFn w with
  | 0x00#6 => decZ false false true w (.clz (fD w) (fA w))
  | 0x01#6 => decZ false false true w (.ctz (fD w) (fA w))
  | 0x02#6 => decZ false false true w (.popc (fD w) (fA w))
  | 0x03#6 => decZ false false true w (.brev (fD w) (fA w))
  | 0x04#6 => decZ false false true w (.bswap (fD w) (fA w))
  | 0x05#6 => decDAV w l .extu
  | 0x06#6 => decDAV w l .exts
  | 0x07#6 => decDAV w l .ins
  | _ => .error .unassigned

/-- AGEN, major 0x0E. -/
def decodeAgen (w : W32) (l : LitFetch) : Dec :=
  match fFn w with
  | 0x01#6 => decDAV w l .shadd1
  | 0x02#6 => decDAV w l .shadd2
  | 0x03#6 => decDAV w l .shadd3
  | 0x04#6 => decDAV w l .shadd4
  | 0x10#6 => decZ false false true w (.lndiv (fD w) (fA w))
  | 0x11#6 => decZ false false true w (.lnmod (fD w) (fA w))
  | _ => .error .unassigned

/-- FP, major 0x10. -/
def decodeFp (w : W32) (l : LitFetch) : Dec :=
  match fFn w with
  | 0x00#6 => decDAV w l .fadd
  | 0x01#6 => decDAV w l .fsub
  | 0x02#6 => decDAV w l .fmul
  | 0x03#6 => decDAV w l .fdiv
  | 0x04#6 => decZ false false true w (.fsqrt (fD w) (fA w))
  | 0x05#6 => decDAV w l .fmin
  | 0x06#6 => decDAV w l .fmax
  | 0x07#6 => decDAV w l .fmad
  | 0x08#6 => decDAV w l .fsgn
  | 0x09#6 => decDAV w l .feq
  | 0x0A#6 => decDAV w l .flt
  | 0x0B#6 => decDAV w l .fle
  | 0x0C#6 => decZ false false true w (.fclass (fD w) (fA w))
  | 0x0D#6 => decZ false false true w (.fexp2 (fD w) (fA w))
  | 0x0E#6 => decZ false false true w (.flog2 (fD w) (fA w))
  | 0x0F#6 => decZ false false true w (.frcp (fD w) (fA w))
  | 0x10#6 => decZ false false true w (.frsq (fD w) (fA w))
  | _ => .error .unassigned

/-- DQPUT: a literal past the end of IMEM is a fetch fault and comes before the queue check (R196). -/
def decQ (w : W32) (l : LitFetch) : Dec :=
  match decodeOpd w l with
  | .error e => .error e
  | .ok o => need (fD w == 0) .unusedField (need (decide ((fA w).toNat < 8)) .badCode (.ok (.dqput (fA w) o)))

/-- QOP, major 0x30 (10 R260, R262). -/
def decodeQop (w : W32) (l : LitFetch) : Dec :=
  match fFn w with
  | 0x00#6 => decQ w l
  | 0x01#6 => need (decide ((fA w).toNat < 8)) .badCode (decZ false false true w (.dqget (fD w) (fA w)))
  | 0x02#6 => need (decide ((fA w).toNat < 8)) .badCode (decZ false false true w (.dqpeek (fD w) (fA w)))
  | 0x03#6 => need (decide ((fA w).toNat < 8)) .badCode (decZ false false true w (.dqstat (fD w) (fA w)))
  | 0x08#6 => need (decide ((fA w).toNat < 16)) .badCode (decZ true false true w (.tksend (fA w)))
  | 0x09#6 => need (decide ((fA w).toNat < 16)) .badCode (decZ true false true w (.tkwait (fA w)))
  | 0x0A#6 => need (decide ((fA w).toNat < 16)) .badCode (decZ false false true w (.tktry (fD w) (fA w)))
  | 0x0B#6 => need (decide ((fA w).toNat < 16)) .badCode (decZ false false true w (.tkstat (fD w) (fA w)))
  | _ => .error .unassigned

/-- TAG, major 0x32. -/
def decodeTag (w : W32) (l : LitFetch) : Dec :=
  match fFn w with
  | 0x00#6 => decDAV w l .tglook
  | 0x01#6 => decDAV w l .tgset
  | 0x02#6 => decZ false false true w (.tginv (fD w) (fA w))
  | 0x03#6 => decZ true false true w (.tgclr (fA w))
  | 0x04#6 => decZ false false true w (.tgrd (fD w) (fA w))
  | _ => .error .unassigned

/-- CA, major 0x33. -/
def decodeCa (w : W32) (_ : LitFetch) : Dec :=
  match fFn w with
  | 0x00#6 => decZ false false false w (.caput (fD w) (fA w) (fB w))
  | 0x01#6 => decZ false false false w (.canode (fD w) (fA w) (fB w))
  | 0x02#6 => decZ false false false w (.caget (fD w) (fA w) (fB w))
  | 0x03#6 => decZ false false true w (.caref (fD w) (fA w))
  | 0x04#6 => decZ false false true w (.cadrop (fD w) (fA w))
  | 0x05#6 => decZ false false false w (.caroot (fD w) (fA w) (fB w))
  | 0x06#6 => decZ false false false w (.carootRef (fD w) (fA w) (fB w))
  | 0x07#6 => decZ false false false w (.caswap (fD w) (fA w) (fB w))
  | 0x08#6 => decZ false false false w (.cacas (fD w) (fA w) (fB w))
  | _ => .error .unassigned

/-- JOB, major 0x34. -/
def decodeJob (w : W32) (l : LitFetch) : Dec :=
  match fFn w with
  | 0x00#6 => decZ true false true w (.spawn (fA w))
  | 0x01#6 => decV true false w l (.join (fA w))
  | 0x02#6 => decZ true true true w .rend
  | 0x03#6 => decZ true true true w .trigger
  | 0x04#6 => decZ true true true w .waitdep
  | 0x05#6 => decZ true true true w .yield
  | 0x06#6 => decZ true true true w .exit
  | 0x07#6 => decV false true w l (.allot (fD w))
  | 0x08#6 => decV true true w l .shrink
  | 0x09#6 => decV true true w l .phase
  | 0x0A#6 => decZ true true true w .swpt
  | _ => .error .unassigned

/-- FAB, major 0x35. -/
def decodeFab (w : W32) (l : LitFetch) : Dec :=
  match fFn w with
  | 0x00#6 => decDAV w l .copen
  | 0x01#6 => decDAV w l .cland
  | 0x02#6 => decV true false w l (.chold (fA w))
  | 0x03#6 => decZ true false true w (.cclose (fA w))
  | 0x04#6 => decZ false false true w (.cstat (fD w) (fA w))
  | 0x08#6 => decV true false w l (.dmset (fA w))
  | 0x09#6 => decZ true false true w (.dmready (fA w))
  | 0x0A#6 => decZ false false true w (.dmwait (fD w) (fA w))
  | 0x0B#6 => decZ false false true w (.dmstat (fD w) (fA w))
  | _ => .error .unassigned

/-- PWC, major 0x36. -/
def decodePwc (w : W32) (_ : LitFetch) : Dec :=
  match fFn w with
  | 0x00#6 => decZ true false true w (.pwsave (fA w))
  | 0x01#6 => decZ true false true w (.pwrest (fA w))
  | 0x02#6 => decZ false true true w (.pwrdy (fD w))
  | 0x03#6 => decZ false true true w (.pwstat (fD w))
  | _ => .error .unassigned

/-- TLB, major 0x3C. -/
def decodeTlb (w : W32) (_ : LitFetch) : Dec :=
  match fFn w with
  | 0x00#6 => decZ true false true w (.tlbinv (fA w))
  | 0x01#6 => decZ true true true w .tlbinvt
  | 0x02#6 => decZ false false true w (.tlbprb (fD w) (fA w))
  | _ => .error .unassigned

/-- PERF, major 0x3D. -/
def decodePerf (w : W32) (l : LitFetch) : Dec :=
  match fFn w with
  | 0x00#6 => decV false true w l (.perfrd (fD w))
  | 0x01#6 => decV true true w l .perfclr
  | _ => .error .unassigned

/-- HOST, major 0x3E. -/
def decodeHost (w : W32) (l : LitFetch) : Dec :=
  match fFn w with
  | 0x00#6 => decV true true w l .hostint
  | 0x01#6 => decV true false w l (.hostsig (fA w))
  | _ => .error .unassigned

/-- JREG, major 0x1B (08 R201). -/
def decodeJreg (w : W32) (_ : LitFetch) : Dec :=
  match fFn w with
  | 0x00#6 => decZ true false true w (.jr (fA w))
  | 0x01#6 => decZ false false true w (.jalr (fD w) (fA w))
  | _ => .error .unassigned

/-- FCVT, major 0x11 (08 R206): b bits 1:0 hold the mode. -/
def decodeFcvt (w : W32) : Dec :=
  need (w.extractLsb' 6 2 == 0#2 && w.extractLsb' 10 4 == 0#4) .unusedField
    (need (fcvtLegal (w.extractLsb' 3 3) (w.extractLsb' 0 3)) .badCode
      (.ok (.fcvt (fD w) (fA w) (w.extractLsb' 8 2) (w.extractLsb' 3 3) (w.extractLsb' 0 3))))

/-- BCC, major 0x18 (08 R200). -/
def decodeBcc (w : W32) : Dec :=
  let a := w.extractLsb' 16 6
  let b := w.extractLsb' 10 6
  let i := w.extractLsb' 0 10
  match w.extractLsb' 22 4 with
  | 0#4 => .ok (.beq a b i)
  | 1#4 => .ok (.bne a b i)
  | 2#4 => .ok (.blt a b i)
  | 3#4 => .ok (.bge a b i)
  | 4#4 => .ok (.bltu a b i)
  | 5#4 => .ok (.bgeu a b i)
  | _ => .error .badCode

/-- LOOP, major 0x1C (08 R200). -/
def decodeLoop (w : W32) : Dec :=
  let lc := w.extractLsb' 24 2
  match w.extractLsb' 22 2 with
  | 0#2 => need (w.extractLsb' 10 12 == 0#12) .unusedField (.ok (.loopb lc (w.extractLsb' 0 10)))
  | 1#2 => need (w.extractLsb' 0 16 == 0#16) .unusedField (.ok (.lcset lc (w.extractLsb' 16 6)))
  | 2#2 => need (w.extractLsb' 0 16 == 0#16) .unusedField (.ok (.lcget lc (w.extractLsb' 16 6)))
  | _ => .error .badCode

/-- An M-format load (08 R198). -/
def decLoad (w : W32) (k : LoadSize → BitVec 11 → Instr) : Dec :=
  withCode (decLoadSize (w.extractLsb' 11 3)) fun z => .ok (k z (w.extractLsb' 0 11))

/-- An M-format store (08 R198). -/
def decStore (w : W32) (k : StoreSize → BitVec 11 → Instr) : Dec :=
  withCode (decStoreSize (w.extractLsb' 11 3)) fun z => .ok (k z (w.extractLsb' 0 11))

/-- SPILL and KOP, majors 0x24 and 0x25 (08 R199). -/
def decodeSpill (w : W32) (kop : Bool) : Dec :=
  let i : BitVec 9 := w.extractLsb' 0 9
  need (w.extractLsb' 9 10 == 0#10) .unusedField
    (if kop then
      need (decide (i.toNat < 64)) .badCode
        (.ok (if w.extractLsb' 19 1 == 0#1 then .kld (fD w) i else .kst (fD w) i))
    else .ok (if w.extractLsb' 19 1 == 0#1 then .lds (fD w) i else .sts (fD w) i))

/-- MEMX, major 0x28 (08 R206). -/
def decodeMemx (w : W32) : Dec :=
  let z2 : BitVec 2 := w.extractLsb' 6 2
  let sc : BitVec 3 := w.extractLsb' 0 3
  match w.extractLsb' 3 3 with
  | 0#3 => need (fB w == 0) .unusedField (withCode (decWD2 z2) fun z => withCode (decScope sc) fun s =>
      .ok (.ldacq (fD w) (fA w) z s))
  | 1#3 => need (fD w == 0) .unusedField (withCode (decWD2 z2) fun z => withCode (decScope sc) fun s =>
      .ok (.strel (fA w) (fB w) z s))
  | 2#3 => need (fD w == 0 && fA w == 0 && fB w == 0) .unusedField
      (withCode (decFence z2) fun k => withCode (decScope sc) fun s => .ok (.fence k s))
  | 3#3 => need (w == 0xA0000018#32) .unusedField (.ok .qmark)
  | 4#3 => need (fD w == 0 && fB w == 0 && z2 == 0 && sc == 0) .unusedField (.ok (.pref (fA w)))
  | 5#3 => need (fB w == 0 && sc == 0) .unusedField (withCode (decWD2 z2) fun z => .ok (.ldby (fD w) (fA w) z))
  | 6#3 => need (fD w == 0 && sc == 0) .unusedField (withCode (decWD2 z2) fun z => .ok (.stna (fA w) (fB w) z))
  | _ => .error .badCode

/-- ATOM, major 0x2C (08 R206). -/
def decodeAtom (w : W32) : Dec :=
  let z : WD := if w.extractLsb' 3 1 == 0#1 then .w else .d
  let sp := decSpace (w.extractLsb' 0 3)
  let d := fD w
  let a := fA w
  let b := fB w
  match w.extractLsb' 4 4 with
  | 0#4 => .ok (.aadd d a b z sp)
  | 1#4 => .ok (.aand d a b z sp)
  | 2#4 => .ok (.aor d a b z sp)
  | 3#4 => .ok (.axor d a b z sp)
  | 4#4 => .ok (.amin d a b z sp)
  | 5#4 => .ok (.amax d a b z sp)
  | 6#4 => .ok (.aminu d a b z sp)
  | 7#4 => .ok (.amaxu d a b z sp)
  | 8#4 => .ok (.aswap d a b z sp)
  | 9#4 => .ok (.acas d a b z sp)
  | 10#4 => need (w.extractLsb' 3 1 == 0#1) .badCode (.ok (.afadd d a b sp))
  | 11#4 => need (w.extractLsb' 3 1 == 0#1) .badCode (.ok (.afmax d a b sp))
  | _ => .error .badCode

/-- RING, major 0x31 (08 R206). -/
def decodeRing (w : W32) : Dec :=
  let d := fD w
  let a := fA w
  let b := fB w
  let sc : BitVec 3 := w.extractLsb' 0 3
  need (w.extractLsb' 6 2 == 0#2) .unusedField
    (match w.extractLsb' 3 3 with
    | 0#3 => withCode (decScope sc) fun s => .ok (.rgclaim d a b s)
    | 1#3 => need (b == 0) .unusedField (withCode (decScope sc) fun s => .ok (.rgfill d a s))
    | 2#3 => withCode (decScope sc) fun s => .ok (.rgtake d a b s)
    | 3#3 => withCode (decScope sc) fun s => .ok (.rgtakeObs d a b s)
    | 4#3 => need (b == 0) .unusedField (withCode (decScope sc) fun s => .ok (.rgfree d a s))
    | 5#3 =>
      match sc with
      | 0#3 => .ok (.rginit d a b)
      | 1#3 => .ok (.rgstat d a b)
      | 2#3 => .ok (.rgreset d a b)
      | 3#3 => .ok (.rgjoin d a b)
      | 4#3 => .ok (.rgleave d a b)
      | _ => .error .badCode
    | _ => .error .unassigned)

/-- Decoding of a core word and the word after it (08 R203). -/
def decode (w : W32) (l : LitFetch) : Dec :=
  let i14 : BitVec 14 := w.extractLsb' 0 14
  let i20 : BitVec 20 := w.extractLsb' 0 20
  let sh (k : Reg → Reg → BitVec 6 → Instr) : Dec :=
    need (w.extractLsb' 6 8 == 0#8) .unusedField (.ok (k (fD w) (fA w) (w.extractLsb' 0 6)))
  match fOp w with
  | 0x00#6 => decodeSys w
  | 0x01#6 => decodeInt w l
  | 0x02#6 => decodeMuldiv w l
  | 0x03#6 => decodeBits w l
  | 0x04#6 => .ok (.addi (fD w) (fA w) i14)
  | 0x05#6 => .ok (.andi (fD w) (fA w) i14)
  | 0x06#6 => .ok (.ori (fD w) (fA w) i14)
  | 0x07#6 => .ok (.xori (fD w) (fA w) i14)
  | 0x08#6 => sh .shli
  | 0x09#6 => sh .shri
  | 0x0A#6 => sh .sari
  | 0x0B#6 => .ok (.slti (fD w) (fA w) i14)
  | 0x0C#6 => .ok (.sltui (fD w) (fA w) i14)
  | 0x0D#6 => .ok (.lhi (fD w) i20)
  | 0x0E#6 => decodeAgen w l
  | 0x10#6 => decodeFp w l
  | 0x11#6 => decodeFcvt w
  | 0x12#6 => .ok (.fli (fD w) i20)
  | 0x13#6 => .ok (.faddi (fD w) i20)
  | 0x14#6 => .ok (.fmuli (fD w) i20)
  | 0x18#6 => decodeBcc w
  | 0x19#6 => .ok (.j (w.extractLsb' 0 26))
  | 0x1A#6 => .ok (.jal (w.extractLsb' 0 26))
  | 0x1B#6 => decodeJreg w l
  | 0x1C#6 => decodeLoop w
  | 0x20#6 => decLoad w (.ld (fD w) (fA w))
  | 0x21#6 => decStore w (.st (fD w) (fA w))
  | 0x22#6 => decLoad w (.ldl (fD w) (fA w))
  | 0x23#6 => decStore w (.stl (fD w) (fA w))
  | 0x24#6 => decodeSpill w false
  | 0x25#6 => decodeSpill w true
  | 0x26#6 => need (decide ((fD w).toNat < 4) || fD w == 8#6) .badCode (decLoad w (.ldq (fD w) (fA w)))
  | 0x27#6 => need (fD w == 4#6 || fD w == 5#6) .badCode (decStore w (.stq (fD w) (fA w)))
  | 0x28#6 => decodeMemx w
  | 0x2C#6 => decodeAtom w
  | 0x30#6 => decodeQop w l
  | 0x31#6 => decodeRing w
  | 0x32#6 => decodeTag w l
  | 0x33#6 => decodeCa w l
  | 0x34#6 => decodeJob w l
  | 0x35#6 => decodeFab w l
  | 0x36#6 => decodePwc w l
  | 0x3C#6 => decodeTlb w l
  | 0x3D#6 => decodePerf w l
  | 0x3E#6 => decodeHost w l
  | _ => .error .unassigned

/-! ### Engine words (08 R207, R208, R209) -/

/-- Pop or push field: present exactly when its enable bit is set, zero otherwise. -/
def decTq (en : BitVec 1) (q : BitVec 4) : Option (Option (BitVec 4)) :=
  if en == 1#1 then some (some q) else if q == 0#4 then some none else none

/-- Chain field. -/
def decChain : BitVec 2 → Option Chain
  | 0#2 => some .next
  | 1#2 => some .link
  | 2#2 => some .stop
  | _ => none

/-- The engine fields of a word, refusing bad enables and chains (R209). -/
def decEW (w : BitVec 48) : Option EW :=
  match decTq (w.extractLsb' 39 1) (w.extractLsb' 35 4), decTq (w.extractLsb' 34 1) (w.extractLsb' 30 4),
    decChain (w.extractLsb' 10 2) with
  | some p, some h, some c =>
    some ⟨p, h, w.extractLsb' 24 6, w.extractLsb' 12 12, c, w.extractLsb' 0 10⟩
  | _, _, _ => none

/-- `i` if the fields that a common or switch word requires to be zero are (11 R290, R295). -/
def needE (c : Bool) (i : Instr) : Dec := if c then .ok i else .error .badEngineWord

/-- Common class (11 R290). -/
def decodeCommon (w : BitVec 48) (e : EW) : Dec :=
  let c : CW := ⟨e.pop, e.push, e.chain⟩
  let pw : PW := ⟨e.pop, e.push⟩
  match w.extractLsb' 40 5 with
  | 0#5 => needE (e.step == 0 && e.desc == 0) (.enop c e.rep)
  | 1#5 => needE (e.rep == 0 && e.step == 0 && e.desc == 0) (.ewait c)
  | 2#5 => needE (w.extractLsb' 25 5 == 0#5 && e.chain == .next)
      (.eloop pw (w.extractLsb' 24 1) e.step e.desc)
  | 3#5 => needE (e.rep == 0 && w.extractLsb' 1 9 == 0#9 && e.chain == .next)
      (.ejmp pw e.step (w.extractLsb' 0 1 == 1#1))
  | 4#5 => needE (e.rep == 0 && e.step == 0) (.emark c e.desc)
  | 5#5 => needE (e.rep == 0 && e.step == 0 && e.desc == 0) (.eswpt c)
  | _ => .error .badEngineWord

/-- Switch class (11 R295). -/
def decodeSwitch (w : BitVec 48) (e : EW) : Dec :=
  let c : CW := ⟨e.pop, e.push, e.chain⟩
  match w.extractLsb' 40 5 with
  | 0#5 => needE (e.rep == 0 && e.step == 0 && w.extractLsb' 9 1 == 0#1)
      (.swlink c (w.extractLsb' 0 3) (w.extractLsb' 3 3) (w.extractLsb' 6 3))
  | 1#5 => needE (e.rep == 0 && e.step == 0 && w.extractLsb' 3 7 == 0#7) (.swcut c (w.extractLsb' 0 3))
  | _ => .error .badEngineWord

/-- M class (R208). -/
def decodeM (w : BitVec 48) (e : EW) : Dec :=
  match w.extractLsb' 40 5 with
  | 0#5 => .ok (.mldb e)
  | 1#5 => .ok (.mma e)
  | 2#5 => .ok (.mmaz e)
  | 3#5 => .ok (.mclr e)
  | 4#5 => .ok (.mthr e)
  | 5#5 => .ok (.mrdc e)
  | 6#5 => .ok (.mout e)
  | _ => .error .badEngineWord

/-- V class (R208). -/
def decodeV (w : BitVec 48) (e : EW) : Dec :=
  match w.extractLsb' 40 5 with
  | 0#5 => .ok (.vld e)
  | 1#5 => .ok (.vst e)
  | 2#5 => .ok (.vlda e)
  | 3#5 => .ok (.vsta e)
  | 4#5 => .ok (.vadd e)
  | 5#5 => .ok (.vsub e)
  | 6#5 => .ok (.vmul e)
  | 7#5 => .ok (.vfma e)
  | 8#5 => .ok (.vmax e)
  | 9#5 => .ok (.vmin e)
  | 10#5 => .ok (.vexp2 e)
  | 11#5 => .ok (.vlog2 e)
  | 12#5 => .ok (.vrcp e)
  | 13#5 => .ok (.vrsq e)
  | 14#5 => .ok (.vcvt e)
  | 15#5 => .ok (.vqnt e)
  | 16#5 => .ok (.vdq e)
  | 17#5 => .ok (.vrsum e)
  | 18#5 => .ok (.vrmax e)
  | 19#5 => .ok (.vscan e)
  | 20#5 => .ok (.vcmp e)
  | 21#5 => .ok (.vsel e)
  | 22#5 => .ok (.vperm e)
  | 23#5 => .ok (.vbcst e)
  | 24#5 => .ok (.vgath e)
  | 25#5 => .ok (.vscat e)
  | 26#5 => .ok (.vsmx e)
  | _ => .error .badEngineWord

/-- T class (R208). -/
def decodeT (w : BitVec 48) (e : EW) : Dec :=
  match w.extractLsb' 40 5 with
  | 0#5 => .ok (.txblk e)
  | 1#5 => .ok (.txcvt e)
  | 2#5 => .ok (.txgat e)
  | _ => .error .badEngineWord

/-- C class (R208). -/
def decodeC (w : BitVec 48) (e : EW) : Dec :=
  match w.extractLsb' 40 5 with
  | 0#5 => .ok (.cpy e)
  | 1#5 => .ok (.cpyred e)
  | 2#5 => .ok (.cpypk e)
  | 3#5 => .ok (.cpyck e)
  | 4#5 => .ok (.cpycode e)
  | 5#5 => .ok (.cpyout e)
  | _ => .error .badEngineWord

/-- W class (R208). -/
def decodeW (w : BitVec 48) (e : EW) : Dec :=
  match w.extractLsb' 40 5 with
  | 0#5 => .ok (.wpatch e)
  | 1#5 => .ok (.wloady e)
  | 2#5 => .ok (.wrun e)
  | 3#5 => .ok (.wsamp e)
  | 4#5 => .ok (.wsave e)
  | 5#5 => .ok (.wrest e)
  | 6#5 => .ok (.wdom e)
  | _ => .error .badEngineWord

/-- Decoding of an engine word (R209), less the check that its class is the stream's own, which
`Sys2Proof.Machine` makes where the stream is known. -/
def decodeEngine (w : BitVec 48) : Dec :=
  match decEW w with
  | none => .error .badEngineWord
  | some e =>
    match w.extractLsb' 45 3 with
    | 0#3 => decodeCommon w e
    | 1#3 => decodeM w e
    | 2#3 => decodeV w e
    | 3#3 => decodeT w e
    | 4#3 => decodeC w e
    | 5#3 => decodeW w e
    | 6#3 => decodeSwitch w e
    | _ => .error .badEngineWord

/-! ### Encoder -/

/-- An encoded instruction: a core word with its trailing literal, or an engine word. -/
inductive Enc where
  | core (w : W32) (lit : Option W32)
  | engine (w : BitVec 48)
  deriving DecidableEq, Repr

/-- R format (R192). -/
def encR (op : BitVec 6) (d a b : Reg) (bsel : BitVec 2) (fn : BitVec 6) : W32 :=
  op ++ d ++ a ++ b ++ bsel ++ fn

/-- Code of a literal kind (R195). -/
def LitKind.code : LitKind → Reg
  | .sext => 0
  | .zext => 1
  | .fp => 2

/-- R format with a "value" operand (R195). -/
def encV (op : BitVec 6) (d a : Reg) (b : Opd) (fn : BitVec 6) : Enc :=
  match b with
  | .reg r => .core (encR op d a r 0 fn) none
  | .kbank r => .core (encR op d a r 1 fn) none
  | .lit k v => .core (encR op d a k.code 2 fn) (some v)

/-- R format without a literal. -/
def encZ (op : BitVec 6) (d a b : Reg) (fn : BitVec 6) : Enc := .core (encR op d a b 0 fn) none

/-- I format. -/
def encI (op : BitVec 6) (d a : Reg) (i : BitVec 14) : Enc := .core (op ++ d ++ a ++ i) none

/-- F format. -/
def encF (op : BitVec 6) (d : Reg) (i : BitVec 20) : Enc := .core (op ++ d ++ i) none

/-- B format of BCC. -/
def encB (cond : BitVec 4) (a b : Reg) (i : BitVec 10) : Enc :=
  .core (0x18#6 ++ cond ++ a ++ b ++ i) none

/-- M format. -/
def encM (op : BitVec 6) (d a : Reg) (z : BitVec 3) (i : BitVec 11) : Enc := .core (op ++ d ++ a ++ z ++ i) none

/-- S format. -/
def encS (op : BitVec 6) (d : Reg) (dir : BitVec 1) (i : BitVec 9) : Enc :=
  .core (op ++ d ++ dir ++ 0#10 ++ i) none

/-- LOOP words. -/
def encLoop (l op : BitVec 2) (a b : Reg) (i : BitVec 10) : Enc :=
  .core (0x1C#6 ++ l ++ op ++ a ++ b ++ i) none

/-- Code of a load size (R198). -/
def LoadSize.code : LoadSize → BitVec 3
  | .b => 0 | .h => 1 | .w => 2 | .d => 3 | .bu => 4 | .hu => 5 | .wu => 6

/-- Code of a store size (R198). -/
def StoreSize.code : StoreSize → BitVec 3
  | .b => 0 | .h => 1 | .w => 2 | .d => 3

/-- Scope code (R205). -/
def Scope.code : Scope → BitVec 3
  | .tile => 1 | .clus => 2 | .die => 3 | .pkg => 4 | .dom => 5

/-- Size bit of ATOM (R206). -/
def WD.bit : WD → BitVec 1
  | .w => 0 | .d => 1

/-- Size bits of MEMX (R206). -/
def WD.bits2 : WD → BitVec 2
  | .w => 0 | .d => 1

/-- Fence kind bits (R206). -/
def FenceKind.code : FenceKind → BitVec 2
  | .acq => 0 | .rel => 1 | .sc => 2

/-- Space and scope bits of ATOM (R206). -/
def AtomSpace.code : AtomSpace → BitVec 3
  | .globalRelaxed => 0
  | .globalScoped s => s.code
  | .localRelaxed => 6
  | .localTile => 7

/-- MEMX word. -/
def encX (d a b : Reg) (z : BitVec 2) (kind sc : BitVec 3) : Enc :=
  .core (0x28#6 ++ d ++ a ++ b ++ z ++ kind ++ sc) none

/-- ATOM word. -/
def encAt (op : BitVec 4) (d a b : Reg) (z : BitVec 1) (sp : AtomSpace) : Enc :=
  .core (0x2C#6 ++ d ++ a ++ b ++ op ++ z ++ sp.code) none

/-- RING word. -/
def encRing (d a b : Reg) (op sub : BitVec 3) : Enc :=
  .core (0x31#6 ++ d ++ a ++ b ++ 0#2 ++ op ++ sub) none

/-- Enable bit and queue field (R207). -/
def encTq (q : Option (BitVec 4)) : BitVec 5 :=
  match q with
  | some t => 1#1 ++ t
  | none => 0#5

/-- Chain bits (R207). -/
def Chain.code : Chain → BitVec 2
  | .next => 0 | .link => 1 | .stop => 2

/-- Engine word (R207). -/
def encE (cls : BitVec 3) (opn : BitVec 5) (e : EW) : Enc :=
  .engine (cls ++ opn ++ encTq e.pop ++ encTq e.push ++ e.rep ++ e.step ++ e.chain.code ++ e.desc)

/-- Common or switch word. -/
def encC (cls : BitVec 3) (opn : BitVec 5) (c : CW) (rep : BitVec 6) (step : BitVec 12) (desc : BitVec 10) : Enc :=
  encE cls opn ⟨c.pop, c.push, rep, step, c.chain, desc⟩

/-- The words of an instruction, from the same tables of spec/08. Events have none. -/
def encode : Instr → Option Enc
  | .nop => some (.core 1#32 none)
  | .trap c => some (.core (0#6 ++ 0#6 ++ c ++ 0#2 ++ 2#6) none)
  | .mfsr d n => some (.core (0#6 ++ d ++ n ++ 0#2 ++ 3#6) none)
  | .mtsr d n => some (.core (0#6 ++ d ++ n ++ 0#2 ++ 4#6) none)
  | .eret => some (.core 5#32 none)
  | .add d a b => some (encV 0x01 d a b 0x00)
  | .sub d a b => some (encV 0x01 d a b 0x01)
  | .and d a b => some (encV 0x01 d a b 0x02)
  | .or d a b => some (encV 0x01 d a b 0x03)
  | .xor d a b => some (encV 0x01 d a b 0x04)
  | .shl d a b => some (encV 0x01 d a b 0x05)
  | .shr d a b => some (encV 0x01 d a b 0x06)
  | .sar d a b => some (encV 0x01 d a b 0x07)
  | .slt d a b => some (encV 0x01 d a b 0x08)
  | .sltu d a b => some (encV 0x01 d a b 0x09)
  | .min d a b => some (encV 0x01 d a b 0x0A)
  | .max d a b => some (encV 0x01 d a b 0x0B)
  | .minu d a b => some (encV 0x01 d a b 0x0C)
  | .maxu d a b => some (encV 0x01 d a b 0x0D)
  | .andn d a b => some (encV 0x01 d a b 0x0E)
  | .rotl d a b => some (encV 0x01 d a b 0x0F)
  | .addw d a b => some (encV 0x01 d a b 0x20)
  | .subw d a b => some (encV 0x01 d a b 0x21)
  | .shlw d a b => some (encV 0x01 d a b 0x25)
  | .shrw d a b => some (encV 0x01 d a b 0x26)
  | .sarw d a b => some (encV 0x01 d a b 0x27)
  | .mul d a b => some (encV 0x02 d a b 0x00)
  | .mulh d a b => some (encV 0x02 d a b 0x01)
  | .mulhu d a b => some (encV 0x02 d a b 0x02)
  | .div d a b => some (encV 0x02 d a b 0x03)
  | .divu d a b => some (encV 0x02 d a b 0x04)
  | .rem d a b => some (encV 0x02 d a b 0x05)
  | .remu d a b => some (encV 0x02 d a b 0x06)
  | .mulw d a b => some (encV 0x02 d a b 0x20)
  | .divw d a b => some (encV 0x02 d a b 0x23)
  | .divuw d a b => some (encV 0x02 d a b 0x24)
  | .remw d a b => some (encV 0x02 d a b 0x25)
  | .remuw d a b => some (encV 0x02 d a b 0x26)
  | .clz d a => some (encZ 0x03 d a 0 0x00)
  | .ctz d a => some (encZ 0x03 d a 0 0x01)
  | .popc d a => some (encZ 0x03 d a 0 0x02)
  | .brev d a => some (encZ 0x03 d a 0 0x03)
  | .bswap d a => some (encZ 0x03 d a 0 0x04)
  | .extu d a b => some (encV 0x03 d a b 0x05)
  | .exts d a b => some (encV 0x03 d a b 0x06)
  | .ins d a b => some (encV 0x03 d a b 0x07)
  | .addi d a i => some (encI 0x04 d a i)
  | .andi d a i => some (encI 0x05 d a i)
  | .ori d a i => some (encI 0x06 d a i)
  | .xori d a i => some (encI 0x07 d a i)
  | .slti d a i => some (encI 0x0B d a i)
  | .sltui d a i => some (encI 0x0C d a i)
  | .shli d a n => some (encI 0x08 d a (0#8 ++ n))
  | .shri d a n => some (encI 0x09 d a (0#8 ++ n))
  | .sari d a n => some (encI 0x0A d a (0#8 ++ n))
  | .lhi d i => some (encF 0x0D d i)
  | .shadd1 d a b => some (encV 0x0E d a b 0x01)
  | .shadd2 d a b => some (encV 0x0E d a b 0x02)
  | .shadd3 d a b => some (encV 0x0E d a b 0x03)
  | .shadd4 d a b => some (encV 0x0E d a b 0x04)
  | .lndiv d a => some (encZ 0x0E d a 0 0x10)
  | .lnmod d a => some (encZ 0x0E d a 0 0x11)
  | .fadd d a b => some (encV 0x10 d a b 0x00)
  | .fsub d a b => some (encV 0x10 d a b 0x01)
  | .fmul d a b => some (encV 0x10 d a b 0x02)
  | .fdiv d a b => some (encV 0x10 d a b 0x03)
  | .fsqrt d a => some (encZ 0x10 d a 0 0x04)
  | .fmin d a b => some (encV 0x10 d a b 0x05)
  | .fmax d a b => some (encV 0x10 d a b 0x06)
  | .fmad d a b => some (encV 0x10 d a b 0x07)
  | .fsgn d a b => some (encV 0x10 d a b 0x08)
  | .feq d a b => some (encV 0x10 d a b 0x09)
  | .flt d a b => some (encV 0x10 d a b 0x0A)
  | .fle d a b => some (encV 0x10 d a b 0x0B)
  | .fclass d a => some (encZ 0x10 d a 0 0x0C)
  | .fexp2 d a => some (encZ 0x10 d a 0 0x0D)
  | .flog2 d a => some (encZ 0x10 d a 0 0x0E)
  | .frcp d a => some (encZ 0x10 d a 0 0x0F)
  | .frsq d a => some (encZ 0x10 d a 0 0x10)
  | .fcvt d a m src dst => some (.core (0x11#6 ++ d ++ a ++ 0#4 ++ m ++ 0#2 ++ src ++ dst) none)
  | .fli d i => some (encF 0x12 d i)
  | .faddi d i => some (encF 0x13 d i)
  | .fmuli d i => some (encF 0x14 d i)
  | .beq a b i => some (encB 0 a b i)
  | .bne a b i => some (encB 1 a b i)
  | .blt a b i => some (encB 2 a b i)
  | .bge a b i => some (encB 3 a b i)
  | .bltu a b i => some (encB 4 a b i)
  | .bgeu a b i => some (encB 5 a b i)
  | .j i => some (.core (0x19#6 ++ i) none)
  | .jal i => some (.core (0x1A#6 ++ i) none)
  | .jr a => some (encZ 0x1B 0 a 0 0x00)
  | .jalr d a => some (encZ 0x1B d a 0 0x01)
  | .loopb l i => some (encLoop l 0 0 0 i)
  | .lcset l a => some (encLoop l 1 a 0 0)
  | .lcget l a => some (encLoop l 2 a 0 0)
  | .ld d a z i => some (encM 0x20 d a z.code i)
  | .st d a z i => some (encM 0x21 d a z.code i)
  | .ldl d a z i => some (encM 0x22 d a z.code i)
  | .stl d a z i => some (encM 0x23 d a z.code i)
  | .lds d i => some (encS 0x24 d 0 i)
  | .sts d i => some (encS 0x24 d 1 i)
  | .kld d i => some (encS 0x25 d 0 i)
  | .kst d i => some (encS 0x25 d 1 i)
  | .ldq q a z i => some (encM 0x26 q a z.code i)
  | .stq q a z i => some (encM 0x27 q a z.code i)
  | .ldacq d a z sc => some (encX d a 0 z.bits2 0 sc.code)
  | .strel a b z sc => some (encX 0 a b z.bits2 1 sc.code)
  | .fence k sc => some (encX 0 0 0 k.code 2 sc.code)
  | .qmark => some (encX 0 0 0 0 3 0)
  | .pref a => some (encX 0 a 0 0 4 0)
  | .ldby d a z => some (encX d a 0 z.bits2 5 0)
  | .stna a b z => some (encX 0 a b z.bits2 6 0)
  | .aadd d a b z sp => some (encAt 0 d a b z.bit sp)
  | .aand d a b z sp => some (encAt 1 d a b z.bit sp)
  | .aor d a b z sp => some (encAt 2 d a b z.bit sp)
  | .axor d a b z sp => some (encAt 3 d a b z.bit sp)
  | .amin d a b z sp => some (encAt 4 d a b z.bit sp)
  | .amax d a b z sp => some (encAt 5 d a b z.bit sp)
  | .aminu d a b z sp => some (encAt 6 d a b z.bit sp)
  | .amaxu d a b z sp => some (encAt 7 d a b z.bit sp)
  | .aswap d a b z sp => some (encAt 8 d a b z.bit sp)
  | .acas d a b z sp => some (encAt 9 d a b z.bit sp)
  | .afadd d a b sp => some (encAt 10 d a b 0 sp)
  | .afmax d a b sp => some (encAt 11 d a b 0 sp)
  | .dqput q b => some (encV 0x30 0 q b 0x00)
  | .dqget d q => some (encZ 0x30 d q 0 0x01)
  | .dqpeek d q => some (encZ 0x30 d q 0 0x02)
  | .dqstat d q => some (encZ 0x30 d q 0 0x03)
  | .tksend q => some (encZ 0x30 0 q 0 0x08)
  | .tkwait q => some (encZ 0x30 0 q 0 0x09)
  | .tktry d q => some (encZ 0x30 d q 0 0x0A)
  | .tkstat d q => some (encZ 0x30 d q 0 0x0B)
  | .rgclaim d a b sc => some (encRing d a b 0 sc.code)
  | .rgfill d a sc => some (encRing d a 0 1 sc.code)
  | .rgtake d a b sc => some (encRing d a b 2 sc.code)
  | .rgtakeObs d a b sc => some (encRing d a b 3 sc.code)
  | .rgfree d a sc => some (encRing d a 0 4 sc.code)
  | .rginit d a b => some (encRing d a b 5 0)
  | .rgstat d a b => some (encRing d a b 5 1)
  | .rgreset d a b => some (encRing d a b 5 2)
  | .rgjoin d a b => some (encRing d a b 5 3)
  | .rgleave d a b => some (encRing d a b 5 4)
  | .tglook d a b => some (encV 0x32 d a b 0x00)
  | .tgset d a b => some (encV 0x32 d a b 0x01)
  | .tginv d a => some (encZ 0x32 d a 0 0x02)
  | .tgclr a => some (encZ 0x32 0 a 0 0x03)
  | .tgrd d a => some (encZ 0x32 d a 0 0x04)
  | .caput d a b => some (encZ 0x33 d a b 0x00)
  | .canode d a b => some (encZ 0x33 d a b 0x01)
  | .caget d a b => some (encZ 0x33 d a b 0x02)
  | .caref d a => some (encZ 0x33 d a 0 0x03)
  | .cadrop d a => some (encZ 0x33 d a 0 0x04)
  | .caroot d a b => some (encZ 0x33 d a b 0x05)
  | .carootRef d a b => some (encZ 0x33 d a b 0x06)
  | .caswap d a b => some (encZ 0x33 d a b 0x07)
  | .cacas d a b => some (encZ 0x33 d a b 0x08)
  | .spawn a => some (encZ 0x34 0 a 0 0x00)
  | .join a b => some (encV 0x34 0 a b 0x01)
  | .rend => some (encZ 0x34 0 0 0 0x02)
  | .trigger => some (encZ 0x34 0 0 0 0x03)
  | .waitdep => some (encZ 0x34 0 0 0 0x04)
  | .yield => some (encZ 0x34 0 0 0 0x05)
  | .exit => some (encZ 0x34 0 0 0 0x06)
  | .swpt => some (encZ 0x34 0 0 0 0x0A)
  | .allot d b => some (encV 0x34 d 0 b 0x07)
  | .shrink b => some (encV 0x34 0 0 b 0x08)
  | .phase b => some (encV 0x34 0 0 b 0x09)
  | .copen d a b => some (encV 0x35 d a b 0x00)
  | .cland d a b => some (encV 0x35 d a b 0x01)
  | .chold a b => some (encV 0x35 0 a b 0x02)
  | .cclose a => some (encZ 0x35 0 a 0 0x03)
  | .cstat d a => some (encZ 0x35 d a 0 0x04)
  | .dmset a b => some (encV 0x35 0 a b 0x08)
  | .dmready a => some (encZ 0x35 0 a 0 0x09)
  | .dmwait d a => some (encZ 0x35 d a 0 0x0A)
  | .dmstat d a => some (encZ 0x35 d a 0 0x0B)
  | .pwsave a => some (encZ 0x36 0 a 0 0x00)
  | .pwrest a => some (encZ 0x36 0 a 0 0x01)
  | .pwrdy d => some (encZ 0x36 d 0 0 0x02)
  | .pwstat d => some (encZ 0x36 d 0 0 0x03)
  | .tlbinv a => some (encZ 0x3C 0 a 0 0x00)
  | .tlbinvt => some (encZ 0x3C 0 0 0 0x01)
  | .tlbprb d a => some (encZ 0x3C d a 0 0x02)
  | .perfrd d b => some (encV 0x3D d 0 b 0x00)
  | .perfclr b => some (encV 0x3D 0 0 b 0x01)
  | .hostint b => some (encV 0x3E 0 0 b 0x00)
  | .hostsig a b => some (encV 0x3E 0 a b 0x01)
  | .enop c n => some (encC 0 0 c n 0 0)
  | .ewait c => some (encC 0 1 c 0 0 0)
  | .eloop c k disp n => some (encE 0 2 ⟨c.pop, c.push, 0#5 ++ k, disp, .next, n⟩)
  | .ejmp c disp l => some (encE 0 3 ⟨c.pop, c.push, 0, disp, .next, if l then 1 else 0⟩)
  | .emark c v => some (encC 0 4 c 0 0 v)
  | .eswpt c => some (encC 0 5 c 0 0 0)
  | .swlink c n p q => some (encC 6 0 c 0 0 (0#1 ++ q ++ p ++ n))
  | .swcut c n => some (encC 6 1 c 0 0 (0#7 ++ n))
  | .mldb w => some (encE 1 0 w)
  | .mma w => some (encE 1 1 w)
  | .mmaz w => some (encE 1 2 w)
  | .mclr w => some (encE 1 3 w)
  | .mthr w => some (encE 1 4 w)
  | .mrdc w => some (encE 1 5 w)
  | .mout w => some (encE 1 6 w)
  | .vld w => some (encE 2 0 w)
  | .vst w => some (encE 2 1 w)
  | .vlda w => some (encE 2 2 w)
  | .vsta w => some (encE 2 3 w)
  | .vadd w => some (encE 2 4 w)
  | .vsub w => some (encE 2 5 w)
  | .vmul w => some (encE 2 6 w)
  | .vfma w => some (encE 2 7 w)
  | .vmax w => some (encE 2 8 w)
  | .vmin w => some (encE 2 9 w)
  | .vexp2 w => some (encE 2 10 w)
  | .vlog2 w => some (encE 2 11 w)
  | .vrcp w => some (encE 2 12 w)
  | .vrsq w => some (encE 2 13 w)
  | .vcvt w => some (encE 2 14 w)
  | .vqnt w => some (encE 2 15 w)
  | .vdq w => some (encE 2 16 w)
  | .vrsum w => some (encE 2 17 w)
  | .vrmax w => some (encE 2 18 w)
  | .vscan w => some (encE 2 19 w)
  | .vcmp w => some (encE 2 20 w)
  | .vsel w => some (encE 2 21 w)
  | .vperm w => some (encE 2 22 w)
  | .vbcst w => some (encE 2 23 w)
  | .vgath w => some (encE 2 24 w)
  | .vscat w => some (encE 2 25 w)
  | .vsmx w => some (encE 2 26 w)
  | .txblk w => some (encE 3 0 w)
  | .txcvt w => some (encE 3 1 w)
  | .txgat w => some (encE 3 2 w)
  | .cpy w => some (encE 4 0 w)
  | .cpyred w => some (encE 4 1 w)
  | .cpypk w => some (encE 4 2 w)
  | .cpyck w => some (encE 4 3 w)
  | .cpycode w => some (encE 4 4 w)
  | .cpyout w => some (encE 4 5 w)
  | .wpatch w => some (encE 5 0 w)
  | .wloady w => some (encE 5 1 w)
  | .wrun w => some (encE 5 2 w)
  | .wsamp w => some (encE 5 3 w)
  | .wsave w => some (encE 5 4 w)
  | .wrest w => some (encE 5 5 w)
  | .wdom w => some (encE 5 6 w)
  | _ => none

/-- The instruction that the decoder reads from `nbits` bits `w` numbered as spec/opcode_table.json numbers them: 48
bits are an engine word; otherwise bits 31:0 are a core instruction and the bits above them the literal word after it,
which carries its tag (R192, R196, R207). -/
def decodeTableWord (nbits w : Nat) : Option Instr :=
  if nbits = 48 then (decodeEngine (BitVec.ofNat 48 w)).toOption
  else (decode (BitVec.ofNat 32 w) (.word true (BitVec.ofNat 32 (w / 2 ^ 32)))).toOption

end Sys2Proof
end

