-- ==== Sys2Proof/Machine/Migration.lean ====
section
/-!
DEFINITION. Page migration (03 R84 to R88), host windows and held host accesses (03 R91 to R93).
-/

namespace Sys2Proof.Machine

/-! ### Requests (R84) -/

/-- Virtual address of the page of a request. -/
def migVa (dw : Vector Word 4) : Nat := bits (vget dw 0) 55 16 * 0x1_0000
def migPlacement (dw : Vector Word 4) : Nat := bits (vget dw 0) 11 8
/-- Destination frame. -/
def migFrame (dw : Vector Word 4) : Nat := bits (vget dw 1) 55 16 * 0x1_0000

/-- Reserved fields of a request are zero. -/
def migFormOk (dw : Vector Word 4) : Bool :=
  bits (vget dw 0) 63 56 == 0 && bits (vget dw 0) 15 12 == 0 && bits (vget dw 0) 7 0 == 0
    && bits (vget dw 1) 63 56 == 0 && bits (vget dw 1) 15 0 == 0 && vget dw 3 == 0

/-- The leaf that the tables hold for `va`, whatever its V bit: value, address and level. -/
def leafFrom (s : State) (p va : Nat) : Nat → Nat → Option (Word × Nat × Nat)
  | level, table =>
    let at_ := table + 8 * vaIndex va level
    let v := read64 s.mem at_
    match level with
    | 0 => if bits v 1 1 = 1 ∧ leafFormOk v 0 then some (v, at_, 0) else none
    | l + 1 =>
      if bits v 1 1 = 1 then (if leafFormOk v (l + 1) then some (v, at_, l + 1) else none)
      else
        let next := bits v 55 13 * 0x2000
        if bits v 0 0 = 0 ∨ bits v 63 56 ≠ 0 ∨ bits v 12 2 ≠ 0 ∨ !s.tableOk p next then none
        else leafFrom s p va l next

/-- The leaf of a page of tenant `u` in package `p`. -/
def State.leafOf (s : State) (p u va : Nat) : Option (Word × Nat × Nat) :=
  let root := (s.tenAt p u).troot
  let table := bits root 55 13 * 0x2000
  if bits root 0 0 = 0 ∨ !s.tableOk p table then none else leafFrom s p va 3 table

/-- The entries that a walk to the leaf of `va` reads. -/
def leafTrail (s : State) (va : Nat) : Nat → Nat → List Nat
  | 0, table => [table + 8 * vaIndex va 0]
  | l + 1, table =>
    let at_ := table + 8 * vaIndex va (l + 1)
    let v := read64 s.mem at_
    if bits v 1 1 = 1 ∨ bits v 0 0 = 0 then [at_] else at_ :: leafTrail s va l (bits v 55 13 * 0x2000)

/-- The migration engine's walk, as normal loads at the homes of the tables (02 R41). -/
def State.migWalk (s : State) (p u va : Nat) : State :=
  let root := (s.tenAt p u).troot
  if bits root 0 0 = 0 then s
  else (leafTrail s va 3 (bits root 55 13 * 0x2000)).foldl (fun s a => s.touchHome a 8 .load) s

/-- Frame of a leaf. -/
def leafFrame (v : Word) : Nat := bits v 55 16 * 0x1_0000

/-! ### Completion (R85) -/

/-- Status codes (R85). -/
inductive MigStatus where
  | done | lost | pinned | tie | malformed | notMigratable | inPlace | busy | changed
  deriving DecidableEq, Repr

def MigStatus.code : MigStatus → Nat
  | .done => 0 | .lost => 1 | .pinned => 2 | .tie => 3 | .malformed => 4 | .notMigratable => 5 | .inPlace => 6
  | .busy => 7 | .changed => 8

/-- The completion dword of a request; `none` while its page is under migration. A fault goes to the tenant
supervisor; so does a done address that is not a multiple of 8, as Misaligned-Access (DESIGN CHOICE, log 72). -/
def State.migWrite (s : State) (p u done st old : Nat) : Option State :=
  let v : Word := BitVec.ofNat 64 (st * 2 ^ 60 + old % 2 ^ 56 / 2 ^ 16 * 2 ^ 16)
  if done % 8 ≠ 0 then some (s.emptyFault p u 0 .misaligned (BitVec.ofNat 64 done))
  else match s.spanWrite (agent p u) done (dwordBytes [v]) .store with
    | (s, .ok _) => some s
    | (s, .fault c _) => some (s.emptyFault p u 0 c (BitVec.ofNat 64 done))
    | (_, .wait) => none

/-- A request ends; its completion waits in the queue if it cannot be written yet. -/
def State.migEnd (s : State) (p : Nat) (m : Migration) (st : MigStatus) (old : Nat) : State :=
  match s.migWrite p m.tenant.toNat (vget m.dw 2).toNat st.code old with
  | some s => s
  | none => s.modPkg p (fun k => { k with migQueue := k.migQueue ++ [{ m with ended := some (st.code, old) }] })

/-! ### Arrival (R86) -/

/-- Page base of a leaf reached through `va`. -/
def leafBase (v : Word) (va : Nat) : Nat := va / pageBytes (bits v 3 2) * pageBytes (bits v 3 2)

/-- Base of the page that a request names: that of its leaf, where it has one. -/
def State.migBase (s : State) (p : Nat) (m : Migration) : Nat :=
  match s.leafOf p m.tenant.toNat (migVa m.dw) with
  | some (v, _, _) => leafBase v (migVa m.dw)
  | none => migVa m.dw

/-- Two requests are for one page. -/
def State.samePage (s : State) (p : Nat) (a b : Migration) : Bool := a.tenant == b.tenant && s.migBase p a == s.migBase p b

/-- Key of a page in the record of completed migrations. -/
def pinKey (u va : Nat) : Nat := u * 2 ^ 56 + va

/-- The page completed a migration within the last 50 µs. -/
def State.pinnedNow (s : State) (p : Nat) (m : Migration) : Bool :=
  match mget (s.pkgAt p).pinned (pinKey m.tenant.toNat (s.migBase p m)) with
  | some t => decide (s.wall - t < us 50)
  | none => false

/-- Frame the page occupies now, zero where no leaf is found. -/
def State.migOld (s : State) (p : Nat) (m : Migration) : Nat :=
  match s.leafOf p m.tenant.toNat (migVa m.dw) with
  | some (v, _, _) => leafFrame v
  | none => 0

/-- The four staged dwords of a port are submitted. Where several statuses hold, the order of these tests decides; the queue of 64
is that of the requests not yet started (DESIGN CHOICE, log 72). -/
def State.submitMigration (s : State) (p u : Nat) (host : Bool) : State :=
  let a := s.tenAt p u
  let dw := if host then a.migH else a.mig
  let m : Migration :=
    { tenant := BitVec.ofNat 8 u, dw := dw, host := host, arrived := s.cycle p, leaf := none, inplace := false, ended := none }
  let q := (s.pkgAt p).migQueue
  if !migFormOk dw || paPkg (migFrame dw) != p then s.migEnd p m .malformed 0
  else if migPlacement dw / 4 = 3 then s.migEnd p m .notMigratable 0
  else match q.find? (fun x => s.samePage p x m && x.ended.isNone) with
    | some x =>
      if x.arrived = m.arrived ∧ x.host ≠ host then
        if host then s.migEnd p m .tie (s.migOld p m)
        else if x.leaf.isNone then
          (s.modPkg p (fun k => { k with migQueue := k.migQueue.map (fun y => if y == x then m else y) })).migEnd p x .tie
            (s.migOld p x)
        else s.migEnd p m .lost (s.migOld p m)
      else s.migEnd p m .lost (s.migOld p m)
    | none =>
      if s.pinnedNow p m then s.migEnd p m .pinned (s.migOld p m)
      else if 64 ≤ (q.filter (fun x => x.leaf.isNone && x.ended.isNone)).length then s.migEnd p m .busy (s.migOld p m)
      else s.modPkg p (fun k => { k with migQueue := k.migQueue ++ [m] })

/-! ### Running (R87, R88) -/

/-- HBM or the DDR-5 tier: whether two frames lie in the same of the two (R85). -/
def State.sameTier (s : State) (a b : Nat) : Bool :=
  match s.region a, s.region b with
  | .hbm, .hbm => true
  | .ddr, .ddr => true
  | _, _ => false

/-- Cache effects of copying a frame line by line. -/
def State.copyTouches (s : State) (src dst n : Nat) : State := (s.touchSpan src n .load).touchSpan dst n .store

/-- `n` bytes copied from one frame to another. -/
def copyBytes (m : Memory) (src dst n : Nat) : Memory :=
  layAt (clearRange m dst (dst + n)) dst (sliceOf m src (src + n))

/-- The queue without one entry. -/
def State.dropMig (s : State) (p : Nat) (m : Migration) : State :=
  s.modPkg p (fun k => { k with migQueue := k.migQueue.erase m })

/-- Steps 1 to 3 of the oldest request that has not started, while fewer than four run; one starts in a later cycle than that
of its arrival, in which a device-side request for its page may still come (R86). A destination frame may start inside a larger page's
alignment, and may be outside HBM and DDR-5, as far as R71's checks of a frame let it (DESIGN CHOICE, log 85). -/
def State.runMigration (s : State) (p : Nat) : State :=
  let q := (s.pkgAt p).migQueue
  if 4 ≤ (q.filter (fun x => x.leaf.isSome)).length then s
  else match q.find? (fun x => x.leaf.isNone && x.ended.isNone && decide (x.arrived < s.cycle p)) with
    | none => s
    | some m =>
      let u := m.tenant.toNat
      let s := s.migWalk p u (migVa m.dw)
      match s.leafOf p u (migVa m.dw) with
      | none => (s.dropMig p m).migEnd p m .notMigratable 0
      | some (v, at_, _) =>
        let size := bits v 3 2
        if bits v 12 12 = 0 ∨ size = 2 ∨ bits v 11 10 = 3 then (s.dropMig p m).migEnd p m .notMigratable 0
        else if paPkg (leafFrame v) ≠ p ∨ !s.frameOk p (migFrame m.dw) size (migPlacement m.dw) then
          (s.dropMig p m).migEnd p m .malformed 0
        else
          let base := leafBase v (migVa m.dw)
          let inplace := s.sameTier (leafFrame v) (migFrame m.dw)
          (s.invalidateNow p u (fun e => e.meets u base (pageBytes size))).modPkg p (fun k =>
            { k with busyPages := k.busyPages ++ [(u, base)]
                     migQueue := k.migQueue.map (fun x => if x == m then { m with leaf := some (v, at_), inplace := inplace } else x) })

/-- The new leaf: frame, placement and V = 1. In place it keeps its placement too (DESIGN CHOICE, log 72). -/
def newLeaf (v : Word) (m : Migration) : Word :=
  if m.inplace then setBits v 0 0 1
  else setBits (setBits (setBits v 0 0 1) 55 16 (migFrame m.dw / 0x1_0000)) 11 8 (migPlacement m.dw)

/-- Entry addresses of the group of the leaf at `at_` (R72): one, or the 32 of a 2 MiB page. -/
def leafGroup (v : Word) (at_ : Nat) : List Nat :=
  if bits v 3 2 = 1 then (List.range 32).map (fun i => at_ / 256 * 256 + 8 * i) else [at_]

/-- The page's translations are gone and no request made through them has still to perform at the old frame (R78; R88). -/
def State.oldFrameQuiet (s : State) (p u frame n : Nat) : Bool :=
  s.translatedGone p u && s.reqs.all (fun r => r.st != .accepted || decide (r.pa < frame) || decide (frame + n ≤ r.pa))

/-- Step 4: the page copied line by line, unless the migration is in place. -/
def State.copyPage (s : State) (m : Migration) (v : Word) : State :=
  let n := pageBytes (bits v 3 2)
  if m.inplace then s
  else { s.copyTouches (leafFrame v) (migFrame m.dw) n with mem := copyBytes s.mem (leafFrame v) (migFrame m.dw) n }

/-- Steps 4 to 6 of running migration number `i` of the queue, or its waiting completion dword. Every entry of the
page's group that equals E is rewritten (log 31). -/
def State.completeMigration (s : State) (p i : Nat) : State :=
  match (s.pkgAt p).migQueue[i]? with
  | none => s
  | some m =>
    let u := m.tenant.toNat
    match m.ended, m.leaf with
    | some (st, old), _ =>
      match s.migWrite p u (vget m.dw 2).toNat st old with
      | some s => s.dropMig p m
      | none => s
    | none, none => s
    | none, some (v, at_) =>
      if !s.oldFrameQuiet p u (leafFrame v) (pageBytes (bits v 3 2)) then s
      else
      let s := s.copyPage m v
      let ok := read64 s.mem at_ == v
      let s := if ok then
          { s with mem := (leafGroup v at_).foldl (fun mem a =>
              if read64 mem a == v then write64 mem a (newLeaf v m) else mem) s.mem }
        else s
      let base := leafBase v (migVa m.dw)
      let s := s.touchHome at_ 8 .store
      let s := (s.dropMig p m).modPkg p (fun k =>
        { k with busyPages := k.busyPages.erase (u, base)
                 pinned := if ok then mput k.pinned (pinKey u base) s.wall else k.pinned })
      s.migEnd p m (if !ok then .changed else if m.inplace then .inPlace else .done) (leafFrame v)

/-! ### Host windows (R91 to R93) -/

/-- A host window entry covers BAR offset `o`. -/
def hostCovers (d0 d1 : Word) (o : Nat) : Bool :=
  bits d0 0 0 == 1 && bits d0 15 1 == 0 && bits d1 15 2 == 0 && bits d1 63 56 == 0
    && decide (bits d0 39 16 * 0x1_0000 ≤ o) && decide (o < (bits d0 39 16 + bits d0 63 40 + 1) * 0x1_0000)

/-- The window that serves a BAR offset: number and its two dwords. -/
def TenantArea.hostWindow (a : TenantArea) (o : Nat) : Option (Nat × Word × Word) :=
  ((List.range 8).map (fun i => (i, vget a.hwin (2 * i), vget a.hwin (2 * i + 1)))).find?
    (fun w => hostCovers w.2.1 w.2.2 o)

/-- Answers to the host: data, or one of the PCIe completion statuses. -/
def ansOk (b : List Byte) : List Byte := 0 :: b
def ansUnsupported : List Byte := [1]
def ansAbort : List Byte := [2]
/-- Nothing yet: the access is held. -/
def ansHeld : List Byte := [3]

/-- The host as a party. -/
def hostParty (p u : Nat) : Party := ⟨p, 0, some .host, u, false⟩

/-- A host fault record pushed, and HFVEC raised (R93), for one that is dropped too (DESIGN CHOICE, log 73). -/
def State.hostFault (s : State) (p u w va : Nat) (write : Bool) : State :=
  let a := s.tenAt p u
  let s := if 64 ≤ a.hostFaults.length then s.modTen p u (fun a => { a with hostFaultLost := true })
    else
      let r := BitVec.ofNat 64 (2 ^ 63 + (if write then 2 ^ 62 else 0) + (if a.hostFaultLost then 2 ^ 61 else 0)
        + w % 8 * 2 ^ 58 + va % 2 ^ 56)
      s.modTen p u (fun a => { a with hostFaults := a.hostFaults ++ [r], hostFaultLost := false })
  s.raiseVector p u (bits a.txctl 3 0)

/-- The translated part of a host access. -/
inductive HostRes where
  | done (s : State) (ans : List Byte)
  | absent (s : State)
  | wait (s : State)

/-- A host access at a virtual address. -/
def State.hostPerform (s : State) (p u : Nat) (write : Bool) (va n : Nat) (data : List Byte) : HostRes :=
  if write then
    match s.spanWrite (hostParty p u) va data .store with
    | (s, .ok _) => .done s (ansOk [])
    | (s, .fault .pageAbsent _) => .absent s
    | (s, .fault _ _) => .done s ansAbort
    | (s, .wait) => .wait s
  else
    match s.spanRead (hostParty p u) va n permR .load with
    | (s, .ok b) => .done s (ansOk b)
    | (s, .fault .pageAbsent _) => .absent s
    | (s, .fault _ _) => .done s ansAbort
    | (s, .wait) => .wait s

/-- A host access held at the H-die, for an absent page if `absent`. -/
def State.hold (s : State) (p u : Nat) (write absent : Bool) (o va n : Nat) (data : List Byte) : State :=
  { s.modPkg p (fun k => { k with held := k.held ++ [⟨BitVec.ofNat 8 u, false, write, absent, o, BitVec.ofNat 64 va, n, data, s.wall⟩] })
    with answer := ansHeld }

/-- A host access to BAR 2 (R91 to R93): `n` bytes at offset `o`. -/
def State.hostAccess (s : State) (p u : Nat) (write : Bool) (o n : Nat) (data : List Byte) : State :=
  let a := s.tenAt p u
  if !(s.pkgAt p).linkUp then s
  else if a.tstate = 0 ∨ bits a.txctl 8 8 = 0 then { s with answer := ansUnsupported }
  else match a.hostWindow o with
    | none => { s with answer := ansUnsupported }
    | some (w, d0, d1) =>
      if !(d1.getLsbD (if write then 1 else 0)) then { s with answer := ansUnsupported }
      else
        let va := bits d1 55 16 * 0x1_0000 + (o - bits d0 39 16 * 0x1_0000)
        if (s.pkgAt p).held.any (fun h => !h.mmio && h.tenant.toNat == u) then s.hold p u write false o va n data
        else match s.hostPerform p u write va n data with
          | .done s ans => { s with answer := ans }
          | .absent s => (s.hostFault p u w va write).hold p u write true o va n data
          | .wait s => s.hold p u write false o va n data

/-- Held access number `i` has nothing of its function before it that it follows: an access any earlier access, a write of a register
any earlier write (05 R119, R144; log 74). -/
def Package.heldTurn (k : Package) (i : Nat) : Bool :=
  match k.held[i]? with
  | none => false
  | some h => (k.held.take i).all (fun e => e.tenant != h.tenant || (if h.mmio then !e.write else e.mmio))

/-- Held access number `i` replaced by `f` of it. -/
def Package.modHeld (k : Package) (i : Nat) (f : HeldAccess → HeldAccess) : Package :=
  { k with held := k.held.modify i f }

/-- A held access to memory tries again: it completes once a walk finds its leaf present, and meets Page-Absent once (R93). -/
def State.retryAccess (s : State) (p i : Nat) (h : HeldAccess) : State :=
  let u := h.tenant.toNat
  match s.hostPerform p u h.write h.va.toNat h.len h.data with
  | .done s ans => { s.modPkg p (fun k => { k with held := k.held.eraseIdx i }) with answer := ans }
  | .absent s =>
    if h.absent then s
    else
      let w := (((s.tenAt p u).hostWindow h.off).map Prod.fst).getD 0
      (s.hostFault p u w h.va.toNat h.write).modPkg p (fun k => k.modHeld i (fun h => { h with absent := true, since := s.wall }))
  | .wait s => s

/-- TXCTL's count of expired accesses, saturating. -/
def expireCount (v : Word) : Word := setBits v 31 16 (min 0xFFFF (bits v 31 16 + 1))

/-- A held access whose 1 ms has passed (R93); one whose page is under migration waits. -/
def State.expireHeld (s : State) (p i : Nat) : State :=
  match (s.pkgAt p).held[i]? with
  | none => s
  | some h =>
    if !h.absent ∨ s.wall - h.since < us 1000 then s
    else match s.hostPerform p h.tenant.toNat h.write h.va.toNat h.len h.data with
      | .absent s =>
        let s := s.modPkg p (fun k => { k with held := k.held.eraseIdx i })
        let s := s.modTen p h.tenant.toNat (fun a => { a with txctl := expireCount a.txctl })
        { s with answer := ansAbort }
      | _ => s

/-- HFPOP (R74): the oldest host fault record, or zero. -/
def State.popHostFault (s : State) (p u : Nat) : Word × State :=
  match (s.tenAt p u).hostFaults with
  | [] => (0, s)
  | r :: rest => (r, s.modTen p u (fun a => { a with hostFaults := rest }))

end Sys2Proof.Machine
end

