-- ==== Sys2Proof/Machine/Platform.lean ====
section
/-!
DEFINITION. The platform: capability registers (20 R424, R425), bring-up and firmware (R436 to R440), power
capping and sensors (R430 to R433), the host link's queues (R426 to R429), quiesce (R441), teardown of a tenant
(14 R382), and ports (13 R350).
-/

namespace Sys2Proof.Machine

/-! ### Capability registers -/

/-- Present tiles of a package. -/
def Package.tiles (k : Package) : Nat :=
  (k.capt.toList.map (fun w => ((List.range 64).filter (fun i => w.getLsbD i)).length)).foldl (· + ·) 0

/-- CAP0 of package `p`. -/
def Package.cap0 (k : Package) (p : Nat) : Word :=
  BitVec.ofNat 64 (k.ddr * 2 ^ 56 + k.ports.toNat * 2 ^ 50 + k.svc.toNat * 2 ^ 48 + p % 256 * 2 ^ 40 + k.dz * 2 ^ 32
    + k.dy * 2 ^ 24 + k.dx * 2 ^ 16 + k.d)

/-- CAP1. -/
def Package.cap1 (k : Package) : Word := BitVec.ofNat 64 (k.dies.toNat * 2 ^ 16 + k.tiles)

/-- A change of CAPT, CAP1, ports or svc raises the management alert and vector 0 of the physical function (R425). -/
def Package.capChanged (k : Package) : Package := { k with alerts := k.alerts + 1, pfRaises := k.pfRaises + 1 }

/-- The management alert. -/
def Package.alert (k : Package) : Package := { k with alerts := k.alerts + 1 }

/-! ### Power (R430 to R432) -/

/-- The capping ceiling now. -/
def Package.ceilingNow (k : Package) : Nat :=
  if k.sensors.toList.any (fun r => r.hold || r.trip) || k.svc == 0 then 0 else 7

/-- A new granted level; the core clock's phase, and CYCLE with it, goes on from where it stands (R431). -/
def State.grant (s : State) (p g : Nat) : State :=
  let c := s.phase p
  s.modPkg p (fun k => { k with granted := g, cycBase := c, cycWall := s.wall })

/-- The operating point of the rails (R430). -/
def Package.rails (k : Package) : List Nat := Config.railVolts k.granted

/-- A fall of the ceiling applies at once. -/
def State.ceilingFall (s : State) (p : Nat) : State :=
  let k := s.pkgAt p
  if k.ceilingNow < k.ceiling then
    (s.modPkg p (fun k => { k with ceiling := k.ceilingNow })).grant p (min k.level k.ceilingNow)
  else s

/-- One evaluation of the capping controller with the average package power `avg` in W (R432). -/
def State.capEvaluate (s : State) (p avg : Nat) : State :=
  let k := s.pkgAt p
  let l := if k.pclimit ≠ 0 ∧ k.pclimit < avg ∧ 0 < k.level then k.level - 1
    else if (k.pclimit = 0 ∨ 100 * avg ≤ 85 * k.pclimit) ∧ us k.pcramp ≤ s.wall - k.lastChange ∧ k.level < 7 then k.level + 1
    else k.level
  let s := s.modPkg p (fun k =>
    { k with average := avg % 2 ^ 16, level := l, lastChange := if l = k.level then k.lastChange else s.wall
             ceiling := k.ceilingNow, pcwinNow := k.pcwin })
  s.grant p (min l k.ceilingNow)

/-- PCGRANT. -/
def Package.pcgrant (k : Package) : Word := BitVec.ofNat 64 (k.average * 2 ^ 16 + k.ceiling * 2 ^ 8 + k.granted)

/-! ### Sensors (R433) -/

/-- The median of three. -/
def median (a b c : Int) : Int := max (min a b) (min (max a b) c)

/-- A sensor reading out of its range. -/
def outOfRange (t : Int) : Bool := decide (t < -40) || decide (150 < t)

/-- Whether the reading differs from the median by more than 8 °C. -/
def differs (t m : Int) : Bool := decide (8 < t - m) || decide (8 < m - t)

/-- The three readings of a sample. -/
def reading (t : Int × Int × Int) (i : Nat) : Int := match i with | 0 => t.1 | 1 => t.2.1 | _ => t.2.2

/-- Readings of the sound sensors of a region. -/
def Region.sound (r : Region) (t : Int × Int × Int) : List Int :=
  ((List.range 3).filter (fun i => !r.failed.getLsbD i)).map (reading t)

/-- A region after its sensors are judged: consecutive differences counted, failures set. -/
def Region.judge (r : Region) (t : Int × Int × Int) : Region :=
  let m := median t.1 t.2.1 t.2.2
  let off := (List.range 3).map (fun i => if differs (reading t i) m then vget r.off i + 1 else 0)
  let bad := fun i => outOfRange (reading t i) || decide (64 ≤ nth off i 0)
  { r with off := Vector.ofFn (fun i => nth off i.val 0)
           failed := BitVec.ofNat 3 ((List.range 3).map (fun i =>
             if r.failed.getLsbD i || bad i then 2 ^ i else 0)).sum }

/-- A region after the vote. -/
def Region.vote (r : Region) (t : Int × Int × Int) (ttrip : Int) : Region :=
  let at_ := fun (v : Int) => { r with hold := false, temp := v
                                       trip := if ttrip ≤ v then true else if v ≤ ttrip - 5 then false else r.trip }
  match r.sound t with
  | [a, b, c] => at_ (median a b c)
  | [a, b] => at_ (max a b)
  | _ => { r with hold := true, temp := 0 }

/-- A sample of region `i`: every new failure, hold and trip raises the management alert. -/
def State.sample (s : State) (p i : Nat) (t : Int × Int × Int) : State :=
  let r := vget (s.pkgAt p).sensors i
  let r' := (r.judge t).vote t (s.pkgAt p).ttrip
  let n := ((List.range 3).filter (fun j => r'.failed.getLsbD j && !r.failed.getLsbD j)).length
    + (if r'.hold && !r.hold then 1 else 0) + (if r'.trip && !r.trip then 1 else 0)
  let s := s.modPkg p (fun k => { k with sensors := vset k.sensors i r', alerts := k.alerts + n })
  s.ceilingFall p

/-- A firmware write of SENSTATr: a 1 in bits 2:0 clears that sensor's failure. -/
def State.clearSensor (s : State) (p i : Nat) (v : Word) : State :=
  s.modPkg p (fun k =>
    let r := vget k.sensors i
    let failed := r.failed &&& ~~~(BitVec.ofNat 3 v.toNat)
    let off := Vector.ofFn (fun (j : Fin 3) => if v.getLsbD j.val then 0 else vget r.off j.val)
    let bad := ((List.range 3).filter (fun j => failed.getLsbD j)).length
    { k with sensors := vset k.sensors i { r with failed := failed, off := off, hold := decide (2 ≤ bad) } })

/-- SENSTATr. -/
def Region.value (r : Region) : Word :=
  BitVec.ofNat 64 ((if r.hold then 0 else (BitVec.ofInt 8 r.temp).toNat * 2 ^ 16) + (if r.trip then 16 else 0)
    + (if r.hold then 8 else 0) + r.failed.toNat)

/-! ### In-field test (R435) -/

/-- Whether a test may start on a tile. -/
def State.mayTest (s : State) (p t : Nat) : Bool :=
  s.tilePresent p t && (s.tileJobs p t).isEmpty
    && (s.tenantsOf p).all (fun u => (s.tenAt p u).frames.all (fun f => f.tileKey != tileKey p t))

/-- A tile fails: one of its die's spares takes over, or, with none left, its CAPT bit clears (R434, R435). A tile that a spare
replaces serves no tenant yet (log 33). -/
def State.failTile (s : State) (p t : Nat) : State :=
  let d := dieOf t
  if 0 < vget (s.pkgAt p).spares d then
    (s.modTile (tileKey p t) (fun x => { x with tenant := none, resident := [] })).modPkg p (fun k =>
      { k with spares := vset k.spares d (vget k.spares d - 1), columns := k.columns.filter (fun e => e.1 / 256 != t) })
  else
    let out := fun (w : Word) => setBits w (t % 64) (t % 64) 0
    s.modPkg p (fun k => { k with capt := vset k.capt d (out (vget k.capt d)), sound := vset k.sound d (out (vget k.sound d)) }.capChanged)

/-- A test starts, or ends with its result. -/
def State.fieldTest (s : State) (p t : Nat) (pass : Bool) : State :=
  let k := tileKey p t
  if !(s.tileAt k).testing then
    (if s.mayTest p t then s.modTile k (fun x => { x with testing := true }) else s)
  else
    let s := s.modTile k (fun x => { x with testing := false })
    if pass then s else s.failTile p t

/-- A test finds a failed CIM column in macro `m` of a tile: one of the macro's 8 spares takes over, or the tile fails (R434). -/
def State.columnFails (s : State) (p t m : Nat) : State :=
  let n := (mget (s.pkgAt p).columns (256 * t + m)).getD 0
  if !(s.tileAt (tileKey p t)).testing then s
  else if n < 8 then s.modPkg p (fun k => { k with columns := mput k.columns (256 * t + m) (n + 1) })
  else s.fieldTest p t false

/-- The C-die at the end of die-to-die link `l` that goes out of service with it: the sender, or the receiver of the H-die (log 75). -/
def linkDie (l : Nat) : Nat := if l / 8 % 8 < 4 then l / 8 % 8 else l % 4

/-- A lane of die-to-die link `l` fails: with its 2 spares used up, the die leaves CAP1's die mask and every tile on it is absent
(R434). -/
def State.dieLaneFails (s : State) (p l : Nat) : State :=
  let n := (mget (s.pkgAt p).dieLanes l).getD 0 + 1
  let d := linkDie l
  s.modPkg p (fun k =>
    let k := { k with dieLanes := mput k.dieLanes l n }
    if n ≤ 2 then k else { k with dies := setBits k.dies d d 0, capt := vset k.capt d 0 }.capChanged)

/-! ### Measurements (R440) -/

/-- MEASm extended by a digest. -/
def State.extend (s : State) (p m : Nat) (h : BitVec 256) : State :=
  s.modPkg p (fun k =>
    { k with meas := vset k.meas m (sm3 (beBytes 32 (vget k.meas m).toNat ++ beBytes 32 h.toNat)) })

/-- A quote over the measurements that `mask` selects. -/
def State.quoteFor (s : State) (p : Nat) (nonce : List Byte) (mask : Byte) : Quote :=
  let k := s.pkgAt p
  let sel := (List.range 8).filter (fun m => mask.getLsbD m)
  let q := sm3 (nonce ++ [mask] ++ sel.flatMap (fun m => beBytes 32 (vget k.meas m).toNat)
    ++ dwordBytes [k.cap0 p, k.cap1])
  ⟨q, Config.sm2Sign (Config.identityKey p) (Config.deviceSerial p) q⟩

/-- Coltar's certificate for the identity key of package `p`'s device, as the mailbox gives it. -/
def certificateOf (p : Nat) : List Byte := Config.certificate (Config.identityKey p)

/-! ### Images (R439) -/

/-- An image is what its header says: its digest is that of its body, and its signature is accepted. -/
def imageSound (i : Image) : Bool := i.digest == sm3 i.body && Config.sm2Verify i.digest i.sig

/-- A firmware image verifies: it is sound, and its version is not below the rollback counter. -/
def Package.verifies (k : Package) (i : Image) : Bool := imageSound i && decide (k.rollback ≤ i.version.toNat)

/-- An empty slot. -/
def FwSlot.empty : FwSlot := ⟨⟨0, 0, 0, []⟩, false, false⟩

/-- The slot that the mask ROM boots at a reset, with the slots as it leaves them; none where no slot verifies. -/
def Package.bootSlot (k : Package) : Package × Option Nat :=
  let act := k.fwActive % 2
  let oth := 1 - act
  let k := if (vget k.fw act).pending then { k with fw := vset k.fw act FwSlot.empty, fwActive := oth } else k
  let act := k.fwActive % 2
  let oth := 1 - act
  let k := if (vget k.fw oth).pending then
      (if k.verifies (vget k.fw oth).img then { k with fwActive := oth } else { k with fw := vset k.fw oth FwSlot.empty })
    else k
  let act := k.fwActive % 2
  let oth := 1 - act
  if k.verifies (vget k.fw act).img then (k, some act)
  else if k.verifies (vget k.fw oth).img then ({ k with fwActive := oth }, some oth)
  else (k, none)

/-! ### Reset and bring-up (R425, R436 to R438) -/

/-- The bytes of a package's tiles as never written since reset (01 R13). -/
def clearTiles (m : Memory) (p : Nat) : Memory :=
  let m := clearRange m (apAddr p 0 0) (apAddr p 256 0)
  clearRange m (blockAddr p 0 0) (blockAddr p 256 0)

/-- A package at reset: its flash, its rollback counter and its repairs stay (log 8). -/
def State.clearPackage (s : State) (p : Nat) : State :=
  let here := fun (q : Nat) => q == p
  let s := s.breakAll (fun c => keyPkg c.src == p || c.dstPkg == p || c.links.any (fun l => l.pkg == p)) 5 .link
  let k := s.pkgAt p
  let s := s.setPkg p { Package.reset with fw := k.fw, fwActive := k.fwActive, rollback := k.rollback, cycWall := s.wall,
                                           spares := k.spares, columns := k.columns, dieLanes := k.dieLanes }
  { s with mem := clearTiles s.mem p
           tiles := s.tiles.filter (fun e => !here (e.1 / 256)), jobs := s.jobs.filter (fun e => !here (keyPkg e.1))
           tenants := s.tenants.filter (fun e => !here (e.1 / 256))
           reqs := s.reqs.filter (fun r => !here (keyPkg r.by_.key)), kept := s.kept.filter (fun r => !here (keyPkg (r.by_ / 16)))
           flows := s.flows.filter (fun f => f.pkg != p && f.dstPkg != p) }

/-- The bits of a list of numbers below 64. -/
def bitsOf (l : List Nat) : Word := l.foldl (fun w i => w ||| BitVec.ofNat 64 (2 ^ i)) 0

/-- The `n` lowest set bits of a word. -/
def lowest (n : Nat) (w : Word) : Word := bitsOf (((List.range 64).filter (fun i => w.getLsbD i)).take n)

/-- The control-store image of a die verifies (R436, R439). -/
def storeOk (g : ServiceGrant) (d : Nat) : Bool := (g.stores[d]?).any imageSound

/-- No die-to-die link of the die has used up its spare lanes (R434). -/
def Package.lanesOk (k : Package) (d : Nat) : Bool := k.dieLanes.all (fun e => decide (e.2 ≤ 2) || linkDie e.1 != d)

/-- The failed lanes that the tests find, each repaired with a spare or taking its die out of service (R434). -/
def State.repairLanes (s : State) (p : Nat) (g : ServiceGrant) : State := g.lanes.foldl (fun s l => s.dieLaneFails p l) s

/-- The repair of C-die `d` at power-up (R434): a failed column takes a spare of its macro, a tile that fails or has a macro short of
columns takes one of the die's spare tiles, the lowest-numbered first, and what is left without one is not sound (log 33). -/
def Package.repairDie (g : ServiceGrant) (k : Package) (d : Nat) : Package :=
  let found := g.columns.filter (fun c => c.1 / 64 == d)
  let columns := found.foldl (fun m c => mput m (256 * c.1 + c.2 % 256) ((mget m (256 * c.1 + c.2 % 256)).getD 0 + 1)) k.columns
  let short := fun (i : Nat) => columns.any (fun e => e.1 / 256 == 64 * d + i && decide (8 < e.2))
  let failed := (List.range 64).filter (fun i => !(vget g.capt d).getLsbD i || short i)
  let out := failed.drop (vget k.spares d)
  let replaced := failed.take (vget k.spares d)
  { k with spares := vset k.spares d (vget k.spares d - failed.length)
           columns := columns.filter (fun e => !(e.1 / 256 / 64 == d && replaced.contains (e.1 / 256 % 64)))
           sound := vset k.sound d (bitsOf ((List.range 64).filter (fun i => !out.contains i))) }

/-- The pilot die: the lowest-numbered die that passes its tests, with links that have lanes enough, unless its control-store image
fails (R434, R436). -/
def Package.pilotDie (k : Package) (g : ServiceGrant) : Option Nat :=
  ((List.range 4).find? (fun d => g.dies.getLsbD d && k.lanesOk d)).filter (storeOk g)

/-- The pilot die is repaired and offers its 16 lowest tiles (R434, R437). -/
def Package.startPilot (k : Package) (g : ServiceGrant) : Package :=
  match k.pilotDie g with
  | some d =>
    let k := k.repairDie g d
    { k with capt := vset (Vector.replicate 4 0) d (lowest 16 (vget k.sound d)), dies := BitVec.ofNat 4 (2 ^ d) }
  | none => { k with capt := Vector.replicate 4 0, dies := 0 }

/-- The dies that come into service: those that passed, with a control-store image that verifies and no die-to-die link short of
lanes (R434, R436). -/
def Package.soundDies (k : Package) (g : ServiceGrant) : BitVec 4 :=
  BitVec.ofNat 4 (((List.range 4).filter (fun d => g.dies.getLsbD d && storeOk g d && k.lanesOk d)).map (fun d => 2 ^ d)).sum

/-- The other dies are repaired, and every die in service offers its sound tiles (R434, R438). -/
def Package.startFull (k : Package) (g : ServiceGrant) : Package :=
  let dies := k.dies ||| k.soundDies g
  let k := ((List.range 4).filter (fun d => dies.getLsbD d && !k.dies.getLsbD d)).foldl (Package.repairDie g) k
  { k with dies := dies, capt := Vector.ofFn (fun d => k.capt[d] ||| (if dies.getLsbD d.val then k.sound[d] else 0)) }

/-- The topology fields of a CAP0 image. -/
def topoOk (v : Word) (p : Nat) : Bool :=
  bits v 7 0 == bits v 23 16 * bits v 31 24 * bits v 39 32 && decide (bits v 7 0 ≤ 144) && decide (p < bits v 7 0)
    && decide (bits v 23 16 ≤ 8) && decide (bits v 31 24 ≤ 8) && decide (bits v 39 32 ≤ 8)

/-- Firmware image `img` boots and brings the package up to pilot-light service: steps 1 to 7 of R436 with what the
rack and the tests supply (log 16): CAP0's topology and DDR-5 fields, HBMSPLIT, the control-store images. The measurements come
before the fields are written. -/
def State.bringUp (s : State) (p : Nat) (img : Image) (a : Args) : State :=
  let s := s.extend p 0 img.digest
  let s := a.grant.stores.foldl (fun s i => s.extend p 1 i.digest) s
  let s := s.extend p 2 (Config.measDigest ((s.pkgAt p).cap0 p) (BitVec.ofNat 64 (s.pkgAt p).hbmsplit))
  let s := s.repairLanes p a.grant
  let ok := topoOk a.val p
  let n := a.off.toNat
  s.modPkg p (fun k =>
    { k with boot := .pilot, svc := 0, cfgOk := ok
             dz := if ok then bits a.val 39 32 else k.dz, dy := if ok then bits a.val 31 24 else k.dy
             dx := if ok then bits a.val 23 16 else k.dx, d := if ok then bits a.val 7 0 else k.d
             ddr := min 96 (bits a.val 63 56), hbmsplit := if n ≤ 32 then n else k.hbmsplit
             ports := if ok then a.grant.ports else 0 }.startPilot a.grant |>.capChanged)

/-- PACKAGE_RESET: the mask ROM boots a slot that verifies, else recovery waits for an image. -/
def State.resetPackage (s : State) (p : Nat) (a : Args) : State :=
  let s := s.clearPackage p
  let (k, slot) := (s.pkgAt p).bootSlot
  let s := s.setPkg p k
  match slot with
  | some i => s.bringUp p (vget k.fw i).img a
  | none => s.modPkg p (fun k => { k with boot := .recovery })

/-- Full service (R438): the other dies and the ports come into service beside what is there, the booted slot is confirmed, and
domain copies that wait initialising go on (R437). It changes pilot-light service alone, not a package that is stopping or stopped,
nor one with an HBM stack that cannot be trained (R434). -/
def State.fullService (s : State) (p : Nat) (g : ServiceGrant) : State :=
  let k := s.pkgAt p
  if k.boot ≠ .pilot ∨ !k.cfgOk ∨ k.svc ≠ 0 ∨ !g.trained then s
  else
    let s := (s.repairLanes p g).modPkg p (fun k =>
      let f := vget k.fw k.fwActive
      let k := k.startFull g
      { k with boot := .full, svc := 1, ports := k.ports ||| g.ports
               fw := vset k.fw k.fwActive { f with pending := false, confirmed := true }
               rollback := max k.rollback f.img.version.toNat }.capChanged)
    (s.pkgAt p).ca.foldl (fun s e => s.caInit p e.1) s

/-- An image through the mailbox (R439): into the inactive slot; in recovery the image boots if it verifies. -/
def State.updateFirmware (s : State) (p : Nat) (a : Args) : State :=
  let k := s.pkgAt p
  match k.boot with
  | .recovery =>
    if k.verifies a.img then
      (s.modPkg p (fun k => { k with fw := vset k.fw 0 ⟨a.img, true, false⟩, fwActive := 0 })).bringUp p a.img a
    else s.modPkg p (fun k => { k with boot := .spent })
  | .pilot | .full =>
    if a.img.version.toNat < k.rollback then s
    else s.modPkg p (fun k => { k with fw := vset k.fw (1 - k.fwActive % 2) ⟨a.img, k.verifies a.img, false⟩ })
  | _ => s

/-! ### Host queues (R427 to R429) -/

/-- The oldest signal record of a tenant is written to the host's queue, or dropped (R428). -/
def State.signalRecord (s : State) (p u : Nat) : State :=
  let a := s.tenAt p u
  match a.signals with
  | [] => s
  | (addr, v, _) :: rest =>
    if !(s.pkgAt p).linkUp then s
    else
      let s := s.modTen p u (fun a => { a with signals := rest })
      let base := bits a.sqbase 63 6 * 64
      let full := base = 0 ∨ (a.sqtail - a.sqhead).toNat = 2 ^ a.sqcap
      let s := s.modTen p u (fun a =>
        if full then { a with sqctl := setBits a.sqctl 16 16 1 }
        else { a with hostMem := a.hostMem ++
                        [(BitVec.ofNat 64 (base + 16 * (a.sqtail.toNat % 2 ^ a.sqcap)), setBits addr 63 56 0, v)]
                      sqtail := a.sqtail + 1 })
      if a.sqctl.getLsbD 8 then s.raiseVector p u (bits a.sqctl 3 0) else s

/-- Records and messages that 1 ms has passed without delivering are dropped and set OVF (R429). -/
def State.dropUndelivered (s : State) (p : Nat) : State :=
  let fresh := fun (t : Nat) => decide (s.wall - t < us 1000)
  if (s.pkgAt p).linkUp then s
  else (s.tenantsOf p).foldl (fun s u => s.modTen p u (fun a =>
    let sig := a.signals.filter (fun x => fresh x.2.2)
    let msg := a.heldMsgs.filter (fun x => fresh x.2)
    if sig.length = a.signals.length ∧ msg.length = a.heldMsgs.length then a
    else { a with signals := sig, heldMsgs := msg, sqctl := setBits a.sqctl 16 16 1 })) s

/-- The Soraro link goes down. -/
def State.linkDown (s : State) (p : Nat) : State :=
  s.modPkg p (fun k => { k with linkUp := false, linkDownAt := if k.linkUp then s.wall else k.linkDownAt })

/-- The Soraro link comes up: the messages that it still holds go. -/
def State.linkComesUp (s : State) (p : Nat) : State :=
  let s := (s.dropUndelivered p).modPkg p (fun k => { k with linkUp := true })
  (s.tenantsOf p).foldl (fun s u => s.modTen p u (fun a =>
    { a with messages := a.messages ++ a.heldMsgs.map Prod.fst, heldMsgs := [] })) s

/-- MSI-X entry `v` unmasked: its message goes if VPEND[v] is still set (R427). -/
def State.unmask (s : State) (p u v : Nat) : State :=
  s.modTen p u (fun a =>
    let was := a.msixMask.getLsbD v
    let a := { a with msixMask := setBits a.msixMask v v 0 }
    if was && a.vpend.getLsbD v then a.message (s.pkgAt p).linkUp s.wall v else a)

/-- The mask of a function's MSI-X set or cleared: unmasked, the messages of its unmasked pending entries go (R427). -/
def State.maskFunction (s : State) (p u : Nat) (masked : Bool) : State :=
  s.modTen p u (fun a =>
    let was := a.msixOff
    let a := { a with msixOff := masked }
    if was && !masked then (List.range 16).foldl (fun (a : TenantArea) v =>
      if a.vpend.getLsbD v then a.message (s.pkgAt p).linkUp s.wall v else a) a
    else a)

/-- SQCTL as read, and the state with OVF cleared. -/
def State.readSqctl (s : State) (p u : Nat) : Word × State :=
  ((s.tenAt p u).sqctl, s.modTen p u (fun a => { a with sqctl := setBits a.sqctl 16 16 0 }))

/-- LQSTAT as read, and the state with OVF cleared. -/
def State.readLqstat (s : State) (p u : Nat) : Word × State :=
  ((s.tenAt p u).lqstat, s.modTen p u (fun a => { a with ovf := false }))

/-- FQLOST as read, and the state with it cleared. -/
def State.readFqlost (s : State) (p u : Nat) : Word × State :=
  ((s.tenAt p u).fqlost.setWidth 64, s.modTen p u (fun a => { a with fqlost := 0 }))

/-! ### Teardown and quiesce (14 R382; 20 R441) -/

/-- Every launch in flight of a tenant ends as context dead once its jobs are gone; no more records are made. -/
def State.endLaunches (s : State) (p u : Nat) : State :=
  s.modTen p u (fun a => { a with launches := a.launches.map (fun l => { l with final := some .contextDead, expanded := true }) })

/-- Checkpointed jobs of a tenant leave their rings and go with their frames. -/
def State.dropFrames (s : State) (p u : Nat) : State :=
  let fs := (s.tenAt p u).frames
  let s := fs.foldl (fun s f => s.leaveRings f.job.jid) s
  let s := { s with reqs := s.reqs.filter (fun r => !(fs.any (fun f => f.job.jid == r.by_.jid))) }
  s.modTen p u (fun a => { a with frames := [], saves := [] })

/-- TCTL.state written. -/
def setTstate (v : Word) (st : Nat) : Word := setBits v 9 8 st

/-- A tenant that is tearing down is off once its jobs and launches have gone and every status is written (R382, step 5). -/
def State.offIfDone (s : State) (p u : Nat) : State :=
  let a := s.tenAt p u
  if a.tstate = 2 ∧ a.launches.isEmpty ∧ a.statuses.isEmpty ∧ (s.jobsOf p u).isEmpty then s.modTen p u (fun a => { a with tctl := setTstate a.tctl 0 }) else s

/-- TCTL.EN = 0 (R382): the tenant is off at the end of this core cycle at the earliest, so what is submitted in it still finds a dead
context. -/
def State.teardown (s : State) (p u : Nat) : State :=
  let a := s.tenAt p u
  if a.tstate ≠ 1 then s
  else
    let s := s.modTen p u (fun a =>
      { a with tctl := setTstate (setBits a.tctl 0 0 0) 2, queues := Vector.replicate 4 [], fqspawn := none, queueJ := []
               queueS := [] })
    let s := (a.queueJ ++ a.queueS).foldl (fun s dw => s.writeStatus p u dw .contextDead) s
    let s := s.endLaunches p u
    let s := (s.jobsOf p u).foldl (fun s e => s.killJob e.1 false) s
    let s := s.dropFrames p u
    s.settleTenant p u

/-- TCTL.EN = 1 in state off. -/
def State.enableTenant (s : State) (p u : Nat) : State :=
  if (s.tenAt p u).tstate = 0 then s.modTen p u (fun a => { a with tctl := setTstate (setBits a.tctl 0 0 1) 1 }) else s

/-- STOP, in state running. -/
def State.quiesceStop (s : State) (p : Nat) : State :=
  if (s.pkgAt p).quiesce ≠ 0 then s
  else
    let s := s.modPkg p (fun k => { k with quiesce := 1, svc := 2, stopAt := s.wall }.capChanged)
    (s.tenantsOf p).foldl (fun s u =>
      let s := s.modTen p u (fun a => { a with queues := Vector.replicate 4 [], fqspawn := none })
      (s.endLaunches p u).settleTenant p u) s

/-- The deadline: jobs still running are killed, and once they are gone the state becomes quiet. -/
def State.quiesceDeadline (s : State) (p : Nat) : State :=
  let k := s.pkgAt p
  if k.quiesce ≠ 1 ∨ s.wall - k.stopAt < us (100 * k.deadline) then s
  else
    let s := (s.jobs.filter (fun e => keyPkg e.1 == p)).foldl (fun s e => s.killJob e.1 false) s
    let s := (s.tenantsOf p).foldl (fun s u => (s.dropFrames p u).settleTenant p u) s
    if s.jobs.any (fun e => keyPkg e.1 == p) then s else s.modPkg p (fun k => { k with quiesce := 2 })

/-- ISO = 1 on a port: its circuits break and it is isolated (13 R350). -/
def State.isolatePort (s : State) (p q : Nat) : State :=
  let s := s.breakPort p q 0 5
  s.modPkg p (fun k => { k with port := vset k.port q { vget k.port q with iso := true } })

/-- ISO = 0: the port is retrained, with every lane that trains again back in service (13 R348, R350). -/
def State.retrainPort (s : State) (p q : Nat) : State :=
  s.modPkg p (fun k => { k with port := vset k.port q { vget k.port q with iso := false, pdown := false, nacks := 0 } })

/-- ISOLATE, in state quiet: every circuit with an end in the package breaks, and every port is isolated. -/
def State.quiesceIsolate (s : State) (p : Nat) : State :=
  if (s.pkgAt p).quiesce ≠ 2 then s
  else ((List.range 6).foldl (fun s q => s.isolatePort p q)
    (s.breakAll (fun c => keyPkg c.src == p || c.dstPkg == p) 5 .link)).modPkg p (fun k => { k with quiesce := 3 })

/-- RESUME, in state quiet or isolated: back to the service the package was brought up to. -/
def State.quiesceResume (s : State) (p : Nat) : State :=
  let k := s.pkgAt p
  if k.quiesce ≠ 2 ∧ k.quiesce ≠ 3 then s
  else
    let s := if k.quiesce = 3 then (List.range 6).foldl (fun s q => s.retrainPort p q) s else s
    (s.modPkg p (fun k => { k with quiesce := 0, svc := if k.boot == Boot.full then 1 else 0 }.capChanged)).ceilingFall p

/-- A write of QUIESCE: the deadline field, and the first of its commands that the state takes (log 82); the others are ignored. -/
def State.writeQuiesce (s : State) (p : Nat) (v : Word) : State :=
  let q := (s.pkgAt p).quiesce
  let s := s.modPkg p (fun k => { k with deadline := bits v 31 16 })
  if v.getLsbD 8 && q == 0 then s.quiesceStop p
  else if v.getLsbD 9 && q == 2 then s.quiesceIsolate p
  else if v.getLsbD 10 && (q == 2 || q == 3) then s.quiesceResume p
  else s

/-- QUIESCE as read. -/
def Package.quiesceValue (k : Package) : Word := BitVec.ofNat 64 (k.deadline * 2 ^ 16 + k.quiesce.toNat)

/-- Power-off of an isolated package. -/
def State.powerOff (s : State) (p : Nat) : State :=
  if (s.pkgAt p).quiesce ≠ 3 then s
  else { s.modPkg p (fun k => { k with boot := .poweredOff }) with reqs := s.reqs.filter (fun r => keyPkg r.by_.key != p) }

end Sys2Proof.Machine
end

