-- ==== Sys2Proof/Machine/Mmio.lean ====
section
/-!
DEFINITION. Memory-mapped registers (01 R32 to R34): the H-die block register by register, the tile block, and who
may read and write each (00 R7; 01 R33). A 32-bit write changes its half of a register alone.
-/

namespace Sys2Proof.Machine

/-! ### Names of the H-die registers -/

/-- A register of the H-die block. `u` is a tenant, `d` a sharing domain. -/
inductive HReg where
  | troot (u : Nat) | txctl (u : Nat) | tbudget (u : Nat) | tcommit (u : Nat) | hfpop (u : Nat)
  | mig (u i : Nat) | migH (u i : Nat) | hwin (u i : Nat)
  | capfirst (d : Nat) | caplast (d : Nat) | cakey0 (d : Nat) | cakey1 (d : Nat) | cactl (d : Nat)
  | cacap (d i : Nat) | calive (d i : Nat) | carecl (d : Nat) | caten (u : Nat)
  | ktbase (u : Nat) | ktlen (u : Nat) | tctl (u : Nat) | rqbase (u : Nat) | rqcap (u : Nat) | tquant (u : Nat)
  | ptok (u : Nat) | ckbase (u : Nat) | ckcount (u : Nat) | cktile (u : Nat) | pushJ (u i : Nat) | pushS (u i : Nat)
  | lqstat (u : Nat) | fqbase (u : Nat) | fqctl (u : Nat) | fqhead (u : Nat) | fqtail (u : Nat) | fqlost (u : Nat)
  | fqrec (u i : Nat)
  | fmthr | fmwin | fmhold | fmidle | c0share | portst (q : Nat) | portct (q : Nat)
  | c0mask (i : Nat) | dsteal | dage | prwait | drbudget
  | cap0 | cap1 | capt (i : Nat) | hbmsplit | pclimit | pcwin | pcramp | pcgrant | ttrip | senstat (i : Nat) | quiesce
  | meas (i : Nat)
  | reserved
  deriving DecidableEq, Repr

/-- Registers of a tenant translation area by dword (03 R74). -/
def transReg (u k : Nat) : HReg :=
  match k with
  | 0 => .troot u | 1 => .txctl u | 2 => .tbudget u | 3 => .tcommit u | 4 => .hfpop u
  | _ => if 8 ≤ k ∧ k < 12 then .mig u (k - 8) else if 12 ≤ k ∧ k < 16 then .migH u (k - 12)
    else if 32 ≤ k ∧ k < 48 then .hwin u (k - 32) else .reserved

/-- Registers of a CA domain area by dword (04 R94). -/
def caReg (d k : Nat) : HReg :=
  match k with
  | 0 => .capfirst d | 1 => .caplast d | 2 => .cakey0 d | 3 => .cakey1 d | 4 => .cactl d | 16 => .carecl d
  | _ => if 8 ≤ k ∧ k < 12 then .cacap d (k - 8) else if 12 ≤ k ∧ k < 16 then .calive d (k - 12) else .reserved

/-- Registers of a tenant execution area by dword (06 R160; 14 R370; 15 R390, R395). -/
def execReg (u k : Nat) : HReg :=
  match k with
  | 0 => .ktbase u | 1 => .ktlen u | 2 => .tctl u | 3 => .rqbase u | 4 => .rqcap u | 5 => .tquant u | 6 => .ptok u
  | 7 => .ckbase u | 8 => .ckcount u | 9 => .cktile u | 48 => .lqstat u | 64 => .fqbase u | 65 => .fqctl u
  | 66 => .fqhead u | 67 => .fqtail u | 68 => .fqlost u
  | _ => if 32 ≤ k ∧ k < 40 then .pushJ u (k - 32) else if 40 ≤ k ∧ k < 48 then .pushS u (k - 40)
    else if 72 ≤ k ∧ k < 80 then .fqrec u (k - 72) else .reserved

/-- Registers of the fabric area by dword (13 R350). -/
def fabReg (k : Nat) : HReg :=
  match k with
  | 0 => .fmthr | 1 => .fmwin | 2 => .fmhold | 3 => .fmidle | 4 => .c0share
  | _ => if 32 ≤ k ∧ k < 44 then (if k % 2 = 0 then .portst ((k - 32) / 2) else .portct ((k - 32) / 2)) else .reserved

/-- The dispatch root registers by dword (14 R371; 15 R395). -/
def rootReg (k : Nat) : HReg :=
  match k with
  | 4 => .dsteal | 5 => .dage | 6 => .prwait | 7 => .drbudget
  | _ => if k < 4 then .c0mask k else .reserved

/-- Registers of the platform area by dword (20 R424). -/
def platReg (k : Nat) : HReg :=
  match k with
  | 0 => .cap0 | 1 => .cap1 | 8 => .hbmsplit | 32 => .pclimit | 33 => .pcwin | 34 => .pcramp | 35 => .pcgrant
  | 36 => .ttrip | 96 => .quiesce
  | _ => if 2 ≤ k ∧ k < 6 then .capt (k - 2) else if 64 ≤ k ∧ k < 78 then .senstat (k - 64)
    else if 128 ≤ k ∧ k < 160 then .meas (k - 128) else .reserved

/-- The register that holds the byte at an offset of the H-die block. -/
def hreg (off : Nat) : HReg :=
  let area := fun (base : Nat) (f : Nat → Nat → HReg) => f ((off - base) / 0x1000) (off % 0x1000 / 8)
  if off < 0x100_0000 then .reserved
  else if off < 0x110_0000 then area 0x100_0000 transReg
  else if off < 0x200_0000 then .reserved
  else if off < 0x210_0000 then area 0x200_0000 caReg
  else if off < 0x220_0000 then .reserved
  else if off < 0x220_0800 then .caten ((off - 0x220_0000) / 8)
  else if off < 0x300_0000 then .reserved
  else if off < 0x310_0000 then area 0x300_0000 execReg
  else if off < 0x400_0000 then .reserved
  else if off < 0x400_1000 then fabReg (off % 0x1000 / 8)
  else if off < 0x500_0000 then .reserved
  else if off < 0x500_1000 then rootReg (off % 0x1000 / 8)
  else if off < 0x600_0000 then .reserved
  else if off < 0x600_1000 then platReg (off % 0x1000 / 8)
  else .reserved

/-! ### Access levels -/

/-- Who may do what with a register (R33). -/
inductive Access where
  /-- Read and written from a level up. -/
  | rw (l : Level)
  /-- Written by firmware, read from tenant supervisor up. -/
  | fwWrite
  /-- Read only from tenant supervisor up; a write from there up is ignored. -/
  | ro
  /-- Written by firmware; reads zero there. -/
  | fwOnlyWrite
  /-- The tenant's host function alone. -/
  | host
  /-- A reserved offset: reads zero, ignores writes. -/
  | none_
  deriving DecidableEq, Repr

def HReg.access : HReg → Access
  | .troot _ | .txctl _ | .hfpop _ | .mig _ _ | .hwin _ _ => .rw .sup
  | .tbudget _ => .fwWrite
  | .tcommit _ => .ro
  | .migH _ _ => .host
  | .capfirst _ | .caplast _ | .cactl _ | .caten _ => .fwWrite
  | .cakey0 _ | .cakey1 _ => .fwOnlyWrite
  | .cacap _ _ | .calive _ _ | .carecl _ => .ro
  | .ktbase _ | .ktlen _ | .rqbase _ | .rqcap _ | .ckbase _ | .ckcount _ | .cktile _ | .pushJ _ _ | .pushS _ _ => .rw .sup
  | .tctl _ | .tquant _ | .ptok _ => .fwWrite
  | .lqstat _ | .fqtail _ | .fqlost _ => .ro
  | .fqbase _ | .fqctl _ | .fqhead _ | .fqrec _ _ => .rw .sup
  | .fmthr | .fmwin | .fmhold | .fmidle | .c0share => .fwWrite
  | .portst _ => .ro
  | .portct _ => .rw .fw
  | .c0mask _ | .dsteal | .dage => .fwWrite
  | .prwait | .drbudget => .rw .fw
  | .cap0 | .cap1 | .capt _ | .pcgrant | .meas _ => .ro
  | .hbmsplit | .pclimit | .pcwin | .pcramp | .ttrip | .quiesce => .rw .fw
  | .senstat _ => .fwWrite
  | .reserved => .none_

def Access.mayRead (a : Access) (l : Level) : Bool :=
  match a with
  | .rw m => l.geb m | .fwWrite => l.geb .sup | .ro => l.geb .sup | .fwOnlyWrite => l.geb .fw | .host => false | .none_ => true

/-- Whether a write is allowed; one to a read-only register is then ignored. -/
def Access.mayWrite (a : Access) (l : Level) : Bool :=
  match a with
  | .rw m => l.geb m | .fwWrite => l.geb .fw | .ro => l.geb .sup | .fwOnlyWrite => l.geb .fw | .host => false | .none_ => true

/-! ### H-die registers: values -/

def num (n : Nat) : Word := BitVec.ofNat 64 n

/-- CACTL (04 R94): EN reads 1 in every state but off (DESIGN CHOICE, log 86). -/
def CaDomain.ctl (c : CaDomain) : Word := num (c.st.code * 256 + if c.st = .off then 0 else 1)

/-- A count of a domain: the manual says nothing of packages without the pool, or with a copy that is not ready: it reads zero
there (DESIGN CHOICE, log 76). -/
def State.caCount (s : State) (p d : Nat) (f : CaDomain → Nat) : Word :=
  let c := s.caAt p d
  if c.st = .ready && c.pool = p then num (f c) else 0

/-- 64-bit part `i` of a measurement, its bytes in order. -/
def measPart (m : BitVec 256) (i : Nat) : Word := num (leNat (((beBytes 32 m.toNat).drop (8 * i)).take 8))

/-- The value of a register of package `p`, without the effects of a read. -/
def State.hvalue (s : State) (p : Nat) (r : HReg) : Word :=
  let t := fun u => s.tenAt p u
  let k := s.pkgAt p
  match r with
  | .troot u => (t u).troot | .txctl u => (t u).txctl | .tbudget u => num (t u).tbudget | .tcommit u => num (t u).tcommit
  | .hfpop u => ((t u).hostFaults.head?).getD 0
  | .mig u i => vget (t u).mig i | .migH _ _ => 0 | .hwin u i => vget (t u).hwin i
  | .capfirst d => (s.caAt p d).first | .caplast d => (s.caAt p d).last | .cakey0 _ => 0 | .cakey1 _ => 0
  | .cactl d => (s.caAt p d).ctl
  | .cacap d i => s.caCount p d (fun c => s.caCap c d i)
  | .calive d i => s.caCount p d (fun c => c.live i)
  | .carecl d => s.caCount p d (fun c => (c.lines.filter CaLine.dead).length)
  | .caten u => (t u).caten
  | .ktbase u => (t u).ktbase | .ktlen u => (t u).ktlen | .tctl u => (t u).tctl | .rqbase u => (t u).rqbase
  | .rqcap u => num (t u).rqcap | .tquant u => num (t u).tquant | .ptok u => num (t u).ptok
  | .ckbase u => (t u).ckbase | .ckcount u => num (t u).ckcount | .cktile u => (t u).cktile
  | .pushJ u i => vget (t u).pushJ i | .pushS u i => vget (t u).pushS i | .lqstat u => (t u).lqstat
  | .fqbase u => (t u).fqbase | .fqctl u => (t u).fqctl | .fqhead u => (t u).fqhead.setWidth 64
  | .fqtail u => (t u).fqtail.setWidth 64 | .fqlost u => (t u).fqlost.setWidth 64 | .fqrec u i => vget (t u).fqrec i
  | .fmthr => num k.fmthr | .fmwin => num k.fmwin | .fmhold => num k.fmhold | .fmidle => num k.fmidle
  | .c0share => num k.c0share | .portst q => s.portStatus p q | .portct q => flag (vget k.port q).iso
  | .c0mask i => vget k.c0mask i | .dsteal => num k.dsteal | .dage => num k.dage | .prwait => num k.prwait
  | .drbudget => num k.drbudget
  | .cap0 => k.cap0 p | .cap1 => k.cap1 | .capt i => vget k.capt i | .hbmsplit => num k.hbmsplit
  | .pclimit => num k.pclimit | .pcwin => num k.pcwin | .pcramp => num k.pcramp | .pcgrant => k.pcgrant
  | .ttrip => num k.ttrip | .senstat i => (vget k.sensors i).value | .quiesce => k.quiesceValue
  | .meas i => measPart (vget k.meas (i / 4)) (i % 4)
  | .reserved => 0

/-- A read with its effects: HFPOP, LQSTAT and FQLOST change what they report. -/
def State.hread (s : State) (p : Nat) (r : HReg) : Word × State :=
  match r with
  | .hfpop u => s.popHostFault p u
  | .lqstat u => s.readLqstat p u
  | .fqlost u => s.readFqlost p u
  | r => (s.hvalue p r, s)

/-- The bits that a write of one half of the register finds in the other: its value, but no command. -/
def State.hbase (s : State) (p : Nat) (r : HReg) : Word :=
  match r with
  | .senstat _ => 0
  | .cakey0 d => (s.caAt p d).key0
  | .cakey1 d => (s.caAt p d).key1
  | .quiesce => num ((s.pkgAt p).deadline * 2 ^ 16)
  | r => s.hvalue p r

/-! ### H-die registers: writes -/

/-- `v` masked to bits `hi` down to `lo`. -/
def keepBits (v : Word) (hi lo : Nat) : Word := num (bits v hi lo * 2 ^ lo)

/-- TXCTL: the expired count can only be cleared by a write of zero to its field (03 R74). -/
def writeTxctl (old v : Word) : Word :=
  (if bits v 31 16 = 0 then 0 else keepBits old 31 16) ||| keepBits v 8 8 ||| keepBits v 3 0

/-- FQCTL (15 R390). -/
def writeFqctl (old v : Word) : Word :=
  let cap := bits v 3 0
  (if 4 ≤ cap ∧ cap ≤ 12 then num cap else keepBits old 3 0) ||| keepBits v 8 8 ||| keepBits v 16 12

/-- A write to TROOT: the tenant's translations in the package are invalidated, once the requests made through them have been
accepted (03 R74, R78; 01 R31). -/
def State.writeTroot (s : State) (p u : Nat) (v : Word) : Option State :=
  if !s.translatedGone p u then none
  else some ((s.modTen p u (fun a => { a with troot := keepBits v 55 13 ||| keepBits v 0 0 })).invalidateNow p u (fun _ => true))

/-- A dword of a tenant window entry (01 R30, R31), which invalidates as TROOT does. -/
def State.writeWindow (s : State) (p u i : Nat) (v : Word) : Option State :=
  if !s.translatedGone p u then none
  else
    let put := fun (a : TenantArea) => { a with win := if v = 0 then mdel a.win (i % 32) else mput a.win (i % 32) v }
    some ((s.modTen p u put).invalidateNow p u (fun _ => true))

/-- HBMSPLIT (01 R27). -/
def State.writeHbmsplit (s : State) (p : Nat) (v : Word) : State :=
  let n := bits v 5 0
  s.modPkg p (fun k => if k.hbmLocked || decide (32 < n) then k else { k with hbmsplit := n })

/-- TBUDGET (03 R90); later picks see the new value. -/
def State.writeTbudget (s : State) (p u : Nat) (v : Word) : State := s.modTen p u (fun a => { a with tbudget := bits v 39 0 })

/-- TCTL: EN (14 R382). -/
def State.writeTctl (s : State) (p u : Nat) (v : Word) : State :=
  if v.getLsbD 0 then s.enableTenant p u else s.teardown p u

/-- CACTL: EN (04 R96). -/
def State.writeCactl (s : State) (p d : Nat) (v : Word) : Option State :=
  if v.getLsbD 0 then some (s.caEnable p d) else s.caDisable p d

/-- A CA domain register, writable in state off only (04 R94). -/
def State.writeCaArea (s : State) (p d : Nat) (f : CaDomain → CaDomain) : State :=
  let c := s.caAt p d
  if c.st = .off then s.setCa p d (f c) else s

/-- Whether TCTL.state is off. -/
def TenantArea.isOff (a : TenantArea) : Bool := a.tstate == 0

/-- The write of register `r` with value `v`; none while it waits. -/
def State.hwrite (s : State) (p : Nat) (r : HReg) (v : Word) : Option State :=
  let ten := fun (u : Nat) (f : TenantArea → TenantArea) => some (s.modTen p u f)
  let pkg := fun (f : Package → Package) => some (s.modPkg p f)
  match r with
  | .troot u => s.writeTroot p u v
  | .txctl u => ten u (fun a => { a with txctl := writeTxctl a.txctl v })
  | .tbudget u => some (s.writeTbudget p u v)
  | .mig u i =>
    let s := s.modTen p u (fun a => { a with mig := vset a.mig i v })
    some (if i = 3 then s.submitMigration p u false else s)
  | .hwin u i => ten u (fun a => { a with hwin := vset a.hwin i v })
  | .capfirst d => some (s.writeCaArea p d (fun c => { c with first := keepBits v 55 16 ||| keepBits v 0 0 }))
  | .caplast d => some (s.writeCaArea p d (fun c => { c with last := keepBits v 55 16 }))
  | .cakey0 d => some (s.writeCaArea p d (fun c => { c with key0 := v }))
  | .cakey1 d => some (s.writeCaArea p d (fun c => { c with key1 := v }))
  | .cactl d => s.writeCactl p d v
  | .caten u => s.catenWrite p u v
  | .ktbase u => ten u (fun a => { a with ktbase := keepBits v 55 8 })
  | .ktlen u => ten u (fun a => { a with ktlen := keepBits v 15 0 })
  | .tctl u => some (s.writeTctl p u v)
  | .rqbase u => ten u (fun a =>
      if a.isOff then { a with rqbase := keepBits v 55 12 ||| keepBits v 0 0, backingOff := 0 } else a)
  | .rqcap u => ten u (fun a =>
      if a.isOff && decide (6 ≤ bits v 4 0) && decide (bits v 4 0 ≤ 20) then { a with rqcap := bits v 4 0 } else a)
  | .tquant u => ten u (fun a => { a with tquant := bits v 23 0 })
  | .ptok u => ten u (fun a => { a with ptok := bits v 15 0 })
  | .ckbase u => ten u (fun a => if a.isOff then { a with ckbase := keepBits v 55 23 ||| keepBits v 0 0 } else a)
  | .ckcount u => ten u (fun a => if a.isOff then { a with ckcount := bits v 11 0 } else a)
  | .cktile u => ten u (fun a => if a.isOff then { a with cktile := keepBits v 55 23 ||| keepBits v 0 0 } else a)
  | .pushJ u i =>
    let s := s.modTen p u (fun a => { a with pushJ := vset a.pushJ i v })
    some (if i = 7 then s.submit p u false else s)
  | .pushS u i =>
    let s := s.modTen p u (fun a => { a with pushS := vset a.pushS i v })
    some (if i = 7 then s.submit p u true else s)
  | .fqbase u => ten u (fun a => { a with fqbase := keepBits v 55 8 ||| keepBits v 0 0 })
  | .fqctl u => ten u (fun a => { a with fqctl := writeFqctl a.fqctl v })
  | .fqhead u => ten u (fun a => { a with fqhead := lo32 v })
  | .fqrec u i => ten u (fun a => { a with fqrec := vset a.fqrec i v })
  | .fmthr => pkg (fun k => { k with fmthr := bits v 39 0 })
  | .fmwin => pkg (fun k => if bits v 31 0 < 1024 then k else { k with fmwin := bits v 31 0 })
  | .fmhold => pkg (fun k => { k with fmhold := bits v 31 0 })
  | .fmidle => pkg (fun k => { k with fmidle := bits v 31 0 })
  | .c0share => pkg (fun k => if 25 < bits v 4 0 then k else { k with c0share := bits v 4 0 })
  | .portct q => some (if v.getLsbD 0 then s.isolatePort p q else s.retrainPort p q)
  | .c0mask i => pkg (fun k => { k with c0mask := vset k.c0mask i v })
  | .dsteal => pkg (fun k => { k with dsteal := bits v 31 0 })
  | .dage => pkg (fun k => { k with dage := bits v 31 0 })
  | .prwait => pkg (fun k => { k with prwait := bits v 31 0 })
  | .drbudget => pkg (fun k => { k with drbudget := bits v 31 0 })
  | .hbmsplit => some (s.writeHbmsplit p v)
  | .pclimit => pkg (fun k => { k with pclimit := bits v 15 0 })
  | .pcwin => pkg (fun k => if bits v 15 0 < 80 then k else { k with pcwin := bits v 15 0 })
  | .pcramp => pkg (fun k => { k with pcramp := bits v 15 0 })
  | .ttrip => pkg (fun k => { k with ttrip := bits v 7 0 })
  | .senstat i => some (s.clearSensor p i v)
  | .quiesce => some (s.writeQuiesce p v)
  | _ => some s

/-! ### Halves of a dword -/

/-- `n` bytes at offset `off` of a dword. -/
def partOf (v : Word) (off n : Nat) : Word := if n = 8 then v else num (bits v 63 0 / 2 ^ (8 * (off % 8)) % 2 ^ 32)

/-- The dword with `n` bytes at offset `off` replaced. -/
def withPart (old v : Word) (off n : Nat) : Word :=
  if n = 8 then v else if off % 8 = 0 then setBits old 31 0 (bits v 31 0) else setBits old 63 32 (bits v 31 0)

/-! ### The tile block (01 R32, R34; 09 R241; 02 R53; 15 R392) -/

/-- JCTL states (15 R392). -/
def Job.jctl (j : Job) : Nat :=
  match j.st with
  | .checkpointing => 4
  | .frozen => 2
  | .handler => 5
  | _ => if j.drain.isSome || j.toEnd then 3 else 1

/-- JCTL of a slot as read. -/
def State.jctlRead (s : State) (key : Nat) : Word := num (((s.jobAt key).map Job.jctl).getD 0)

/-- A write of JCTL (R392). -/
def State.jctlWrite (s : State) (key : Nat) (v : Word) : State :=
  match s.jobAt key with
  | none => s
  | some j =>
    match bits v 1 0 with
    | 1 => if j.st = .frozen then s.resumeFrozen key else s
    | 2 => s.killJob key (v.getLsbD 2)
    | _ => s

/-- The job whose registers a slot's copies show: the slot's, else one checkpointed from it. -/
inductive Shown where
  | job (j : Job)
  | frame (u : Nat) (f : Frame)
  | none_

def State.shown (s : State) (key : Nat) : Shown :=
  match s.jobAt key with
  | some j => .job j
  | none =>
    let k := key / 4
    match (s.tileAt k).tenant with
    | none => .none_
    | some u =>
      match (s.tenAt (keyPkg key) u.toNat).frames.reverse.find? (fun f => f.tileKey == k && f.slot == keySlot key) with
      | some f => .frame u.toNat f
      | none => .none_

/-- Kind of a core copy. -/
def copyKind (core : Nat) : Kind := if core = 0 then .A else .X

/-- A register of a core context or of a job, which the tile block shows (09 R239, R241). -/
def sysOfJob (n : Nat) : Bool := decide (n ≤ 5) || decide (0x010 ≤ n) && decide (n ≤ 0x012)

/-- Register `n` of a job's core as the tile block shows it. -/
def State.sysShown (s : State) (key core n : Nat) : Word :=
  if !sysOfJob n then 0
  else
  let f := fun (j : Job) =>
    sysRead { s with focus := ⟨BitVec.ofNat 8 (keyPkg key), BitVec.ofNat 8 (keyTile key), BitVec.ofNat 2 (keySlot key), .A⟩ } j
      (copyKind core) n
  match s.shown key with
  | .job j => f j
  | .frame _ fr => f fr.job
  | .none_ => Config.privateRegister (key * 0x10000 + core * 0x1000 + n)

/-- The write of TRAPV, EPC, CAUSE or EVA of a job (R241). -/
def sysSet (j : Job) (core n : Nat) (v : Word) : Job :=
  let k := copyKind core
  match n with
  | 0x001 => j.modCore k (fun c => { c with cause := causeKeep v })
  | 0x002 => j.modCore k (fun c => { c with epc := epcKeep v })
  | 0x003 => j.modCore k (fun c => { c with eva := v })
  | 0x005 => if trapvOk v then { j with trapv := v } else j
  | _ => j

/-- Whether the job is frozen by a fault. -/
def Job.sysWritable (j : Job) : Bool :=
  match j.st with
  | .frozen => true | .handler => true | _ => false

/-- Place in a frame's core area of system register `n` (15 R399). -/
def frameSlot (n : Nat) : Nat :=
  match n with | 1 => 0x228 | 2 => 0x230 | 3 => 0x238 | _ => 0x248

/-- Address of a frame. -/
def TenantArea.frameAt (a : TenantArea) (i : Nat) : Nat := bits a.ckbase 55 23 * 0x80_0000 + 0x80_0000 * i

/-- MMIO_SYSREG_WRITE (R241). -/
def State.sysWriteShown (s : State) (key core n : Nat) (v : Word) : State :=
  match s.shown key with
  | .job j => if j.sysWritable then s.setJob key (sysSet j core n v) else s
  | .frame u f =>
    let j := sysSet f.job core n v
    if j = f.job then s
    else
      let p := keyPkg key
      let at_ := (s.tenAt p u).frameAt f.idx + 0x1000 * (core + 1) + frameSlot n
      let w := match n with | 1 => causeKeep v | 2 => epcKeep v | _ => v
      let s := (s.spanWrite (agent p u) at_ (dwordBytes [w]) .store).1
      let s := if n = 5 then
          (s.spanWrite (agent p u) ((s.tenAt p u).frameAt f.idx + 0x1000 * (2 - core) + frameSlot n) (dwordBytes [w]) .store).1
        else s
      s.modTen p u (fun a => { a with frames := a.frames.map (fun g => if g = f then { g with job := j } else g) })
  | .none_ => s

/-- A part of the tile block. -/
inductive TSpot where
  | acc | imem | emem | dmem | tags | table
  | sys (slot core n : Nat)
  | perf (n : Nat)
  | jctl (slot : Nat)
  | ring (n i : Nat)
  | mark (slot kind : Nat)
  | reserved
  deriving DecidableEq, Repr

/-- What an offset of the tile block names. -/
def tspot (o : Nat) : TSpot :=
  if o < 0x40_0000 then .acc
  else if o < 0x44_0000 then .imem
  else if o < 0x46_0000 then .emem
  else if o < 0x48_0000 then .dmem
  else if o < 0x48_2000 then .tags
  else if o < 0x50_0000 then .reserved
  else if o < 0x54_0000 then .table
  else if o < 0x60_0000 then .reserved
  else
    let r := o - 0x60_0000
    if r < 0x8000 then .sys (r / 0x2000) (r / 0x1000 % 2) (r % 0x1000 / 8)
    else if r < 0x8040 then .perf ((r - 0x8000) / 8)
    else if r < 0x9000 then .reserved
    else if r < 0x9020 then .jctl ((r - 0x9000) / 8)
    else if r < 0xA000 then .reserved
    else if r < 0xA800 then .ring ((r - 0xA000) / 32) ((r - 0xA000) / 8 % 4)
    else if r < 0xB000 then .reserved
    else if r < 0xB100 then .mark ((r - 0xB000) / 64) ((r - 0xB000) / 8 % 8)
    else .reserved

/-- The mark register of the stream of kind code `k` in a slot (11 R292). -/
def State.markShown (s : State) (key k : Nat) : Word :=
  match s.jobAt key, kindOf k with
  | some j, some k => if k.isCore then 0 else (j.eng k).mark.setWidth 64
  | _, _ => 0

/-- A read of the tile block. -/
def State.tread (s : State) (p t o n : Nat) : Word :=
  let raw := num (readLe s.mem (blockAddr p t o) n)
  match tspot o with
  | .acc | .imem | .emem | .dmem | .tags | .table => raw
  | .sys sl core r => partOf (s.sysShown (slotKey p t sl) core r) o n
  | .perf k =>
    if perfOfCore k then 0
    else
      let x := s.tileAt (tileKey p t)
      partOf (match k with | 0 => x.reqloc | 1 => x.reqdie | 2 => x.reqpkg | 6 => x.tlbmiss | _ => x.reissue) o n
  | .jctl sl => partOf (s.jctlRead (slotKey p t sl)) o n
  | .ring k i => partOf (nth (s.ringAt (tileKey p t) k).entry i 0) o n
  | .mark sl k => partOf (s.markShown (slotKey p t sl) k) o n
  | .reserved => 0

/-- Raw bytes of the tile block written. -/
def State.tput (s : State) (p t o n : Nat) (v : Word) : State := { s with mem := writeLe s.mem (blockAddr p t o) n v.toNat }

/-- Images whose ranges a write touches are no longer resident (06 R164). -/
def State.endImages (s : State) (p t i n e m : Nat) : State :=
  s.modTile (tileKey p t) (fun k => { k with resident := endResidency k.resident i n e m })

/-- IMEM words written: their literal tags clear (R34). -/
def State.writeImemWords (s : State) (p t o n : Nat) (v : Word) : State :=
  let a := o - 0x40_0000
  let ws := (List.range (n / 4)).map (fun i => (BitVec.ofNat 32 (v.toNat / 2 ^ (32 * i)), false))
  ({ s with mem := writeImem s.mem p t a ws }).endImages p t a n 0 0

/-- The literal tag window written (R34). -/
def State.writeTags (s : State) (p t o n : Nat) (v : Word) : State :=
  (s.tput p t o n v).endImages p t ((o - 0x48_0000) * 32) (n * 32) 0 0

/-- EMEM written: bits 63:48 of an entry stay zero. -/
def State.writeEmemPart (s : State) (p t o n : Nat) (v : Word) : State :=
  let at_ := blockAddr p t (o / 8 * 8)
  let w := num (bits (withPart (read64 s.mem at_) v o n) 47 0)
  ({ s with mem := write64 s.mem at_ w }).endImages p t 0 0 ((o - 0x44_0000) / 8) 1

/-- A write of the tile block. -/
def State.twrite (s : State) (p t o n : Nat) (v : Word) : State :=
  match tspot o with
  | .acc | .dmem | .table => s.tput p t o n v
  | .imem => s.writeImemWords p t o n v
  | .emem => s.writeEmemPart p t o n v
  | .tags => s.writeTags p t o n v
  | .sys sl core r => s.sysWriteShown (slotKey p t sl) core r (withPart (s.sysShown (slotKey p t sl) core r) v o n)
  | .jctl sl => if n = 8 ∨ o % 8 = 0 then s.jctlWrite (slotKey p t sl) v else s
  | _ => s

/-! ### One access -/

/-- What an MMIO access comes to. -/
inductive MmioRes where
  | ok (v : Word) (s : State)
  | prot
  | wait

/-- A read of `n` bytes, 4 or 8 and aligned, at a physical address in an MMIO region, by level `l`. -/
def State.mmioRead (s : State) (pa n : Nat) (l : Level) : MmioRes :=
  let p := paPkg pa
  match s.region pa with
  | .hmmio off =>
    let r := hreg off
    if !r.access.mayRead l then .prot
    else
      let (v, s) := s.hread p r
      .ok (partOf v off n) s
  | .cmmio _ _ =>
    if !l.geb .sup then .prot else if l.geb .fw then .ok (partOf (Config.privateRegister (pa / 8)) pa n) s else .ok 0 s
  | .tmmio t o => if !l.geb .sup then .prot else .ok (s.tread p t o n) s
  | _ => .prot

/-- Whether a register is a dword of a push window, which takes 64-bit writes only (14 R372). -/
def HReg.isPush : HReg → Bool
  | .pushJ _ _ => true | .pushS _ _ => true | _ => false

/-- A write of `n` bytes. -/
def State.mmioWrite (s : State) (pa n : Nat) (v : Word) (l : Level) : MmioRes :=
  let p := paPkg pa
  match s.region pa with
  | .hmmio off =>
    let r := hreg off
    if !r.access.mayWrite l || (r.isPush && n != 8) then .prot
    else if r.access = .ro then .ok 0 s
    else match s.hwrite p r (withPart (s.hbase p r) v off n) with
      | some s => .ok 0 s
      | none => .wait
  | .cmmio _ _ => if !l.geb .sup then .prot else .ok 0 s
  | .tmmio t o => if !l.geb .sup then .prot else .ok 0 (s.twrite p t o n v)
  | _ => .prot

end Sys2Proof.Machine
end

