-- ==== Sys2Proof/Machine/MemOps.lean ====
section
/-!
DEFINITION. Meanings of the core's accesses to tenant virtual memory: LD, ST, LDQ, STQ (10 R254, R258, R259), MEMX
(R263 to R265), ATOM (R266, R267) and HOSTSIG (09 R251).
-/

namespace Sys2Proof.Machine

/-! ### The checks of a data access (01 R15, R24, R33; 03 R79) -/

/-- Address-Form, Misaligned-Access, translation; then `mem` or `mmio` with the physical address. A core that waits for the
answer to what it has sent goes on with the address it sent that to. -/
def dataAccess (s : State) (j : Job) (va : Word) (al : Nat) (need : Perm) (mmio mem : State → Nat → Res) : Res :=
  let go := fun (s : State) (pa : Nat) => if (s.region pa).isMmio then mmio s pa else mem s pa
  match s.askOf with
  | some a => go s a.pa
  | none =>
    if !vaOk va then .raise s .addressForm va
    else if va.toNat % al ≠ 0 then .raise s .misaligned va
    else match s.coreTranslate j.tenant.toNat va.toNat need with
      | (s, .fault c) => .raise s c va
      | (s, .wait) => .wait s
      | (s, .ok _ pa) => go s pa

/-- A request of the core that acts, for which it waits: sent once nothing older keeps it (05 R122 to R130), with
Request-Timeout if no answer ever comes. -/
def askPlace (op : ReqOp) (va : Word) (act : State → Answer) (k : State → Word → Res) (s : State) (pa : Nat) : Res :=
  if s.askOf.isNone && !s.clear op pa then .wait s
  else exchange s ⟨true, op.isLoad, s.placeOf pa, s.targetNum pa⟩ va pa [] (fun s => .raise s .requestTimeout va)
    (fun _ s => act s) (fun s v _ => k s v)

/-- What a place of memory answers to an access to the `n` bytes at `pa`: an absent tile (01 R24) or an uncorrectable error
(R254) is an error; it waits behind what its home has accepted on its line (05 R125). -/
def memAct (va : Word) (pa n : Nat) (act : State → State × Word) (s : State) : Answer :=
  if s.absent pa then .err s .protection va
  else if s.flawed pa n then .err s .dataError va
  else if s.lineTaken pa then .hold s
  else
    let r := act s
    .ok r.1 r.2 []

/-- An MMIO access refused (01 R33). -/
def mmioRefused (va : Word) (s : State) (_ : Nat) : Res := .raise s .protection va

/-- What an MMIO unit answers. -/
def mmioAct (va : Word) (pa : Nat) (f : State → MmioRes) (s : State) : Answer :=
  if s.absent pa then .err s .protection va
  else match f s with
    | .ok v s => .ok s v []
    | .prot => .err s .protection va
    | .wait => .hold s

/-- An MMIO load of `n` bytes (R33, 05 R123). -/
def mmioLoad (j : Job) (va : Word) (n : Nat) (k : State → Word → Res) (s : State) (pa : Nat) : Res :=
  if n ≠ 4 ∧ n ≠ 8 then .raise s .protection va
  else askPlace (.ldq 0 false) va (mmioAct va pa (fun s => s.mmioRead pa n j.level)) k s pa

/-- The register at `pa` invalidates translations when it is written (03 R74). -/
def State.invalidates (s : State) (pa : Nat) : Bool :=
  match s.region pa with
  | .hmmio off => (match hreg off with
    | .troot _ => true
    | _ => false)
  | _ => false

/-- An MMIO store of `n` bytes; one that invalidates waits for the core's earlier stores (03 R78). -/
def mmioStore (j : Job) (va : Word) (n : Nat) (v : Word) (k : State → Res) (s : State) (pa : Nat) : Res :=
  if n ≠ 4 ∧ n ≠ 8 then .raise s .protection va
  else askPlace .store va (mmioAct va pa (fun s =>
    if s.invalidates pa && !s.storesDone then .wait else s.mmioWrite pa n v j.level)) (fun s _ => k s) s pa

/-- `body` as a release at the instance of `sc`, for an access that has not been sent yet. -/
def releaseOnce (s : State) (sc : Scope) (body : State → Res) : Res :=
  if s.askOf.isSome then body s else afterRelease s sc body

/-- A load: `k` gets the number in its `n` bytes. -/
def memLoad (va : Word) (n : Nat) (h : Hint) (k : State → Nat → Res) (s : State) (pa : Nat) : Res :=
  askPlace (.ldq 0 false) va (memAct va pa n (fun s =>
      let s := s.touchHome pa n h
      (s, BitVec.ofNat 64 (readLe s.mem pa n)))) (fun s v => k s v.toNat) s pa

/-- A posted write enters the store queue of its context (log 4). -/
def memPost (j : Job) (va point : Word) (op : ReqOp) (n : Nat) (v : Word) (noalloc : Bool) (s : State) (pa : Nat) : Res :=
  .next (s.queueUp s.issuer j.tenant op va pa point.toNat n (BitVec.ofNat 64 (v.toNat % 2 ^ (8 * n))) noalloc).2

/-- The address of the instruction that acts, as a dword. -/
def Core.at_ (c : Core) : Word := c.pc.setWidth 64

/-! ### LD and ST (R254) -/

/-- A load of `n` bytes at `va` into g[d]. -/
def loadBody (d : Reg) (n : Nat) (signed : Bool) (h : Hint) (va : Word) (j : Job) (s : State) : Res :=
  dataAccess s j va n permR
    (mmioLoad j va n (fun s v => .next (s.setReg d (extend n signed v.toNat))))
    (memLoad va n h (fun s v => .next (s.setReg d (extend n signed v))))

/-- A store of `n` bytes of `v` at `va`. -/
def storeBody (n : Nat) (noalloc : Bool) (va v : Word) (j : Job) (c : Core) (s : State) : Res :=
  dataAccess s j va n permW
    (mmioStore j va n v (fun s => .next s))
    (memPost j va c.at_ .store n v noalloc)

/-- LD. -/
def execLd (d a : Reg) (z : LoadSize) (i : BitVec 11) (s : State) : Host.Outcome State Fault Refusal :=
  coreExec 4 false [d, a] (fun j c s =>
    loadBody d (loadBytes z) (loadSigned z) .load (effAddr (c.reg a) i (loadBytes z)) j s) s

/-- ST. -/
def execSt (d a : Reg) (z : StoreSize) (i : BitVec 11) (s : State) : Host.Outcome State Fault Refusal :=
  coreExec 4 false [d, a] (fun j c s =>
    storeBody (storeBytes z) false (effAddr (c.reg a) i (storeBytes z)) (c.reg d) j c s) s

/-! ### LDQ and STQ (R258, R259) -/

/-- Bytes reserved or held in the scale queue. -/
def sqCount (q : List SqEntry) : Nat :=
  (q.map (fun e => match e with | .byte _ => 1 | .waiting _ n => n)).foldl (· + ·) 0

/-- Room for an LDQ of `n` bytes in queue `q` (8 is the scale queue). -/
def ldqRoom (j : Job) (q n : Nat) : Bool :=
  if q = 8 then decide (sqCount j.sq + n ≤ 256) else decide ((vget j.dq q).length < 64)

/-- The stream that takes from an LDQ's queue. -/
def ldqTaker (q : Nat) : Kind := if q = 8 then .M else .X

/-- An entry that waits for request `id`. -/
def reserveEntry (j : Job) (q n id : Nat) : Job :=
  if q = 8 then { j with sq := j.sq ++ [.waiting id n] } else { j with dq := vset j.dq q (vget j.dq q ++ [.waiting id]) }

/-- A loaded value entered at once (an MMIO load, 05 R123). -/
def enterValue (j : Job) (q n : Nat) (signed : Bool) (v : Word) : Job :=
  if q = 8 then { j with sq := j.sq ++ (leBytes n v.toNat).map .byte }
  else { j with dq := vset j.dq q (vget j.dq q ++ [.val (extend n signed v.toNat)]) }

/-- The load of an LDQ sent with its entry reserved. -/
def ldqSend (j : Job) (c : Core) (q n : Nat) (signed : Bool) (va : Word) (s : State) (pa : Nat) : Res :=
  let s := s.modCur (fun j => reserveEntry j q n s.fresh)
  .next (s.queueUp s.issuer j.tenant (.ldq q signed) va pa c.pc.toNat n 0 false).2

/-- `body` after the check of the size of an access to MMIO (01 R33). -/
def mmioSized (va : Word) (n : Nat) (body : State → Nat → Res) (s : State) (pa : Nat) : Res :=
  if n ≠ 4 ∧ n ≠ 8 then .raise s .protection va else body s pa

/-- LDQ: the faults of LD come first (R258). -/
def execLdq (q : BitVec 6) (a : Reg) (z : LoadSize) (i : BitVec 11) (s : State) : Host.Outcome State Fault Refusal :=
  coreExec 4 false [a] (fun j c s =>
    let n := loadBytes z
    let va := effAddr (c.reg a) i n
    let body := fun (k : State → Nat → Res) (s : State) (pa : Nat) =>
      if s.focus.kind ≠ .A then dqFault s q.toNat
      else if ldqRoom j q.toNat n then k s pa
      else if j.finished (ldqTaker q.toNat) then dqFault s q.toNat
      else .wait s
    dataAccess s j va n permR
      (mmioSized va n (body (mmioLoad j va n (fun s v => .next (s.modCur (fun j => enterValue j q.toNat n (loadSigned z) v))))))
      (body (ldqSend j c q.toNat n (loadSigned z) va))) s

/-- The oldest element of dq4 or dq5 for a store of the A-core, which leaves the queue as the store goes (R259). -/
def stqTake (j : Job) (q : Nat) (k : State → Word → Res) (s : State) : Res :=
  if s.focus.kind ≠ .A then dqFault s q
  else match vget j.dq q with
    | .val v :: _ => k s v
    | _ => if j.finished .X then dqFault s q else .wait s

/-- The oldest element taken. -/
def stqTaken (q : Nat) (s : State) : State := s.modCur (fun j => { j with dq := vset j.dq q ((vget j.dq q).drop 1) })

/-- STQ: the element is taken only after the address passes (R259). -/
def execStq (q : BitVec 6) (a : Reg) (z : StoreSize) (i : BitVec 11) (s : State) : Host.Outcome State Fault Refusal :=
  coreExec 4 false [a] (fun j c s =>
    let n := storeBytes z
    let va := effAddr (c.reg a) i n
    dataAccess s j va n permW
      (mmioSized va n (fun s pa => stqTake j q.toNat (fun s v => mmioStore j va n v (fun s => .next (stqTaken q.toNat s)) s pa) s))
      (fun s pa => stqTake j q.toNat (fun s v => memPost j va c.at_ .store n v false (stqTaken q.toNat s) pa) s)) s

/-! ### MEMX (R263 to R265) -/

/-- LDACQ: no younger instruction issues before its value has come, so every younger access follows it (log 4). -/
def execLdacq (d a : Reg) (z : WD) (_ : Scope) (s : State) : Host.Outcome State Fault Refusal :=
  coreExec 4 false [d, a] (fun j c s => loadBody d (wdBytes z) true .load (c.reg a) j s) s

/-- STREL: the store is a release at its instance (05 R128), which the queue keeps. -/
def execStrel (a b : Reg) (z : WD) (sc : Scope) (s : State) : Host.Outcome State Fault Refusal :=
  coreExec 4 false [a, b] (fun j c s =>
    let n := wdBytes z
    let va := c.reg a
    dataAccess s j va n permW
      (fun s pa => releaseOnce s sc (fun s => mmioStore j va n (c.reg b) (fun s => .next s) s pa))
      (memPost j va c.at_ (.strel sc) n (c.reg b) false)) s

/-- An entry of the core's queues that accesses nothing and holds others back. -/
def queueMark (j : Job) (c : Core) (op : ReqOp) (s : State) : Res := .next (s.queueUp s.issuer j.tenant op 0 0 c.pc.toNat 0 0 false).2

/-- FENCE (05 R128 to R130; log 5): the core goes on issuing. -/
def execFence (k : FenceKind) (sc : Scope) (s : State) : Host.Outcome State Fault Refusal :=
  coreExec 4 false [] (fun j c s => queueMark j c (.fence k sc) s) s

/-- QMARK (05 R125; log 5). -/
def execQmark (s : State) : Host.Outcome State Fault Refusal := coreExec 4 false [] (fun j c s => queueMark j c .qmark s) s

/-- PREF (R265): its request stands in the load queue, and nothing waits for it; dropped where it would fault or wait. -/
def execPref (a : Reg) (s : State) : Host.Outcome State Fault Refusal :=
  coreExec 4 false [a] (fun j c s =>
    let va := c.reg a
    if !vaOk va then .next s
    else match s.coreTranslate j.tenant.toNat va.toNat permR with
      | (s, .ok _ pa) => 
        if (s.region pa).isMmio ∨ s.absent pa then .next s
        else .next (s.queueUp s.issuer j.tenant .pref va pa c.pc.toNat 1 0 false).2
      | (s, _) => .next s) s

/-- LDBY. -/
def execLdby (d a : Reg) (z : WD) (s : State) : Host.Outcome State Fault Refusal :=
  coreExec 4 false [d, a] (fun j c s => loadBody d (wdBytes z) true .bypass (c.reg a) j s) s

/-- STNA. -/
def execStna (a b : Reg) (z : WD) (s : State) : Host.Outcome State Fault Refusal :=
  coreExec 4 false [a, b] (fun j c s => storeBody (wdBytes z) true (c.reg a) (c.reg b) j c s) s

/-! ### ATOM (R266, R267) -/

/-- The compare operand: g[d], or zero when d is g0. -/
def casOperand (c : Core) (d : Reg) (n : Nat) : Nat := (c.reg d).toNat % 2 ^ (8 * n)

/-- An atomic of `n` bytes that performs now at physical address `pa`: the state after it, and its result. -/
def State.atomicNow (s : State) (pa n : Nat) (op : BitVec 4) (x cmp : Nat) : State × Word :=
  let s := s.touchHome pa n .store
  ({ s with mem := atomMem s.mem pa n op x cmp }, atomResult op n (readLe s.mem pa n))

/-- A global atomic; with a scope `rel` it is a release at its instance. -/
def atomGlobal (op : BitVec 4) (d a b : Reg) (n : Nat) (rel : Option Scope) (j : Job) (c : Core) (s : State) : Res :=
  let va := c.reg a
  let x := (c.reg b).toNat % 2 ^ (8 * n)
  dataAccess s j va n permRW (mmioRefused va) (fun s pa =>
    if d = 0 then memPost j va c.at_ (.atomic op rel) n (c.reg b) false s pa
    else askPlace (.atomic op rel) va (memAct va pa n (fun s => s.atomicNow pa n op x (casOperand c d n)))
      (fun s v => .next (s.setReg d v)) s pa)

/-- The deferred fault of a posted local atomic that meets an uncorrectable error (15 R385). -/
def localFaultInfo (op : BitVec 4) (ad v : Word) (n : Nat) (kind : Kind) (point : Nat) (rel : Option Scope) : FaultInfo :=
  { cause := .dataError, eva := ad, kind := kind, point := point
    failed := some ⟨ad, v, sizeCode n, 2, op, BitVec.ofNat 3 ((rel.map scopeNum).getD 0)⟩ }

/-- A local atomic without a result, which the core does not wait for; an uncorrectable error is a deferred fault (15 R385). -/
def postAtomic (op : BitVec 4) (ad : Word) (n x : Nat) (rel : Option Scope) (j : Job) (c : Core) (s : State) : Res :=
  let o := LocalOp.atomic op rel
  if s.ownFree o && s.padFlawed ad.toNat n true then
    .next (s.modCur (fun j => { j with deferred := j.deferred
      ++ [localFaultInfo op ad (BitVec.ofNat 64 x) n s.focus.kind c.pc.toNat rel] }))
  else postLocal s j c o ad.toNat n (BitVec.ofNat 64 x)

/-- A local atomic. -/
def atomLocal (op : BitVec 4) (d a b : Reg) (n : Nat) (rel : Option Scope) (j : Job) (c : Core) (s : State) : Res :=
  let ad := c.reg a
  let x := (c.reg b).toNat % 2 ^ (8 * n)
  withLocal s ad 1 n (fun s => if d = 0 then postAtomic op ad n x rel j c s else inLocalQueue s true (fun s =>
    let go := fun (s : State) => soundPad s ad n true (fun s =>
      let at_ := apAddr s.fpkg s.ftile ad.toNat
      let old := readLe s.mem at_ n
      Res.next (({ s with mem := atomMem s.mem at_ n op x (casOperand c d n) }).setReg d (atomResult op n old)))
    match rel with
    | some sc => afterRelease s sc go
    | none => go s))

/-- An ATOM instruction by operation code, size and space. -/
def atomExec (op : BitVec 4) (d a b : Reg) (n : Nat) (sp : AtomSpace) (s : State) : Host.Outcome State Fault Refusal :=
  coreExec 4 false [d, a, b] (fun j c s =>
    match sp with
    | .globalRelaxed => atomGlobal op d a b n none j c s
    | .globalScoped sc => atomGlobal op d a b n (some sc) j c s
    | .localRelaxed => atomLocal op d a b n none j c s
    | .localTile => atomLocal op d a b n (some .tile) j c s) s

/-- AADD. -/
def execAadd (d a b : Reg) (z : WD) (sp : AtomSpace) (s : State) : Host.Outcome State Fault Refusal :=
  atomExec 0 d a b (wdBytes z) sp s
/-- AAND. -/
def execAand (d a b : Reg) (z : WD) (sp : AtomSpace) (s : State) : Host.Outcome State Fault Refusal :=
  atomExec 1 d a b (wdBytes z) sp s
/-- AOR. -/
def execAor (d a b : Reg) (z : WD) (sp : AtomSpace) (s : State) : Host.Outcome State Fault Refusal :=
  atomExec 2 d a b (wdBytes z) sp s
/-- AXOR. -/
def execAxor (d a b : Reg) (z : WD) (sp : AtomSpace) (s : State) : Host.Outcome State Fault Refusal :=
  atomExec 3 d a b (wdBytes z) sp s
/-- AMIN. -/
def execAmin (d a b : Reg) (z : WD) (sp : AtomSpace) (s : State) : Host.Outcome State Fault Refusal :=
  atomExec 4 d a b (wdBytes z) sp s
/-- AMAX. -/
def execAmax (d a b : Reg) (z : WD) (sp : AtomSpace) (s : State) : Host.Outcome State Fault Refusal :=
  atomExec 5 d a b (wdBytes z) sp s
/-- AMINU. -/
def execAminu (d a b : Reg) (z : WD) (sp : AtomSpace) (s : State) : Host.Outcome State Fault Refusal :=
  atomExec 6 d a b (wdBytes z) sp s
/-- AMAXU. -/
def execAmaxu (d a b : Reg) (z : WD) (sp : AtomSpace) (s : State) : Host.Outcome State Fault Refusal :=
  atomExec 7 d a b (wdBytes z) sp s
/-- ASWAP. -/
def execAswap (d a b : Reg) (z : WD) (sp : AtomSpace) (s : State) : Host.Outcome State Fault Refusal :=
  atomExec 8 d a b (wdBytes z) sp s
/-- ACAS. -/
def execAcas (d a b : Reg) (z : WD) (sp : AtomSpace) (s : State) : Host.Outcome State Fault Refusal :=
  atomExec 9 d a b (wdBytes z) sp s
/-- AFADD. -/
def execAfadd (d a b : Reg) (sp : AtomSpace) (s : State) : Host.Outcome State Fault Refusal :=
  atomExec 10 d a b 4 sp s
/-- AFMAX. -/
def execAfmax (d a b : Reg) (sp : AtomSpace) (s : State) : Host.Outcome State Fault Refusal :=
  atomExec 11 d a b 4 sp s

/-! ### HOSTSIG (R251) -/

/-- HOSTSIG: the store is a domain-scope release, and its signal record follows it (R251). -/
def execHostsig (a : Reg) (b : Opd) (s : State) : Host.Outcome State Fault Refusal :=
  coreExec (opdLen b) false (a :: opdRegs b) (fun j c s =>
    let va := c.reg a
    let v := bval j c b
    dataAccess s j va 8 permW
      (fun s pa => releaseOnce s .dom (fun s => mmioStore j va 8 v (fun s => .next (s.modTen s.fpkg j.tenant.toNat (fun t =>
        { t with signals := t.signals ++ [(va, v, s.wall)] }))) s pa))
      (memPost j va c.at_ .hostsig 8 v false)) s

end Sys2Proof.Machine
end

