-- ==== Sys2Proof/Machine/JobOps.lean ====
section
/-!
DEFINITION. Meanings of the JOB family (06 R157, R159, R168 to R172; 10 R273 to R277).
-/

namespace Sys2Proof.Machine

/-- SPAWN (R168, R273): the image is read, older accesses perform, and the record enters its queue. -/
def execSpawn (a : Reg) (s : State) : Host.Outcome State Fault Refusal :=
  coreExec 4 false [a] (fun j c s =>
    let ad := c.reg a
    withLocal s ad 64 64 (fun s =>
      let dw := spawned (dw8 (readDwords s.mem (apAddr s.fpkg s.ftile ad.toNat) 8)) j.tenant j.cls j.sup
      let u := j.tenant.toNat
      inLocalQueue s false (fun s => soundPad s ad 64 false (fun s =>
        if !(s.tenAt s.fpkg u).hasRoom (recClass dw) then .wait s
        else afterRelease s .dom (fun s => .next (s.enqueueSpawn s.fpkg u (dieOf s.ftile) dw)))))) s

/-- JOIN (R274): a domain-scope atomic add to the dword at a multiple of 64. -/
def execJoin (a : Reg) (b : Opd) (s : State) : Host.Outcome State Fault Refusal :=
  coreExec (opdLen b) false (a :: opdRegs b) (fun j c s =>
    let va := c.reg a
    dataAccess s j va 64 permRW (mmioRefused va) (fun s pa =>
      askPlace (.atomic 0 (some .dom)) va (memAct va pa 8 (fun s => s.atomicNow pa 8 0 (bval j c b).toNat 0))
        (fun s _ => .next s) s pa)) s

/-- REND (R275): the core's accesses perform and its stream finishes. -/
def execRend (s : State) : Host.Outcome State Fault Refusal :=
  coreExec 4 false [] (fun j c s =>
    if c.h then raiseFree s .illegal
    else if j.st = .freezing then .waitDq s
    else afterRelease s .dom (fun s => .next (s.modCore (fun c => { c with fin := true })))) s

/-- TRIGGER (R171): a domain-scope release; the job leaves its launch's producer set. -/
def execTrigger (s : State) : Host.Outcome State Fault Refusal :=
  coreExec 4 false [] (fun j _ s =>
    afterRelease s .dom (fun s =>
      .next ((s.modCur (fun j => { j with triggered := true })).settleDeps s.fpkg j.tenant.toNat))) s

/-- WAITDEP (R172). -/
def execWaitdep (s : State) : Host.Outcome State Fault Refusal :=
  coreExec 4 false [] (fun j _ s =>
    if !recDv j.qrec.dw ∨ s.depMet s.fpkg j.tenant.toNat (recPlaunch j.qrec.dw) then .next s else .wait s) s

/-- YIELD (R275): the context's issue turn ends (14 R380); nothing else changes. -/
def execYield (s : State) : Host.Outcome State Fault Refusal :=
  coreExec 4 false [] (fun _ _ s =>
    .next (s.modTile (s.key / 4) (fun t =>
      { t with issue := mput t.issue s.focus.kind.code { t.issueOf s.focus.kind with gave := true } }))) s

/-- EXIT (R157): waits of the other core end as R253 gives, and every stream finishes. -/
def execExit (s : State) : Host.Outcome State Fault Refusal :=
  coreExec 4 false [] (fun _ c s =>
    let s := (s.modCore (fun _ => (c.goto (c.pc.toNat + 4)).retire)).endWaits s.key
    let s := (s.modCur Job.exitAll).freeMatrix s.key
    match s.jobAt s.key with
    | some j => .done (if j.st = .freezing then s.haltX s.key else s)
    | none => .done s) s

/-- An allotment an ALLOT or SHRINK may name (R159). -/
def allotOk (n : Word) : Bool := n.toNat % 8 == 0 && decide (8 ≤ n.toNat) && decide (n.toNat ≤ 64)

/-- Registers g[lo] to g[hi − 1] zeroed, g63 kept (R159). -/
def Core.zeroRegs (c : Core) (lo hi : Nat) : Core :=
  { c with g := Vector.ofFn (fun i => if lo ≤ i.val ∧ i.val < hi ∧ i.val < 63 then 0 else vget c.g i.val) }

/-- ALLOT (R159). -/
def execAllot (d : Reg) (b : Opd) (s : State) : Host.Outcome State Fault Refusal :=
  coreExec (opdLen b) false (d :: opdRegs b) (fun j c s =>
    let n := bval j c b
    let k := n.toNat
    if !allotOk n then raiseFree s .illegal
    else if k ≤ c.allot then .next (s.setReg d 1)
    else if k - c.allot ≤ s.freeRegs s.fpkg s.ftile s.focus.kind then
      .next ((s.modCore (fun c => { c.zeroRegs c.allot k with allot := k })).setReg d 1)
    else .next (s.setReg d 0)) s

/-- SHRINK (R159). -/
def execShrink (b : Opd) (s : State) : Host.Outcome State Fault Refusal :=
  coreExec (opdLen b) false (opdRegs b) (fun j c s =>
    let n := bval j c b
    if !allotOk n then raiseFree s .illegal
    else .next (s.modCore (fun c => { c with allot := min c.allot n.toNat }))) s

/-- PHASE (R276). -/
def execPhase (b : Opd) (s : State) : Host.Outcome State Fault Refusal :=
  coreExec (opdLen b) false (opdRegs b) (fun j c s =>
    let n := (bval j c b).toNat
    if 255 < n then raiseFree s .illegal
    else .next (s.sealInstance s.fpkg j.tenant.toNat j.tag.toNat n)) s

/-- The target a schedule gives for a stream kind at a point and level (14 R383). -/
def schedTarget (l : List SchedEntry) (kind point level : Nat) : Option Nat :=
  match l.find? (fun e => e.kind == kind && e.point == point) with
  | none => none
  | some e => if e.tgt.getLsbD (24 * level + 23) then some (bits e.tgt (24 * level + 17) (24 * level)) else none

/-- SWPT (R277): the power level is read once. -/
def execSwpt (s : State) : Host.Outcome State Fault Refusal :=
  coreExec 4 false [] (fun j c s =>
    match schedTarget j.sched s.focus.kind.code c.pc.toNat (s.pkgAt s.fpkg).granted with
    | some t => transfer s s (BitVec.ofNat 64 t)
    | none => .next s) s

end Sys2Proof.Machine
end

