-- ==== Sys2Proof/Machine/EngineOps.lean ====
section
/-!
DEFINITION. Meanings of the common words (11 R290 to R292) and the switch words (11 R295).
-/

namespace Sys2Proof.Machine

/-- A common or switch word whose effect is `f`, with the next PC that overrides the chain. -/
def plainWord (pop push : Option (BitVec 4)) (chain : Chain) (f : Job → Engine → State → State × Option Nat) (s : State) :
    Host.Outcome State Fault Refusal :=
  engineExec none .none pop push chain 0 (fun j _ =>
    some (Plan.of (fun _ s => let r := f j (j.eng s.focus.kind) s; .done r.1 r.2))) s

/-- PC + sext(step), out of EMEM when it passes either end (R280, R291). -/
def wordTarget (pc : Nat) (disp : BitVec 12) : Nat := (BitVec.ofInt 64 (pc + disp.toInt)).toNat

/-- ENOP: idles (log 3). -/
def execEnop (c : CW) (_ : BitVec 6) (s : State) : Host.Outcome State Fault Refusal :=
  plainWord c.pop c.push c.chain (fun _ _ s => (s, none)) s

/-- EWAIT: every earlier word of the stream is complete and pushed when a word starts (log 13). -/
def execEwait (c : CW) (s : State) : Host.Outcome State Fault Refusal :=
  plainWord c.pop c.push c.chain (fun _ _ s => (s, none)) s

/-- The counter after one pass of ELOOP, and whether it jumps (R291). -/
def loopStep (ec : BitVec 11) (n : Nat) : BitVec 11 × Bool :=
  let v := (if ec = 0 then BitVec.ofNat 11 n else ec) - 1
  (v, v != 0)

/-- ELOOP (R291). -/
def execEloop (c : PW) (ec : BitVec 1) (disp : BitVec 12) (n : BitVec 10) (s : State) : Host.Outcome State Fault Refusal :=
  plainWord c.pop c.push .next (fun _ e s =>
    let x := loopStep (vget e.ec ec.toNat) (n.toNat + 1)
    (s.modEng (fun e => { e with ec := vset e.ec ec.toNat x.1 }), if x.2 then some (wordTarget e.pc disp) else none)) s

/-- EJMP (R291). -/
def execEjmp (c : PW) (disp : BitVec 12) (setLink : Bool) (s : State) : Host.Outcome State Fault Refusal :=
  plainWord c.pop c.push .next (fun _ e s =>
    (if setLink then s.modEng (fun e => { e with link := BitVec.ofNat 14 (e.pc + 1) }) else s, some (wordTarget e.pc disp))) s

/-- EMARK (R290). -/
def execEmark (c : CW) (v : BitVec 10) (s : State) : Host.Outcome State Fault Refusal :=
  plainWord c.pop c.push c.chain (fun _ _ s => (s.modEng (fun e => { e with mark := v }), none)) s

/-- ESWPT (R292): to the entry of the schedule table for this stream, this PC and PWRLV, else to PC + 1. -/
def execEswpt (c : CW) (s : State) : Host.Outcome State Fault Refusal :=
  plainWord c.pop c.push c.chain (fun j e s =>
    (s, some ((schedTarget j.sched s.focus.kind.code e.pc (s.pkgAt s.fpkg).granted).getD (e.pc + 1)))) s

/-- SWLINK (R295): binds a channel that is not bound. -/
def execSwlink (c : CW) (n p q : BitVec 3) (s : State) : Host.Outcome State Fault Refusal :=
  engineExec none .none c.pop c.push c.chain 0 (fun j _ =>
    some (Plan.of (fun w s =>
      match kindOf p.toNat, kindOf q.toNat with
      | some kp, some kq =>
        if kp.isCore || kq.isCore || kp == kq || (vget j.sw n.toNat).bind.isSome then .fault s w .switchConfig s.eidx
        else .done (s.modSw n.toNat (fun k => { k with bind := some (kp, kq) })) none
      | _, _ => .fault s w .switchConfig s.eidx))) s

/-- SWCUT (R295): waits until the channel is empty, then unbinds it. -/
def execSwcut (c : CW) (n : BitVec 3) (s : State) : Host.Outcome State Fault Refusal :=
  engineExec none .none c.pop c.push c.chain 0 (fun j _ =>
    some (Plan.of (fun w s =>
      let k := vget j.sw n.toNat
      if !(k.boundAs s.focus.kind true || k.boundAs s.focus.kind false) then .fault s w .switchConfig s.eidx
      else if k.q.isEmpty then .done (s.modSw n.toNat (fun k => { k with bind := none })) none
      else .wait s w))) s

end Sys2Proof.Machine
end

