-- ==== Sys2Proof/Machine/PlatformEvents.lean ====
section
/-!
DEFINITION. Events of the platform, translation, the content-addressed region and requests in flight (01 R27, R31; 02; 03;
04; 20). Each reads the operands in `State.arg` and, where it does not apply, leaves the state as it is (log 16).
-/

namespace Sys2Proof.Machine

/-! ### The operands of the event that occurs -/

/-- Package, tenant, tile and slot that an event names. -/
def State.evPkg (s : State) : Nat := s.arg.pkg.toNat
def State.evTen (s : State) : Nat := s.arg.tenant.toNat
def State.evTile (s : State) : Nat := s.arg.tile.toNat
def State.evKey (s : State) : Nat := slotKey s.evPkg s.evTile s.arg.slot.toNat
def State.evTKey (s : State) : Nat := tileKey s.evPkg s.evTile

/-- The answer of an event that reads a dword. -/
def dwordAnswer (r : Word × State) : State := { r.2 with answer := ansOk (leBytes 8 r.1.toNat) }

/-! ### Bring-up, images and measurements (20 R436 to R440) -/

/-- PACKAGE_RESET. -/
def execPackageReset (s : State) : Host.Outcome State Fault Refusal := .next (s.resetPackage s.evPkg s.arg)

/-- FULL_SERVICE_CHANGE. -/
def execFullServiceChange (s : State) : Host.Outcome State Fault Refusal := .next (s.fullService s.evPkg s.arg.grant)

/-- FIRMWARE_UPDATE. -/
def execFirmwareUpdate (s : State) : Host.Outcome State Fault Refusal := .next (s.updateFirmware s.evPkg s.arg)

/-- The mailbox of physical function 0 takes requests once firmware runs (20 R426, R439). -/
def Package.mailbox (k : Package) : Bool := k.boot == .pilot || k.boot == .full

/-- QUOTE_REQUEST with a nonce of 32 bytes and a mask; the answer is Q and its signature (log 32). -/
def execQuoteRequest (s : State) : Host.Outcome State Fault Refusal :=
  if !(s.pkgAt s.evPkg).mailbox then .next s
  else
    let q := s.quoteFor s.evPkg ((s.arg.data ++ List.replicate 32 0).take 32) (BitVec.ofNat 8 s.arg.idx)
    .next { s.modPkg s.evPkg (fun k => { k with quote := some q }) with
      answer := ansOk (beBytes 32 q.q.toNat ++ beBytes 64 q.sig.toNat) }

/-- MEAS_EXTEND of MEAS3 to MEAS7. -/
def execMeasExtend (s : State) : Host.Outcome State Fault Refusal :=
  if (s.pkgAt s.evPkg).mailbox && decide (3 ≤ s.arg.idx) && decide (s.arg.idx ≤ 7) then
    .next (s.extend s.evPkg s.arg.idx s.arg.digest)
  else .next s

/-- TRAY_POWER_OFF (20 R441). -/
def execTrayPowerOff (s : State) : Host.Outcome State Fault Refusal := .next (s.powerOff s.evPkg)

/-! ### BAR 0 of a tenant's function (20 R426; 05 R144) -/

/-- Dword `i` of the host-side port written; dword 3 submits. -/
def State.writeMigH (s : State) (p u i : Nat) (v : Word) : State :=
  let s := s.modTen p u (fun a => { a with migH := vset a.migH i v })
  if i = 3 then s.submitMigration p u true else s

/-- A dword of BAR 0. -/
inductive VfReg where
  | vpend
  | pushJ (i : Nat) | pushS (i : Nat) | lqstat
  | sqbase | sqcap | sqhead | sqtail | sqctl
  | migH (i : Nat)
  /-- Address, and data with vector control, of an MSI-X entry. -/
  | msixAddr (v : Nat) | msixData (v : Nat)
  | pba
  | reserved
  deriving DecidableEq, Repr

/-- The dword of BAR 0 that holds the byte at offset `o`. -/
def vfReg (o : Nat) : VfReg :=
  let k := o / 8
  match k with
  | 0 => .vpend
  | 0x210 => .lqstat
  | 0x400 => .sqbase | 0x401 => .sqcap | 0x402 => .sqhead | 0x403 => .sqtail | 0x404 => .sqctl
  | 0x700 => .pba
  | _ =>
    if 0x200 ≤ k ∧ k < 0x208 then .pushJ (k - 0x200)
    else if 0x208 ≤ k ∧ k < 0x210 then .pushS (k - 0x208)
    else if 0x800 ≤ k ∧ k < 0x804 then .migH (k - 0x800)
    else if 0x600 ≤ k ∧ k < 0x620 then (if k % 2 = 0 then .msixAddr ((k - 0x600) / 2) else .msixData ((k - 0x600) / 2))
    else .reserved

/-- The value of a dword of BAR 0. -/
def State.vfValue (s : State) (p u : Nat) (r : VfReg) : Word :=
  let a := s.tenAt p u
  match r with
  | .vpend => a.vpend.setWidth 64
  | .pba => a.vpend.setWidth 64
  | .pushJ i => vget a.pushJ i
  | .pushS i => vget a.pushS i
  | .lqstat => a.lqstat
  | .sqbase => a.sqbase
  | .sqcap => num a.sqcap
  | .sqhead => a.sqhead.setWidth 64
  | .sqtail => a.sqtail.setWidth 64
  | .sqctl => a.sqctl
  | .msixAddr v => (vget a.msix v).1
  | .msixData v => num ((vget a.msix v).2.toNat + (if a.msixMask.getLsbD v then 2 ^ 32 else 0))
  | .migH _ => 0
  | .reserved => 0

/-- A host read of a dword of BAR 0: LQSTAT and SQCTL lose their OVF. -/
def State.vfRead (s : State) (p u : Nat) (r : VfReg) : Word × State :=
  match r with
  | .lqstat => s.readLqstat p u
  | .sqctl => s.readSqctl p u
  | r => (s.vfValue p u r, s)

/-- What a write of one half of a dword of BAR 0 finds in the other: its value, but no command. -/
def State.vfBase (s : State) (p u : Nat) (r : VfReg) : Word :=
  match r with
  | .vpend => 0
  | .migH i => vget (s.tenAt p u).migH i
  | r => s.vfValue p u r

/-- Vector control of entry `v` of the MSI-X table: bit 0 is the mask. -/
def State.msixControl (s : State) (p u v : Nat) (masked : Bool) : State :=
  if masked then s.modTen p u (fun a => { a with msixMask := setBits a.msixMask v v 1 }) else s.unmask p u v

/-- A dword of BAR 0 written (20 R426). -/
def State.vfWrite (s : State) (p u : Nat) (r : VfReg) (v : Word) : State :=
  let ten := fun (f : TenantArea → TenantArea) => s.modTen p u f
  match r with
  | .vpend => s.clearVpend p u v
  | .pushJ i => (s.hwrite p (.pushJ u i) v).getD s
  | .pushS i => (s.hwrite p (.pushS u i) v).getD s
  | .sqbase => ten (fun a => { a with sqbase := keepBits v 63 6 })
  | .sqcap => ten (fun a => if bits v 3 0 < 4 then a else { a with sqcap := bits v 3 0 })
  | .sqhead => ten (fun a => { a with sqhead := lo32 v })
  | .sqctl => ten (fun a => { a with sqctl := keepBits a.sqctl 16 16 ||| keepBits v 8 8 ||| keepBits v 3 0 })
  | .msixAddr i => ten (fun a => { a with msix := vset a.msix i (v, (vget a.msix i).2) })
  | .msixData i =>
    let s := ten (fun a => { a with msix := vset a.msix i ((vget a.msix i).1, lo32 v) })
    s.msixControl p u i (v.getLsbD 32)
  | .migH i => s.writeMigH p u i v
  | _ => s

/-- Whether a dword of BAR 0 belongs to a push window, which drops a 32-bit write (14 R372). -/
def VfReg.isPush : VfReg → Bool
  | .pushJ _ => true | .pushS _ => true | _ => false

/-- A host write of `n` bytes, 4 or 8, at offset `o` of BAR 0. -/
def State.bar0Write (s : State) (p u o n : Nat) (v : Word) : State :=
  let r := vfReg o
  if r.isPush && n != 8 then s else s.vfWrite p u r (withPart (s.vfBase p u r) v o n)

/-- A host write of `n` bytes at offset `o` of BAR 0 arrives. A function whose tenant is off answers Unsupported Request, and a
submit to it sets OVF (R426; 14 R372); any other write performs after every earlier one of the function (05 R144), and is held
behind one that has not (log 74). -/
def State.hostMmio (s : State) (p u o n : Nat) (v : Word) : State :=
  if !(s.pkgAt p).linkUp then s
  else if (s.tenAt p u).isOff then
    let s := match vfReg o with
      | .pushJ 7 => if n = 8 then s.submit p u false else s
      | .pushS 7 => if n = 8 then s.submit p u true else s
      | _ => s
    { s with answer := ansUnsupported }
  else if (s.pkgAt p).held.any (fun e => e.write && e.tenant.toNat == u) then
    { s.modPkg p (fun k => { k with held := k.held ++ [⟨BitVec.ofNat 8 u, true, true, false, o, v, n, [], s.wall⟩] })
      with answer := ansHeld }
  else { s.bar0Write p u o n v with answer := ansOk [] }

/-- Held access number `i` of the H-die tries again in its turn (R93; 05 R144). -/
def State.retryHeld (s : State) (p i : Nat) : State :=
  match (s.pkgAt p).held[i]? with
  | none => s
  | some h =>
    if !(s.pkgAt p).heldTurn i then s
    else if h.mmio then
      { (s.modPkg p (fun k => { k with held := k.held.eraseIdx i })).bar0Write p h.tenant.toNat h.off h.len h.va
        with answer := ansOk [] }
    else s.retryAccess p i h

/-- The host reads the dword at offset `o` of BAR 0 of tenant `u`'s function. -/
def State.hostRead (s : State) (p u o : Nat) : State :=
  if !(s.pkgAt p).linkUp then s
  else if (s.tenAt p u).isOff then { s with answer := ansUnsupported }
  else dwordAnswer (s.vfRead p u (vfReg o))

/-! ### Windows, translation roots, budgets (01 R27, R31; 03 R74, R90) -/

/-- TENANT_WINDOW_WRITE of dword `idx` of the tenant's 32, which waits as TROOT_WRITE does. The manual puts the entries in the
H-die block and gives them no offset: they have none here, and only this event writes them (DESIGN CHOICE, log 70). -/
def execTenantWindowWrite (s : State) : Host.Outcome State Fault Refusal :=
  .next ((s.writeWindow s.evPkg s.evTen s.arg.idx s.arg.val).getD s)

/-- TROOT_WRITE: it waits until the requests made through the old translations have been accepted. -/
def execTrootWrite (s : State) : Host.Outcome State Fault Refusal :=
  .next ((s.writeTroot s.evPkg s.evTen s.arg.val).getD s)

/-- HBMSPLIT_WRITE. -/
def execHbmsplitWrite (s : State) : Host.Outcome State Fault Refusal := .next (s.writeHbmsplit s.evPkg s.arg.val)

/-- TBUDGET_WRITE; a variant pick that waits is tried again at the next dispatch. -/
def execTbudgetWrite (s : State) : Host.Outcome State Fault Refusal := .next (s.writeTbudget s.evPkg s.evTen s.arg.val)

/-! ### Migration (03 R84 to R87) -/

/-- MIGREQ_SUBMIT: dword 3 of the device-side port. -/
def execMigreqSubmit (s : State) : Host.Outcome State Fault Refusal :=
  let s := s.modTen s.evPkg s.evTen (fun a => { a with mig := vset a.mig 3 s.arg.val })
  .next (s.submitMigration s.evPkg s.evTen false)

/-- MIGREQH_SUBMIT: dword 3 of the host-side port. -/
def execMigreqhSubmit (s : State) : Host.Outcome State Fault Refusal :=
  .next (s.hostMmio s.evPkg s.evTen 0x4018 8 s.arg.val)

/-- MIGRATION_RUN. -/
def execMigrationRun (s : State) : Host.Outcome State Fault Refusal := .next (s.runMigration s.evPkg)

/-- MIGRATION_COMPLETE of request `id` of the queue. -/
def execMigrationComplete (s : State) : Host.Outcome State Fault Refusal := .next (s.completeMigration s.evPkg s.arg.id)

/-! ### Host accesses and walks (03 R73 to R77, R91 to R93) -/

/-- HFPOP. -/
def execHfpop (s : State) : Host.Outcome State Fault Refusal := .next (dwordAnswer (s.popHostFault s.evPkg s.evTen))

/-- PAGE_WALK: the translation of `val` for the walker that asks; its fault is that of the access it serves. -/
def execPageWalk (s : State) : Host.Outcome State Fault Refusal :=
  let va := s.arg.val.toNat % 2 ^ 56
  let (t, sel) := match s.arg.walker with
    | .core t => (t.toNat, TlbSel.core)
    | .stream t k => (t.toNat, if k.isCore then .core else .stream k)
    | .host => (0, .host)
  .next (s.translate s.evPkg t sel s.evTen va 0).1

/-- HOST_READ of `idx` bytes at BAR 2 offset `off`. -/
def execHostRead (s : State) : Host.Outcome State Fault Refusal :=
  .next (s.hostAccess s.evPkg s.evTen false s.arg.off.toNat s.arg.idx [])

/-- HOST_WRITE of the bytes of `data`. -/
def execHostWrite (s : State) : Host.Outcome State Fault Refusal :=
  .next (s.hostAccess s.evPkg s.evTen true s.arg.off.toNat s.arg.data.length s.arg.data)

/-- HOST_HELD_COMPLETE of held access `id`. -/
def execHostHeldComplete (s : State) : Host.Outcome State Fault Refusal := .next (s.retryHeld s.evPkg s.arg.id)

/-- HOST_HELD_EXPIRE of held access `id`. -/
def execHostHeldExpire (s : State) : Host.Outcome State Fault Refusal := .next (s.expireHeld s.evPkg s.arg.id)

/-! ### The content-addressed region (04 R96, R106) -/

/-- CACTL_ENABLE of domain `idx`. -/
def execCactlEnable (s : State) : Host.Outcome State Fault Refusal := .next (s.caEnable s.evPkg (s.arg.idx % 256))

/-- CACTL_DISABLE of domain `idx`; it waits for the operations that homes have accepted. -/
def execCactlDisable (s : State) : Host.Outcome State Fault Refusal :=
  .next ((s.caDisable s.evPkg (s.arg.idx % 256)).getD s)

/-- CATEN_WRITE; it waits while a reference that it releases must. -/
def execCatenWrite (s : State) : Host.Outcome State Fault Refusal :=
  .next ((s.catenWrite s.evPkg s.evTen s.arg.val).getD s)

/-- CA_RECLAIM on die `idx2` of the pool of domain `idx` in package `pkg`. -/
def execCaReclaim (s : State) : Host.Outcome State Fault Refusal :=
  .next (s.caReclaim s.evPkg (s.arg.idx % 256) (s.arg.idx2 % 4))

/-- RECLAIM_FINISH. -/
def execReclaimFinish (s : State) : Host.Outcome State Fault Refusal :=
  .next (s.caFinish s.evPkg (s.arg.idx % 256) (s.arg.idx2 % 4))

/-! ### Requests in flight (02 R41, R62 to R69) -/

/-- Request `id`. -/
def State.reqAt (s : State) (id : Nat) : Option Req := s.reqs.find? (fun r => r.id == id)

/-- A place is a tile's. -/
def Place.isTile : Place → Bool
  | .tile _ _ => true
  | _ => false

/-- A request performs, and a fault that its answer brings is delivered (15 R385). -/
def State.serve (s : State) (r : Req) : State :=
  (if r.st == .again then s.advance r.by_ else s.performReq r).noticeDeferred r.by_.key

/-- HOME_REQUEST: request `id` performs at its home, or is sent again when its page can be translated (03 R87). -/
def execHomeRequest (s : State) : Host.Outcome State Fault Refusal :=
  match s.reqAt s.arg.id with
  | some r => if (s.placeOf r.pa).isTile then .next s else .next (s.serve r)
  | none => .next s

/-- TILE_ADDRESSED_REQUEST: request `id` performs at its tile. -/
def execTileAddressedRequest (s : State) : Host.Outcome State Fault Refusal :=
  match s.reqAt s.arg.id with
  | some r => if (s.placeOf r.pa).isTile then .next (s.serve r) else .next s
  | none => .next s

/-- The timeout of a request has passed: 8 µs inside the package, 64 µs outside (R66). -/
def State.timedOut (s : State) (r : Req) : Bool :=
  (r.st == .sent || r.st == .accepted || r.st == .lost || r.st == .unanswered)
    && s.overdue (keyPkg r.by_.key) (s.placeOf r.pa) r.sentAt

/-- Request `r` travels once more: one lost is on its way again, and a duplicate of one that has performed is answered from the
kept result (02 R67). -/
def State.resend (s : State) (r : Req) : State :=
  let s := s.modReq r.id (fun q =>
    { q with sentAt := s.wall, reissues := q.reissues + 1, st := if q.st == .lost then .sent else q.st })
  let s := s.countTile (r.by_.key / 4) (fun t => { t with reissue := t.reissue + 1 })
  if r.st == .unanswered && s.wayOf r == .through then (s.dropReq r.id).advance r.by_ else s

/-- REQUEST_REISSUE: at most three times, with the same number, and not counted among the requests. -/
def execRequestReissue (s : State) : Host.Outcome State Fault Refusal :=
  match s.reqAt s.arg.id with
  | some r =>
    if s.timedOut r && decide (r.reissues < 3) then .next (s.resend r) else .next s
  | none => .next s

/-- A failing response to request `r`, and the deferred fault it brings (15 R385). -/
def State.failWith (s : State) (r : Req) (c : Cause) : State := (((s.failReq r c).advance r.by_).advanceOwn).noticeDeferred r.by_.key

/-- REQUEST_TIMEOUT: the timeout after three reissues. -/
def execRequestTimeout (s : State) : Host.Outcome State Fault Refusal :=
  match s.reqAt s.arg.id with
  | some r => if s.timedOut r && r.reissues == 3 then .next (s.failWith r .requestTimeout) else .next s
  | none => .next s

/-- The cause that a response carries. -/
def respCause : RespCause → Cause
  | .dataError => .dataError
  | .requestTimeout => .requestTimeout
  | .protection => .protection

/-- A response to request `r` may bring a cause (15 R385): a timeout when it is due; an error once the request is performed at its
place, Protection from a tile marked absent alone. -/
def State.mayBring (s : State) (r : Req) (c : RespCause) : Bool :=
  match c with
  | .requestTimeout => s.timedOut r && r.reissues == 3
  | .protection => s.mayPerform r && s.absent r.pa
  | .dataError => s.mayPerform r

/-- DEFERRED_FAULT: the response to request `id` brings a cause. -/
def execDeferredFault (s : State) : Host.Outcome State Fault Refusal :=
  match s.reqAt s.arg.id with
  | some r => if s.mayBring r s.arg.cause then .next (s.failWith r (respCause s.arg.cause)) else .next s
  | none => .next s

/-- The other direction of die-to-die link 8 × from + to. -/
def linkBack (l : Nat) : Nat := l % 8 * 8 + l / 8

/-- A CRC error on die-to-die link `l` of package `p` (R69): the dictionaries of both ends are reset, and the flits in flight are
discarded. The requests that they carried are lost, until they are issued again. -/
def State.linkError (s : State) (p l : Nat) : State :=
  let bad := [(p, l), (p, linkBack l)]
  let s := s.modPkg p (fun k =>
    { k with dicts := bad.foldl (fun m x => mdel m x.2) k.dicts, linkErr := bad.foldl (fun m x => mput m x.2 s.wall) k.linkErr })
  { s with reqs := s.reqs.map (fun r =>
      if r.st == .sent && (wayTo (keyPkg r.by_.key) (dieOf (keyTile r.by_.key)) (s.placeOf r.pa)).any (fun x => bad.contains x)
      then { r with st := .lost } else r) }

/-- DIE_LINK_CRC_ERROR on link `idx`. -/
def execDieLinkCrcError (s : State) : Host.Outcome State Fault Refusal := .next (s.linkError s.evPkg s.arg.idx)

/-! ### Rings (02 R58 to R60) -/

/-- What an update of ring `idx` of a tile leaves. -/
def State.ringEvent (s : State) (f : Ring → Option RingOut) : State :=
  match f (s.ringAt s.evTKey (s.arg.idx % 64)) with
  | some o => s.putRing s.evTKey (s.arg.idx % 64) o.pump
  | none => s

/-- RING_WAITER_GRANT: the updates that waiting operations call for, in order. -/
def execRingWaiterGrant (s : State) : Host.Outcome State Fault Refusal := .next (s.ringEvent Ring.pump1)

/-- RING_WAITER_ORPHAN: those that can no longer be satisfied complete orphaned. -/
def execRingWaiterOrphan (s : State) : Host.Outcome State Fault Refusal :=
  .next (s.ringEvent (fun r => if r.dry then r.pump1 else none))

/-- VOID_RANGE_FILL. -/
def execVoidRangeFill (s : State) : Host.Outcome State Fault Refusal :=
  .next (s.ringEvent (fun r => if r.st = .active then firstOf (r.voidRanges.map r.tryVoid) else none))

/-- DEPARTED_TAKE_FREE. -/
def execDepartedTakeFree (s : State) : Host.Outcome State Fault Refusal :=
  .next (s.ringEvent (fun r => if r.st = .active then firstOf (r.freeRanges.map r.tryDeparted) else none))

/-! ### Neighbour links (10 R261) -/

/-- The incoming side an element enters: dq6 before dq7, of a job of the same tenant, bound to the link, with room. -/
def State.nbRoom (s : State) (key l : Nat) (u : Tenant) : Option Nat :=
  match s.jobAt key with
  | none => none
  | some j =>
    match (List.range 2).find? (fun q => (vget j.nq q).link == some (BitVec.ofNat 2 l)) with
    | some q => if j.tenant = u ∧ (vget j.nq q).inq.length < 64 then some q else none
    | none => none

/-- The oldest outgoing element of dq6 or dq7 (side `idx`) of a job reaches the neighbour, or is discarded when the
neighbour is absent. -/
def State.nbDeliver (s : State) (q : Nat) : State :=
  match s.jobAt s.evKey with
  | none => s
  | some j =>
    let n := vget j.nq q
    match n.link, n.outq with
    | some l, v :: rest =>
      let pop := fun (s : State) => s.modJob s.evKey (fun j => { j with nq := vset j.nq q { vget j.nq q with outq := rest } })
      match neighbour s.evTile l.toNat with
      | none => s
      | some t =>
        if !s.tilePresent s.evPkg t then s.modJob s.evKey (fun j => { j with nq := vset j.nq q { vget j.nq q with outq := [] } })
        else
          let key := slotKey s.evPkg t s.arg.slot.toNat
          match s.nbRoom key (l.toNat ^^^ 2) j.tenant with
          | none => s
          | some k => (pop s).modJob key (fun j =>
              { j with nq := vset j.nq k { vget j.nq k with inq := (vget j.nq k).inq ++ [v] } })
    | _, _ => s

/-- NEIGHBOUR_DELIVERY. -/
def execNeighbourDelivery (s : State) : Host.Outcome State Fault Refusal := .next (s.nbDeliver (s.arg.idx % 2))

/-! ### Power, sensors and repair (20 R430 to R435) -/

/-- CAP_EVALUATE with an average power of `idx` W, once every PCWIN ÷ 8 µs. -/
def execCapEvaluate (s : State) : Host.Outcome State Fault Refusal :=
  let k := s.pkgAt s.evPkg
  if s.wall - k.lastEval < us k.pcwinNow / 8 then .next s
  else .next ((s.modPkg s.evPkg (fun k => { k with lastEval := s.wall })).capEvaluate s.evPkg s.arg.idx)

/-- CEILING_FALL. -/
def execCeilingFall (s : State) : Host.Outcome State Fault Refusal := .next (s.ceilingFall s.evPkg)

/-- SENSOR_SAMPLE of region `idx`, every 10 µs. -/
def execSensorSample (s : State) : Host.Outcome State Fault Refusal :=
  let k := s.pkgAt s.evPkg
  if (mget k.lastSample s.arg.idx).any (fun t => decide (s.wall - t < us 10)) then .next s
  else .next ((s.modPkg s.evPkg (fun k => { k with lastSample := mput k.lastSample s.arg.idx s.wall })).sample
    s.evPkg s.arg.idx s.arg.temps)

/-- SENSTAT_CLEAR of region `idx`. -/
def execSenstatClear (s : State) : Host.Outcome State Fault Refusal :=
  .next (s.clearSensor s.evPkg s.arg.idx s.arg.val)

/-- INFIELD_TEST of a tile: it starts, or ends with a pass or a failure. -/
def execInfieldTest (s : State) : Host.Outcome State Fault Refusal :=
  .next (s.fieldTest s.evPkg s.evTile s.arg.yes)

/-- DROOP_WINDOW_OPEN on rail `idx` (15 R404). -/
def execDroopWindowOpen (s : State) : Host.Outcome State Fault Refusal :=
  let r := s.arg.idx % 4
  .next (s.modPkg s.evPkg (fun k => { k with droop := setBits k.droop r r 1, droopAt := vset k.droopAt r (s.phase s.evPkg) }))

/-! ### The host link (20 R426 to R429) -/

/-- SORARO_LINK_DOWN. -/
def execSoraroLinkDown (s : State) : Host.Outcome State Fault Refusal :=
  .next (s.linkDown s.evPkg)

/-- SIGNAL_RECORD_WRITE. -/
def execSignalRecordWrite (s : State) : Host.Outcome State Fault Refusal := .next (s.signalRecord s.evPkg s.evTen)

/-- HOST_DELIVERY_EXPIRE. -/
def execHostDeliveryExpire (s : State) : Host.Outcome State Fault Refusal := .next (s.dropUndelivered s.evPkg)

/-- VPEND_CLEAR. -/
def execVpendClear (s : State) : Host.Outcome State Fault Refusal :=
  .next (s.hostMmio s.evPkg s.evTen 0 8 s.arg.val)

/-- MSIX_UNMASK of entry `idx`. -/
def execMsixUnmask (s : State) : Host.Outcome State Fault Refusal :=
  .next (s.hostMmio s.evPkg s.evTen (0x300C + 16 * (s.arg.idx % 16)) 4 0)

/-- SQCTL_READ. -/
def execSqctlRead (s : State) : Host.Outcome State Fault Refusal :=
  .next (s.hostRead s.evPkg s.evTen 0x2020)

/-! ### Quiesce (20 R441) -/

/-- QUIESCE_STOP. -/
def execQuiesceStop (s : State) : Host.Outcome State Fault Refusal := .next (s.quiesceStop s.evPkg)

/-- QUIESCE_DEADLINE. -/
def execQuiesceDeadline (s : State) : Host.Outcome State Fault Refusal := .next (s.quiesceDeadline s.evPkg)

/-- QUIESCE_ISOLATE. -/
def execQuiesceIsolate (s : State) : Host.Outcome State Fault Refusal := .next (s.quiesceIsolate s.evPkg)

/-- QUIESCE_RESUME. -/
def execQuiesceResume (s : State) : Host.Outcome State Fault Refusal := .next (s.quiesceResume s.evPkg)

/-! ### MMIO (01 R32 to R34; 09 R241) -/

/-- MMIO_IMEM_WRITE at offset `off` of a tile block, of 4 or 8 bytes, by tenant supervisor or firmware. -/
def execMmioImemWrite (s : State) : Host.Outcome State Fault Refusal :=
  let o := s.arg.off.toNat
  let n := if s.arg.yes then 4 else 8
  if s.arg.level.geb .sup && tspot o == .imem && o % n == 0 then
    .next (s.writeImemWords s.evPkg s.evTile o n s.arg.val)
  else .next s

/-- MMIO_TAG_WINDOW_WRITE. -/
def execMmioTagWindowWrite (s : State) : Host.Outcome State Fault Refusal :=
  let o := s.arg.off.toNat
  let n := if s.arg.yes then 4 else 8
  if s.arg.level.geb .sup && tspot o == .tags && o % n == 0 then .next (s.writeTags s.evPkg s.evTile o n s.arg.val)
  else .next s

/-- MMIO_SYSREG_WRITE of register `idx2` of core `idx` of a slot. -/
def execMmioSysregWrite (s : State) : Host.Outcome State Fault Refusal :=
  if s.arg.level.geb .sup then .next (s.sysWriteShown s.evKey (s.arg.idx % 2) s.arg.idx2 s.arg.val) else .next s

/-- MMIO_REGISTER_WRITE of 8 bytes, or 4 if `yes`: by a core, the management interface or system software at physical address
`off`, or of BAR 0 by the host if `also`. One that raises Protection or waits has no effect here. -/
def execMmioRegisterWrite (s : State) : Host.Outcome State Fault Refusal :=
    let n := if s.arg.yes then 4 else 8
    if s.arg.off.toNat % n ≠ 0 then .next s
    else if s.arg.also then .next (s.hostMmio s.evPkg s.evTen s.arg.off.toNat n s.arg.val)
    else match s.mmioWrite s.arg.off.toNat n s.arg.val s.arg.level with
      | .ok _ s => .next s
      | _ => .next s

end Sys2Proof.Machine
end

