-- ==== Sys2Proof/Machine/FabricEvents.lean ====
section
/-!
DEFINITION. Events of the fabric (13): ports and lanes (R347 to R350), circuits (R351 to R363), flows (R354 to R357)
and collectives (R366 to R368). Where an event does not apply, it leaves the state as it is (log 16).
-/

namespace Sys2Proof.Machine

/-! ### Ports (R347 to R350; 20 R435) -/

/-- Update of port `idx` of the package that an event names. -/
def State.modPort (s : State) (f : Port → Port) : State :=
  s.modPkg s.evPkg (fun k => { k with port := vset k.port s.arg.idx (f (vget k.port s.arg.idx)) })

/-- FLIT_NACK_REPLAY: a replay that succeeds, or if `yes` one that fails again. Data and order are those sent (R347). -/
def execFlitNackReplay (s : State) : Host.Outcome State Fault Refusal :=
  .next (s.modPort (fun k => { k with nacks := if s.arg.yes then min 16 (k.nacks + 1) else 0 }))

/-- The packet plane of port `idx` changes; the packets in flight on its link are lost as it goes down (R349). -/
def State.modPlane (s : State) (f : Port → Port) : State :=
  let was := (vget (s.pkgAt s.evPkg).port s.arg.idx).pstate
  let t := s.modPort f
  if was < 2 ∧ (vget (t.pkgAt s.evPkg).port s.arg.idx).pstate = 2 then (s.losePackets s.evPkg s.arg.idx).modPort f else t

/-- PLANE_DOWN after sixteen failed replays; packets take another way (R349). -/
def execPlaneDown (s : State) : Host.Outcome State Fault Refusal :=
  .next (s.modPlane (fun k => if 16 ≤ k.nacks then { k with pdown := true } else k))

/-- A circuit-plane lane fails: the circuits that R348 names break. -/
def State.circuitLane (s : State) : State :=
  let p := s.evPkg
  let q := s.arg.idx
  let n := (vget (s.pkgAt p).port q).clost + 1
  let s := if n ≤ 2 then s.breakPort p q 0 6 else if n ≤ 10 then s.breakPort p q 5 6 else s.breakPort p q 0 5
  s.modPort (fun k => { k with clost := min 18 n })

/-- LANE_FAILURE of the packet plane, or if `yes` of the circuit plane. -/
def execLaneFailure (s : State) : Host.Outcome State Fault Refusal :=
  if s.arg.yes then .next s.circuitLane else .next (s.modPlane (fun k => { k with plost := min 18 (k.plost + 1) }))

/-- LANE_RETRAIN: lanes that train again return, which leaves `id` packet and `idx2` circuit lanes failed; it breaks no
circuit. -/
def execLaneRetrain (s : State) : Host.Outcome State Fault Refusal :=
  .next (s.modPort (fun k => { k with plost := min k.plost s.arg.id, clost := min k.clost s.arg.idx2 }))

/-- PORT_ISOLATE. -/
def execPortIsolate (s : State) : Host.Outcome State Fault Refusal := .next (s.isolatePort s.evPkg s.arg.idx)

/-- PORT_RETRAIN. -/
def execPortRetrain (s : State) : Host.Outcome State Fault Refusal := .next (s.retrainPort s.evPkg s.arg.idx)

/-! ### Circuits (R351, R352, R360, R363) -/

/-- CIRCUIT_BEAT_LAND of circuit `id`, a program's or a promoted flow's: the oldest beat on its way lands, or its CRC fails
unless `yes`. -/
def execCircuitBeatLand (s : State) : Host.Outcome State Fault Refusal :=
  match s.circ s.arg.id with
  | some c =>
    if !c.alive || c.words.isEmpty then .next s
    else if s.arg.yes then .next (s.landBeat c 1)
    else .next (s.breakCircuit c.id 9 .receiver)
  | none => .next s

/-- BREAK_SIGNAL_ARRIVAL: the sender's record turns broken, with no resume point yet. -/
def execBreakSignalArrival (s : State) : Host.Outcome State Fault Refusal :=
  match s.circ s.arg.id with
  | some c =>
    match c.signal with
    | some code =>
      let s := s.modSend c (fun r => { r with st := endState code.toNat, cause := code, resume := none })
      .next (s.setCirc { c with signal := none })
    | none => .next s
  | none => .next s

/-- The break notice of circuit `c` reaches its sender (R360): cause and resume point become those of both ends, and nothing is
left of the circuit. That of a promoted flow's stays until its words past the resume point have been sent again (R357). -/
def State.notice (s : State) (c : Circuit) (code : BitVec 4) (n : W32) : State :=
  match c.flow with
  | some f => if c.sent = c.delivered then s.clearFlow f else s.setCirc { c with signal := none, notice := none }
  | none => (s.modSend c (fun r => { r with st := endState code.toNat, cause := code, resume := some n })).dropCirc c.id

/-- BREAK_NOTICE: it does not arrive where no packet passes, and a sender in its frame takes it when it has resumed. -/
def execBreakNotice (s : State) : Host.Outcome State Fault Refusal :=
  match s.circ s.arg.id with
  | some c =>
    match c.notice with
    | some (code, n) => if !s.reaches c.dstPkg (keyPkg c.src) || s.inFrame c.srcJid then .next s else .next (s.notice c code n)
    | none => .next s
  | none => .next s

/-- LEASE_EXPIRY of circuit `id` (R363). -/
def execLeaseExpiry (s : State) : Host.Outcome State Fault Refusal :=
  match s.circ s.arg.id with
  | some c =>
    if c.alive && s.expired c then .next (s.breakCircuit c.id 3 .sender) else .next s
  | none => .next s

/-! ### Flows (R353 to R357) -/

/-- Flow `id`. -/
def State.flowAt (s : State) (id : Nat) : Option Flow := s.flows.find? (fun f => f.id == id)

/-- Update of a flow. -/
def State.modFlow (s : State) (id : Nat) (f : Flow → Flow) : State :=
  { s with flows := s.flows.map (fun x => if x.id = id then f x else x) }

/-- FLOW_METER_WINDOW_END of cluster `idx`: after FMWIN core cycles its counts are cleared. -/
def execFlowMeterWindowEnd (s : State) : Host.Outcome State Fault Refusal :=
  if s.windowOver s.evPkg s.arg.idx then .next (s.newWindow s.evPkg s.arg.idx) else .next s

/-- The flow may launch a probe: its count has reached the threshold within one window (R354, R355). -/
def State.mayProbe (s : State) (f : Flow) : Bool :=
  let n := (s.pkgAt f.pkg).fmthr
  f.st == .metered && f.eligible && n != 0 && decide (n ≤ f.bytes) && !s.windowOver f.pkg (f.tile / 4)
    && (s.pkgAt f.pkg).svc != 0

/-- The circuit of a flow whose probe has succeeded. -/
def flowCirc (id : Nat) (f : Flow) (links : List Link) : Circuit :=
  { id := id, src := f.by_.key, srcJid := f.by_.jid, srcRec := 0, flow := some f.id, dst := 0, dstJid := 0, dstRec := 0, cls := f.cls
    links := links, leaseEnd := 0, next := 0, stop := 0, dstPkg := f.dstPkg, dstTile := f.dstTile, words := [], sent := 0
    delivered := 0, first := 0, alive := true, endedAt := 0, signal := none, notice := none }

/-- FLOW_PROBE of flow `id` (R353, R354): it reserves a path, or the flow enters hold-off. -/
def execFlowProbe (s : State) : Host.Outcome State Fault Refusal :=
  match s.flowAt s.arg.id with
  | some f =>
    if !s.mayProbe f then .next s
    else match s.probe f.pkg f.tile f.dstPkg f.dstTile f.cls with
      | (s, some links) =>
        let s1 := s.take.2
        .next (({ s1 with circuits := s1.circuits ++ [flowCirc s.fresh f links] }).modFlow f.id (fun x => { x with st := .probing }))
      | (s, none) =>
        .next (s.modFlow f.id (fun x => { x with st := .holdoff (s.phase f.pkg + cycles (s.pkgAt f.pkg).fmhold) }))
  | none => .next s

/-- FLOW_PROMOTE of flow `id`: the switch marker is its last packet, and its next elements travel on the circuit
(R356). -/
def execFlowPromote (s : State) : Host.Outcome State Fault Refusal :=
  match s.flowAt s.arg.id with
  | some f =>
    match f.st, s.circuits.find? (fun c => c.flow == some f.id && c.alive) with
    | .probing, some c => .next (s.modFlow f.id (fun x => { x with st := .promoted c.id }))
    | _, _ => .next s
  | none => .next s

/-- HOLDOFF_EXPIRE of flow `id`. -/
def execHoldoffExpire (s : State) : Host.Outcome State Fault Refusal :=
  match s.flowAt s.arg.id with
  | some f =>
    match f.st with
    | .holdoff t => if t ≤ s.phase f.pkg then .next (s.modFlow f.id (fun x => { x with st := .metered })) else .next s
    | _ => .next s
  | none => .next s

/-- FLOW_IDLE_CLOSE of flow `id` (R357). -/
def execFlowIdleClose (s : State) : Host.Outcome State Fault Refusal :=
  match s.flowAt s.arg.id with
  | some f =>
    if f.circuited && s.passed f.pkg f.lastSent (s.pkgAt f.pkg).fmidle then .next (s.closeFlow f)
    else .next s
  | none => .next s

/-! ### Collectives (R366 to R368) -/

/-- DOMINO_FIRE of entry `idx` at its root package. -/
def execDominoFire (s : State) : Host.Outcome State Fault Refusal := .next (s.fire s.evPkg s.evTen s.arg.idx)

/-- DOMINO_COMPLETE. -/
def execDominoComplete (s : State) : Host.Outcome State Fault Refusal := .next (s.complete s.evPkg s.evTen s.arg.idx)

end Sys2Proof.Machine
end

