-- ==== Sys2Proof/Machine/Fetch.lean ====
section
/-!
DEFINITION. Fetching: which streams of a job may act (06 R153, R155; 15 R389, R392), what a core and an engine
stream fetch (01 R20; 08 R196, R197, R202, R209; 11 R280), and the code load of the C stream (06 R164; 08 R218).
-/

namespace Sys2Proof.Machine

/-! ### Which streams may act -/

/-- The core of kind `k` has sent a request whose answer it still waits for (10 R253). -/
def Job.asks (j : Job) (k : Kind) : Bool := k.isCore && (j.core k).asked.isSome

/-- A stream of kind `k` of the job may act now: while a load runs only the C stream; in a handler only the handling core; in a
freeze the X-core after an A-core fault, a word that runs on (03 R81, R82), and a core that waits for an answer (10 R253), which
a checkpoint and a kill wait for too. -/
def Job.mayAct (j : Job) (k : Kind) : Bool :=
  match j.st with
  | .running => if j.c.load.isSome then k == .C else !j.finished k
  | .handler => k == j.hcore && !j.finished k
  | .freezing =>
    if k.isCore then j.asks k || (k == .X && j.astop.isSome && !j.x.stopped && !j.x.fin) else j.wordGoes 5 k
  | .killing _ => if k.isCore then j.asks k else j.wordGoes 5 k
  | .checkpointing => j.asks k
  | .frozen => false

/-! ### Cores -/

/-- What a core's fetch gives: an instruction, or the cause of a fetch or decode failure with its EVA where the
manual gives one. -/
inductive CoreFetch where
  | run (i : Instr)
  | fail (c : Cause) (eva : Option Word)
  deriving DecidableEq, Repr

/-- The word after the instruction at `pc`. -/
def State.litAfter (s : State) (p t pc : Nat) : LitFetch :=
  if 0x4_0000 ≤ pc + 4 then .outside else .word (s.litTag p t (pc + 4)) (s.imem p t (pc + 4))

/-- The fetch at IMEM address `pc` of a tile: steps 1 and 2 of R202. -/
def State.coreFetch (s : State) (p t pc : Nat) : CoreFetch :=
  if 0x4_0000 ≤ pc then .fail .localRange (some (BitVec.ofNat 64 pc))
  else if s.litTag p t pc then .fail .literalTarget none
  else match decode (s.imem p t pc) (s.litAfter p t pc) with
    | .ok i => .run i
    | .error .litOutside => .fail .localRange none
    | .error _ => .fail .illegal none

/-- The fetch of the core stream that acts. -/
def State.fetchHere (s : State) (j : Job) : CoreFetch :=
  s.coreFetch s.fpkg s.ftile (j.core s.focus.kind).pc.toNat

/-- The fault of a core whose fetch failed: the instruction has no effect. -/
def fetchFail (c : Cause) (eva : Option Word) (s : State) : Host.Outcome State Fault Refusal :=
  coreExec 4 false [] (fun _ _ s => match eva with
    | some v => .raise s c v
    | none => raiseFree s c) s

/-- ILLEGAL_INSTRUCTION (08 R203): the core that acts meets a word that no encoding matches, or a fetch fault. -/
def execIllegalInstruction (s : State) : Host.Outcome State Fault Refusal :=
  match s.jobAt s.key with
  | none => .fault .noStream
  | some j =>
    match s.fetchHere j with
    | .run _ => .next s
    | .fail c eva => fetchFail c eva s

/-! ### Engine streams -/

/-- What an engine stream's fetch gives. -/
inductive EngineFetch where
  | run (i : Instr)
  | fail (c : Cause) (eva : Word)
  deriving DecidableEq, Repr

/-- The fetch of an engine stream: a word under way is held as it was fetched (01 R34). -/
def State.engineFetch (s : State) (p t : Nat) (e : Engine) : EngineFetch :=
  let dec := fun (w : BitVec 48) => match decodeEngine w with
    | .ok i => EngineFetch.run i
    | .error _ => .fail .engineWord (BitVec.ofNat 64 e.pc)
  match e.pos.bind (fun w => w.fetched) with
  | some (w, _) => dec w
  | none => if 16384 ≤ e.pc then .fail .localRange (BitVec.ofNat 64 e.pc) else dec (s.emem p t e.pc)

/-- ENGINE_DECODE_FAILURE (08 R209): the engine stream that acts stops before the word's pop. -/
def execEngineDecodeFailure (s : State) : Host.Outcome State Fault Refusal :=
  match s.jobAt s.key with
  | none => .fault .noStream
  | some j =>
    let e := j.eng s.focus.kind
    match s.engineFetch s.fpkg s.ftile e with
    | .run _ => .next s
    | .fail c eva => .next (s.engineFault e.pos c eva e.pc)

/-- The code load of the C stream: a fault of it is one before any word; when it is complete the job's streams go
on, and a C stream that the kernel does not have is finished. -/
def State.runLoad (s : State) (j : Job) (l : Load) : State :=
  if s.engineTaken || s.drooping then s
  else
    match s.loadImage s.fpkg s.ftile s.focus.slot.toNat j.tenant.toNat j.kern.image.toNat (l == .image) with
    | (s, .ok _) => s.modEng (fun e => { e with load := none, fin := e.fin || !j.kern.smask.getLsbD Kind.C.code })
    | (s, .fault c eva) => s.engineFault none c eva s.epc
    | (x, .wait) => s.heldBack x

end Sys2Proof.Machine
end

