-- ==== Sys2Proof/Machine/PinUnit.lean ====
section
/-!
DEFINITION. Pinwheel's integrator array (12 R321 to R330, R337): patch entries, domains, the array cycle, deliveries,
samples and the save image.
-/

namespace Sys2Proof.Machine

/-! ### Cells and patch entries (R322 to R324) -/

/-- Cell `i`. -/
def Pinwheel.cell (p : Pinwheel) (i : Nat) : Cell := (mget p.cells i).getD Cell.reset
/-- Cell `i` set; a cleared cell stands unlisted. -/
def Pinwheel.setCell (p : Pinwheel) (i : Nat) (c : Cell) : Pinwheel :=
  { p with cells := if c = Cell.reset then mdel p.cells i else mput p.cells i c }
/-- Patch entry of cell `i`. -/
def Pinwheel.entry (p : Pinwheel) (i : Nat) : Word := (mget p.patch i).getD 0
def Pinwheel.setEntry (p : Pinwheel) (i : Nat) (v : Word) : Pinwheel :=
  { p with patch := if v = 0 then mdel p.patch i else mput p.patch i v }

def patchWsh (e : Word) : Nat := bits e 63 59
def patchDom (e : Word) : Nat := bits e 58 56
def patchOn (e : Word) : Bool := e.getLsbD 55
def patchNeg (e : Word) (q : Nat) : Bool := e.getLsbD (48 + q)
def patchSrc (e : Word) (q : Nat) : Nat := bits e (10 * q + 9) (10 * q)

/-- A source id that is malformed (R324). -/
def badSrc (x : Nat) : Bool := decide (768 ≤ x) && decide (x ≤ 1021)

/-- A malformed entry (R323, R324). -/
def patchBad (e : Word) : Bool :=
  bits e 54 52 != 0 || bits e 47 40 != 0 || [0, 1, 2, 3].any (fun q => badSrc (patchSrc e q))

/-- The enabled cells with their entries, in order. -/
def Pinwheel.live (p : Pinwheel) : List (Nat × Word) := p.patch.filter (fun x => patchOn x.2)

/-! ### Domains (R325, R326) -/

/-- A domain register with counter `n`. -/
def domCtr (d : Word) (n : Nat) : Word := BitVec.ofNat 64 (n % 2 ^ 16 * 2 ^ 32 + bits d 31 0)

/-- One array cycle of a domain: its register, and whether it steps. -/
def domCycle (d : Word) : Word × Bool :=
  if !d.getLsbD 16 then (d, false)
  else
    let n := bits d 47 32 + 1
    if bits d 15 0 + 1 ≤ n then (domCtr d 0, true) else (domCtr d n, false)

/-! ### One step of a cell (R327, R328) -/

/-- What a port of a stepping cell consumes: the increment and the port's pending ones after it. -/
def consume (e : Word) (c : Cell) (q : Nat) : Int × List Bool :=
  let l := vget c.pend q
  if patchSrc e q = 1023 then (if patchNeg e q then -1 else 1, l)
  else match l with
    | [] => (0, [])
    | b :: r => (if b then -1 else 1, r)

/-- The residue after `x` at dx, and what the cell emits. -/
def zStep (y z : W32) (x : Int) : W32 × Int :=
  if x = 0 then (z, 0)
  else
    let v := z.toInt + x * y.toInt
    (BitVec.ofInt 32 v, if 2 ^ 31 ≤ v then 1 else if v < -2 ^ 31 then -1 else 0)

/-- A cell after its step, what it emits, and whether its integrand overflows. -/
structure Stepped where
  cell : Cell
  out : Int
  over_ : Bool

def cellStep (e : Word) (c : Cell) : Stepped :=
  let x := consume e c 0
  let ys := [consume e c 1, consume e c 2, consume e c 3]
  let z := zStep c.y c.z x.1
  let y := c.y.toInt + (ys.map Prod.fst).sum * 2 ^ patchWsh e
  { cell := { y := BitVec.ofInt 32 y, z := z.1, count := c.count + BitVec.ofInt 32 z.2
              pend := #v[x.2, (consume e c 1).2, (consume e c 2).2, (consume e c 3).2] }
    out := z.2
    over_ := decide (y < -2 ^ 31) || decide (2 ^ 31 ≤ y) }

/-! ### Deliveries and the array cycle (R327, R329, R330) -/

/-- Deliveries to the ports of a cell from port `q` on: `outs` gives the sign of what a source sends (true for −1). The
cell, or the port that would hold a fourth increment. -/
def deliverPorts (outs : Nat → Option Bool) (e : Word) : List Nat → Cell → Except Nat Cell
  | [], c => .ok c
  | q :: l, c =>
    match outs (patchSrc e q) with
    | none => deliverPorts outs e l c
    | some b =>
      if 3 ≤ (vget c.pend q).length then .error q
      else deliverPorts outs e l { c with pend := vset c.pend q (vget c.pend q ++ [b.xor (patchNeg e q)]) }

/-- Deliveries to the cells in order, each after its own step where it made one; the fault of the lowest cell. -/
def deliverCells (outs : Nat → Option Bool) : List (Nat × Word × Stepped) → Pinwheel → Except (Cause × Nat) Pinwheel
  | [], p => .ok p
  | (i, e, t) :: l, p =>
    if t.over_ then .error (.integrand, i)
    else match deliverPorts outs e [0, 1, 2, 3] t.cell with
      | .error q => .error (.overrun, i + q * 2 ^ 9)
      | .ok c => deliverCells outs l (p.setCell i c)

/-- A cell that makes no step. -/
def Stepped.still (c : Cell) : Stepped := ⟨c, 0, false⟩

/-- One array cycle (R327): the array, or the cause and EVA of the fault that leaves it as it was. -/
def Pinwheel.cycle (p : Pinwheel) : Except (Cause × Nat) Pinwheel :=
  let doms := p.dom.map domCycle
  let on := fun (d : Nat) => (doms.toList.getD d (0, false)).2
  let steps := p.live.map (fun x =>
    (x.1, x.2, if on (patchDom x.2) then cellStep x.2 (p.cell x.1) else Stepped.still (p.cell x.1)))
  let outs := fun (src : Nat) =>
    match steps.find? (fun x => x.1 == src) with
    | some x => if x.2.2.out = 0 then none else some (decide (x.2.2.out < 0))
    | none => none
  deliverCells outs steps { p with dom := doms.map Prod.fst, cyc := p.cyc + 1 }

/-- Lane words of a beat (R324). -/
def laneWord (b : List Byte) (k : Nat) : Nat := leNat ((b.drop (4 * k)).take 4)

/-- Every lane word is 0, 1 or 0xFFFF_FFFF (R334). -/
def lanesOk (b : List Byte) : Bool :=
  (List.range 256).all (fun k => laneWord b k == 0 || laneWord b k == 1 || laneWord b k == 0xFFFF_FFFF)

/-- The lane increments of a beat delivered, all or none (R329, R330). -/
def Pinwheel.lanes (p : Pinwheel) (b : List Byte) : Except (Cause × Nat) Pinwheel :=
  let outs := fun (src : Nat) =>
    if src < 512 ∨ 768 ≤ src then none
    else match laneWord b (src - 512) with
      | 0 => none
      | 1 => some false
      | _ => some true
  deliverCells outs (p.live.map (fun x => (x.1, x.2, Stepped.still (p.cell x.1)))) p

/-! ### Samples (R334, R335) -/

/-- The sampled value of cell `i`: Y, Z or count; zero for a cell number of 512 or more. -/
def Pinwheel.sampled (p : Pinwheel) (mode i : Nat) : W32 :=
  if 512 ≤ i then 0 else match mode with
    | 0 => (p.cell i).y
    | 1 => (p.cell i).z
    | _ => (p.cell i).count

/-- A sample beat of `n` cells from `first` on. -/
def Pinwheel.sampleBeat (p : Pinwheel) (mode first n : Nat) : List Byte :=
  (List.range 256).flatMap (fun k => leBytes 4 (if k < n then (p.sampled mode (first + k)).toNat else 0))

/-- The sampled counts cleared. -/
def Pinwheel.clearCounts (p : Pinwheel) (first n : Nat) : Pinwheel :=
  (List.range n).foldl (fun p k => if 512 ≤ first + k then p else p.setCell (first + k) { p.cell (first + k) with count := 0 }) p

/-! ### Save image (R337, R339) -/

/-- Bytes of a save image. -/
def pwImageBytes : Nat := 12544

/-- The byte of a port's pending increments. -/
def pendByte (l : List Bool) : Byte :=
  let sign := fun (k : Nat) => if l.getD k false then 2 ^ (2 + k) else 0
  BitVec.ofNat 8 (l.length % 4 + sign 0 + sign 1 + sign 2)

/-- The pending increments in a byte. -/
def pendOf (b : Byte) : List Bool := (List.range (b.toNat % 4)).map (fun k => b.getLsbD (2 + k))

/-- A pending byte with a bit that must be zero. -/
def pendBad (b : Byte) : Bool := b.toNat / 2 ^ 5 != 0 || (b.toNat % 4 != 3 && b.toNat / 2 ^ (2 + b.toNat % 4) != 0)

/-- The 512 cells. -/
def cellNumbers : List Nat := List.range 512

/-- The save image of the array. -/
def Pinwheel.image (p : Pinwheel) : List Byte :=
  cellNumbers.flatMap (fun i => leBytes 8 (p.entry i).toNat)
  ++ cellNumbers.flatMap (fun i => leBytes 4 (p.cell i).y.toNat)
  ++ cellNumbers.flatMap (fun i => leBytes 4 (p.cell i).z.toNat)
  ++ cellNumbers.flatMap (fun i => leBytes 4 (p.cell i).count.toNat)
  ++ cellNumbers.flatMap (fun i => (p.cell i).pend.toList.map pendByte)
  ++ p.dom.toList.flatMap (fun d => leBytes 8 d.toNat)
  ++ List.replicate 192 0

/-- The lowest byte of an 8-byte entry in which a bit of `mask` that `v` has set lies. -/
def badByte (v : Word) (mask : Nat) : Option Nat :=
  (List.range 8).find? (fun k => v.toNat &&& mask &&& (0xFF * 2 ^ (8 * k)) != 0)

/-- The lowest offending byte of a patch entry: that of a malformed field's lowest set bit. -/
def patchBadByte (v : Word) : Option Nat :=
  badByte v (7 * 2 ^ 52 + 0xFF * 2 ^ 40
    + (([0, 1, 2, 3].filter (fun q => badSrc (patchSrc v q))).map (fun q => 0x3FF * 2 ^ (10 * q))).sum)

/-- The first offending byte of an image, as its offset (R339); `at_` reads a dword and `byte` a byte of it. -/
def imageBad (at_ : Nat → Word) (byte : Nat → Byte) : Option Nat :=
  match cellNumbers.findSome? (fun i => (patchBadByte (at_ (8 * i))).map (fun k => 8 * i + k)) with
  | some o => some o
  | none =>
    match ((List.range 2048).map (fun k => 0x2800 + k)).find? (fun o => pendBad (byte o)) with
    | some o => some o
    | none =>
      match (List.range 8).findSome? (fun d =>
          (badByte (at_ (0x3000 + 8 * d)) (0xFFFF * 2 ^ 48 + 0x7FFF * 2 ^ 17)).map (fun k => 0x3000 + 8 * d + k)) with
      | some o => some o
      | none => ((List.range 192).map (fun k => 0x3040 + k)).find? (fun o => byte o != 0)

/-- The array an image holds; the cycles counted stay. -/
def Pinwheel.load (p : Pinwheel) (at_ : Nat → Word) (byte : Nat → Byte) : Pinwheel :=
  let w := fun (o : Nat) => BitVec.ofNat 32 ((at_ (o / 8 * 8)).toNat / 2 ^ (8 * (o % 8)))
  let cell := fun (i : Nat) =>
    (⟨w (0x1000 + 4 * i), w (0x1800 + 4 * i), w (0x2000 + 4 * i),
      Vector.ofFn (fun q => pendOf (byte (0x2800 + 4 * i + q.val)))⟩ : Cell)
  let p0 : Pinwheel := { p with cells := [], patch := [], dom := Vector.ofFn (fun d => at_ (0x3000 + 8 * d.val)) }
  cellNumbers.foldl (fun p i => (p.setCell i (cell i)).setEntry i (at_ (8 * i))) p0

/-! ### The array of a tile -/

/-- The array of the tile that acts. -/
def State.pwAt (s : State) : Pinwheel := (s.tileAt s.tkey).pw
def State.modPw (s : State) (f : Pinwheel → Pinwheel) : State := s.modTile s.tkey (fun t => { t with pw := f t.pw })

/-- The W stream of a job is at rest (R339): between words, waiting for a pop, finished, absent or stopped by a fault or
freeze. -/
def Job.wRest (j : Job) : Bool := j.w.pos.isNone || j.w.fin || (j.st != .running && !j.wordGoes 5 .W)

end Sys2Proof.Machine
end

