-- ==== Sys2Proof/Machine/Preempt.lean ====
section
/-!
DEFINITION. Pre-emption (15 R395 to R402): the choice of a job to drain, checkpoint or kill, the checkpoint frame, and
the resumption of a checkpointed job.
-/

namespace Sys2Proof.Machine

/-! ### The decision (R396) -/

/-- Units of 256 engine cycles a job has run without being frozen (R396). -/
def State.ranUnits (s : State) (p : Nat) (j : Job) : Nat :=
  let live := j.st == .running || j.st == .freezing
  (j.ran + (if live then s.since p j.since else 0)) / engineCycles 256

/-- The estimate leaves at most DRBUDGET: est 0, or a job that is frozen, its own handler's among them, is unbounded. -/
def State.shortRest (s : State) (p : Nat) (j : Job) : Bool :=
  j.kern.est != 0 && j.st == .running && decide (j.kern.est - s.ranUnits p j ≤ (s.pkgAt p).drbudget)

/-- Effective class of a job: that of its record when it started. -/
def State.jobClass (s : State) (p : Nat) (j : Job) : Nat :=
  let c := j.cls
  let dage := (s.pkgAt p).dage
  if c = 0 then 0 else if dage = 0 then c else max 1 (c - (j.start - j.qrec.since) / cycles dage)

/-- The lowest free frame of a tenant; a job that is checkpointing takes one (R399). -/
def State.freeFrame (s : State) (p u : Nat) : Option Nat :=
  let a := s.tenAt p u
  let used := a.frames.map Frame.idx
  let free := (List.range a.ckcount).filter (fun i => !used.contains i)
  let coming := ((s.jobsOf p u).filter (fun e => e.2.st == .checkpointing)).length
  if a.ckbase.getLsbD 0 && a.cktile.getLsbD 0 then free[coming]? else none

/-- The job holds a write that can never perform (R398, step 3). -/
def State.holdsWrite (s : State) (key : Nat) (j : Job) : Bool :=
  s.reqs.any (fun r => r.by_.key == key && r.by_.jid == j.jid && r.st == .timedOut)

/-- What pre-emption may do with a job. -/
inductive PreAct where
  | drain | checkpoint | kill
  /-- A checkpoint, once the freeze under way is complete. -/
  | later
  /-- It drains or is checkpointed already. -/
  | under
  deriving DecidableEq, Repr

/-- The action R396 takes on a job, none where it has none; `n` frames are already spoken for. -/
def State.preAct (s : State) (p : Nat) (e : Nat × Job) (n : Nat) : Option PreAct :=
  let u := e.2.tenant.toNat
  let a := s.tenAt p u
  let free := (List.range a.ckcount).filter (fun i => !(a.frames.map Frame.idx).contains i)
  let coming := ((s.jobsOf p u).filter (fun e => e.2.st == .checkpointing)).length
  if s.shortRest p e.2 then some .drain
  else if (s.freeFrame p u).isSome && decide (coming + n < free.length) && !s.holdsWrite e.1 e.2 then
    some (if e.2.st == .freezing then .later else .checkpoint)
  else if recRs e.2.qrec.dw then some .kill
  else none

/-- A job that is killed goes anyway. -/
def Job.dying (j : Job) : Bool :=
  match j.st with
  | .killing _ => true
  | _ => false

/-- A job that pre-emption may consider: neither draining nor checkpointing (R396). -/
def Job.mayPreempt (j : Job) : Bool := j.drain.isNone && !j.toEnd && j.st != .checkpointing && !j.dying

/-- The action on the job of slot `key`: a checkpoint begins with a freeze without a cause (R398, step 1). -/
def State.applyPre (s : State) (key : Nat) : PreAct → State
  | .drain => s.modJob key (fun j => { j with drain := some (s.phase (keyPkg key)) })
  | .checkpoint =>
    (s.modJob key (fun j =>
      { if j.st == .running then j.stopClock (s.phase (keyPkg key)) else j with st := .checkpointing })).endWaits key
  | .kill => s.killJob key true
  | .later => s
  | .under => s

/-- The actions on every job of a tile, none when some job of it has none (R396). -/
def State.wholeTile (s : State) (p : Nat) : Nat → List (Nat × Job) → Option (List ((Nat × Job) × PreAct))
  | _, [] => some []
  | n, e :: l =>
    match if e.2.mayPreempt then s.preAct p e n else some .under with
    | none => none
    | some a => (s.wholeTile p (n + (if a = .checkpoint then 1 else 0)) l).map (fun r => (e, a) :: r)

/-- A record finds an idle slot of die `d` that is eligible for it. -/
def State.fitsNow (s : State) (p d u : Nat) (r : QRec) : Bool :=
  (List.range 64).any (fun i =>
    (s.scanQueue p (d * 64 + i) u false [r]).isSome && (recClass r.dw == 0 || !s.reserved0 p (d * 64 + i)))

/-- The oldest record that has waited PRWAIT and finds no idle slot on die `d`, with its tenant. -/
def State.pressing (s : State) (p d : Nat) : Option (Nat × QRec) :=
  best (fun a b => decide (a.2.since < b.2.since)) ((s.allRecords p).filter (fun x =>
    s.passed p x.2.since (s.pkgAt p).prwait && (match s.validRecord p x.1 x.2 with
        | .ok (some _) => true
        | _ => false) &&
      (List.range 64).any (fun i => s.homeAllows p (d * 64 + i) x.2) && !s.fitsNow p d x.1 x.2))

/-- Tiles of die `d` that are eligible for a record, slots aside (R377). -/
def State.preTiles (s : State) (p d : Nat) (r : QRec) : List Nat :=
  ((List.range 64).map (fun i => d * 64 + i)).filter (fun t =>
    s.tilePresent p t && !(s.tileAt (tileKey p t)).testing && s.homeAllows p t r
      && (recClass r.dw == 0 || !s.reserved0 p t))

/-- An element put before the first that it precedes. -/
def insertBy {α : Type} (lt : α → α → Bool) (x : α) : List α → List α
  | [] => [x]
  | y :: l => if lt x y then x :: y :: l else y :: insertBy lt x l

/-- A list in order, equals as they stood. -/
def sortBy {α : Type} (lt : α → α → Bool) (l : List α) : List α := l.foldl (fun acc x => insertBy lt x acc) []

/-- Jobs of those tiles that may make room: class descending, then latest start first. -/
def State.preCands (s : State) (p d : Nat) (r : QRec) : List (Nat × Job) :=
  let js := ((s.preTiles p d r).flatMap (fun t => s.tileJobs p t)).filter (fun e =>
    e.2.mayPreempt && decide (recClass r.dw < s.jobClass p e.2))
  sortBy (fun a b =>
    decide (s.jobClass p b.2 < s.jobClass p a.2) || (s.jobClass p a.2 == s.jobClass p b.2 && decide (b.2.start < a.2.start))) js

/-- The slots and actions of the first candidate that has any; a tile of another tenant goes as a whole. -/
def State.preChoice (s : State) (p u : Nat) (l : List (Nat × Job)) : Option (Nat × List ((Nat × Job) × PreAct)) :=
  l.findSome? (fun e =>
    if e.2.tenant.toNat = u then (s.preAct p e 0).map (fun a => (e.1, [(e, a)]))
    else (s.wholeTile p 0 (s.tileJobs p (keyTile e.1))).map (fun x => (e.1, x)))

/-- PREEMPT_DECIDE on die `d` of package `p` (R396). -/
def State.preemptDecide (s : State) (p d : Nat) : State :=
  if (s.pkgAt p).quiesce ≠ 0 then s
  else match s.pressing p d with
    | none => s
    | some (u, r) =>
      if (s.tenAt p u).ptok = 0 then s
      else match s.preChoice p u (s.preCands p d r) with
        | none => s
        | some (key, acts) =>
          if acts.any (fun x => x.2 == .later) then s
          else
          let s := acts.foldl (fun s x => s.applyPre x.1.1 x.2) s
          let s := s.modTen p u (fun a => { a with ptok := a.ptok - 1 })
          s.modPkg p (fun k => { k with heldSlots := k.heldSlots.filter (fun h => h.1 != key) ++ [(key, r)] })

/-- DRAIN_EXPIRE (R397): a drain that has run out ends in a checkpoint or a kill, or the job drains to its end. -/
def State.drainExpire (s : State) (key : Nat) : State :=
  match s.jobAt key with
  | none => s
  | some j =>
    let p := keyPkg key
    match j.drain with
    | none => s
    | some t =>
      if s.since p t < engineCycles (256 * (s.pkgAt p).drbudget) ∨ !(j.st == .running || j.st == .handler || j.st == .frozen) then s
      else if (s.freeFrame p j.tenant.toNat).isSome && !s.holdsWrite key j then
        (s.setJob key { j with drain := none }).applyPre key .checkpoint
      else if recRs j.qrec.dw then s.killJob key true
      else s.setJob key { j with drain := none, toEnd := true }

/-! ### The frame (R399; log 20) -/

/-- STATUS of a core. -/
def statusOf (j : Job) (k : Kind) : Word :=
  BitVec.ofNat 64 ((if j.sup then 1 else 0) + (if (j.core k).h then 4 else 0) + (if k = .X then 8 else 0))

/-- The public part of a core's 4 KiB area. -/
def coreFrame (j : Job) (k : Kind) : List Word :=
  let c := j.core k
  c.g.toList ++ c.lc.toList.map (fun v => v.setWidth 64)
    ++ [statusOf j k, c.cause, c.epc, c.eva, c.ecut, j.trapv, BitVec.ofNat 64 c.allot, c.instret, c.issuecyc, c.stallcyc]

/-- Spill memory of a core as 512 dwords. -/
def spillFrame (c : Core) : List Word := (List.range 512).map (fun i => (mget c.spill i).getD 0)

/-- A data queue entry as saved. -/
def dqFrame (e : DqEntry) : Word :=
  match e with
  | .val v => v
  | .waiting _ => 0

/-- The bytes of the scale queue that have entered. -/
def sqFrame (q : List SqEntry) : List Byte := q.flatMap (fun e => match e with
  | .byte b => [b]
  | .waiting _ _ => [])

/-- Data queues and scale queue, at offset 0x6000. -/
def queueFrame (j : Job) : List (Nat × Byte) :=
  (List.range 6).flatMap (fun q => laidDwords (0x6000 + 512 * q) ((vget j.dq q).map dqFrame))
  ++ [0, 1].flatMap (fun q => laidDwords (0x6C00 + 512 * q) (vget j.nq q).outq)
  ++ [0, 1].flatMap (fun q => laidDwords (0x7000 + 512 * q) (vget j.nq q).inq)
  ++ laid 0x7400 (sqFrame j.sq)

/-- The fault that the record of the cut shows: the one the job is frozen by, else none. -/
def Job.cutFault (j : Job) : FaultInfo :=
  j.freeze.getD { cause := .illegal, eva := 0, kind := .A, point := 0, failed := none }

/-- Private parts of a frame: offset and length. -/
def privateParts : List (Nat × Nat) :=
  [(0x1400, 0xC00), (0x2400, 0xC00), (0x7500, 0xB00), (0x1_8000, 0x2000), (0x3_F000, 0x40)]

/-- Code of the state of a circuit record in a frame, and the state of a code (log 20). -/
def RecState.num : RecState → Nat
  | .free => 0 | .opened => 1 | .broken => 2 | .closed => 3
def recState (n : Nat) : RecState :=
  match n % 4 with
  | 0 => .free | 1 => .opened | 2 => .broken | _ => .closed

/-- Send record and landing record as saved, four dwords each (log 20). -/
def SendRec.image (r : SendRec) : List Word :=
  [BitVec.ofNat 64 r.seq, BitVec.ofNat 64 (r.st.num * 256 + r.cause.toNat * 2 + (if r.resume.isSome then 1 else 0)), BitVec.ofNat 64 r.circ,
    (r.resume.getD 0).setWidth 64]
def LandRec.image (r : LandRec) : List Word :=
  [BitVec.ofNat 64 r.seq, BitVec.ofNat 64 (r.st.num * 256 + r.cause.toNat * 2 + (if r.circ.isSome then 1 else 0)),
    BitVec.ofNat 64 (r.len * 2 ^ 32 + r.base), BitVec.ofNat 64 ((r.circ.getD 0) * 2 ^ 32 + r.delivered.toNat)]

/-- The records as a frame holds them. -/
def sendBack (l : List (Nat × Byte)) (o : Nat) : SendRec :=
  let d := slotDword l (o + 8)
  { seq := (slotDword l o).toNat, st := recState (bits d 9 8), circ := (slotDword l (o + 16)).toNat, cause := BitVec.ofNat 4 (bits d 4 1)
    resume := if d.getLsbD 0 then some (lo32 (slotDword l (o + 24))) else none }
def landBack (l : List (Nat × Byte)) (o : Nat) : LandRec :=
  let d := slotDword l (o + 8)
  let e := slotDword l (o + 16)
  let f := slotDword l (o + 24)
  { seq := (slotDword l o).toNat, st := recState (bits d 9 8), base := bits e 31 0, len := bits e 63 32
    circ := if d.getLsbD 0 then some (bits f 63 32) else none, cause := BitVec.ofNat 4 (bits d 4 1), delivered := lo32 f }

/-- The records of circuits at their place (log 20). -/
def circuitFrame (j : Job) : List (Nat × Byte) :=
  (List.range 16).flatMap (fun i => laidDwords (0x1_A000 + 32 * i) (vget j.send i).image
    ++ laidDwords (0x1_A200 + 32 * i) (vget j.land i).image)

/-- The binding of a channel, how many beats and marks it holds, and which of them are marks, as one dword (log 20). -/
def Channel.head (k : Channel) : Word :=
  let b := match k.bind with
    | some (x, y) => x.code * 16 + y.code
    | none => 0xFF
  let marks := ((List.range 8).zip k.q).map (fun x => if x.2 = .mark then 2 ^ x.1 else 0)
  BitVec.ofNat 64 (b + k.q.length * 2 ^ 8 + marks.foldl (· + ·) 0 * 2 ^ 16)

/-- The dword of channel `c` stands just below the beats, which fill their 64 KiB; beat `i` of it lies at 8 KiB × c + 1 KiB × i, and a
mark holds nothing there (log 20). -/
def switchFrame (j : Job) : List (Nat × Byte) :=
  (List.range 8).flatMap (fun c =>
    laidDwords (0x1_FFC0 + 8 * c) [(vget j.sw c).head] ++
    ((List.range 8).zip (vget j.sw c).q).flatMap (fun x => match x.2 with
      | .beat b => laid (0x2_0000 + 0x2000 * c + 0x400 * x.1) b
      | .mark => []))

/-- A channel as the frame holds it. -/
def switchBack (l : List (Nat × Byte)) (c : Nat) : Channel :=
  let d := slotDword l (0x1_FFC0 + 8 * c)
  { bind := match kindOf (bits d 7 4), kindOf (bits d 3 0) with
      | some x, some y => some (x, y)
      | _, _ => none
    q := (List.range (min 8 (bits d 15 8))).map (fun i =>
      if d.getLsbD (16 + i) then .mark
      else .beat ((List.range 0x400).map (fun b => slotByte l (0x2_0000 + 0x2000 * c + 0x400 * i + b)))) }

/-- Bytes that a block of resident B has in its cells. -/
def ResidentB.per (b : ResidentB) : Nat := (if b.btype = 0 then 16 else 32) / (if b.sp then 2 else 1)

/-- Two 4-bit codes a byte. -/
def packPairs : List Byte → List Byte
  | x :: y :: l => BitVec.ofNat 8 (x.toNat % 16 + 16 * (y.toNat % 16)) :: packPairs l
  | [x] => [BitVec.ofNat 8 (x.toNat % 16)]
  | [] => []
def unpackPairs (l : List Byte) : List Byte := l.flatMap (fun x => [BitVec.ofNat 8 (x.toNat % 16), BitVec.ofNat 8 (x.toNat / 16)])

/-- The stored codes of a block. -/
def BBlock.cells (k : BBlock) : List Byte := ((List.range 32).zip k.codes).filterMap (fun x => if k.stored.getLsbD x.1 then some x.2 else none)

/-- A block with its stored codes replaced in order. -/
def BBlock.withCells (k : BBlock) (l : List Byte) : BBlock :=
  { k with codes := (((List.range 32).zip k.codes).foldl (fun (a : List Byte × List Byte) x =>
      if k.stored.getLsbD x.1 then (a.1 ++ [a.2.headD 0], a.2.drop 1) else (a.1 ++ [x.2], a.2)) ([], l)).1 }

/-- Cells of resident B: block `i` of column `c` at its number, column by column (log 20). -/
def bFrame (b : ResidentB) : List (Nat × Byte) :=
  ((List.range b.n).zip b.cols).flatMap (fun x => ((List.range (b.k / 32)).zip x.2).flatMap (fun y =>
    laid (0x4_0000 + (x.1 * (b.k / 32) + y.1) * b.per) (if b.btype = 0 then packPairs y.2.cells else y.2.cells)))

/-- Resident B as the frame holds its cells. -/
def bBack (l : List (Nat × Byte)) (b : ResidentB) : ResidentB :=
  { b with cols := ((List.range b.n).zip b.cols).map (fun x => ((List.range (b.k / 32)).zip x.2).map (fun y =>
      let raw := (List.range b.per).map (fun i => slotByte l (0x4_0000 + (x.1 * (b.k / 32) + y.1) * b.per + i))
      y.2.withCells (if b.btype = 0 then unpackPairs raw else raw))) }

/-- What the private parts hold: free values. -/
def privateFrame (n : Nat) : List (Nat × Byte) :=
  privateParts.flatMap (fun x => (List.range x.2).map (fun i => (x.1 + i, Config.privateByte (n * 2 ^ 23 + x.1 + i))))

/-- The private parts of a frame as read: those that are not zero. -/
def privateRead (l : List (Nat × Byte)) : List (Nat × Byte) :=
  l.filter (fun c => privateParts.any (fun x => decide (x.1 ≤ c.1) && decide (c.1 < x.1 + x.2)))

/-- The private parts of a frame are still those written under number `n`. -/
def privateSame (n : Nat) (l : List (Nat × Byte)) : Bool := privateRead l == (privateFrame n).filter (fun c => c.2 != 0)

/-- An engine stream with the private values that `f` gives: link, counters, held beats and scale bytes. -/
def Engine.privateBack (f : Nat → Word) (e : Engine) : Engine :=
  let bytes := fun (o : Nat) (b : List Byte) => ((List.range b.length).map (fun i => (f (o + i)).setWidth 8))
  { e with link := (f 0).setWidth 14, ec := #v[(f 1).setWidth 11, (f 2).setWidth 11]
           pos := e.pos.map (fun w => { w with held := bytes 0x1_0000 w.held, packed := bytes 0x2_0000 w.packed
                                               scales := bytes 0x3_0000 w.scales }) }

/-- A job with the private values that `f` gives: token counts and bindings, its engines', the matrix traps, and the descriptor of
resident B but for its size. -/
def Job.privateBack (f : Nat → Word) (j : Job) : Job :=
  let eng := fun (k : Kind) (e : Engine) => e.privateBack (fun i => f (2 ^ 20 * (k.code + 1) + i))
  let kinds := fun (v : Word) => match kindOf (bits v 7 4), kindOf (bits v 3 0) with
    | some x, some y => some (x, y)
    | _, _ => none
  { j with tq := Vector.ofFn (fun i => ⟨kinds (f (16 + i.val)), bits (f i.val) 7 0⟩)
           m := eng .M j.m, v := eng .V j.v, t := eng .T j.t, c := eng .C j.c, w := eng .W j.w
           traps := ⟨Vector.ofFn (fun i => lo32 (f (32 + i.val))), Vector.ofFn (fun i => lo32 (f (35 + i.val)))⟩
           resB := j.resB.map (fun b => { b with btype := (f 40).setWidth 2, layout := (f 41).setWidth 2
                                                 sp := (f 42).getLsbD 0, bscl := (f 42).getLsbD 1 }) }

/-- The private state that a frame gives back: as saved while nothing has changed its bytes, else what they now say, which the
device alone knows (R399; log 20). -/
def Frame.privateJob (f : Frame) (l : List (Nat × Byte)) : Job :=
  if privateSame f.serial l then f.job else f.job.privateBack (Config.privateMeaning (privateRead l))

/-- The frame of the job in slot `key`. -/
def State.frameOf (s : State) (key : Nat) (j : Job) (pw : Option Pinwheel) : List (Nat × Byte) :=
  let p := keyPkg key
  let t := keyTile key
  let acc := blockAddr p t (j.kern.accbase * 8192)
  laidDwords 0 (j.faultRecord key 0 j.cutFault)
  ++ laidDwords 0x1000 (coreFrame j .A) ++ laidDwords 0x2000 (coreFrame j .X)
  ++ laidDwords 0x3000 (spillFrame j.a) ++ laidDwords 0x4000 (spillFrame j.x)
  ++ laidDwords 0x5000 j.kbank.toList ++ queueFrame j
  ++ (sliceOf s.mem (dmemAddr p t (keySlot key)) (dmemAddr p t (keySlot key) + 0x8000)).map (fun c => (0x8000 + c.1, c.2))
  ++ circuitFrame j ++ switchFrame j ++ (match j.resB with
      | some b => bFrame b
      | none => [])
  ++ j.vreg.flatMap (fun x => laid (0x1_0000 + 4 * x.1) (leBytes 4 x.2.toNat))
  ++ (match pw with
      | some a => laid 0x3_0000 a.image
      | none => [])
  ++ (sliceOf s.mem acc (acc + j.kern.acccount * 8192)).map (fun c => (0x8_0000 + c.1, c.2))
  ++ privateFrame s.fresh

/-- Pages of a frame that are used. -/
def framePages (j : Job) : Nat := (0x8_0000 + j.kern.acccount * 8192 + 0xFFFF) / 0x1_0000

/-! ### Checkpoint (R398) -/

/-- A job that holds a write that never performs is not checkpointed: it stays frozen, or freezes for that write's fault (R398,
step 3). -/
def State.notTaken (s : State) (key : Nat) (j : Job) : State :=
  if j.freeze.isSome then s.setJob key { j with st := .frozen } else (s.resume key).noticeDeferred key

/-- The job as its frame keeps it: an element not started asks for nothing. -/
def Job.parked (j : Job) : Job :=
  let f := fun (e : Engine) => { e with asked := none, pos := e.pos.map (fun w => { w with active := false, outOn := none, inOn := none }) }
  { j with m := f j.m, v := f j.v, t := f j.t, c := f j.c, w := f j.w }

/-- The token and the slot of the pre-emption go back. -/
def State.refund (s : State) (key : Nat) : State :=
  let p := keyPkg key
  match (s.pkgAt p).heldSlots.find? (fun h => h.1 == key) with
  | none => s
  | some (_, r) =>
    let s := s.modPkg p (fun k => { k with heldSlots := k.heldSlots.filter (fun h => h.1 != key) })
    s.modTen p (recTenant r.dw) (fun a => { a with ptok := a.ptok + 1 })

/-- The frame is written and the slot is free (R398, steps 4 and 5). -/
def State.storeFrame (s : State) (key i : Nat) (j : Job) : State :=
  let p := keyPkg key
  let u := j.tenant.toNat
  let k := tileKey p (keyTile key)
  let pw := if (s.tileAt k).pwHolder = some j.jid then some (s.tileAt k).pw else none
  let l := s.frameOf key j pw
  let serial := s.fresh
  match s.take.2.putArea (agent p u) ((s.tenAt p u).frameAt i) (framePages j) l with
  | (s, .wait) => s
  | (s, .fault c e) => (s.resumeFrozen key).emptyFaultAt p u (jobPlace j.qrec.dw key) c e
  | (s, .ok _) =>
    let s := s.dropWaiters (fun w => w.of key j.jid)
    let s := (s.freeUnits k j.jid).delJob key
    s.modTen p u (fun a => { a with frames := a.frames ++ [⟨i, j.parked, k, keySlot key, pw, serial⟩] })

/-- CHECKPOINT of the job in slot `key` (R398): its circuits break, its accesses perform, and its frame is written. -/
def State.checkpoint (s : State) (key : Nat) : State :=
  match s.jobAt key with
  | none => s
  | some j =>
    if j.st ≠ .checkpointing then s
    else
      let s := s.endWaits key
      match s.jobAt key with
      | none => s
      | some j =>
        if j.a.asked.isSome || j.x.asked.isSome then s
        else
          let s := s.jobEndCircuits j.jid
          let j := (s.jobAt key).getD j
          if !s.settledJob key j.jid then s
          else if s.holdsWrite key j then
            if recRs j.qrec.dw then s.killJob key true else (s.refund key).notTaken key j
          else
            let a := s.tenAt (keyPkg key) j.tenant.toNat
            match (List.range a.ckcount).find? (fun i => !(a.frames.map Frame.idx).contains i) with
            | none => s.resumeFrozen key
            | some i => s.storeFrame key i j

/-! ### Resumption from a checkpoint (R401) -/

/-- A core's public state as its frame holds it; `o` is its area, `sp` its spill memory, `cut` its cut entry. -/
def coreBack (l : List (Nat × Byte)) (o sp cut : Nat) (c : Core) : Core :=
  let at_ := fun (i : Nat) => slotDword l (o + 0x220 + 8 * i)
  { c with g := Vector.ofFn (fun i => slotDword l (o + 8 * i.val)), lc := Vector.ofFn (fun i => lo32 (slotDword l (o + 0x200 + 8 * i.val)))
           h := (at_ 0).getLsbD 2, allot := if (at_ 6).toNat % 8 = 0 ∧ 8 ≤ (at_ 6).toNat ∧ (at_ 6).toNat ≤ 64 then (at_ 6).toNat else c.allot
           cause := causeKeep (at_ 1), epc := epcKeep (at_ 2), eva := at_ 3, ecut := at_ 4, instret := at_ 7
           issuecyc := at_ 8, stallcyc := at_ 9, pc := BitVec.ofNat 19 (bits (slotDword l cut) 18 0)
           seq := BitVec.ofNat 32 (bits (slotDword l cut) 63 32), fin := (slotDword l cut).getLsbD 31
           spill := ((List.range 512).map (fun i => (i, slotDword l (sp + 8 * i)))).filter (fun x => x.2 != 0) }

/-- The place inside a word as the record of the cut holds it (R387, R388): repetition and element in `d`, done elements. -/
def posBack (d done : Word) (w : WordPos) : WordPos :=
  let rep := bits d 63 58
  let elem := bits d 47 0
  let w := if w.rep % 64 = rep ∧ w.elem % 2 ^ 48 = elem then w else { w with rep := rep, elem := elem }
  { w with done := done }

/-- An engine stream's place as the record of the cut holds it: F, I with P, and U; `lo` is the place of its mark, `raised` says
that the done mask is its. -/
def engineBack (l : List (Nat × Byte)) (k : Kind) (lo : Nat) (raised : Bool) (e : Engine) : Engine :=
  let d := slotDword l (8 * (8 + k.code))
  let stop := slotDword l (8 * (14 + k.code))
  let done := if raised then slotDword l 0xA8 else (e.pos.map WordPos.done).getD 0
  { e with pc := bits d 18 0, words := BitVec.ofNat 32 (bits d 63 32), fin := d.getLsbD 31
           pos := if bits d 30 29 = 3 then some (posBack stop done (e.pos.getD WordPos.first)) else none
           push := if d.getLsbD 28 then e.push else none
           mark := BitVec.ofNat 10 (bits (slotDword l 0xB0) (lo + 9) lo) }

/-- Data queue entries as the frame holds them. -/
def dqBack (l : List (Nat × Byte)) (o : Nat) (q : List DqEntry) : List DqEntry :=
  ((List.range q.length).zip q).map (fun x => match x.2 with
    | .val _ => .val (slotDword l (o + 8 * x.1))
    | .waiting r => .waiting r)

/-- The scale queue as the frame holds the bytes that had entered. -/
def sqBack (l : List (Nat × Byte)) : Nat → List SqEntry → List SqEntry
  | _, [] => []
  | i, .byte _ :: q => .byte (slotByte l (0x7400 + i)) :: sqBack l (i + 1) q
  | i, .waiting r n :: q => .waiting r n :: sqBack l i q

/-- The job as its frame holds it: the public parts as they stand in memory, the private ones as saved. -/
def jobBack (l : List (Nat × Byte)) (j : Job) : Job :=
  let queue := fun (o : Nat) (q : List Word) => (List.range q.length).map (fun i => slotDword l (o + 8 * i))
  let nb := fun (i : Nat) (q : NbQueue) =>
    { q with outq := queue (0x6C00 + 512 * i) q.outq, inq := queue (0x7000 + 512 * i) q.inq }
  let eng := fun (k : Kind) (lo : Nat) => engineBack l k lo (j.cutFault.kind == k)
  { j with a := coreBack l 0x1000 0x3000 0x40 j.a, x := coreBack l 0x2000 0x4000 0x48 j.x, trapv := slotDword l 0x1248
           kbank := Vector.ofFn (fun i => slotDword l (0x5000 + 8 * i.val))
           dq := Vector.ofFn (fun i => dqBack l (0x6000 + 512 * i.val) j.dq[i])
           nq := Vector.ofFn (fun i => nb i.val j.nq[i])
           vreg := ((List.range 8192).map (fun i =>
             (i, BitVec.ofNat 32 (leNat ((List.range 4).map (fun b => slotByte l (0x1_0000 + 4 * i + b))))))).filter (fun x => x.2 != 0)
           sq := sqBack l 0 j.sq, send := Vector.ofFn (fun i => sendBack l (0x1_A000 + 32 * i.val))
           land := Vector.ofFn (fun i => landBack l (0x1_A200 + 32 * i.val)), sw := Vector.ofFn (fun i => switchBack l i.val)
           resB := j.resB.map (bBack l)
           m := eng .M 0 j.m, v := eng .V 10 j.v, t := eng .T 20 j.t, c := eng .C 30 j.c, w := eng .W 40 j.w }

/-- The job of a frame stands in slot `sl` of its tile again and goes on (R393, R401). -/
def State.loadFrame (s : State) (f : Frame) (sl : Nat) (l : List (Nat × Byte)) : State :=
  let p := f.tileKey / 256
  let t := f.tileKey % 256
  let key := slotKey p t sl
  let j := jobBack l (f.privateJob l)
  let at_ := blockAddr p t (j.kern.accbase * 8192)
  let part := fun (lo hi : Nat) => (l.filter (fun c => decide (lo ≤ c.1) && decide (c.1 < hi))).map (fun c => (c.1 - lo, c.2))
  let m := layAt (clearRange s.mem (dmemAddr p t sl) (dmemAddr p t sl + 0x8000)) (dmemAddr p t sl) (part 0x8000 0x1_0000)
  let m := layAt (clearRange m at_ (at_ + j.kern.acccount * 8192)) at_ (part 0x8_0000 (0x8_0000 + j.kern.acccount * 8192))
  let rekey := fun (r : Req) => if r.by_.jid = j.jid then { r with by_ := ⟨key, r.by_.jid, r.by_.xcore⟩ } else r
  let s := { s with mem := m, reqs := s.reqs.map rekey }
  let s := s.modTile f.tileKey (fun t =>
    { t with pw := (match f.pw with
               | some a => a.load (fun o => slotDword l (0x3_0000 + o)) (fun o => slotByte l (0x3_0000 + o))
               | none => t.pw)
             pwHolder := if f.pw.isSome then some j.jid else t.pwHolder
             mHolder := if j.m.pos.isSome then some j.jid else t.mHolder })
  let j := if s.imageHere key j then j else j.reload
  (s.setJob key j).resumeFrozen key

/-- The job of frame `i` resumes as candidate `c` on tile `t`, which takes its tenant; none while a page must be waited for, and a
fault of the frame goes to the supervisor (R401). -/
def State.resumeFrame (s : State) (p t i : Nat) (c : Cand) : Option State :=
  match (s.tenAt p c.u).frames.find? (fun f => f.idx == i), s.takeTenant p t c.u with
  | some f, some s1 =>
    match s1.getArea (agent p c.u) ((s1.tenAt p c.u).frameAt i) (framePages f.job) with
    | (_, .wait) => none
    | (s2, .fault e v) => some (s2.emptyFaultAt p c.u (jobPlace f.job.qrec.dw (slotKey p t f.slot)) e v)
    | (s2, .ok l) => some ((s2.modTen p c.u (fun a => { a with frames := a.frames.filter (fun g => g.idx != i) })).loadFrame f c.slot l)
  | _, _ => none

/-! ### The dispatchers (14 R378; R401) -/

/-- What a die's dispatcher considers: every queue put right, what cannot run taken out, the deficits of idle tenants 0. -/
def State.considered (s : State) (p d : Nat) : State :=
  (((s.tenantsOf p).foldl (fun s u => s.stowAll p u) s).weedOut p).idleDeficits p d

/-- One cycle of die `d`'s dispatcher: it starts one job at most, or resumes one from its frame (R378; 15 R401). A package that is
stopping or stopped starts nothing (20 R441). -/
def State.dispatch (s : State) (p d : Nat) : State :=
  if (s.pkgAt p).quiesce ≠ 0 then s
  else
    let s := s.considered p d
    match s.choose p d with
    | none => s
    | some (t, c, k) =>
      match (match c.frame with
        | some i => (s.setPkg p k).resumeFrame p t i c
        | none => (s.setPkg p k).startJob p t c) with
      | some s => s.idleDeficits p d
      | none => s

/-- CHECKPOINT_RESUME of frame `i` of tenant `u` (R401): the dispatcher of its die resumes it when it is what comes next. -/
def State.checkpointResume (s : State) (p u i : Nat) : State :=
  match (s.tenAt p u).frames.find? (fun f => f.idx == i) with
  | none => s
  | some f =>
    let d := dieOf (f.tileKey % 256)
    if (s.pkgAt p).quiesce ≠ 0 then s
    else match (s.considered p d).choose p d with
      | some (_, c, _) => if c.u = u ∧ c.frame = some i then s.dispatch p d else s
      | none => s

end Sys2Proof.Machine
end

