-- ==== Sys2Proof/Machine/JobEvents.lean ====
section
/-!
DEFINITION. Events of the scheduler, of faults and their delivery, of pre-emption and of the engines' timers
(06 R157, R170; 11 R300; 14; 15). Where an event does not apply, it leaves the state as it is (log 16).
-/

namespace Sys2Proof.Machine

/-! ### Launches and dispatch (14) -/

/-- LAUNCH_SUBMIT: dword 7 of a push window of a tenant, the supervisor's if `yes` (R372), written by the host if `also`. -/
def execLaunchSubmit (s : State) : Host.Outcome State Fault Refusal :=
  let p := s.evPkg
  let u := s.evTen
  if s.arg.also then .next (s.hostMmio p u (if s.arg.yes then 0x1078 else 0x1038) 8 s.arg.val)
  else if s.arg.yes then .next ((s.modTen p u (fun a => { a with pushS := vset a.pushS 7 s.arg.val })).submit p u true)
  else .next ((s.modTen p u (fun a => { a with pushJ := vset a.pushJ 7 s.arg.val })).submit p u false)

/-- LQSTAT_READ (R370). -/
def execLqstatRead (s : State) : Host.Outcome State Fault Refusal := .next (dwordAnswer (s.readLqstat s.evPkg s.evTen))

/-- LAUNCH_TAKE (R373, R374). -/
def execLaunchTake (s : State) : Host.Outcome State Fault Refusal := .next (s.takeLaunch s.evPkg s.evTen)

/-- SPAWNER_EXPAND of the launch with tag `idx` (R375). -/
def execSpawnerExpand (s : State) : Host.Outcome State Fault Refusal := .next (s.expand s.evPkg s.evTen s.arg.idx)

/-- DISPATCH_START_JOB on die `idx` (R376 to R380). -/
def execDispatchStartJob (s : State) : Host.Outcome State Fault Refusal := .next (s.dispatch s.evPkg (s.arg.idx % 4))

/-- JOB_RETIRE (06 R157). -/
def execJobRetire (s : State) : Host.Outcome State Fault Refusal := .next (s.retireJob s.evKey)

/-- DEPENDENCY_MET (06 R170). -/
def execDependencyMet (s : State) : Host.Outcome State Fault Refusal :=
  .next ((s.settleTenant s.evPkg s.evTen).offIfDone s.evPkg s.evTen)

/-- TCTL_TEARDOWN (R382). -/
def execTctlTeardown (s : State) : Host.Outcome State Fault Refusal := .next (s.teardown s.evPkg s.evTen)

/-- TCTL_ENABLE. -/
def execTctlEnable (s : State) : Host.Outcome State Fault Refusal := .next (s.enableTenant s.evPkg s.evTen)

/-! ### Faults (15) -/

/-- The freeze of a job that still has something to wait for is tried again (R389). -/
def State.freezeOn (s : State) (key : Nat) : State :=
  match s.jobAt key with
  | none => s
  | some j =>
    match j.st, j.freeze with
    | .freezing, some f => if j.astop.isNone || j.x.fin || j.x.stopped then s.finishFreeze key f else s
    | _, _ => s

/-- FAULT_FREEZE. -/
def execFaultFreeze (s : State) : Host.Outcome State Fault Refusal := .next (s.freezeOn s.evKey)

/-- XCORE_STOP_TIMEOUT (03 R81). -/
def execXcoreStopTimeout (s : State) : Host.Outcome State Fault Refusal :=
  match s.jobAt s.evKey with
  | some j =>
    if j.st == .freezing && !j.x.stopped && s.xTimeUp s.evKey j then .next (s.haltX s.evKey) else .next s
  | none => .next s

/-- FAULT_RECORD_WRITE (R391). -/
def execFaultRecordWrite (s : State) : Host.Outcome State Fault Refusal := .next (s.writeFaultRecord s.evPkg s.evTen)

/-- FQLOST_READ (R390). -/
def execFqlostRead (s : State) : Host.Outcome State Fault Refusal := .next (dwordAnswer (s.readFqlost s.evPkg s.evTen))

/-- JCTL_RESUME (R392). -/
def execJctlResume (s : State) : Host.Outcome State Fault Refusal := .next (s.jctlWrite s.evKey 1)

/-- JCTL_KILL, with the record enqueued again if `yes` and the job is restartable. -/
def execJctlKill (s : State) : Host.Outcome State Fault Refusal :=
  .next (s.jctlWrite s.evKey (if s.arg.yes then 6 else 2))

/-! ### Pre-emption (15 R396 to R402) -/

/-- PREEMPT_DECIDE on die `idx`. -/
def execPreemptDecide (s : State) : Host.Outcome State Fault Refusal := .next (s.preemptDecide s.evPkg (s.arg.idx % 4))

/-- DRAIN_EXPIRE. -/
def execDrainExpire (s : State) : Host.Outcome State Fault Refusal := .next (s.drainExpire s.evKey)

/-- CHECKPOINT. -/
def execCheckpoint (s : State) : Host.Outcome State Fault Refusal := .next (s.checkpoint s.evKey)

/-- CHECKPOINT_RESUME of frame `id`. -/
def execCheckpointResume (s : State) : Host.Outcome State Fault Refusal :=
  .next (s.checkpointResume s.evPkg s.evTen s.arg.id)

/-! ### Timers of the engines -/

/-- The engine word that a stream of kind `k` would run next. -/
def State.nextWord (s : State) (key : Nat) (k : Kind) : Option EW :=
  match s.jobAt key with
  | none => none
  | some j =>
    match s.engineFetch (keyPkg key) (keyTile key) (j.eng k) with
    | .run (.mma w) => some w
    | .run (.mmaz w) => some w
    | _ => none

/-- The matrix stream of the event's slot, for which the scale queue has stayed empty with no LDQ outstanding for 4 096
engine cycles, raises Queue-Imbalance at the repetition it waits at (11 R300): a word that had not begun has then made its
pop and holds the engine. -/
def State.starveOut (s : State) (j : Job) (w : EW) : State :=
  let fail := fun (s : State) (p : WordPos) =>
    (s.modEng (fun e => { e with starved := none })).take.2.engineFault (some p) .imbalance (Config.unstatedEva s.fresh) s.epc
  match j.m.pos with
  | some p => fail s p
  | none =>
    if s.engineTaken || !Hold.matrix.free (s.tileAt s.tkey) j.jid then s
    else fail (s.beginWord j.jid .matrix w.pop) WordPos.first

/-- SCALE_QUEUE_TIMEOUT. -/
def execScaleQueueTimeout (s : State) : Host.Outcome State Fault Refusal :=
  let s := { s with focus := ⟨s.arg.pkg, s.arg.tile, s.arg.slot, .M⟩ }
  match s.jobAt s.key with
  | none => .next s
  | some j =>
    match j.m.starved, s.nextWord s.key .M with
    | some t, some w =>
      if j.mayAct .M && j.sq.isEmpty && decide (engineCycles 4096 ≤ s.since s.fpkg t) then .next (s.starveOut j w)
      else .next s
    | _, _ => .next s

/-! ### Timing errors and droop (15 R403, R404) -/

/-- CORE_TIMING_REPLAY of the A-core of a slot, or of the X-core if `yes`: the error is caught before the instruction retires, so
it issues again, and nothing has left the core (05 R150). -/
def execCoreTimingReplay (s : State) : Host.Outcome State Fault Refusal :=
  let k := if s.arg.yes then Kind.X else .A
  .next (s.modJob s.evKey (fun j => if j.mayAct k then j.modCore k (fun c => { c with issuecyc := c.issuecyc + 1 }) else j))

/-- One more suspect execution of the word that the stream which acts is inside; after the eighth in succession it raises
Data-Error at its next turn (R404). -/
def State.suspectAgain (s : State) : State := s.modEng (fun e => { e with suspect := e.suspect + 1 })

/-- The streams of package `p` that are inside a suspect word on rail `r`: one that began in the window. A word under way when the window
opened has stood still and has no repetition in it (log 58). -/
def State.suspects (s : State) (p r : Nat) : List StreamId :=
  (s.jobs.filter (fun e => keyPkg e.1 == p)).flatMap (fun e =>
    ([Kind.M, .V, .T, .C, .W].filter (fun k => railOf k == r && ((e.2.eng k).pos.map WordPos.suspect).getD false)).map (fun k =>
      ⟨BitVec.ofNat 8 p, BitVec.ofNat 8 (keyTile e.1), BitVec.ofNat 2 (keySlot e.1), k⟩))

/-- A droop window may close: 64 engine cycles without a trip. -/
def State.droopOver (s : State) (p r : Nat) : Bool :=
  (s.pkgAt p).droop.getLsbD r && decide (engineCycles 64 ≤ s.since p (vget (s.pkgAt p).droopAt r))

/-- The window on rail `r` closes: each word inside it was suspect and is executed again. -/
def State.closeDroop (s : State) (p r : Nat) : State :=
  let l := s.suspects p r
  let s := s.modPkg p (fun k => { k with droop := setBits k.droop r r 0 })
  l.foldl (fun s id => ({ s with focus := id }).suspectAgain) s

/-- An MMA that stops inside its word goes back to the start: its accumulator rows and trap counts as it found them, and the scale
bytes it has taken to be presented again (R404). -/
def State.backToStart (s : State) (j : Job) (p : WordPos) : State :=
  let s := { s with mem := p.undo.foldl (fun (m : Memory) (x : Nat × List Byte) => writeBytes m x.1 x.2) s.mem }
  s.modJob s.key (fun _ => { j with
    traps := if p.header = [] then j.traps else { j.traps with count := Vector.ofFn (fun i => nth p.header i.val 0) }
    m := { j.m with pos := some { WordPos.first with active := true, scales := p.used ++ p.scales, fetched := p.fetched } } })

/-- The row checksum of an MMA repetition of the stream that acts mismatches: the word has begun and is suspect, and executes again
from its start (R404). -/
def State.mismatch (s : State) (j : Job) (w : EW) : State :=
  match j.m.pos with
  | some p => (s.backToStart j p).suspectAgain
  | none =>
  if s.engineTaken || j.m.load.isSome || j.m.push.isSome || !Hold.matrix.free (s.tileAt s.tkey) j.jid
      || popCheck j .M w.pop != .ok then s
  else
    ((s.beginWord j.jid .matrix w.pop).modEng (fun e =>
      { e with pos := some (s.holdWord w.desc { WordPos.first with active := true }) })).suspectAgain

/-- DROOP_REEXECUTE: the window on rail `idx2` closes and its suspect words execute again; or, if `yes`, the next MMA or MMAZ of
the event's slot is suspect, inside a window or outside. -/
def execDroopReexecute (s : State) : Host.Outcome State Fault Refusal :=
  let r := s.arg.idx2 % 4
  if !s.arg.yes then .next (if s.droopOver s.evPkg r then s.closeDroop s.evPkg r else s)
  else
    let s1 := { s with focus := ⟨s.arg.pkg, s.arg.tile, s.arg.slot, .M⟩ }
    match s1.jobAt s1.key, s1.nextWord s1.key .M with
    | some j, some w => .next (if j.mayAct .M then s1.mismatch j w else s)
    | _, _ => .next s

end Sys2Proof.Machine
end

