-- ==== Sys2Proof/Machine/MatrixOps.lean ====
section
/-!
DEFINITION. Meanings of the matrix words (11 R296 to R303) with the arithmetic of 07 R184 to R190.
-/

namespace Sys2Proof.Machine

/-! ### Integer forms of blocks (07 R184, R187, R188) -/

/-- Magnitudes of the eight codes of F4 (doubled), P4 (times 64) and H4 by type code. -/
def narrowMags (t : Nat) : List Int :=
  if t = 2 then [0, 1, 2, 4, 8, 16, 32, 64] else [0, 1, 2, 3, 4, 6, 8, 12]

/-- Integer form of 4-bit code `c` of type `t` (0 I4, 1 F4, 2 P4, 3 H4). -/
def narrowForm (t c : Nat) : Int :=
  if t = 0 then toInt 4 c
  else
    let m := nth (narrowMags t) (c % 8) 0
    if 8 ≤ c % 16 then -m else m

/-- The power of two by which a form exceeds its value. -/
def narrowK (t : Nat) : Int := nth [0, 1, 6, 0] t 0

/-- Significand and exponent Ex of an FP8 element: FP8A when `a`, else FP8B (R188). -/
def fp8Parts (a : Bool) (c : Nat) : Nat × Int :=
  if a then (if c / 8 % 16 = 0 then (c % 8, -6) else (8 + c % 8, (c / 8 % 16 : Int) - 7))
  else if c / 4 % 32 = 0 then (c % 4, -14) else (4 + c % 4, (c / 4 % 32 : Int) - 15)

/-- An FP8A NaN, or an FP8B infinity or NaN (R190). -/
def fp8Bad (a : Bool) (c : Nat) : Bool := if a then c % 128 == 127 else c / 4 % 32 == 31

/-- M × 2^x rounded down. -/
def floorShift (m : Nat) (x : Int) : Nat := if 0 ≤ x then m * 2 ^ x.toNat else m / 2 ^ (-x).toNat

/-- Largest exponent of a list. -/
def maxInt : List Int → Int
  | [] => -1000
  | [x] => x
  | x :: l => let y := maxInt l; if x < y then y else x

/-- A block as the engine multiplies it: integer forms, block exponent, overflow block, spoilt positions. -/
structure Block where
  forms : List Int
  exp : Int
  huge : Bool
  bad : List Bool
  deriving DecidableEq, Repr

/-- An FP8 block with exponent field `e` (R187, R188). -/
def fp8Block (a : Bool) (codes : List Byte) (e : Nat) : Block :=
  let emax := maxInt (codes.map (fun c => (fp8Parts a c.toNat).2))
  let form := fun (c : Byte) =>
    let x := fp8Parts a c.toNat
    let v : Int := floorShift x.1 (7 + (if a then 0 else 1) + x.2 - emax)
    if c.toNat < 128 then v else -v
  ⟨codes.map form, emax - 10 + e - 32, e == 63, codes.map (fun c => fp8Bad a c.toNat)⟩

/-- A block of 32 codes of type `t` (0 narrow, 1 INT8, 2 FP8A, 3 FP8B) with its scale byte. -/
def blockOf (t : Nat) (scale : Option Byte) (codes : List Byte) : Block :=
  let e : Nat := (scale.map (fun b => b.toNat % 64)).getD 32
  match t with
  | 0 =>
    let nt := (scale.map (fun b => b.toNat / 64)).getD 0
    ⟨codes.map (fun c => narrowForm nt c.toNat), (e : Int) - 32 - narrowK nt, e == 63, codes.map (fun _ => false)⟩
  | 1 => ⟨codes.map (fun c => toInt 8 c.toNat), (e : Int) - 32, e == 63, codes.map (fun _ => false)⟩
  | 2 => fp8Block true codes e
  | _ => fp8Block false codes e

/-! ### The block add (07 R189, R190) -/

/-- Trap counter `i` after one more event; it saturates (R303). -/
def countTrap (t : Vector W32 3) (i : Nat) : Vector W32 3 :=
  if vget t i = 0xFFFF_FFFF then t else vset t i (vget t i + 1)

/-- Largest finite FP32 with a sign (R190). -/
def f32Sat (neg : Bool) : W32 := if neg then 0xFF7F_FFFF else 0x7F7F_FFFF

/-- The exact sum of products of two blocks. -/
def dot (a b : List Int) : Int := (List.zipWith (· * ·) a b).foldl (· + ·) 0

/-- A spoilt position that is stored in B's block (R190; log 33: a pruned position of A does not spoil). -/
def spoils (a b : Block) (stored : BitVec 32) : Bool :=
  b.bad.any id || ((List.range 32).any (fun i => nth a.bad i false && stored.getLsbD i))

/-- The product of two blocks as FP32, and whether it counts a scale overflow. -/
def blockProduct (a b : Block) (stored : BitVec 32) : W32 × Bool :=
  if spoils a b stored then (f32Nan, false)
  else
    let v := dot a.forms b.forms
    if a.huge || b.huge then (if v = 0 then (0, false) else (f32Sat (decide (v < 0)), true))
    else (rne32 (.fin (decide (v < 0)) v.natAbs (a.exp + b.exp)), false)

/-- One live block added into an accumulator element. -/
def blockAdd (a b : Block) (stored : BitVec 32) (t : Vector W32 3) (acc : W32) : Vector W32 3 × W32 :=
  let (p, o) := blockProduct a b stored
  let t := if o then countTrap t 2 else t
  if (f32 acc).isNan then (t, f32Nan)
  else if (f32 p).isNan then (countTrap t 1, f32Nan)
  else if (f32 acc).isInf then (t, acc)
  else
    let r := f32Add acc p
    if (f32 r).isInf then (countTrap t 0, f32Sat (f32 r).neg) else (t, r)

/-- The blocks of one output element in increasing K; a dead block is skipped. -/
def blockAdds (btype : Nat) (bscl : Bool) : List Block → List BBlock → Vector W32 3 → W32 → Vector W32 3 × W32
  | a :: la, b :: lb, t, acc =>
    if b.live then
      let x := blockAdd a (blockOf btype (if bscl then some b.scale else none) b.codes) b.stored t acc
      blockAdds btype bscl la lb x.1 x.2
    else blockAdds btype bscl la lb t acc
  | _, _, t, acc => (t, acc)

/-! ### MLDB (R296, R297) -/

/-- Pilot-light service: the matrix engine takes only INT8, FP8A and FP8B (20 R437). -/
def State.pilot (s : State) : Bool := (s.pkgAt s.fpkg).svc == 0

/-- A stop of MLDB: cause and address. -/
abbrev Bad := Cause × Nat

/-- Bytes of the scratchpad of the tile that acts, or why not: the first local address out of range, or an uncorrectable
error. -/
def State.local? (s : State) (a n : Nat) : Except Bad (List Byte) :=
  if padSize < a + n then .error (.localRange, max a padSize)
  else if s.flawed (apAddr s.fpkg s.ftile a) n then .error (.dataError, a)
  else .ok (readBytes s.mem (apAddr s.fpkg s.ftile a) n)

/-- 4-bit codes of bytes, or bytes as they are, `n` of them. -/
def codesOf (half : Bool) (n : Nat) (l : List Byte) : List Byte :=
  if half then (List.range n).map (fun j =>
    let b := (nth l (j / 2) 0).toNat
    BitVec.ofNat 8 (if j % 2 = 1 then b / 16 else b % 16))
  else l.take n

/-- The 32 rows of a block under 2:4 structure: `got` holds the 16 stored codes, and group `g`'s nibble of the index
array is at nibble `first + g`. -/
def sparseRows (s : State) (mbase first : Nat) (got : List Byte) : List Nat → Except Bad (List (Nat × Byte))
  | [] => .ok []
  | g :: l => do
    let a := mbase + (first + g) / 2
    let b ← s.local? a 1
    let nib := (nth b 0 0).toNat / (if (first + g) % 2 = 1 then 16 else 1) % 16
    if nib / 4 ≤ nib % 4 then .error (.engineWord, a)
    else
      let r ← sparseRows s mbase first got l
      .ok ((4 * g + nib % 4, nth got (2 * g) 0) :: (4 * g + nib / 4, nth got (2 * g + 1) 0) :: r)

/-- The fields of an MLDB descriptor. -/
structure Mldb where
  btype : Nat
  layout : Nat
  sp : Bool
  cv : Bool
  bscl : Bool
  base : Nat
  k : Nat
  n : Nat
  cstride : Nat
  sbase : Nat
  mbase : Nat
  vbase : Nat
  deriving DecidableEq, Repr

/-- The descriptor, none where it breaks R296; `pilot` refuses narrow types (20 R437). -/
def parseMldb (pilot : Bool) (d : List Word) : Option Mldb :=
  let d0 := dw d 0
  let m : Mldb :=
    { btype := bits d0 60 59, layout := bits d0 58 57, sp := d0.getLsbD 56, cv := d0.getLsbD 55, bscl := d0.getLsbD 54
      base := bits d0 22 0, k := bits (dw d 1) 63 48, n := bits (dw d 1) 47 32, cstride := bits (dw d 1) 22 0
      sbase := bits (dw d 2) 54 32, mbase := bits (dw d 2) 22 0, vbase := bits (dw d 3) 22 0 }
  let kg := nth [8, 4, 2, 1] m.layout 1
  let ng := nth [1, 2, 4, 8] m.layout 1
  if bits d0 63 61 ≠ 1 ∨ bits d0 53 23 ≠ 0 ∨ bits (dw d 1) 31 23 ≠ 0 ∨ bits (dw d 2) 63 55 ≠ 0
      ∨ bits (dw d 2) 31 23 ≠ 0 ∨ bits (dw d 3) 63 23 ≠ 0 then none
  else if m.k = 0 ∨ m.k % 32 ≠ 0 ∨ m.n = 0 ∨ m.cstride % 16 ≠ 0 ∨ (m.btype = 0 ∧ (!m.bscl ∨ pilot)) then none
  else if (if m.sp then 512 else 256) * kg < m.k ∨ (if m.btype = 0 then 256 else 128) * ng < m.n then none
  else some m

/-- Block `kb` of column `c` as it is read; a dead block's other bytes are not. -/
def Mldb.block (m : Mldb) (s : State) (c kb : Nat) : Except Bad BBlock := do
  let bit := kb * m.n + c
  let live ← if m.cv then do
      let b ← s.local? (m.vbase + bit / 8) 1
      pure ((nth b 0 0).getLsbD (bit % 8))
    else pure true
  if !live then .ok ⟨false, 0, 0, []⟩
  else
    let scale ← if m.bscl then do
        let b ← s.local? (m.sbase + bit) 1
        pure (nth b 0 0)
      else pure 0
    let half := m.btype == 0
    let per := (if half then 16 else 32) / (if m.sp then 2 else 1)
    let raw ← s.local? (m.base + c * m.cstride + kb * per) per
    if m.sp then
      let rows ← sparseRows s m.mbase (c * m.k / 4 + 8 * kb) (codesOf half 16 raw) (List.range 8)
      .ok { live := true, stored := rows.foldl (fun x r => x ||| BitVec.ofNat 32 (2 ^ r.1)) 0, scale := scale
            codes := (List.range 32).map (fun i => ((rows.find? (fun r => r.1 == i)).map Prod.snd).getD 0) }
    else .ok { live := true, stored := 0xFFFF_FFFF, scale := scale, codes := codesOf half 32 raw }

/-- The columns of B, block by block. -/
def Mldb.columns (m : Mldb) (s : State) : Except Bad (List (List BBlock)) :=
  (List.range m.n).mapM (fun c => (List.range (m.k / 32)).mapM (m.block s c))

/-- MLDB: a fault, one at its descriptor or after too many suspect executions among them, leaves no resident B and stops at
repetition 0, element 0 (R296). -/
def execMldb (w : EW) (s : State) : Host.Outcome State Fault Refusal :=
  (fun s => engineExec (some .M) .matrix w.pop w.push w.chain w.desc (fun _ s =>
    let m := parseMldb s.pilot (s.desc1 w)
    some (Plan.of (fun p s =>
      let s := s.modCur (fun j => { j with resB := none })
      match if w.rep ≠ 0 then none else m with
      | none => .fault s p .engineWord s.eidx
      | some m =>
        match m.columns s with
        | .error (c, a) => .fault s p c (BitVec.ofNat 64 a)
        | .ok cols =>
          .done (s.modCur (fun j => { j with resB := some ⟨BitVec.ofNat 2 m.btype, BitVec.ofNat 2 m.layout, m.sp, m.bscl, m.k, m.n, cols⟩ }))
            none))) s) (if s.droopDue then s.modCur (fun j => { j with resB := none }) else s)

/-! ### MMA and MMAZ (R298 to R301, R303) -/

/-- The fields of an MMA descriptor. -/
structure Mma where
  atype : Nat
  ascl : Bool
  base : Nat
  k : Nat
  kb : Nat
  gran : Nat
  arow : Nat
  ainc : Int
  acol : Nat
  deriving DecidableEq, Repr

/-- The descriptor, none where it breaks R298 against the resident B. -/
def parseMma (pilot : Bool) (b : Option ResidentB) (d : List Word) : Option Mma :=
  let d0 := dw d 0
  let k := bits (dw d 1) 63 48
  let m : Mma :=
    { atype := bits d0 60 59, ascl := d0.getLsbD 58, base := bits d0 22 0, k := k
      kb := min k (boundOf (bits (dw d 1) 47 32) k), gran := granBytes (bits (dw d 1) 15 13)
      arow := bits (dw d 2) 63 55, ainc := toInt 8 (bits (dw d 2) 54 47), acol := bits (dw d 2) 46 36 }
  if bits d0 63 61 ≠ 1 ∨ bits d0 57 23 ≠ 0 ∨ bits (dw d 1) 31 16 ≠ 0 ∨ bits (dw d 1) 12 0 ≠ 0
      ∨ bits (dw d 2) 35 0 ≠ 0 ∨ dw d 3 ≠ 0 ∨ (m.atype = 0 ∧ (!m.ascl ∨ pilot)) then none
  else match b with
    | none => none
    | some b => if m.k ≠ b.k ∨ 2048 < m.acol + b.n then none else some m

/-- Scale bytes for `n` blocks taken from the queue, as far as they are there (R300). -/
def takeScales (n : Nat) (r : Run) : Run :=
  match r.s.jobAt r.s.key with
  | none => r
  | some j =>
    let l := (scaleFront j.sq).take (n - r.w.scales.length)
    let s := r.s.modCur (fun j => { j with sq := j.sq.drop l.length })
    { s := if l.isEmpty then s else s.modEng (fun e => { e with starved := none }), w := { r.w with scales := r.w.scales ++ l } }

/-- The scale bytes of a repetition of `n` blocks: wait, or Queue-Imbalance when none can come (R300; EVA log 18). -/
def Mma.scales (m : Mma) (n : Nat) (r : Run) : Got Unit :=
  if !m.ascl then .ok r ()
  else
    let r := takeScales n r
    if n ≤ r.w.scales.length then .ok { r with s := r.s.modEng (fun e => { e with starved := none }) } ()
    else match r.s.jobAt r.s.key with
      | none => .wait r
      | some j =>
        if j.a.fin && !scaleComing j.sq then
          .fault { r with s := r.s.take.2 } .imbalance (Config.unstatedEva r.s.fresh)
        else .wait ({ r with s := r.s.modEng (fun e => e.starve j (r.s.phase r.s.fpkg)) }.awaits 8)

/-- The blocks of an A row from the codes read and the scale bytes. -/
def Mma.row (m : Mma) (raw scales : List Byte) : List Block :=
  let codes := codesOf (m.atype == 0) m.kb raw ++ List.replicate (m.k - m.kb) 0
  (List.range (m.k / 32)).map (fun i =>
    blockOf m.atype (if m.ascl then some (nth scales i 0) else none) ((codes.drop (32 * i)).take 32))

/-- The outputs of a repetition, column by column from accumulator address `at_`. -/
def rowOut (btype : Nat) (bscl zero : Bool) (a : List Block) : List (List BBlock) → Nat → Memory → Vector W32 3 → Memory × Vector W32 3
  | [], _, m, t => (m, t)
  | col :: l, at_, m, t =>
    let x := blockAdds btype bscl a col t (if zero then 0 else read32 m at_)
    rowOut btype bscl zero a l (at_ + 4) (write32 m at_ x.2) x.1

/-- Repetition `rep` of MMA, or of MMAZ when `zero` (R299). -/
def Mma.rep (m : Mma) (b : ResidentB) (zero : Bool) (step : BitVec 12) (rep : Nat) (r : Run) : Got Unit :=
  let row : Int := m.arow + rep * m.ainc
  let at_ := row * 8192 + 4 * m.acol
  if row < 0 ∨ (r.s.window.2 : Int) ≤ row then .fault r .localRange (BitVec.ofInt 64 at_)
  else
    (m.scales (m.k / 32) r).bind (fun r _ =>
      let a0 := (BitVec.ofInt 64 (m.base + rep * step.toInt * m.gran)).toNat
      match r.s.local? a0 (if m.atype = 0 then (m.kb + 1) / 2 else m.kb) with
      | .error (c, a) => .fault r c (BitVec.ofNat 64 a)
      | .ok raw =>
        if !zero && r.s.flawed (r.s.accAddr at_.toNat) (4 * b.cols.length) then .fault r .dataError (BitVec.ofInt 64 at_)
        else match r.s.jobAt r.s.key with
        | none => .ok r ()
        | some j =>
          let o := r.s.accAddr at_.toNat
          let n := if m.ascl then m.k / 32 else 0
          let x := rowOut b.btype.toNat b.bscl zero (m.row raw r.w.scales) b.cols (r.s.accAddr at_.toNat) r.s.mem j.traps.count
          let s := ({ r.s with mem := x.1 }).modCur (fun j => { j with traps := { j.traps with count := x.2 } })
          .ok { r with s := s, w := { r.w with scales := r.w.scales.drop n, used := r.w.used ++ r.w.scales.take n
                                               undo := (o, readBytes r.s.mem o (4 * b.cols.length)) :: r.w.undo } } ())

/-- The lowest trap counter that a word took from below its threshold to at or above it (R303). -/
def crossed (before : List W32) (t : MatrixTraps) : Option (BitVec 2) :=
  ((List.range 3).find? (fun i =>
    let l := vget t.limit i
    l != 0 && decide (nth before i 0 < l) && decide (l ≤ vget t.count i))).map (BitVec.ofNat 2)

/-- The word notes a crossed threshold for after its push. -/
def noteThreshold (r : Run) : Got Unit :=
  match r.s.jobAt r.s.key with
  | none => .ok r ()
  | some j => .ok { r with s := r.s.modEng (fun e => { e with threshold := crossed r.w.header j.traps }) } ()

/-- MMA and MMAZ. -/
def mmaExec (zero : Bool) (w : EW) (s : State) : Host.Outcome State Fault Refusal :=
  engineExec (some .M) .matrix w.pop w.push w.chain w.desc (fun j s =>
    match j.resB, parseMma s.pilot j.resB (s.desc1 w) with
    | some b, some m =>
      some { uses := [], scale := if m.ascl then m.k / 32 else 0
             run := fun p s =>
               let p := if p.header = [] then { p with header := j.traps.count.toList } else p
               loopWord (ewReps w) 1 (fun rep _ r => m.rep b zero w.step rep r) noteThreshold p s }
    | _, _ => none) s

/-- MMA. -/
def execMma (w : EW) (s : State) : Host.Outcome State Fault Refusal := mmaExec false w s
/-- MMAZ. -/
def execMmaz (w : EW) (s : State) : Host.Outcome State Fault Refusal := mmaExec true w s

/-! ### MCLR, MTHR, MRDC, MOUT (R302) -/

/-- MCLR. -/
def execMclr (w : EW) (s : State) : Host.Outcome State Fault Refusal :=
  engineExec (some .M) .matrix w.pop w.push w.chain w.desc (fun _ s =>
    match parsePat (s.desc1 w) [2] with
    | none => none
    | some p =>
      if p.aux ≠ 0 then none
      else some (Plan.of (loopWord (ewReps w) p.n
        (fun rep k r => if p.inB k then p.write (ewUse w false) (fun _ => 0) rep k r else .ok r ()) noEnd))) s

/-- MTHR. -/
def execMthr (w : EW) (s : State) : Host.Outcome State Fault Refusal :=
  engineExec (some .M) .matrix w.pop w.push w.chain w.desc (fun _ s =>
    let d := s.desc1 w
    if bits (dw d 0) 63 32 ≠ 0 ∨ bits (dw d 1) 63 32 ≠ 0 ∨ bits (dw d 2) 63 32 ≠ 0 ∨ bits (dw d 3) 63 1 ≠ 0 then none
    else some (Plan.of (fun _ s =>
      .done (s.modCur (fun j =>
        { j with traps := ⟨if (dw d 3).getLsbD 0 then Vector.replicate 3 0 else j.traps.count,
                          #v[lo32 (dw d 0), lo32 (dw d 1), lo32 (dw d 2)]⟩ })) none))) s

/-- Word `i` that MRDC writes: the three counts, then the three thresholds. -/
def trapWord (t : MatrixTraps) (i : Nat) : W32 := if i < 3 then vget t.count i else vget t.limit (i - 3)

/-- One word of MRDC; with C the counts are cleared once the last of the repetition is read. -/
def mrdcElem (base : Nat) (clear : Bool) (step : BitVec 12) (rep i : Nat) (r : Run) : Got Unit :=
  let a := BitVec.ofInt 64 (base + rep * step.toInt * 16 + 4 * i)
  match r.s.jobAt r.s.key with
  | none => .ok r ()
  | some j =>
    if padSize < a.toNat + 4 then .fault r .localRange a
    else if r.s.flawed (apAddr r.s.fpkg r.s.ftile a.toNat) 4 then .fault r .dataError a
    else
      let s := { r.s with mem := write32 r.s.mem (apAddr r.s.fpkg r.s.ftile a.toNat) (trapWord j.traps i) }
      let s := if clear && i == 5 then s.modCur (fun j => { j with traps := { j.traps with count := Vector.replicate 3 0 } })
        else s
      .ok { r with s := s } ()

/-- MRDC. -/
def execMrdc (w : EW) (s : State) : Host.Outcome State Fault Refusal :=
  engineExec (some .M) .matrix w.pop w.push w.chain w.desc (fun _ s =>
    let d := s.desc1 w
    match parsePat [dw d 0, 0, 0, 0] [1] with
    | none => none
    | some p =>
      if dw d 1 ≠ 0 ∨ dw d 2 ≠ 0 ∨ bits (dw d 3) 63 1 ≠ 0 ∨ p.base % 4 ≠ 0 then none
      else some (Plan.of (loopWord (ewReps w) 6 (mrdcElem p.base ((dw d 3).getLsbD 0) w.step) noEnd))) s

/-- Output formats of MOUT: format and element bytes. -/
def moutFmt (f : Nat) : Option (FpFmt × Nat) :=
  match f with
  | 0 => some (fp32, 4) | 1 => some (bf16, 2) | 2 => some (fp16, 2) | _ => none

/-- Element `k` of MOUT: accumulator element (row + rep, col + k) converted RNE. -/
def moutElem (p : Pat) (u : Use) (f : FpFmt) (row col rep k : Nat) (r : Run) : Got Unit :=
  (p.room (rep * p.n + k) r).bind (fun r _ =>
    if !p.inB k then p.put u false (fun _ => 0) rep k (rep * p.n + k) r
    else
      let o := (row + rep) * 8192 + 4 * (col + k)
      if r.s.window.2 ≤ row + rep then .fault r .localRange (BitVec.ofNat 64 o)
      else if r.s.flawed (r.s.accAddr o) 4 then .fault r .dataError (BitVec.ofNat 64 o)
      else
        let v := fpConvert fp32 f .rne (read32 r.s.mem (r.s.accAddr o)).toNat
        p.put u true (fun _ => v) rep k (rep * p.n + k) r)

/-- MOUT. -/
def execMout (w : EW) (s : State) : Host.Outcome State Fault Refusal :=
  engineExec (some .M) .matrix w.pop w.push w.chain w.desc (fun _ s =>
    match parsePat (s.desc1 w) [1, 3] with
    | none => none
    | some p =>
      let col := bits p.aux 19 9
      match moutFmt (bits p.aux 21 20) with
      | none => none
      | some (f, n) =>
        if bits p.aux 31 22 ≠ 0 ∨ p.esize ≠ n ∨ 2048 < col + p.n then none
        else some { uses := p.chan false, scale := 0
                    run := loopWord (ewReps w) p.n (moutElem p (ewUse w false) f (bits p.aux 8 0) col)
                      (fun r => if p.space = 3 then endWrite p.base r else .ok r ()) }) s

end Sys2Proof.Machine
end

