-- ==== Sys2Proof/Machine/PinOps.lean ====
section
/-!
DEFINITION. Meanings of the Pinwheel words (12 R331 to R335) and of the PWC family (12 R338 to R341).
-/

namespace Sys2Proof.Machine

/-- One Pinwheel word. -/
def pwWord (w : EW) (plan : Job → State → Option Plan) (s : State) : Host.Outcome State Fault Refusal :=
  engineExec (some .W) .pinwheel w.pop w.push w.chain w.desc plan s

/-! ### WPATCH, WLOADY, WSAVE, WREST (R331, R332) -/

/-- The pattern of a word that addresses cells, with its first cell. -/
def cellPat (s : State) (w : EW) (spaces : List Nat) (esize : Nat) : Option (Pat × Nat) :=
  match parsePat (s.desc1 w) spaces with
  | none => none
  | some p =>
    let f := bits p.aux 8 0
    if p.esize ≠ esize ∨ bits p.aux 31 9 ≠ 0 ∨ 512 < f + ewReps w * p.n then none else some (p, f)

/-- A word that gives each in-bound element's cell its value through `f` (cell, value, element address). -/
def cellRead (w : EW) (spaces : List Nat) (esize : Nat) (f : Nat → Nat → Word → Run → Got Unit) (s : State) :
    Host.Outcome State Fault Refusal :=
  pwWord w (fun _ s => (cellPat s w spaces esize).map (fun x =>
    let p := x.1
    { uses := p.chan true, scale := 0
      run := loopWord (ewReps w) p.n (fun rep k r =>
          (p.fetch r).bind (fun r _ => (p.get (ewUse w true) (p.inB k) rep k (rep * p.n + k) r).bind (fun r v =>
            let r := p.used (rep * p.n + k) r
            if p.inB k then f (x.2 + rep * p.n + k) v (p.addr w.step rep k) r else .ok r ())))
        (fun r => if p.space = 3 then endRead p.base r else .ok r ()) })) s

/-- The array of the tile changed. -/
def Run.pw (r : Run) (f : Pinwheel → Pinwheel) : Run := { r with s := r.s.modPw f }

/-- WPATCH. -/
def execWpatch (w : EW) (s : State) : Host.Outcome State Fault Refusal :=
  cellRead w [0, 1] 8 (fun i v a r =>
    if patchBad (BitVec.ofNat 64 v) then .fault r .switchConfig a
    else .ok (r.pw (fun p => p.setEntry i (BitVec.ofNat 64 v))) ()) s

/-- WLOADY. -/
def execWloady (w : EW) (s : State) : Host.Outcome State Fault Refusal :=
  cellRead w [0, 1, 3] 4 (fun i v _ r =>
    .ok (r.pw (fun p => p.setCell i { p.cell i with y := BitVec.ofNat 32 v })) ()) s

/-- WREST. -/
def execWrest (w : EW) (s : State) : Host.Outcome State Fault Refusal :=
  cellRead w [0, 1] 8 (fun i v _ r =>
    .ok (r.pw (fun p => p.setCell i { p.cell i with y := BitVec.ofNat 32 v, z := BitVec.ofNat 32 (v / 2 ^ 32) })) ()) s

/-- WSAVE. -/
def execWsave (w : EW) (s : State) : Host.Outcome State Fault Refusal :=
  pwWord w (fun _ s => (cellPat s w [0, 1] 8).map (fun x =>
    let p := x.1
    Plan.of (loopWord (ewReps w) p.n (fun rep k r =>
      let c := r.s.pwAt.cell (x.2 + rep * p.n + k)
      p.put (ewUse w false) (p.inB k) (fun _ => c.y.toNat + c.z.toNat * 2 ^ 32) rep k (rep * p.n + k) r) noEnd))) s

/-! ### WDOM (R333) -/

/-- Domain register `d` after WDOM. -/
def wdomReg (desc : List Word) (d : Nat) (old : Word) : Word :=
  let c := dw desc 2
  let div := if c.getLsbD (8 + d) then bits (dw desc (d / 4)) (16 * (d % 4) + 15) (16 * (d % 4)) else bits old 15 0
  let ctr := if c.getLsbD (16 + d) then 0 else bits old 47 32
  BitVec.ofNat 64 (ctr * 2 ^ 32 + (if c.getLsbD d then 2 ^ 16 else 0) + div)

/-- WDOM. -/
def execWdom (w : EW) (s : State) : Host.Outcome State Fault Refusal :=
  pwWord w (fun _ s =>
    let d := s.desc1 w
    if bits (dw d 2) 63 24 ≠ 0 ∨ dw d 3 ≠ 0 ∨ w.step ≠ 0 ∨ w.rep ≠ 0 then none
    else some (Plan.of (fun _ s =>
      .done (s.modPw (fun p => { p with dom := Vector.ofFn (fun i => wdomReg d i.val p.dom[i]) })) none))) s

/-! ### WRUN and WSAMP (R334, R335) -/

/-- The fields of a WRUN or WSAMP descriptor that say what is sampled, and where. -/
structure Sampling where
  mode : Nat
  clear : Bool
  chan : Nat

/-- A sample beat of cells `first` on is read, and their counts cleared in count mode, unless one waits already. -/
def Run.sample (r : Run) (x : Sampling) (first n : Nat) : Run :=
  if r.w.packed ≠ [] then r
  else
    let r1 := r.pack (r.s.pwAt.sampleBeat x.mode first n)
    if x.mode = 2 && x.clear then r1.pw (fun p => p.clearCounts first n) else r1

/-- The sample beat enters its channel. -/
def sendSample (c : Nat) (r : Run) : Got Unit :=
  (putBeat c (.beat r.w.packed) r).bind (fun r _ => .ok { r with w := { r.w with packed := [] } } ())

/-- The input beat of a repetition (R334, step 1): checked, then delivered. A beat whose delivery faults stays held. -/
def wrunInput (c : Nat) (r : Run) : Got Unit :=
  (takeBeat c 1024 r).bind (fun r _ =>
    let b := r.w.peek 1024
    if !lanesOk b then .fault r .switchConfig r.s.eidx
    else match r.s.pwAt.lanes b with
      | .error (x, eva) => .fault r x (BitVec.ofNat 64 eva)
      | .ok p => .ok { s := r.s.modPw (fun _ => p), w := { r.w with held := [] } } ())

/-- One array cycle of a WRUN. -/
def wrunCycle (r : Run) : Got Unit :=
  match r.s.pwAt.cycle with
  | .error (x, eva) => .fault r x (BitVec.ofNat 64 eva)
  | .ok p => .ok (r.pw (fun _ => p)) ()

/-- Step 1 of a repetition, once (R334). -/
def wrunBegin (input : Bool) (ich : Nat) (r : Run) : Got Unit :=
  if r.w.taken then .ok r ()
  else (if input then wrunInput ich r else .ok r ()).bind (fun r _ => .ok { r with w := { r.w with taken := true } } ())

/-- Step `k` of a repetition: its input beat and the cycles; the step after the last cycle emits the sample. -/
def wrunStep (input output : Bool) (ich cycles sfirst : Nat) (x : Sampling) (k : Nat) (r : Run) : Got Unit :=
  if k < cycles then (wrunBegin input ich r).bind (fun r _ => wrunCycle r)
  else
    (if output then sendSample x.chan (r.sample x sfirst 256) else .ok r ()).bind (fun r _ =>
      .ok { r with w := { r.w with taken := false } } ())

/-- Where a WRUN stands in its steps: after the last cycle its element index stays the number of cycles, and `taken` says
whether the sample is still to come (R334). -/
def wrunAt (cycles : Nat) (w : WordPos) : WordPos := if w.elem = cycles ∧ !w.taken then { w with elem := cycles + 1 } else w

/-- Where it stops: its element index is the number of committed cycles (R334). -/
def wrunStop (cycles : Nat) : WRes → WRes
  | .done s n => .done s n
  | .fault s w c e => .fault s { w with elem := min w.elem cycles } c e
  | .wait s w => .wait s { w with elem := min w.elem cycles }

/-- WRUN. -/
def execWrun (w : EW) (s : State) : Host.Outcome State Fault Refusal :=
  pwWord w (fun _ s =>
    let d := s.desc1 w
    let d0 := dw d 0
    let x : Sampling := ⟨bits d0 25 24, d0.getLsbD 26, bits d0 23 21⟩
    let ich := bits d0 19 17
    let input := d0.getLsbD 16
    let output := d0.getLsbD 20
    let cycles := bits d0 15 0 + 1
    if bits d0 63 36 ≠ 0 ∨ dw d 1 ≠ 0 ∨ dw d 2 ≠ 0 ∨ dw d 3 ≠ 0 ∨ w.step ≠ 0 ∨ x.mode = 3 then none
    else some { uses := (if input then [(ich, true)] else []) ++ (if output then [(x.chan, false)] else []), scale := 0
                run := fun p s => wrunStop cycles (loopWord (ewReps w) (cycles + 1)
                  (fun _ k r => wrunStep input output ich cycles (bits d0 35 27) x k r)
                  (fun r => (if input then endRead ich r else .ok r ()).bind (fun r _ =>
                    if output then endWrite x.chan r else .ok r ())) (wrunAt cycles p) s) }) s

/-- First cell of repetition `r` of a WSAMP. -/
def wsampFirst (first : Nat) (step : BitVec 12) (r : Nat) : Int := first + r * step.toInt

/-- WSAMP. -/
def execWsamp (w : EW) (s : State) : Host.Outcome State Fault Refusal :=
  pwWord w (fun _ s =>
    let d := s.desc1 w
    let d0 := dw d 0
    let x : Sampling := ⟨bits d0 4 3, d0.getLsbD 5, bits d0 2 0⟩
    let n := bits d0 22 15 + 1
    let first := wsampFirst (bits d0 14 6) w.step
    if bits d0 63 23 ≠ 0 ∨ dw d 1 ≠ 0 ∨ dw d 2 ≠ 0 ∨ dw d 3 ≠ 0 ∨ x.mode = 3 ∨
        (List.range (ewReps w)).any (fun r => decide (first r < 0) || decide (512 < first r + n)) then none
    else some { uses := [(x.chan, false)], scale := 0
                run := loopWord (ewReps w) 1 (fun rep _ r => sendSample x.chan (r.sample x (first rep).toNat n))
                  (endWrite x.chan) }) s

/-! ### PWC (R338 to R341) -/

/-- `body` once the job that acts holds the array and its W stream is at rest (R339). -/
def withPw (j : Job) (s : State) (body : State → Res) : Res :=
  if !Hold.pinwheel.free (s.tileAt s.tkey) j.jid then .wait s
  else
    let s := s.modTile s.tkey (fun t => t.takePw j.jid)
    if j.wRest then body s else .wait s

/-- PWSAVE (R339). -/
def execPwsave (a : Reg) (s : State) : Host.Outcome State Fault Refusal :=
  coreExec 4 false [a] (fun j c s =>
    let at_ := c.reg a
    withLocal s at_ pwImageBytes 256 (fun s => inLocalQueue s true (fun s => withPw j s (fun s =>
      .next { s with mem := writeBytes s.mem (apAddr s.fpkg s.ftile at_.toNat) s.pwAt.image })))) s

/-- PWREST (R339): a rejected image leaves the array, and a take that came with it, as they were. -/
def execPwrest (a : Reg) (s : State) : Host.Outcome State Fault Refusal :=
  coreExec 4 false [a] (fun j c s =>
    let at_ := c.reg a
    withLocal s at_ pwImageBytes 256 (fun s => inLocalQueue s false (fun s => withPw j s (fun s => soundPad s at_ pwImageBytes false (fun s =>
      let base := apAddr s.fpkg s.ftile at_.toNat
      let dword := fun (o : Nat) => BitVec.ofNat 64 (readLe s.mem (base + o) 8)
      let byte := fun (o : Nat) => readByte s.mem (base + o)
      match imageBad dword byte with
      | some o => .raise s .switchConfig (at_ + BitVec.ofNat 64 o)
      | none => .next (s.modPw (fun p => p.load dword byte))))))) s

/-- The result of PWRDY (R340). -/
def pwrdyResult (j : Job) : Word :=
  if j.w.fin then BitVec.ofNat 64 (2 ^ 63)
  else
    let own := if j.st = .handler then j.hkind == .W else j.freeze.any (fun f => f.kind == .W)
    let flt := j.st == .handler || j.st == .freezing
    BitVec.ofNat 64 ((if flt then 2 ^ 62 else 0) + (if flt && own then 2 ^ 61 else 0) + j.w.pc % 2 ^ 14)

/-- PWRDY (R340). -/
def execPwrdy (d : Reg) (s : State) : Host.Outcome State Fault Refusal :=
  coreExec 4 false [d] (fun j _ s => if j.wRest then .next (s.setReg d (pwrdyResult j)) else .wait s) s

/-- The result of PWSTAT (R341). -/
def pwstatResult (t : Tile) (j : Job) : Word :=
  let h := t.pwHolder == some j.jid
  let en := ((List.range 8).map (fun d => if (nth t.pw.dom.toList d 0).getLsbD 16 then 2 ^ d else 0)).sum
  BitVec.ofNat 64 ((if h then 2 ^ 63 else 0) + (if !h && t.pwHolder.isSome then 2 ^ 62 else 0)
    + (if j.wRest then 2 ^ 61 else 0) + (if h then en * 2 ^ 40 + t.pw.cyc.toNat else 0))

/-- PWSTAT (R341). -/
def execPwstat (d : Reg) (s : State) : Host.Outcome State Fault Refusal :=
  coreExec 4 false [d] (fun j _ s => .next (s.setReg d (pwstatResult (s.tileAt s.tkey) j))) s

end Sys2Proof.Machine
end

