-- ==== Sys2Proof/Machine/TransposeOps.lean ====
section
/-!
DEFINITION. Meanings of the transpose words (11 R313).
-/

namespace Sys2Proof.Machine

/-! ### Elements of a channel taken out of order -/

/-- `n` bytes at hand from channel `c`, or its mark; `fuel` bounds the beats taken. -/
def takeBytes (c n : Nat) : Nat → Run → Got Unit
  | 0, r => .ok r ()
  | fuel + 1, r =>
    if n ≤ r.w.held.length ∨ r.w.ended c then .ok r ()
    else (takeBeat c n r).bind (fun r _ => takeBytes c n fuel r)

/-- Bytes that hold `n` elements from element number `g0` of a word on. -/
def Pat.windowBytes (p : Pat) (g0 n : Nat) : Nat := if p.esize = 0 then (n + g0 % 2 + 1) / 2 else n * p.esize
/-- Bytes that those elements use up. -/
def Pat.windowUsed (p : Pat) (g0 n : Nat) : Nat := if p.esize = 0 then (n + g0 % 2) / 2 else n * p.esize

/-- The `n` elements from number `g0` on are at hand where the source is a channel. -/
def Pat.gather (p : Pat) (g0 n : Nat) (r : Run) : Got Unit :=
  if p.space = 3 then takeBytes p.base (p.windowBytes g0 n) (p.windowBytes g0 n / 1024 + 2) r else .ok r ()

/-- They are used up. -/
def Pat.release (p : Pat) (g0 n : Nat) (r : Run) : Run := if p.space = 3 then r.use (p.windowUsed g0 n) else r

/-- Element `k` of repetition `rep`, from a window that begins at element number `g0` or from its place; zero when it
is not wanted. -/
def Pat.pick (p : Pat) (u : Use) (wanted : Bool) (rep k g0 : Nat) (r : Run) : Got Nat :=
  if !wanted then .ok r 0
  else if p.space = 3 then
    let g := rep * p.n + k
    if p.esize = 0 then
      let b := (nth r.w.held ((g - g0 + g0 % 2) / 2) 0).toNat
      .ok r (if g % 2 = 1 then b / 16 else b % 16)
    else .ok r (leNat ((r.w.held.drop ((g - g0) * p.esize)).take p.esize))
  else p.read u rep k r

/-! ### TXBLK -/

/-- Element `k` of TXBLK: destination (i0, i1, i2) := source (i1, i0, i2), block by block. -/
def txblkElem (ps pd : Pat) (us ud : Use) (rep k : Nat) (r : Run) : Got Unit :=
  let g := rep * pd.n + k
  let g0 := rep * ps.n + k / 1024 * 1024
  let ks := ps.at_ (pd.i1 k) (pd.i0 k) (pd.i2 k)
  (ps.gather g0 1024 r).bind (fun r _ => (pd.room g r).bind (fun r _ =>
    (ps.pick us (ps.inB ks && pd.inB k) rep ks g0 r).bind (fun r v =>
      (pd.put ud (pd.inB k) (fun _ => v) rep k g r).bind (fun r _ =>
        .ok (if k % 1024 = 1023 then ps.release g0 1024 r else r) ()))))

/-- TXBLK. -/
def execTxblk (w : EW) (s : State) : Host.Outcome State Fault Refusal :=
  engineExec (some .T) .none w.pop w.push w.chain w.desc (fun _ s =>
    match parsePat (s.desc1 w) [0, 1, 3], (s.desc2 w).bind (fun d => parsePat d [0, 1, 3]) with
    | some ps, some pd =>
      if ps.e0 ≠ 32 ∨ ps.e1 ≠ 32 ∨ pd.e0 ≠ 32 ∨ pd.e1 ≠ 32 ∨ ps.e2 ≠ pd.e2 ∨ ps.esize ≠ pd.esize ∨ 4 < ps.esize
          ∨ ps.aux ≠ 0 ∨ pd.aux ≠ 0 then none
      else some { uses := ps.chan true ++ pd.chan false, scale := 0
                  run := loopWord (ewReps w) pd.n (txblkElem ps pd (ewUse w true) (ewUse w false)) (endPair ps pd) }
    | _, _ => none) s

/-! ### TXCVT -/

/-- Bytes of an FCVT format code (08 R206). -/
def fmtBytes (f : Nat) : Nat := nth [4, 2, 2, 1, 1, 4, 8, 8] f 0

/-- TXCVT: element k of the destination := FCVT of source element k. -/
def execTxcvt (w : EW) (s : State) : Host.Outcome State Fault Refusal :=
  engineExec (some .T) .none w.pop w.push w.chain w.desc (fun _ s =>
    match parsePat (s.desc1 w) [0, 1, 3], (s.desc2 w).bind (fun d => parsePat d [0, 1, 3]) with
    | some ps, some pd =>
      let src := BitVec.ofNat 3 (bits ps.aux 2 0)
      let dst := BitVec.ofNat 3 (bits ps.aux 5 3)
      let mode := BitVec.ofNat 2 (bits ps.aux 7 6)
      if bits ps.aux 31 8 ≠ 0 ∨ pd.aux ≠ 0 ∨ ps.n ≠ pd.n ∨ !fcvtLegal src dst ∨ ps.esize ≠ fmtBytes src.toNat
          ∨ pd.esize ≠ fmtBytes dst.toNat then none
      else some { uses := ps.chan true ++ pd.chan false, scale := 0
                  run := loopWord (ewReps w) pd.n
                    (fun rep k r => moveElem ps pd (ewUse w true) (ewUse w false)
                      (fun v _ => (fcvt64 mode src dst (BitVec.ofNat 64 v)).toNat % 2 ^ (8 * pd.esize))
                      (ps.inB k && pd.inB k) rep k k (rep * pd.n + k) r)
                    (endPair ps pd) }
    | _, _ => none) s

/-! ### TXGAT -/

/-- The index of destination row `i1`, or the cause that stops its read. -/
def State.rowIndex (s : State) (at_ i1 : Nat) : Except Cause Nat :=
  if padSize < at_ + 2 * i1 + 2 then .error .localRange
  else if s.flawed (apAddr s.fpkg s.ftile (at_ + 2 * i1)) 2 then .error .dataError
  else .ok (s.readL (at_ + 2 * i1) 2)

/-- Element `k` of TXGAT; the element past the last uses up a channel's rows. -/
def txgatElem (ps pd : Pat) (us ud : Use) (at_ rep k : Nat) (r : Run) : Got Unit :=
  let g0 := rep * ps.n
  (ps.gather g0 ps.n r).bind (fun r _ =>
    if k = pd.n then .ok (ps.release g0 ps.n r) ()
    else
      let g := rep * pd.n + k
      (pd.room g r).bind (fun r _ =>
        if !pd.inB k then pd.put ud false (fun _ => 0) rep k g r
        else match r.s.rowIndex at_ (pd.i1 k) with
          | .error c => .fault r c (BitVec.ofNat 64 (at_ + 2 * pd.i1 k))
          | .ok i =>
            let live := decide (i < ps.b1) && decide (i < ps.e1) && decide (pd.i0 k < ps.b0)
            (ps.pick us live rep (ps.at_ (pd.i0 k) i (pd.i2 k)) g0 r).bind (fun r v =>
              pd.put ud true (fun _ => v) rep k g r)))

/-- TXGAT: destination row (i1, i2) := source row (idx[i1], i2). -/
def execTxgat (w : EW) (s : State) : Host.Outcome State Fault Refusal :=
  engineExec (some .T) .none w.pop w.push w.chain w.desc (fun _ s =>
    match parsePat (s.desc1 w) [0, 1, 3], (s.desc2 w).bind (fun d => parsePat d [0, 1, 3]) with
    | some ps, some pd =>
      if ps.e0 ≠ pd.e0 ∨ ps.e2 ≠ pd.e2 ∨ ps.esize ≠ pd.esize ∨ ps.aux ≠ 0 ∨ bits pd.aux 31 23 ≠ 0
          ∨ bits pd.aux 0 0 ≠ 0 then none
      else some { uses := ps.chan true ++ pd.chan false, scale := 0
                  run := loopWord (ewReps w) (pd.n + 1)
                    (txgatElem ps pd (ewUse w true) (ewUse w false) (bits pd.aux 22 0)) (endPair ps pd) }
    | _, _ => none) s

end Sys2Proof.Machine
end

