-- ==== Sys2Proof/Machine/VectorOps.lean ====
section
/-!
DEFINITION. Meanings of the vector words (11 R304 to R312).
-/

namespace Sys2Proof.Machine

/-! ### The register file (R282) -/

/-- The 256 lanes of register `v`. -/
def vregLanes (m : Map W32) (v : Nat) : List W32 :=
  let l := m.filter (fun e => decide (256 * v ≤ e.1) && decide (e.1 < 256 * v + 256))
  (List.range 256).map (fun j => (mget l (256 * v + j)).getD 0)

/-- Register `v` with the lanes `l`. -/
def vregPut (m : Map W32) (v : Nat) (l : List W32) : Map W32 :=
  m.filter (fun e => decide (e.1 < 256 * v)) ++
    ((List.range 256).map (fun j => (256 * v + j, nth l j 0))).filter (fun e => e.2 != 0) ++
    m.filter (fun e => decide (256 * v + 256 ≤ e.1))

/-- Lane `j` of register `v`. -/
def vlane (m : Map W32) (v j : Nat) : W32 := (mget m (256 * v + j)).getD 0

/-- Lane `j` of register `v` made `x`. -/
def vlanePut (m : Map W32) (v j : Nat) (x : W32) : Map W32 :=
  if x = 0 then mdel m (256 * v + j) else mput m (256 * v + j) x

/-- The vector registers of the job that acts. -/
def State.vregs (s : State) : Map W32 := ((s.jobAt s.key).map Job.vreg).getD []

/-- Update of the vector registers. -/
def State.modVregs (s : State) (f : Map W32 → Map W32) : State := s.modCur (fun j => { j with vreg := f j.vreg })

/-! ### V-descriptors (R304, R305) -/

/-- The fields an operation uses. -/
structure VUses where
  od : Bool := true
  oa : Bool := true
  ob : Bool := false
  oc : Bool := false
  mask : Bool := true
  rm : Bool := false
  fmt : Bool := false
  nt : Bool := false
  cond : Bool := false
  k : Bool := false
  mem : Bool := false
  /-- vm names the header-out register (R311). -/
  hdr : Bool := false

/-- A V-descriptor's fields; an operand code that is not used is none. -/
structure VDesc where
  od : Option Nat
  oa : Option Nat
  ob : Option Nat
  oc : Option Nat
  vm : Nat
  me : Bool
  advD : Bool
  advA : Bool
  advB : Bool
  advC : Bool
  rm : BitVec 2
  ffrom : BitVec 3
  fto : BitVec 3
  nt : Nat
  cond : Nat
  k : Nat
  const : W32
  deriving DecidableEq, Repr

/-- A source operand code: a register, a channel (no adv) or the constant. -/
def srcOk (adv : Bool) (c : Nat) : Bool := decide (c < 32) || (decide (c < 40) && !adv) || (c == 40 && !adv)

/-- A destination operand code. -/
def dstOk (adv : Bool) (c : Nat) : Bool := decide (c < 32) || (decide (c < 40) && !adv)

/-- A V-descriptor of an operation that uses `u`, none where it breaks R304 or R305. -/
def parseV (u : VUses) (d : List Word) : Option VDesc :=
  let d0 := dw d 0
  let opd := fun (used : Bool) (hi lo : Nat) => if used then some (bits d0 hi lo) else none
  let v : VDesc :=
    { od := opd u.od 63 58, oa := opd u.oa 57 52, ob := opd u.ob 51 46, oc := opd u.oc 45 40
      vm := bits d0 39 35, me := d0.getLsbD 34, advD := d0.getLsbD 33, advA := d0.getLsbD 32
      advB := d0.getLsbD 31, advC := d0.getLsbD 30, rm := BitVec.ofNat 2 (bits d0 29 28)
      ffrom := BitVec.ofNat 3 (bits d0 27 25), fto := BitVec.ofNat 3 (bits d0 24 22), nt := bits d0 21 20
      cond := bits d0 19 18, k := bits d0 15 8, const := lo32 (dw d 1) }
  let srcs := [v.oa, v.ob, v.oc].filterMap id
  let zero := fun (used : Bool) (hi lo : Nat) => used || bits d0 hi lo == 0
  if !(zero u.od 63 58 && zero u.oa 57 52 && zero u.ob 51 46 && zero u.oc 45 40 && zero (u.mask || u.hdr) 39 35
      && zero u.mask 34 34 && zero u.od 33 33 && zero u.oa 32 32 && zero u.ob 31 31 && zero u.oc 30 30
      && zero u.rm 29 28 && zero u.fmt 27 22 && zero u.nt 21 20 && zero u.cond 19 18 && bits d0 17 16 == 0
      && zero u.k 15 8 && bits d0 7 0 == 0) then none
  else if bits (dw d 1) 63 32 ≠ 0 ∨ (v.const ≠ 0 ∧ !srcs.contains 40) then none
  else if (if u.mem then bits (dw d 3) 31 0 ≠ 0 else dw d 2 ≠ 0 ∨ dw d 3 ≠ 0) then none
  else if !(v.od.all (dstOk v.advD) && v.oa.all (srcOk v.advA) && v.ob.all (srcOk v.advB) && v.oc.all (srcOk v.advC)) then none
  else if u.cond && v.cond == 3 then none
  else if u.fmt && (decide (5 < v.ffrom.toNat) || decide (5 < v.fto.toNat) || v.ffrom == v.fto) then none
  else some v

/-- Channels among operand codes, each once. -/
def chansOf (l : List (Option Nat)) : List Nat :=
  ((l.filterMap id).filter (fun c => decide (32 ≤ c) && decide (c < 40))).map (· - 32) |>.eraseDups

/-- Source channels of a word, in order of their operands. -/
def VDesc.reads (v : VDesc) : List Nat := chansOf [v.oa, v.ob, v.oc]
/-- Destination channel. -/
def VDesc.writes (v : VDesc) : List Nat := chansOf [v.od]

/-- Channels a word uses. -/
def VDesc.uses (v : VDesc) : List (Nat × Bool) := v.reads.map (·, true) ++ v.writes.map (·, false)

/-- Register that a code names in repetition `r` (R305). -/
def regAt (code : Nat) (adv : Bool) (step : BitVec 12) (r : Nat) : Nat :=
  if adv then ((code + r * step.toInt) % 32).toNat else code

/-- Beats at hand for every source channel, in order (R294); an ended channel gives zeros. -/
def takeBeats : List Nat → Nat → Run → Got Unit
  | [], _, r => .ok r ()
  | c :: l, i, r =>
    if 1024 * (i + 1) ≤ r.w.held.length then takeBeats l (i + 1) r
    else
      (takeBeat c (1024 * (i + 1)) r).bind (fun r _ =>
        let r := if r.w.ended c then { r with w := { r.w with held := r.w.held ++ List.replicate 1024 0 } } else r
        takeBeats l (i + 1) r)

/-- Bytes as lanes. -/
def lanesOf (b : List Byte) : List W32 := (List.range 256).map (fun j => BitVec.ofNat 32 (leNat ((b.drop (4 * j)).take 4)))
/-- Lanes as bytes. -/
def lanesBytes (l : List W32) : List Byte := (l.take 256).flatMap (fun x => leBytes 4 x.toNat)

/-- The lanes of a source operand in repetition `r`. -/
def VDesc.src (v : VDesc) (step : BitVec 12) (rep : Nat) (code : Option Nat) (adv : Bool) (r : Run) : List W32 :=
  match code with
  | none => []
  | some c =>
    if c = 40 then List.replicate 256 v.const
    else if c < 32 then vregLanes r.s.vregs (regAt c adv step rep)
    else lanesOf ((r.w.held.drop (1024 * v.reads.idxOf (c - 32))).take 1024)

/-- Active lanes (R305). -/
def VDesc.active (v : VDesc) (r : Run) : List Bool :=
  if v.me then (vregLanes r.s.vregs v.vm).map (fun x => x != 0) else List.replicate 256 true

/-- The lanes `vals` written to the destination where `act`. -/
def VDesc.dst (v : VDesc) (step : BitVec 12) (rep : Nat) (act : List Bool) (vals : List W32) (r : Run) : Run :=
  match v.od with
  | none => r
  | some c =>
    if c < 32 then
      let n := regAt c v.advD step rep
      { r with s := r.s.modVregs (fun m =>
          vregPut m n (List.zipWith (fun (a : Bool) (x : W32 × W32) => if a then x.1 else x.2) act (vals.zip (vregLanes m n)))) }
    else
      tryFlush (c - 32) (r.pack (lanesBytes (List.zipWith (fun (a : Bool) (x : W32) => if a then x else 0) act vals)))

/-- Room at the destination channel for one more beat. -/
def VDesc.room (v : VDesc) (r : Run) : Got Unit :=
  match v.writes with
  | c :: _ => flushFull c r
  | [] => .ok r ()

/-- The marks of a word (R294). -/
def endReads : List Nat → Run → Got Unit
  | [], r => .ok r ()
  | c :: l, r => (endRead c r).bind (fun r _ => endReads l r)

def VDesc.ends (v : VDesc) (r : Run) : Got Unit :=
  (endReads v.reads r).bind (fun r _ => match v.writes with
    | c :: _ => endWrite c r
    | [] => .ok r ())

/-- One repetition of a register operation: `f` gives the result lanes and the lanes written, from the active
lanes and the sources (R305). -/
def VDesc.rep (v : VDesc) (step : BitVec 12) (f : List Bool → List W32 → List W32 → List W32 → List W32 × List Bool)
    (rep : Nat) (r : Run) : Got Unit :=
  (takeBeats v.reads 0 r).bind (fun r _ => (v.room r).bind (fun r _ =>
    let act := v.active r
    let out := f act (v.src step rep v.oa v.advA r) (v.src step rep v.ob v.advB r) (v.src step rep v.oc v.advC r)
    .ok (v.dst step rep out.2 out.1 { r with w := { r.w with held := [] } }) ()))

/-- A register operation. -/
def vecExec (u : VUses) (w : EW) (f : VDesc → List Bool → List W32 → List W32 → List W32 → List W32 × List Bool) (s : State) :
    Host.Outcome State Fault Refusal :=
  engineExec (some .V) .none w.pop w.push w.chain w.desc (fun _ s =>
    match parseV u (s.desc1 w) with
    | none => none
    | some v =>
      some { uses := v.uses, scale := 0
             run := loopWord (ewReps w) 1 (fun rep _ r => v.rep w.step (f v) rep r) v.ends }) s

/-! ### Lane operations (R306) -/

/-- Lane by lane from two sources. -/
def lanes2 (f : W32 → W32 → W32) (act : List Bool) (a b _ : List W32) : List W32 × List Bool := (List.zipWith f a b, act)
/-- Lane by lane from one source. -/
def lanes1 (f : W32 → W32) (act : List Bool) (a _ _ : List W32) : List W32 × List Bool := (a.map f, act)

def usesAB : VUses := { ob := true }
def usesABC : VUses := { ob := true, oc := true }

/-- VADD. -/
def execVadd (w : EW) (s : State) : Host.Outcome State Fault Refusal := vecExec usesAB w (fun _ => lanes2 f32Add) s
/-- VSUB. -/
def execVsub (w : EW) (s : State) : Host.Outcome State Fault Refusal := vecExec usesAB w (fun _ => lanes2 f32Sub) s
/-- VMUL. -/
def execVmul (w : EW) (s : State) : Host.Outcome State Fault Refusal := vecExec usesAB w (fun _ => lanes2 f32Mul) s
/-- VMAX. -/
def execVmax (w : EW) (s : State) : Host.Outcome State Fault Refusal := vecExec usesAB w (fun _ => lanes2 f32Max) s
/-- VMIN. -/
def execVmin (w : EW) (s : State) : Host.Outcome State Fault Refusal := vecExec usesAB w (fun _ => lanes2 f32Min) s
/-- VEXP2. -/
def execVexp2 (w : EW) (s : State) : Host.Outcome State Fault Refusal := vecExec {} w (fun _ => lanes1 f32Exp2) s
/-- VLOG2. -/
def execVlog2 (w : EW) (s : State) : Host.Outcome State Fault Refusal := vecExec {} w (fun _ => lanes1 f32Log2) s
/-- VRCP. -/
def execVrcp (w : EW) (s : State) : Host.Outcome State Fault Refusal := vecExec {} w (fun _ => lanes1 f32Rcp) s
/-- VRSQ. -/
def execVrsq (w : EW) (s : State) : Host.Outcome State Fault Refusal := vecExec {} w (fun _ => lanes1 f32Rsq) s

/-- VFMA: a × b + c, one rounding. -/
def execVfma (w : EW) (s : State) : Host.Outcome State Fault Refusal :=
  vecExec usesABC w (fun _ act a b c => (List.zipWith (fun x (p : W32 × W32) => f32Fma x p.1 p.2) a (b.zip c), act)) s

/-- VCVT: FCVT on each lane, narrower results zero-extended. -/
def execVcvt (w : EW) (s : State) : Host.Outcome State Fault Refusal :=
  vecExec { rm := true, fmt := true } w (fun v => lanes1 (fun x => lo32 (fcvt64 v.rm v.ffrom v.fto (zx x)))) s

/-- The truth of VCMP. -/
def vcmp (cond : Nat) (a b : W32) : W32 :=
  if (match cond with
    | 0 => f32Eq a b | 1 => f32Lt a b | _ => f32Le a b) then 1 else 0

/-- VCMP. -/
def execVcmp (w : EW) (s : State) : Host.Outcome State Fault Refusal :=
  vecExec { ob := true, cond := true } w (fun v => lanes2 (vcmp v.cond)) s

/-- VSEL: a where c is not zero, else b. -/
def execVsel (w : EW) (s : State) : Host.Outcome State Fault Refusal :=
  vecExec usesABC w (fun _ act a b c =>
    (List.zipWith (fun (x : W32) (p : W32 × W32) => if p.2 = 0 then p.1 else x) a (b.zip c), act)) s

/-- VPERM: a[b[j][7:0]]. -/
def execVperm (w : EW) (s : State) : Host.Outcome State Fault Refusal :=
  vecExec usesAB w (fun _ act a b _ => (b.map (fun x => nth a (x.toNat % 256) 0), act)) s

/-- VBCST: a[k] in every lane. -/
def execVbcst (w : EW) (s : State) : Host.Outcome State Fault Refusal :=
  vecExec { k := true } w (fun v act a _ _ => (List.replicate 256 (nth a v.k 0), act)) s

/-! ### Reductions and scan (R307) -/

/-- One level of the pairwise tree. -/
def pairUp {α : Type} (f : α → α → α) : List α → List α
  | x :: y :: l => f x y :: pairUp f l
  | l => l

/-- `n` levels. -/
def tree {α : Type} (f : α → α → α) : Nat → List α → List α
  | 0, l => l
  | n + 1, l => tree f n (pairUp f l)

/-- VRSUM's sum; inactive lanes count as +0. -/
def vrsum (act : List Bool) (a : List W32) : W32 :=
  nth (tree f32Add 8 (List.zipWith (fun (x : Bool) y => if x then y else 0) act a)) 0 0

/-- VRMAX's maximum by the FMAX rule: inactive lanes are −inf. -/
def vrmax (act : List Bool) (a : List W32) : W32 :=
  nth (tree f32Max 8 (List.zipWith (fun (x : Bool) y => if x then y else f32NegInf) act a)) 0 f32NegInf

/-- VSCAN's running sums from `t`. -/
def vscan : W32 → List Bool → List W32 → List W32
  | t, x :: act, y :: a =>
    let t' := f32Add t (if x then y else 0)
    t' :: vscan t' act a
  | _, _, _ => []

/-- VRSUM: every lane is written. -/
def execVrsum (w : EW) (s : State) : Host.Outcome State Fault Refusal :=
  vecExec {} w (fun _ act a _ _ => (List.replicate 256 (vrsum act a), List.replicate 256 true)) s
/-- VRMAX: every lane is written. -/
def execVrmax (w : EW) (s : State) : Host.Outcome State Fault Refusal :=
  vecExec {} w (fun _ act a _ _ => (List.replicate 256 (vrmax act a), List.replicate 256 true)) s
/-- VSCAN. -/
def execVscan (w : EW) (s : State) : Host.Outcome State Fault Refusal :=
  vecExec {} w (fun _ act a _ _ => (vscan 0 act a, act)) s

/-! ### VQNT and VDQ (R309; 07 R186) -/

/-- m × 2^t as a fraction. -/
def fracOf (m : Nat) (t : Int) : Nat × Nat := if 0 ≤ t then (m * 2 ^ t.toNat, 1) else (m, 2 ^ (-t).toNat)

/-- Index of the largest magnitude of a list that is at most num/den. -/
def floorIdx (l : List Int) (num den : Nat) : Nat :=
  (l.filter (fun x => decide (x * den ≤ (num : Int)))).length - 1

/-- The magnitude index that num/den rounds to among the sorted magnitudes `l` (R186). -/
def roundIdx (r : RMode) (neg : Bool) (l : List Int) (num den : Nat) : Nat :=
  let i := floorIdx l num den
  if 7 ≤ i then 7
  else
    let x := nth l i 0
    let y := nth l (i + 1) 0
    let exact := x * den == (num : Int)
    let up := match r with
      | .rne => decide ((x + y) * den < 2 * (num : Int)) || ((x + y) * den == 2 * (num : Int) && i % 2 == 1)
      | .rz => false
      | .ru => !exact && !neg
      | .rd => !exact && neg
    if up then i + 1 else i

/-- The narrow code of an FP32 value under exponent field `e`, for type `t` (R186). -/
def narrowCode (r : RMode) (t e : Nat) (x : W32) : Nat :=
  let top := fun (neg : Bool) => if t = 0 then (if neg then 8 else 7) else (if neg then 15 else 7)
  match f32 x with
  | .nan => 0
  | .inf neg => top neg
  | .fin neg m ex =>
    let sh := ex + 32 - e
    if t = 0 then
      let n := roundShift r neg m (-sh)
      if neg then (16 - min n 8) % 16 else min n 7
    else
      let q := fracOf m (sh + narrowK t)
      let i := roundIdx r neg (narrowMags t) q.1 q.2
      if i = 0 then 0 else if neg then 8 + i else i

/-- amax × 2^(32 − e) ≤ Mt for a lane (R309); a NaN does not count. -/
def laneFits (t e : Nat) (x : W32) : Bool :=
  match f32 x with
  | .nan => true
  | .inf _ => false
  | .fin _ m ex =>
    let q := fracOf m (ex + 32 - e)
    decide (q.1 ≤ nth [7, 6, 1, 12] t 0 * q.2)

/-- Codes and scale byte of one block (R309). -/
def quantBlock (r : RMode) (t : Nat) (l : List W32) : List Nat × Byte :=
  match (List.range 63).find? (fun e => l.all (laneFits t e)) with
  | some e => (l.map (narrowCode r t e), BitVec.ofNat 8 (t * 64 + e))
  | none => (l.map (narrowCode r t 62), BitVec.ofNat 8 (t * 64 + 63))

/-- Codes packed two to a byte. -/
def packCodes : List Nat → List Byte
  | x :: y :: l => BitVec.ofNat 8 (x % 16 + 16 * (y % 16)) :: packCodes l
  | [x] => [BitVec.ofNat 8 (x % 16)]
  | [] => []

/-- The register VQNT writes. -/
def vqnt (r : RMode) (t : Nat) (a : List W32) : List W32 :=
  let bs := (List.range 8).map (fun b => quantBlock r t ((a.drop (32 * b)).take 32))
  lanesOf ((bs.flatMap (fun x => packCodes x.1)) ++ bs.map Prod.snd ++ List.replicate 888 0)

/-- The value VDQ gives code `c` of a block with scale byte `sc`. -/
def dequant (sc : Byte) (c : Nat) : W32 :=
  let t := sc.toNat / 64
  let e := sc.toNat % 64
  let v := narrowForm t c
  if v = 0 then 0
  else if e = 63 then f32Sat (decide (v < 0))
  else rne32 (.fin (decide (v < 0)) v.natAbs ((e : Int) - 32 - narrowK t))

/-- The register VDQ writes. -/
def vdq (a : List W32) : List W32 :=
  let b := lanesBytes a
  (List.range 256).map (fun j =>
    let x := (nth b (16 * (j / 32) + j % 32 / 2) 0).toNat
    dequant (nth b (128 + j / 32) 0) (if j % 2 = 1 then x / 16 else x % 16))

/-- VQNT. -/
def execVqnt (w : EW) (s : State) : Host.Outcome State Fault Refusal :=
  vecExec { mask := false, nt := true, rm := true } w (fun v act a _ _ => (vqnt (rmode v.rm) v.nt a, act)) s
/-- VDQ. -/
def execVdq (w : EW) (s : State) : Host.Outcome State Fault Refusal := vecExec {} w (fun _ act a _ _ => (vdq a, act)) s

/-! ### VSMX (R311) -/

/-- Merged lanes of a and b under the header m1, s1, m2, s2 (07 R191). -/
def smxLanes (h : List W32) (a b : List W32) : List W32 :=
  let k := smxScale (nth h 0 0) (nth h 2 0)
  List.zipWith k.mix a b

/-- The header that VSMX writes: m, s, and +0. -/
def smxHeader (h : List W32) : List W32 :=
  let k := smxScale (nth h 0 0) (nth h 2 0)
  [k.m, k.mix (nth h 1 0) (nth h 3 0)]

/-- VSMX: reads its header before repetition 0 and writes it after the last. -/
def execVsmx (w : EW) (s : State) : Host.Outcome State Fault Refusal :=
  engineExec (some .V) .none w.pop w.push w.chain w.desc (fun _ s =>
    match parseV { ob := true, oc := true, mask := false, hdr := true } (s.desc1 w) with
    | none => none
    | some v =>
      match v.oc with
      | none => none
      | some c =>
        if 32 ≤ c then none
        else some { uses := v.uses, scale := 0
                    run := fun p s =>
                      let p := if p.header = [] then { p with header := (vregLanes s.vregs c).take 4 } else p
                      loopWord (ewReps w) 1
                        (fun rep _ r => v.rep w.step (fun act a b _ => (smxLanes r.w.header a b, act)) rep r)
                        (fun r => (v.ends r).bind (fun r _ =>
                          .ok { r with s := r.s.modVregs (fun m => vregPut m v.vm (smxHeader r.w.header)) } ())) p s }) s

/-! ### VLD, VST, VLDA, VSTA (R308) -/

/-- The fields of the aux of a move. -/
structure VMove where
  p : Pat
  vr : Nat
  vm : Nat
  me : Bool
  l0 : Nat

/-- The descriptor of a move, none where it breaks R308. -/
def parseMove (acc : Bool) (d : List Word) : Option VMove :=
  match parsePat d (if acc then [2] else [1, 3]) with
  | none => none
  | some p =>
    let v : VMove := ⟨p, bits p.aux 4 0, bits p.aux 9 5, p.aux.getLsbD 10, bits p.aux 18 11⟩
    if bits p.aux 31 19 ≠ 0 ∨ 2048 < v.l0 + p.n ∨ (p.esize ≠ 1 ∧ p.esize ≠ 2 ∧ p.esize ≠ 4) then none else some v

/-- Register and lane of element `k` in repetition `rep`. -/
def VMove.reg (v : VMove) (rep k : Nat) : Nat := (v.vr + rep * ((v.l0 + v.p.n + 255) / 256) + (v.l0 + k) / 256) % 32
def VMove.lane (v : VMove) (k : Nat) : Nat := (v.l0 + k) % 256

/-- The lane of element `k` is not masked. -/
def VMove.live (v : VMove) (k : Nat) (r : Run) : Bool := !v.me || vlane r.s.vregs v.vm (v.lane k) != 0

/-- Element `k` loaded into its lane. -/
def VMove.load (v : VMove) (u : Use) (rep k : Nat) (r : Run) : Got Unit :=
  let g := rep * v.p.n + k
  (v.p.fetch r).bind (fun r _ =>
    let live := v.live k r
    (v.p.get u (live && v.p.inB k) rep k g r).bind (fun r x =>
      let r := v.p.used g r
      .ok (if live then { r with s := r.s.modVregs (fun m => vlanePut m (v.reg rep k) (v.lane k) (BitVec.ofNat 32 x)) } else r) ()))

/-- Element `k` stored from its lane. -/
def VMove.store (v : VMove) (u : Use) (rep k : Nat) (r : Run) : Got Unit :=
  let g := rep * v.p.n + k
  (v.p.room g r).bind (fun r _ =>
    v.p.put u (v.live k r && v.p.inB k) (fun _ => (vlane r.s.vregs (v.reg rep k) (v.lane k)).toNat % 2 ^ (8 * v.p.esize)) rep k g r)

/-- A move that loads. -/
def vloadExec (acc : Bool) (w : EW) (s : State) : Host.Outcome State Fault Refusal :=
  engineExec (some .V) .none w.pop w.push w.chain w.desc (fun _ s =>
    match parseMove acc (s.desc1 w) with
    | none => none
    | some v =>
      some { uses := v.p.chan true, scale := 0
             run := loopWord (ewReps w) v.p.n (v.load (ewUse w true)) (fun r => if v.p.space = 3 then endRead v.p.base r else .ok r ()) }) s

/-- A move that stores. -/
def vstoreExec (acc : Bool) (w : EW) (s : State) : Host.Outcome State Fault Refusal :=
  engineExec (some .V) .none w.pop w.push w.chain w.desc (fun _ s =>
    match parseMove acc (s.desc1 w) with
    | none => none
    | some v =>
      some { uses := v.p.chan false, scale := 0
             run := loopWord (ewReps w) v.p.n (v.store (ewUse w false)) (fun r => if v.p.space = 3 then endWrite v.p.base r else .ok r ()) }) s

/-- VLD. -/
def execVld (w : EW) (s : State) : Host.Outcome State Fault Refusal := vloadExec false w s
/-- VST. -/
def execVst (w : EW) (s : State) : Host.Outcome State Fault Refusal := vstoreExec false w s
/-- VLDA. -/
def execVlda (w : EW) (s : State) : Host.Outcome State Fault Refusal := vloadExec true w s
/-- VSTA. -/
def execVsta (w : EW) (s : State) : Host.Outcome State Fault Refusal := vstoreExec true w s

/-! ### VGATH and VSCAT (R310) -/

/-- Space and base of VGATH and VSCAT, as a pattern. -/
def parseGather (d : List Word) : Option Pat :=
  match parsePat [dw d 2, 0x0001_0001_0001_0000, 0, 0] [0, 1] with
  | some p => if p.esize = 4 then some p else none
  | none => none

/-- What a repetition holds while its lanes issue: active lanes, indices, and the lanes to store. -/
def holdLanes (act : List Bool) (b a : List W32) : List Byte :=
  act.map (fun x => if x then 1 else 0) ++ lanesBytes b ++ lanesBytes a

/-- Index that lane `j` uses, none when it is inactive. -/
def heldIndex (l : List Byte) (j : Nat) : Option Nat :=
  if nth l j 0 = 0 then none else some (leNat ((l.drop (256 + 4 * j)).take 4))
/-- The lane to store. -/
def heldValue (l : List Byte) (j : Nat) : Nat := leNat ((l.drop (1280 + 4 * j)).take 4)

/-- Inputs of a repetition of VGATH or VSCAT, taken once. -/
def VDesc.begin (v : VDesc) (step : BitVec 12) (rep : Nat) (r : Run) : Got Unit :=
  if r.w.taken then .ok r ()
  else
    (takeBeats v.reads 0 r).bind (fun r _ => (v.room r).bind (fun r _ =>
      let l := holdLanes (v.active r) (v.src step rep v.ob v.advB r) (v.src step rep v.oa v.advA r)
      .ok { r with w := { r.w with taken := true, held := l } } ()))

/-- Address of index `i`, none when it is out of bound. -/
def gatherAddr (p : Pat) (ibound : Nat) (i : Nat) : Option Word :=
  if ibound ≠ 0 ∧ ibound ≤ i then none else some (BitVec.ofNat 64 (p.base + 4 * i))

/-- The first lane from `j` on, of what a repetition holds, whose address lies outside a page. -/
def laneOutside (p : Pat) (ibound : Nat) (l : List Byte) (j lo hi : Nat) : Option Nat :=
  (List.range (256 - j)).findSome? (fun i =>
    match (heldIndex l (j + i)).bind (gatherAddr p ibound) with
    | some a => if decide (lo ≤ a.toNat) && decide (a.toNat < hi) then none else some a.toNat
    | none => none)

/-- The first later lane of the word outside a page (03 R76): in its repetition, then in later ones, whose indices are known
where they are in registers. -/
def VDesc.gatherLater (v : VDesc) (p : Pat) (ibound : Nat) (u : Use) (rep j : Nat) (r : Run) (lo hi : Nat) : Option Nat :=
  match laneOutside p ibound r.w.held (j + 1) lo hi with
  | some a => some a
  | none =>
    if !v.ob.all (fun c => decide (c < 32) || c == 40) then none
    else (List.range (u.reps - (rep + 1))).findSome? (fun i =>
      laneOutside p ibound (holdLanes (v.active r) (v.src u.step (rep + 1 + i) v.ob v.advB r) []) 0 lo hi)

/-- The value loaded is written to lane `j` of the destination; `write` is false for an inactive lane. -/
def VDesc.lanePut (v : VDesc) (step : BitVec 12) (rep j : Nat) (write : Bool) (x : W32) (r : Run) : Run :=
  match v.od with
  | none => r
  | some c =>
    if c < 32 then
      if write then { r with s := r.s.modVregs (fun m => vlanePut m (regAt c v.advD step rep) j x) } else r
    else tryFlush (c - 32) (r.pack (leBytes 4 (if write then x.toNat else 0)))

/-- Lane `j` of VGATH or VSCAT. -/
def VDesc.laneMem (v : VDesc) (p : Pat) (ibound : Nat) (u : Use) (rep j : Nat) (r : Run) : Got Unit :=
  (v.begin u.step rep r).bind (fun r _ =>
    let l := r.w.held
    let done := fun (r : Run) => if j = 255 then { r with w := { r.w with taken := false, held := [] } } else r
    match heldIndex l j with
    | none => .ok (done (v.lanePut u.step rep j false 0 r)) ()
    | some i =>
      match gatherAddr p ibound i with
      | none => .ok (done (v.lanePut u.step rep j true 0 r)) ()
      | some ad =>
        (p.placeAt u ad false (v.gatherLater p ibound u rep j r) r).bind (fun r at_ =>
          if u.src then .ok (done (v.lanePut u.step rep j true (BitVec.ofNat 32 (leNat (r.s.bytesAt at_))) r)) ()
          else .ok (done { r with s := { r.s with mem := putBytes r.s.mem at_ (leBytes 4 (heldValue l j)) } }) ()))

/-- VGATH, or VSCAT when `gather` is false. -/
def gatherExec (gather : Bool) (w : EW) (s : State) : Host.Outcome State Fault Refusal :=
  engineExec (some .V) .none w.pop w.push w.chain w.desc (fun _ s =>
    let d := s.desc1 w
    match parseV { od := gather, oa := !gather, ob := true, mem := true } d, parseGather d with
    | some v, some p =>
      some { uses := v.uses, scale := 0
             run := loopWord (ewReps w) 256 (v.laneMem p (bits (dw d 3) 63 32) (ewUse w gather)) v.ends }
    | _, _ => none) s

/-- VGATH. -/
def execVgath (w : EW) (s : State) : Host.Outcome State Fault Refusal := gatherExec true w s
/-- VSCAT. -/
def execVscat (w : EW) (s : State) : Host.Outcome State Fault Refusal := gatherExec false w s

end Sys2Proof.Machine
end

