-- ==== Sys2Proof/Machine/Dispatch.lean ====
section
/-!
DEFINITION. One arm per constructor of Instr: the direct call of its meaning.
-/

namespace Sys2Proof.Machine

def exec (i : Instr) (s : State) : Host.Outcome State Fault Refusal :=
  match i with
  | .trap code => Sys2Proof.Machine.execTrap code s
  | .mfsr d n => Sys2Proof.Machine.execMfsr d n s
  | .mtsr d n => Sys2Proof.Machine.execMtsr d n s
  | .add d a b => Sys2Proof.Machine.execAdd d a b s
  | .sub d a b => Sys2Proof.Machine.execSub d a b s
  | .and d a b => Sys2Proof.Machine.execAnd d a b s
  | .or d a b => Sys2Proof.Machine.execOr d a b s
  | .xor d a b => Sys2Proof.Machine.execXor d a b s
  | .shl d a b => Sys2Proof.Machine.execShl d a b s
  | .shr d a b => Sys2Proof.Machine.execShr d a b s
  | .sar d a b => Sys2Proof.Machine.execSar d a b s
  | .slt d a b => Sys2Proof.Machine.execSlt d a b s
  | .sltu d a b => Sys2Proof.Machine.execSltu d a b s
  | .min d a b => Sys2Proof.Machine.execMin d a b s
  | .max d a b => Sys2Proof.Machine.execMax d a b s
  | .minu d a b => Sys2Proof.Machine.execMinu d a b s
  | .maxu d a b => Sys2Proof.Machine.execMaxu d a b s
  | .andn d a b => Sys2Proof.Machine.execAndn d a b s
  | .rotl d a b => Sys2Proof.Machine.execRotl d a b s
  | .addw d a b => Sys2Proof.Machine.execAddw d a b s
  | .subw d a b => Sys2Proof.Machine.execSubw d a b s
  | .shlw d a b => Sys2Proof.Machine.execShlw d a b s
  | .shrw d a b => Sys2Proof.Machine.execShrw d a b s
  | .sarw d a b => Sys2Proof.Machine.execSarw d a b s
  | .mul d a b => Sys2Proof.Machine.execMul d a b s
  | .mulh d a b => Sys2Proof.Machine.execMulh d a b s
  | .mulhu d a b => Sys2Proof.Machine.execMulhu d a b s
  | .div d a b => Sys2Proof.Machine.execDiv d a b s
  | .divu d a b => Sys2Proof.Machine.execDivu d a b s
  | .rem d a b => Sys2Proof.Machine.execRem d a b s
  | .remu d a b => Sys2Proof.Machine.execRemu d a b s
  | .mulw d a b => Sys2Proof.Machine.execMulw d a b s
  | .divw d a b => Sys2Proof.Machine.execDivw d a b s
  | .divuw d a b => Sys2Proof.Machine.execDivuw d a b s
  | .remw d a b => Sys2Proof.Machine.execRemw d a b s
  | .remuw d a b => Sys2Proof.Machine.execRemuw d a b s
  | .clz d a => Sys2Proof.Machine.execClz d a s
  | .ctz d a => Sys2Proof.Machine.execCtz d a s
  | .popc d a => Sys2Proof.Machine.execPopc d a s
  | .brev d a => Sys2Proof.Machine.execBrev d a s
  | .bswap d a => Sys2Proof.Machine.execBswap d a s
  | .extu d a b => Sys2Proof.Machine.execExtu d a b s
  | .exts d a b => Sys2Proof.Machine.execExts d a b s
  | .ins d a b => Sys2Proof.Machine.execIns d a b s
  | .addi d a imm => Sys2Proof.Machine.execAddi d a imm s
  | .andi d a imm => Sys2Proof.Machine.execAndi d a imm s
  | .ori d a imm => Sys2Proof.Machine.execOri d a imm s
  | .xori d a imm => Sys2Proof.Machine.execXori d a imm s
  | .shli d a n => Sys2Proof.Machine.execShli d a n s
  | .shri d a n => Sys2Proof.Machine.execShri d a n s
  | .sari d a n => Sys2Proof.Machine.execSari d a n s
  | .slti d a imm => Sys2Proof.Machine.execSlti d a imm s
  | .sltui d a imm => Sys2Proof.Machine.execSltui d a imm s
  | .lhi d imm => Sys2Proof.Machine.execLhi d imm s
  | .shadd1 d a b => Sys2Proof.Machine.execShadd1 d a b s
  | .shadd2 d a b => Sys2Proof.Machine.execShadd2 d a b s
  | .shadd3 d a b => Sys2Proof.Machine.execShadd3 d a b s
  | .shadd4 d a b => Sys2Proof.Machine.execShadd4 d a b s
  | .lndiv d a => Sys2Proof.Machine.execLndiv d a s
  | .lnmod d a => Sys2Proof.Machine.execLnmod d a s
  | .fadd d a b => Sys2Proof.Machine.execFadd d a b s
  | .fsub d a b => Sys2Proof.Machine.execFsub d a b s
  | .fmul d a b => Sys2Proof.Machine.execFmul d a b s
  | .fdiv d a b => Sys2Proof.Machine.execFdiv d a b s
  | .fsqrt d a => Sys2Proof.Machine.execFsqrt d a s
  | .fmin d a b => Sys2Proof.Machine.execFmin d a b s
  | .fmax d a b => Sys2Proof.Machine.execFmax d a b s
  | .fmad d a b => Sys2Proof.Machine.execFmad d a b s
  | .fsgn d a b => Sys2Proof.Machine.execFsgn d a b s
  | .feq d a b => Sys2Proof.Machine.execFeq d a b s
  | .flt d a b => Sys2Proof.Machine.execFlt d a b s
  | .fle d a b => Sys2Proof.Machine.execFle d a b s
  | .fclass d a => Sys2Proof.Machine.execFclass d a s
  | .fexp2 d a => Sys2Proof.Machine.execFexp2 d a s
  | .flog2 d a => Sys2Proof.Machine.execFlog2 d a s
  | .frcp d a => Sys2Proof.Machine.execFrcp d a s
  | .frsq d a => Sys2Proof.Machine.execFrsq d a s
  | .fcvt d a mode src dst => Sys2Proof.Machine.execFcvt d a mode src dst s
  | .fli d imm => Sys2Proof.Machine.execFli d imm s
  | .faddi d imm => Sys2Proof.Machine.execFaddi d imm s
  | .fmuli d imm => Sys2Proof.Machine.execFmuli d imm s
  | .beq a b imm => Sys2Proof.Machine.execBeq a b imm s
  | .bne a b imm => Sys2Proof.Machine.execBne a b imm s
  | .blt a b imm => Sys2Proof.Machine.execBlt a b imm s
  | .bge a b imm => Sys2Proof.Machine.execBge a b imm s
  | .bltu a b imm => Sys2Proof.Machine.execBltu a b imm s
  | .bgeu a b imm => Sys2Proof.Machine.execBgeu a b imm s
  | .j imm => Sys2Proof.Machine.execJ imm s
  | .jal imm => Sys2Proof.Machine.execJal imm s
  | .jr a => Sys2Proof.Machine.execJr a s
  | .jalr d a => Sys2Proof.Machine.execJalr d a s
  | .loopb l imm => Sys2Proof.Machine.execLoopb l imm s
  | .lcset l a => Sys2Proof.Machine.execLcset l a s
  | .lcget l a => Sys2Proof.Machine.execLcget l a s
  | .ld d a z imm => Sys2Proof.Machine.execLd d a z imm s
  | .st d a z imm => Sys2Proof.Machine.execSt d a z imm s
  | .ldl d a z imm => Sys2Proof.Machine.execLdl d a z imm s
  | .stl d a z imm => Sys2Proof.Machine.execStl d a z imm s
  | .lds d imm => Sys2Proof.Machine.execLds d imm s
  | .sts d imm => Sys2Proof.Machine.execSts d imm s
  | .kld d imm => Sys2Proof.Machine.execKld d imm s
  | .kst d imm => Sys2Proof.Machine.execKst d imm s
  | .ldq q a z imm => Sys2Proof.Machine.execLdq q a z imm s
  | .stq q a z imm => Sys2Proof.Machine.execStq q a z imm s
  | .ldacq d a z sc => Sys2Proof.Machine.execLdacq d a z sc s
  | .strel a b z sc => Sys2Proof.Machine.execStrel a b z sc s
  | .fence k sc => Sys2Proof.Machine.execFence k sc s
  | .pref a => Sys2Proof.Machine.execPref a s
  | .ldby d a z => Sys2Proof.Machine.execLdby d a z s
  | .stna a b z => Sys2Proof.Machine.execStna a b z s
  | .aadd d a b z sp => Sys2Proof.Machine.execAadd d a b z sp s
  | .aand d a b z sp => Sys2Proof.Machine.execAand d a b z sp s
  | .aor d a b z sp => Sys2Proof.Machine.execAor d a b z sp s
  | .axor d a b z sp => Sys2Proof.Machine.execAxor d a b z sp s
  | .amin d a b z sp => Sys2Proof.Machine.execAmin d a b z sp s
  | .amax d a b z sp => Sys2Proof.Machine.execAmax d a b z sp s
  | .aminu d a b z sp => Sys2Proof.Machine.execAminu d a b z sp s
  | .amaxu d a b z sp => Sys2Proof.Machine.execAmaxu d a b z sp s
  | .aswap d a b z sp => Sys2Proof.Machine.execAswap d a b z sp s
  | .acas d a b z sp => Sys2Proof.Machine.execAcas d a b z sp s
  | .afadd d a b sp => Sys2Proof.Machine.execAfadd d a b sp s
  | .afmax d a b sp => Sys2Proof.Machine.execAfmax d a b sp s
  | .dqput q b => Sys2Proof.Machine.execDqput q b s
  | .dqget d q => Sys2Proof.Machine.execDqget d q s
  | .dqpeek d q => Sys2Proof.Machine.execDqpeek d q s
  | .dqstat d q => Sys2Proof.Machine.execDqstat d q s
  | .tksend q => Sys2Proof.Machine.execTksend q s
  | .tkwait q => Sys2Proof.Machine.execTkwait q s
  | .tktry d q => Sys2Proof.Machine.execTktry d q s
  | .tkstat d q => Sys2Proof.Machine.execTkstat d q s
  | .rgclaim d a b sc => Sys2Proof.Machine.execRgclaim d a b sc s
  | .rgfill d a sc => Sys2Proof.Machine.execRgfill d a sc s
  | .rgtake d a b sc => Sys2Proof.Machine.execRgtake d a b sc s
  | .rgtakeObs d a b sc => Sys2Proof.Machine.execRgtakeObs d a b sc s
  | .rgfree d a sc => Sys2Proof.Machine.execRgfree d a sc s
  | .rginit d a b => Sys2Proof.Machine.execRginit d a b s
  | .rgstat d a b => Sys2Proof.Machine.execRgstat d a b s
  | .rgreset d a b => Sys2Proof.Machine.execRgreset d a b s
  | .rgjoin d a b => Sys2Proof.Machine.execRgjoin d a b s
  | .rgleave d a b => Sys2Proof.Machine.execRgleave d a b s
  | .tglook d a b => Sys2Proof.Machine.execTglook d a b s
  | .tgset d a b => Sys2Proof.Machine.execTgset d a b s
  | .tginv d a => Sys2Proof.Machine.execTginv d a s
  | .tgclr a => Sys2Proof.Machine.execTgclr a s
  | .tgrd d a => Sys2Proof.Machine.execTgrd d a s
  | .caput d a b => Sys2Proof.Machine.execCaput d a b s
  | .canode d a b => Sys2Proof.Machine.execCanode d a b s
  | .caget d a b => Sys2Proof.Machine.execCaget d a b s
  | .caref d a => Sys2Proof.Machine.execCaref d a s
  | .cadrop d a => Sys2Proof.Machine.execCadrop d a s
  | .caroot d a b => Sys2Proof.Machine.execCaroot d a b s
  | .carootRef d a b => Sys2Proof.Machine.execCarootRef d a b s
  | .caswap d a b => Sys2Proof.Machine.execCaswap d a b s
  | .cacas d a b => Sys2Proof.Machine.execCacas d a b s
  | .spawn a => Sys2Proof.Machine.execSpawn a s
  | .join a b => Sys2Proof.Machine.execJoin a b s
  | .allot d b => Sys2Proof.Machine.execAllot d b s
  | .shrink b => Sys2Proof.Machine.execShrink b s
  | .phase b => Sys2Proof.Machine.execPhase b s
  | .copen d a b => Sys2Proof.Machine.execCopen d a b s
  | .cland d a b => Sys2Proof.Machine.execCland d a b s
  | .chold a b => Sys2Proof.Machine.execChold a b s
  | .cclose a => Sys2Proof.Machine.execCclose a s
  | .cstat d a => Sys2Proof.Machine.execCstat d a s
  | .dmset a b => Sys2Proof.Machine.execDmset a b s
  | .dmready a => Sys2Proof.Machine.execDmready a s
  | .dmwait d a => Sys2Proof.Machine.execDmwait d a s
  | .dmstat d a => Sys2Proof.Machine.execDmstat d a s
  | .pwsave a => Sys2Proof.Machine.execPwsave a s
  | .pwrest a => Sys2Proof.Machine.execPwrest a s
  | .pwrdy d => Sys2Proof.Machine.execPwrdy d s
  | .pwstat d => Sys2Proof.Machine.execPwstat d s
  | .tlbinv a => Sys2Proof.Machine.execTlbinv a s
  | .tlbprb d a => Sys2Proof.Machine.execTlbprb d a s
  | .perfrd d b => Sys2Proof.Machine.execPerfrd d b s
  | .perfclr b => Sys2Proof.Machine.execPerfclr b s
  | .hostint b => Sys2Proof.Machine.execHostint b s
  | .hostsig a b => Sys2Proof.Machine.execHostsig a b s
  | .enop c n => Sys2Proof.Machine.execEnop c n s
  | .ewait c => Sys2Proof.Machine.execEwait c s
  | .eloop c ec disp n => Sys2Proof.Machine.execEloop c ec disp n s
  | .ejmp c disp setLink => Sys2Proof.Machine.execEjmp c disp setLink s
  | .emark c v => Sys2Proof.Machine.execEmark c v s
  | .eswpt c => Sys2Proof.Machine.execEswpt c s
  | .swlink c n p q => Sys2Proof.Machine.execSwlink c n p q s
  | .swcut c n => Sys2Proof.Machine.execSwcut c n s
  | .mldb w => Sys2Proof.Machine.execMldb w s
  | .mma w => Sys2Proof.Machine.execMma w s
  | .mmaz w => Sys2Proof.Machine.execMmaz w s
  | .mclr w => Sys2Proof.Machine.execMclr w s
  | .mthr w => Sys2Proof.Machine.execMthr w s
  | .mrdc w => Sys2Proof.Machine.execMrdc w s
  | .mout w => Sys2Proof.Machine.execMout w s
  | .vld w => Sys2Proof.Machine.execVld w s
  | .vst w => Sys2Proof.Machine.execVst w s
  | .vlda w => Sys2Proof.Machine.execVlda w s
  | .vsta w => Sys2Proof.Machine.execVsta w s
  | .vadd w => Sys2Proof.Machine.execVadd w s
  | .vsub w => Sys2Proof.Machine.execVsub w s
  | .vmul w => Sys2Proof.Machine.execVmul w s
  | .vfma w => Sys2Proof.Machine.execVfma w s
  | .vmax w => Sys2Proof.Machine.execVmax w s
  | .vmin w => Sys2Proof.Machine.execVmin w s
  | .vexp2 w => Sys2Proof.Machine.execVexp2 w s
  | .vlog2 w => Sys2Proof.Machine.execVlog2 w s
  | .vrcp w => Sys2Proof.Machine.execVrcp w s
  | .vrsq w => Sys2Proof.Machine.execVrsq w s
  | .vcvt w => Sys2Proof.Machine.execVcvt w s
  | .vqnt w => Sys2Proof.Machine.execVqnt w s
  | .vdq w => Sys2Proof.Machine.execVdq w s
  | .vrsum w => Sys2Proof.Machine.execVrsum w s
  | .vrmax w => Sys2Proof.Machine.execVrmax w s
  | .vscan w => Sys2Proof.Machine.execVscan w s
  | .vcmp w => Sys2Proof.Machine.execVcmp w s
  | .vsel w => Sys2Proof.Machine.execVsel w s
  | .vperm w => Sys2Proof.Machine.execVperm w s
  | .vbcst w => Sys2Proof.Machine.execVbcst w s
  | .vgath w => Sys2Proof.Machine.execVgath w s
  | .vscat w => Sys2Proof.Machine.execVscat w s
  | .vsmx w => Sys2Proof.Machine.execVsmx w s
  | .txblk w => Sys2Proof.Machine.execTxblk w s
  | .txcvt w => Sys2Proof.Machine.execTxcvt w s
  | .txgat w => Sys2Proof.Machine.execTxgat w s
  | .cpy w => Sys2Proof.Machine.execCpy w s
  | .cpyred w => Sys2Proof.Machine.execCpyred w s
  | .cpypk w => Sys2Proof.Machine.execCpypk w s
  | .cpyck w => Sys2Proof.Machine.execCpyck w s
  | .cpycode w => Sys2Proof.Machine.execCpycode w s
  | .cpyout w => Sys2Proof.Machine.execCpyout w s
  | .wpatch w => Sys2Proof.Machine.execWpatch w s
  | .wloady w => Sys2Proof.Machine.execWloady w s
  | .wrun w => Sys2Proof.Machine.execWrun w s
  | .wsamp w => Sys2Proof.Machine.execWsamp w s
  | .wsave w => Sys2Proof.Machine.execWsave w s
  | .wrest w => Sys2Proof.Machine.execWrest w s
  | .wdom w => Sys2Proof.Machine.execWdom w s
  | .nop => Sys2Proof.Machine.execNop s
  | .eret => Sys2Proof.Machine.execEret s
  | .qmark => Sys2Proof.Machine.execQmark s
  | .rend => Sys2Proof.Machine.execRend s
  | .trigger => Sys2Proof.Machine.execTrigger s
  | .waitdep => Sys2Proof.Machine.execWaitdep s
  | .yield => Sys2Proof.Machine.execYield s
  | .exit => Sys2Proof.Machine.execExit s
  | .swpt => Sys2Proof.Machine.execSwpt s
  | .tlbinvt => Sys2Proof.Machine.execTlbinvt s
  | .packageReset => Sys2Proof.Machine.execPackageReset s
  | .fullServiceChange => Sys2Proof.Machine.execFullServiceChange s
  | .firmwareUpdate => Sys2Proof.Machine.execFirmwareUpdate s
  | .quoteRequest => Sys2Proof.Machine.execQuoteRequest s
  | .measExtend => Sys2Proof.Machine.execMeasExtend s
  | .tenantWindowWrite => Sys2Proof.Machine.execTenantWindowWrite s
  | .trootWrite => Sys2Proof.Machine.execTrootWrite s
  | .hbmsplitWrite => Sys2Proof.Machine.execHbmsplitWrite s
  | .tbudgetWrite => Sys2Proof.Machine.execTbudgetWrite s
  | .migreqSubmit => Sys2Proof.Machine.execMigreqSubmit s
  | .migreqhSubmit => Sys2Proof.Machine.execMigreqhSubmit s
  | .migrationRun => Sys2Proof.Machine.execMigrationRun s
  | .migrationComplete => Sys2Proof.Machine.execMigrationComplete s
  | .hfpop => Sys2Proof.Machine.execHfpop s
  | .pageWalk => Sys2Proof.Machine.execPageWalk s
  | .hostRead => Sys2Proof.Machine.execHostRead s
  | .hostWrite => Sys2Proof.Machine.execHostWrite s
  | .hostHeldComplete => Sys2Proof.Machine.execHostHeldComplete s
  | .hostHeldExpire => Sys2Proof.Machine.execHostHeldExpire s
  | .cactlEnable => Sys2Proof.Machine.execCactlEnable s
  | .cactlDisable => Sys2Proof.Machine.execCactlDisable s
  | .catenWrite => Sys2Proof.Machine.execCatenWrite s
  | .homeRequest => Sys2Proof.Machine.execHomeRequest s
  | .requestReissue => Sys2Proof.Machine.execRequestReissue s
  | .requestTimeout => Sys2Proof.Machine.execRequestTimeout s
  | .dieLinkCrcError => Sys2Proof.Machine.execDieLinkCrcError s
  | .caReclaim => Sys2Proof.Machine.execCaReclaim s
  | .reclaimFinish => Sys2Proof.Machine.execReclaimFinish s
  | .ringWaiterGrant => Sys2Proof.Machine.execRingWaiterGrant s
  | .ringWaiterOrphan => Sys2Proof.Machine.execRingWaiterOrphan s
  | .voidRangeFill => Sys2Proof.Machine.execVoidRangeFill s
  | .departedTakeFree => Sys2Proof.Machine.execDepartedTakeFree s
  | .neighbourDelivery => Sys2Proof.Machine.execNeighbourDelivery s
  | .launchSubmit => Sys2Proof.Machine.execLaunchSubmit s
  | .lqstatRead => Sys2Proof.Machine.execLqstatRead s
  | .launchTake => Sys2Proof.Machine.execLaunchTake s
  | .spawnerExpand => Sys2Proof.Machine.execSpawnerExpand s
  | .dispatchStartJob => Sys2Proof.Machine.execDispatchStartJob s
  | .jobRetire => Sys2Proof.Machine.execJobRetire s
  | .dependencyMet => Sys2Proof.Machine.execDependencyMet s
  | .tctlTeardown => Sys2Proof.Machine.execTctlTeardown s
  | .tctlEnable => Sys2Proof.Machine.execTctlEnable s
  | .faultFreeze => Sys2Proof.Machine.execFaultFreeze s
  | .xcoreStopTimeout => Sys2Proof.Machine.execXcoreStopTimeout s
  | .deferredFault => Sys2Proof.Machine.execDeferredFault s
  | .faultRecordWrite => Sys2Proof.Machine.execFaultRecordWrite s
  | .fqlostRead => Sys2Proof.Machine.execFqlostRead s
  | .jctlResume => Sys2Proof.Machine.execJctlResume s
  | .jctlKill => Sys2Proof.Machine.execJctlKill s
  | .preemptDecide => Sys2Proof.Machine.execPreemptDecide s
  | .drainExpire => Sys2Proof.Machine.execDrainExpire s
  | .checkpoint => Sys2Proof.Machine.execCheckpoint s
  | .checkpointResume => Sys2Proof.Machine.execCheckpointResume s
  | .scaleQueueTimeout => Sys2Proof.Machine.execScaleQueueTimeout s
  | .coreTimingReplay => Sys2Proof.Machine.execCoreTimingReplay s
  | .droopWindowOpen => Sys2Proof.Machine.execDroopWindowOpen s
  | .droopReexecute => Sys2Proof.Machine.execDroopReexecute s
  | .flitNackReplay => Sys2Proof.Machine.execFlitNackReplay s
  | .planeDown => Sys2Proof.Machine.execPlaneDown s
  | .laneFailure => Sys2Proof.Machine.execLaneFailure s
  | .laneRetrain => Sys2Proof.Machine.execLaneRetrain s
  | .portIsolate => Sys2Proof.Machine.execPortIsolate s
  | .portRetrain => Sys2Proof.Machine.execPortRetrain s
  | .circuitBeatLand => Sys2Proof.Machine.execCircuitBeatLand s
  | .breakNotice => Sys2Proof.Machine.execBreakNotice s
  | .leaseExpiry => Sys2Proof.Machine.execLeaseExpiry s
  | .flowMeterWindowEnd => Sys2Proof.Machine.execFlowMeterWindowEnd s
  | .flowProbe => Sys2Proof.Machine.execFlowProbe s
  | .flowPromote => Sys2Proof.Machine.execFlowPromote s
  | .holdoffExpire => Sys2Proof.Machine.execHoldoffExpire s
  | .flowIdleClose => Sys2Proof.Machine.execFlowIdleClose s
  | .dominoFire => Sys2Proof.Machine.execDominoFire s
  | .dominoComplete => Sys2Proof.Machine.execDominoComplete s
  | .capEvaluate => Sys2Proof.Machine.execCapEvaluate s
  | .ceilingFall => Sys2Proof.Machine.execCeilingFall s
  | .sensorSample => Sys2Proof.Machine.execSensorSample s
  | .senstatClear => Sys2Proof.Machine.execSenstatClear s
  | .infieldTest => Sys2Proof.Machine.execInfieldTest s
  | .soraroLinkDown => Sys2Proof.Machine.execSoraroLinkDown s
  | .signalRecordWrite => Sys2Proof.Machine.execSignalRecordWrite s
  | .hostDeliveryExpire => Sys2Proof.Machine.execHostDeliveryExpire s
  | .vpendClear => Sys2Proof.Machine.execVpendClear s
  | .msixUnmask => Sys2Proof.Machine.execMsixUnmask s
  | .sqctlRead => Sys2Proof.Machine.execSqctlRead s
  | .quiesceStop => Sys2Proof.Machine.execQuiesceStop s
  | .quiesceDeadline => Sys2Proof.Machine.execQuiesceDeadline s
  | .quiesceIsolate => Sys2Proof.Machine.execQuiesceIsolate s
  | .quiesceResume => Sys2Proof.Machine.execQuiesceResume s
  | .mmioImemWrite => Sys2Proof.Machine.execMmioImemWrite s
  | .mmioTagWindowWrite => Sys2Proof.Machine.execMmioTagWindowWrite s
  | .mmioSysregWrite => Sys2Proof.Machine.execMmioSysregWrite s
  | .mmioRegisterWrite => Sys2Proof.Machine.execMmioRegisterWrite s
  | .tileAddressedRequest => Sys2Proof.Machine.execTileAddressedRequest s
  | .breakSignalArrival => Sys2Proof.Machine.execBreakSignalArrival s
  | .illegalInstruction => Sys2Proof.Machine.execIllegalInstruction s
  | .engineDecodeFailure => Sys2Proof.Machine.execEngineDecodeFailure s
  | .trayPowerOff => Sys2Proof.Machine.execTrayPowerOff s

end Sys2Proof.Machine
end

