-- ==== Sys2Proof/Machine/Turns.lean ====
section
/-!
DEFINITION. One move of the machine: a stream runs what it fetches, an event occurs, or time passes (logs 2, 3, 16); and
the rule that moves the device's own work on, cycle by cycle, while nothing outside says who moves next (log 2).
-/

namespace Sys2Proof.Machine

/-! ### A stream moves -/

/-- One core cycle of package `p` passes (log 3). -/
def State.tick (p : Nat) (s : State) : State := { s with wall := s.wall + s.corePer p }

/-- The cycle that a move ends, if it ends one. -/
def ticked (ends : Bool) (p : Nat) : Host.Outcome State Fault Refusal → Host.Outcome State Fault Refusal
  | .next s => .next (if ends then s.tick p else s)
  | o => o

/-- The core stream that acts fetches and runs one instruction. -/
def State.coreTurn (s : State) (j : Job) : Host.Outcome State Fault Refusal :=
  match s.fetchHere j with
  | .run i => exec i s
  | .fail _ _ => exec .illegalInstruction s

/-- Something that an engine stream does before its next word: a push that waits, its end, a threshold fault. -/
def Engine.settles (e : Engine) : Bool := e.push.isSome || e.ending || e.threshold.isSome

/-- The engine stream that acts: its code load, what is left of its last word, or the word it fetches. -/
def State.engineTurn (s : State) (j : Job) : Host.Outcome State Fault Refusal :=
  let e := j.eng s.focus.kind
  match e.load with
  | some l => .next (s.runLoad j l)
  | none =>
    if e.settles && e.pos.isNone then .next s.settlePush
    else match s.engineFetch s.fpkg s.ftile e with
      | .run i => exec i s
      | .fail _ _ => exec .engineDecodeFailure s

/-- A freeze that only waited for the word that has moved goes on. -/
def unfrozen (key : Nat) : Host.Outcome State Fault Refusal → Host.Outcome State Fault Refusal
  | .next s => .next (s.freezeOn key)
  | o => o

/-- A move of the stream in focus. -/
def State.streamMove (s : State) : Host.Outcome State Fault Refusal :=
  match s.jobAt s.key with
  | none => .next s
  | some j =>
    if !j.mayAct s.focus.kind then .next s
    else if s.focus.kind.isCore then s.coreTurn j
    else unfrozen s.key (s.engineTurn j)

/-! ### Events -/

/-- The instructions that are events, which an agent outside the streams causes: those without an encoding. The two
fetch failures happen only where a stream fetches. -/
def Instr.isEvent (i : Instr) : Bool :=
  (encode i).isNone && i != .illegalInstruction && i != .engineDecodeFailure

/-- The byte at `a` holds an uncorrectable error from now on, or no longer (log 60). -/
def State.upsetAt (s : State) (a : Nat) (bad : Bool) : State :=
  { s with errs := if bad then a :: s.errs.filter (fun e => e != a) else s.errs.filter (fun e => e != a) }

/-- A counter of a ring meets an error (02 R54): a single-bit one is corrected and counted, up to 255; a double one leaves the
counters and freezes the ring. -/
def State.ringMeets (s : State) (k n : Nat) (double : Bool) : State :=
  let r := s.ringAt k n
  if double then s.putRing k n ⟨{ r with st := .frozen }, [], true⟩
  else s.setRing k n { r with ecc := if r.ecc = 255 then r.ecc else r.ecc + 1 }

/-- An event occurs, unless its operands do not fit it. -/
def State.eventMove (s : State) (i : Instr) (a : Args) : Host.Outcome State Fault Refusal :=
  if Instr.isEvent i && a.wf i then exec i { s with arg := a } else .next s

/-- The function mask of tenant `u`'s function, while it has one (20 R426, R427). -/
def State.vfMask (s : State) (p u : Nat) (masked : Bool) : State :=
  if (s.tenAt p u).isOff || !(s.pkgAt p).linkUp then s else s.maskFunction p u masked

/-- One move: a stream's or an event's ends a core cycle, but for one that says otherwise. -/
def State.move (s : State) : Turn → Host.Outcome State Fault Refusal
  | .stream id => ticked true id.pkg.toNat ({ s with focus := id }).streamMove
  | .streamIn id => ({ s with focus := id }).streamMove
  | .event i a => ticked true a.pkg.toNat (s.eventMove i a)
  | .eventIn i a => s.eventMove i a
  | .elapse n => .next { s with wall := s.wall + n * s.corePer 0 }
  | .accept id => .next (match s.reqAt id with
    | some r => s.acceptReq r
    | none => s)
  | .upset a bad => .next (s.upsetAt a bad)
  | .ringError k n double => .next (if n < 64 then s.ringMeets k n double else s)
  | .linkUp p => .next (s.linkComesUp p)
  | .vfRead p u o => .next (s.hostRead p u o)
  | .vfMask p u masked => .next (s.vfMask p u masked)
  | .certificate p => .next (if (s.pkgAt p).mailbox then { s with answer := ansOk (certificateOf p) } else s)
  | .dieLaneFail p l => .next (s.dieLaneFails p l)
  | .columnFail k m => .next (s.columnFails (k / 256) (k % 256) m)

/-! ### One core cycle (log 2) -/

/-- A move ends a core cycle. -/
def Turn.ends : Turn → Bool
  | .stream _ => true | .event _ _ => true | .elapse _ => true | _ => false

/-- The same move within a cycle, and as the one that ends it. -/
def Turn.within : Turn → Turn
  | .stream id => .streamIn id | .event i a => .eventIn i a | t => t
def Turn.last : Turn → Turn
  | .streamIn id => .stream id | .eventIn i a => .event i a | t => t

/-- The moves of the first core cycle that a list names, and what is left. -/
def cycleOf : List Turn → List Turn × List Turn
  | [] => ([], [])
  | t :: l => if t.ends then ([t], l) else let r := cycleOf l; (t :: r.1, r.2)

/-- The next instruction of the stream is DMSET, which a domino unit serves before a DMREADY of its cycle (13 R369). -/
def State.setsDomino (s : State) (id : StreamId) : Bool :=
  let s := { s with focus := id }
  match s.jobAt s.key with
  | some j => id.kind.isCore && (match s.fetchHere j with
    | .run (.dmset _ _) => true
    | _ => false)
  | none => false

/-- The place of a move in its cycle: what is neither a stream nor an event, then a DMSET, then the streams and the probes of
flows by package, tile and kind (09 R240, R244; 12 R339; 13 R353), then other events, the dispatcher's taking of launches and a
tenant's end last: a STOP or teardown of the cycle comes before them (14 R382; 20 R441). -/
def State.rank (s : State) (t : Turn) : Nat :=
  let unit := fun (tile code : Nat) => 2 + 8 * tile + code
  let ofStream := fun (id : StreamId) =>
    if s.setsDomino id then 1 else unit (tileKey id.pkg.toNat id.tile.toNat) id.kind.code
  let ofEvent := fun (i : Instr) (a : Args) => match i, s.flowAt a.id with
    | .flowProbe, some f => unit (tileKey f.pkg f.tile) 7
    | .scaleQueueTimeout, _ => unit (tileKey a.pkg.toNat a.tile.toNat) Kind.M.code
    | .launchTake, _ => 2 ^ 20 + 1
    | .dependencyMet, _ => 2 ^ 20 + 1
    | _, _ => 2 ^ 20
  match t.within with
  | .streamIn id => ofStream id
  | .eventIn i a => ofEvent i a
  | .elapse _ => 2 ^ 20 + 2
  | _ => 0

/-- The moves of one cycle in the order in which they act; the last ends the cycle if one of them does. -/
def State.orderCycle (s : State) (l : List Turn) : List Turn :=
  let sorted := (sortBy (fun a b => decide (s.rank a < s.rank b)) l).map Turn.within
  if l.any Turn.ends then sorted.dropLast ++ (sorted.getLast?.map Turn.last).toList else sorted

/-! ### Which stream a core or an engine serves (14 R380, R381) -/

/-- The cores and engines that have a stream that may act: tile and kind. -/
def State.units (s : State) : List (Nat × Kind) :=
  (s.jobs.flatMap (fun e => (allKinds.filter e.2.mayAct).map (fun k => (e.1 / 4, k)))).eraseDups

/-- Stream of kind `k` of slot `n` of tile `t`. -/
def streamAt (t : Nat) (k : Kind) (n : Nat) : StreamId :=
  ⟨BitVec.ofNat 8 (t / 256), BitVec.ofNat 8 t, BitVec.ofNat 2 n, k⟩

/-- Whether a stream's next instruction or word can issue: its turn would change more than the count of the
cycles it waits. -/
def State.canIssue (s : State) (id : StreamId) : Bool :=
  let fed := fun (e : Engine) => { e with starved := none }
  let bare := fun (j : Option Job) => j.map (fun j => { j with
    a := { j.a with stallcyc := 0 }, x := { j.x with stallcyc := 0 }
    m := fed j.m, v := fed j.v, t := fed j.t, c := fed j.c, w := fed j.w })
  let s := { s with focus := id }
  match s.streamMove with
  | .next t => decide (bare (t.jobAt s.key) ≠ bare (s.jobAt s.key))
  | _ => true

/-- The first slot of `l` after slot `n` in slot order. -/
def nextSlot (l : List Nat) (n : Nat) : Nat := (((List.range 4).map (fun k => (n + 1 + k) % 4)).find? (fun k => l.contains k)).getD n

/-- The slots of tile `t` whose stream of kind `k` may act, those of them that are ready, and of these the ones that come first: of
an engine the one inside a word (14 R381), else those of class-0 jobs, else all (14 R380). -/
def State.readySlots (s : State) (t : Nat) (k : Kind) : List Nat × List Nat × List Nat :=
  let at_ := fun n => s.jobAt (4 * t + n)
  let may := (List.range 4).filter (fun n => ((at_ n).map (fun j => j.mayAct k)).getD false)
  let able := may.filter (fun n => s.canIssue (streamAt t k n))
  let inside := able.filter (fun n => !k.isCore && ((at_ n).map (fun j => (j.eng k).pos.isSome)).getD false)
  let first := able.filter (fun n => ((at_ n).map (fun j => j.cls == 0)).getD false)
  (may, able, if !inside.isEmpty then inside else if !first.isEmpty then first else able)

/-- A core's cycle (14 R380): it issues from the slot chosen in the cycle before, if that is ready, and decides where the next cycle
issues from, by what is ready in this one: the same slot for at most 4 cycles in succession, else the next ready one. `able` are the
ready slots, and `first` those of them that come before the others. -/
def Issue.turn (i : Issue) (able first : List Nat) : Issue :=
  let slot := if i.gave then i.other else i.next
  let run := if !able.contains slot then 0 else if slot = i.slot && !i.gave then i.run + 1 else 1
  let other := if first.isEmpty then slot else nextSlot first slot
  ⟨slot, run, false, if run != 0 && decide (run < 4) && first.contains slot then slot else other, other⟩

/-- An engine's cycle (14 R381): it takes the next of its streams that can start, or looks at each in turn (log 15). -/
def Issue.serve (i : Issue) (first : List Nat) : Issue := if first.isEmpty then i else { i with slot := nextSlot first i.slot }

/-- The choices of every core and engine for the coming cycle. -/
def State.serveUnits (s : State) : List Turn × State :=
  s.units.foldl (fun (r : List Turn × State) u =>
    let (may, able, first) := s.readySlots u.1 u.2
    let i := (s.tileAt u.1).issueOf u.2
    let i := if u.2.isCore then i.turn able first else i.serve first
    let n := if u.2.isCore || !first.isEmpty then i.slot else nth may (s.cycle (u.1 / 256) % may.length) 0
    (r.1 ++ [.stream (streamAt u.1 u.2 n)], r.2.modTile u.1 (fun t => { t with issue := mput t.issue u.2.code i }))) ([], s)

/-! ### The device's own moves (log 2) -/

/-- Moves where a condition holds. -/
def whenDue (b : Bool) (l : List Turn) : List Turn := if b then l else []

/-- Moves of the requests in flight: one performs, is issued again or times out. -/
def State.requestMoves (s : State) : List Turn :=
  s.reqs.flatMap (fun r =>
    let a : Args := { id := r.id }
    if s.mayPerform r || r.st == .again then
      [.event (if (s.placeOf r.pa).isTile then .tileAddressedRequest else .homeRequest) a]
    else whenDue (s.timedOut r) [.event (if r.reissues < 3 then .requestReissue else .requestTimeout) a])

/-- Moves that a job calls for from the device. -/
def jobMoves (e : Nat × Job) : List Turn :=
  let a : Args := { pkg := BitVec.ofNat 8 (keyPkg e.1), tile := BitVec.ofNat 8 (keyTile e.1), slot := BitVec.ofNat 2 (keySlot e.1) }
  whenDue e.2.allFinished [.event .jobRetire a]
    ++ whenDue e.2.m.starved.isSome [.event .scaleQueueTimeout a]
    ++ whenDue e.2.drain.isSome [.event .drainExpire a]
    ++ (match e.2.st with
        | .freezing => [.event .faultFreeze a, .event .xcoreStopTimeout a]
        | .checkpointing => [.event .checkpoint a]
        | .killing _ => [.event .jctlKill a]
        | _ => [])
    ++ ((List.range 2).filter (fun q => !(vget e.2.nq q).outq.isEmpty)).map (fun q => .event .neighbourDelivery { a with idx := q })

/-- Moves that a tenant calls for. -/
def tenantMoves (e : Nat × TenantArea) : List Turn :=
  let t : Args := { pkg := BitVec.ofNat 8 (e.1 / 256), tenant := BitVec.ofNat 8 e.1 }
  whenDue (!(e.2.queueJ.isEmpty && e.2.queueS.isEmpty)) [.event .launchTake t]
    ++ (e.2.launches.filter (fun l => !l.expanded)).map (fun l => .event .spawnerExpand { t with idx := l.tag.toNat })
    ++ whenDue (!e.2.launches.isEmpty || !e.2.statuses.isEmpty || e.2.tstate == 2) [.event .dependencyMet t]
    ++ whenDue (!e.2.pending.isEmpty || e.2.fqspawn.isSome) [.event .faultRecordWrite t]
    ++ whenDue (!e.2.signals.isEmpty) [.event .signalRecordWrite t]
    ++ e.2.domino.flatMap (fun d => [.event .dominoFire { t with idx := d.1 }, .event .dominoComplete { t with idx := d.1 }])

/-- Moves of a circuit. -/
def State.circuitMoves (s : State) (c : Circuit) : List Turn :=
  let a : Args := { id := c.id, yes := true }
  if c.alive then whenDue (!c.words.isEmpty) [.event .circuitBeatLand a] ++ whenDue (s.expired c) [.event .leaseExpiry a]
  else whenDue c.signal.isSome [.event .breakSignalArrival a] ++ whenDue c.notice.isSome [.event .breakNotice a]

/-- Moves of a flow. -/
def State.flowMoves (s : State) (f : Flow) : List Turn :=
  let a : Args := { id := f.id }
  whenDue (s.windowOver f.pkg (f.tile / 4)) [.event .flowMeterWindowEnd { pkg := BitVec.ofNat 8 f.pkg, idx := f.tile / 4 }]
    ++ (match f.st with
        | .metered => whenDue (s.mayProbe f) [.event .flowProbe a]
        | .probing => [.event .flowPromote a]
        | .holdoff _ => [.event .holdoffExpire a]
        | .promoted _ => [.event .flowIdleClose a])

/-- Moves of a package: its dispatchers, its migration and reclaim engines, held host accesses, and its limits of time. -/
def State.packageMoves (s : State) (e : Nat × Package) : List Turn :=
  let a : Args := { pkg := BitVec.ofNat 8 e.1 }
  let queued := s.tenants.any (fun t => t.1 / 256 == e.1 && !(t.2.records.isEmpty && t.2.frames.isEmpty))
  whenDue (queued || !e.2.deficit.isEmpty) ((List.range 4).flatMap (fun d => [.event .dispatchStartJob { a with idx := d }, .event .preemptDecide { a with idx := d }]))
    ++ whenDue (!e.2.migQueue.isEmpty) [.event .migrationRun a]
    ++ (List.range e.2.migQueue.length).map (fun i => .event .migrationComplete { a with id := i })
    ++ (List.range 4).filterMap (fun d => (e.2.deadAt d).head?.map (fun x => .event .caReclaim { a with idx := x.1, idx2 := d }))
    ++ e.2.ca.flatMap (fun d =>
      (d.2.lines.filter CaLine.freed).map (fun l => .event .reclaimFinish { a with idx := d.1, idx2 := nameDie l.name }))
    ++ ((List.range e.2.held.length).filter e.2.heldTurn).flatMap (fun i =>
      [.event .hostHeldComplete { a with id := i }, .event .hostHeldExpire { a with id := i }])
    ++ whenDue (!e.2.linkUp) [.event .hostDeliveryExpire a]
    ++ whenDue (decide (e.2.ceilingNow < e.2.ceiling)) [.event .ceilingFall a]
    ++ whenDue (e.2.quiesce == 1) [.event .quiesceDeadline a]
    ++ ((List.range 4).filter (s.droopOver e.1)).map (fun r => .event .droopReexecute { a with idx2 := r })

/-- Every move that the device makes by itself in the coming cycle, and the choices of its cores and engines noted. -/
def State.ownMoves (s : State) : List Turn × State :=
  let (l, t) := s.serveUnits
  (l ++ s.requestMoves ++ s.jobs.flatMap jobMoves ++ s.tenants.flatMap tenantMoves ++ s.circuits.flatMap s.circuitMoves
    ++ s.pkgs.flatMap s.packageMoves ++ s.flows.flatMap s.flowMoves, t)

/-- The first move of a cycle, with the rest of it still to be made; a cycle without moves passes. -/
def State.beginCycle (s : State) : List Turn → Turn × State
  | [] => (.elapse 1, s)
  | t :: l => (t, { s with round := l })

/-- The move that comes next, and the state with it taken: a cycle under way goes on; else `turns` names the moves of the next one,
or the device's own rule does. -/
def State.nextMove (s : State) : Turn × State :=
  match s.round, s.turns with
  | t :: l, _ => (t, { s with round := l })
  | [], _ :: _ => let (g, rest) := cycleOf s.turns; ({ s with turns := rest }).beginCycle (s.orderCycle g)
  | [], [] => let (l, t) := s.ownMoves; t.beginCycle (t.orderCycle l)

/-! ### A program placed for a first step (log 17) -/

/-- The kernel of a job that runs one stream of kind `k`: 64 registers in each core. -/
def loneKernel (k : Kind) : Kernel :=
  { image := 0, alloc := 7, accbase := 0, acccount := 0, smask := BitVec.ofNat 7 (2 ^ k.code), xoff := 0, eoff := 0
    entries := 0, levels := [], est := 0, variants := Vector.replicate 4 0, sched := 0
    tqbind := Vector.replicate 2 0xFFFF_FFFF_FFFF_FFFF, at_ := 0 }

/-- A supervisor job that runs one stream from address 0. -/
def loneJob (k : Kind) : Job :=
  Job.fresh 0 0 ⟨setLv (Vector.replicate 8 0) true, none, none, 0, false, none⟩ (loneKernel k) [] 0 0 [] none

/-- The stream kind that runs an engine word of the class of `w`: the matrix engine for common and switch words. -/
def kindOfWord (w : BitVec 48) : Kind :=
  match w.extractLsb' 45 3 with
  | 2#3 => .V | 3#3 => .T | 4#3 => .C | 5#3 => .W | _ => .M

/-- The state with a job in slot 0 of tile 0 of package 0 whose one stream moves next. -/
def State.withLone (s : State) (k : Kind) : State :=
  { s.setJob 0 (loneJob k) with turns := [.stream ⟨0, 0, 0, k⟩] }

/-- The state whose next step runs a core instruction: its word at IMEM address 0, untagged, and the word after it
tagged as a literal. -/
def State.withCoreWord (s : State) (w lit : W32) : State :=
  let m := write32 (write32 s.mem (blockAddr 0 0 0x40_0000) w) (blockAddr 0 0 0x40_0004) lit
  let tags := readByte m (blockAddr 0 0 0x48_0000)
  ({ s with mem := writeByte m (blockAddr 0 0 0x48_0000) (setBits tags 1 0 2) }).withLone .A

/-- The state whose next step runs an engine word: EMEM word 0. -/
def State.withEngineWord (s : State) (w : BitVec 48) : State :=
  ({ s with mem := write64 s.mem (blockAddr 0 0 0x44_0000) (w.setWidth 64) }).withLone (kindOfWord w)

end Sys2Proof.Machine
end

