-- ==== Sys2Proof/Machine/Step.lean ====
section
/-!
DEFINITION. One step of the machine, and the state whose next step runs a given instruction.
-/

namespace Sys2Proof.Machine

/-- One step: the next move is made. -/
def step (s : State) : Host.Outcome State Fault Refusal :=
  let m := s.nextMove
  m.2.move m.1

/-- `s` with the instruction of `nbits` bits `w` placed where the next step fetches (log 17): 48 bits are an engine
word, anything else a core instruction with its literal in the upper half. -/
def State.withFetchWord (s : State) (nbits w : Nat) : State :=
  if nbits = 48 then s.withEngineWord (BitVec.ofNat 48 w)
  else s.withCoreWord (BitVec.ofNat 32 w) (BitVec.ofNat 32 (w / 2 ^ 32))

end Sys2Proof.Machine
end

