-- ==== Sys2Proof/Safety.lean ====
section
/-!
DEFINITION. The notions in which claims are stated: a core stream that is ready, its registers, what a retired
instruction leaves, an engine stream that is ready, and the invariants.
-/

namespace Sys2Proof.Machine

/-! ### A core stream that runs an instruction -/

/-- No deferred fault waits to be delivered to the job in slot `key` while it runs (15 R385). -/
def Calm (s : State) (key : Nat) : Prop :=
  ∀ j, s.jobAt key = some j → (j.st = .running ∨ j.st = .handler) → j.deferred = []

/-- The stream in focus is a core stream of job `j`, which runs, or whose X-core goes on while it freezes. -/
def Ready (s : State) (j : Job) : Prop :=
  s.jobAt s.key = some j ∧ s.focus.kind.isCore = true ∧
    (((j.st = .running ∨ j.st = .handler) ∧ j.deferred = []) ∨ (j.st = .freezing ∧ s.xTimeUp s.key j = false))

/-- The stream in focus is a core stream of job `j`, which is not freezing. -/
def Steady (s : State) (j : Job) : Prop := Ready s j ∧ j.st ≠ .freezing

/-- The registers of a form lie in the allotment; g63 always does (06 R158). -/
def Allowed (c : Core) (l : List Reg) : Prop := ∀ r ∈ l, r.toNat < c.allot ∨ r = 63

/-- The core in focus: the context it runs in. -/
def State.core (s : State) (j : Job) : Core := j.core s.focus.kind

/-- The core in focus has retired an instruction of `len` bytes: PC and counters (09 R219, R248; 15 R387). -/
def State.retired (s : State) (len : Nat) : State := s.modCore (fun c => (c.goto (c.pc.toNat + len)).retire)

/-- It has retired a transfer to address `t`. -/
def State.jumped (s : State) (t : Nat) : State := s.modCore (fun c => (c.goto t).retire)

/-- It has retired an instruction of `len` bytes whose one effect is `g[d] := v`; nothing is written when d is g0. -/
def State.wrote (s : State) (d : Reg) (v : Word) (len : Nat) : State := (s.setReg d v).retired len

/-- The fault a core instruction raises. -/
def State.coreFault (s : State) (j : Job) (c : Cause) (eva : Word) : FaultInfo :=
  { cause := c, eva := eva, kind := s.focus.kind, point := (s.core j).pc.toNat, failed := none }

/-- The state after the core in focus raises a fault: its instruction gives up what it had sent, the exception, and then a deferred
fault that it let arrive. -/
def State.faulted (s : State) (j : Job) (c : Cause) (eva : Word) : State :=
  ((s.modCore Core.unask).takeFault s.key (s.coreFault j c eva)).noticeDeferred s.key

/-- The core in focus has waited one more turn. -/
def State.stalled (s : State) : State := s.modCore (fun c => { c with stallcyc := c.stallcyc + 1 })

/-- Nothing of the core in focus stands in its queues. -/
def Quiet (s : State) : Prop := ∀ r ∈ s.reqs, r.by_ ≠ s.issuer

/-- The core in focus waits for no answer, and the address `va` of its access that needs `need` translates to `pa`, outside MMIO;
`t` is the state after the translation, whose TLB and counters may have moved. -/
def Translated (s : State) (j : Job) (va : Word) (need : Perm) (t : State) (pa : Nat) : Prop :=
  s.askOf = none ∧ bits va 63 56 = 0 ∧ (∃ e, s.coreTranslate j.tenant.toNat va.toNat need = (t, .ok e pa)) ∧
    (t.region pa).isMmio = false

/-- No byte of storage holds an uncorrectable error (log 60). -/
def Sound (s : State) : Prop := s.errs = []

/-- The sequence number that the next request of the core in focus to the place of `p` takes (02 R65). -/
def State.askSeq (s : State) (p : Parcel) : BitVec 16 := (s.takeSeq (s.issuer.queue p.load) p.target).1

/-- The core in focus has sent it: its request counter and its sequence number have moved (02 R36, R65). -/
def State.asked (s : State) (p : Parcel) : State :=
  ((if p.counted then s.countReq s.fpkg s.ftile p.place else s).takeSeq (s.issuer.queue p.load) p.target).2

/-- The core in focus waits for no answer, and what it sends now arrives and is answered: the links pass it both ways (02 R66, R69),
and, unless it is a load, its target has performed what it was sent before (02 R65) and keeps no result of an earlier request under
its number (02 R67). -/
def Arrives (s : State) (p : Parcel) : Prop :=
  s.askOf = none ∧ s.passage s.fpkg s.ftile p.place = .through ∧
    (p.load = false → s.targetBusy p.target = false ∧ s.keptOf (s.issuer.queue false) p.target (s.askSeq p) = none)

/-- An access `op` of the core in focus to `pa`, as it travels. -/
def State.parcel (s : State) (op : ReqOp) (pa : Nat) : Parcel := ⟨true, op.isLoad, s.placeOf pa, s.targetNum pa⟩

/-- An access `op` of the core in focus to the `n` bytes at `pa` performs as it is issued: nothing older keeps it (05 R122 to R130),
it arrives, its tile is present, and their storage holds no uncorrectable error. -/
def Answers (s : State) (op : ReqOp) (pa n : Nat) : Prop :=
  Arrives s (s.parcel op pa) ∧ s.clear op pa = true ∧ s.absent pa = false ∧ s.flawed pa n = false

/-- A CA operation of the core in focus for target `n`, as it travels (04 R114). -/
def caParcel (n : Nat) : Parcel := ⟨true, false, placeOfNum (n / 4), n⟩

/-- The links that it crosses have carried `data`, the line data it takes along (02 R69). -/
def State.caCarried (s : State) (n : Nat) (data : List Byte) : State :=
  s.carry (wayTo s.fpkg (dieOf s.ftile) (placeOfNum (n / 4))) 0 data

/-- It arrives and is answered. -/
def State.CaArrives (s : State) (n : Nat) (data : List Byte) : Prop := Arrives (s.caCarried n data) (caParcel n)

/-- Its sequence number. -/
def State.caSeq (s : State) (n : Nat) (data : List Byte) : BitVec 16 := (s.caCarried n data).askSeq (caParcel n)

/-- The core in focus has sent it with `data`. -/
def State.caGone (s : State) (n : Nat) (data : List Byte) : State := (s.caCarried n data).asked (caParcel n)

/-- Its answer has come from its home, whose state is `u`: the result dword `v` in g[d], the bytes `x` at the local address
`out` (04 R113). -/
def State.caBack (u : State) (d : Reg) (out n : Nat) (seq : BitVec 16) (v : Word) (x : List Byte) : State :=
  let t := (u.keep (caParcel n) seq v x).carry (wayBack u.fpkg (dieOf u.ftile) (placeOfNum (n / 4))) 0 x
  ({ t with mem := writeBytes t.mem (apAddr t.fpkg t.ftile out) x } : State).wrote d v 4

/-- Nothing of the job in slot `key` waits or is in flight: no operation sent, no ring waiter, no access, no word that runs, no word
on a promoted circuit. -/
def AtRest (s : State) (key : Nat) (j : Job) : Prop :=
  j.a.asked = none ∧ j.x.asked = none ∧ j.a.reply = none ∧ j.x.reply = none ∧ j.wordRuns = false ∧
    (∀ r ∈ s.reqs, r.by_.key ≠ key) ∧ (∀ t ∈ s.tiles, ∀ r ∈ t.2.rings, ∀ w ∈ r.2.waiters, w.by_.key ≠ key) ∧
    ∀ c ∈ s.circuits, c.flow.isSome = true → c.srcJid = j.jid → c.words = []

/-! ### An engine stream that starts a word -/

/-- The stream in focus is an engine stream of job `j` that may start a word of class `own` (none: any) with pop `pop` whose unit is
`h`: it is inside no word and waits for no answer, its pop's token is there, its unit and its engine are free (11 R278, R282; 14 R381),
and no access that its tile's bank has accepted is still to be performed (05 R125). -/
def EngineReady (s : State) (j : Job) (own : Option Kind) (h : Hold) (pop : Option (BitVec 4)) : Prop :=
  s.jobAt s.key = some j ∧ s.focus.kind.isCore = false ∧ (∀ k, own = some k → s.focus.kind = k) ∧
    (j.eng s.focus.kind).pos = none ∧ (j.eng s.focus.kind).asked = none ∧ s.engineTaken = false ∧ s.bankFree s.fpkg s.ftile = true ∧ s.drooping = false ∧ popCheck j s.focus.kind pop = .ok ∧
    h.free (s.tileAt s.tkey) j.jid = true

/-- The state in which the word's own effect begins: its token is taken and its unit held. -/
def State.begun (s : State) (j : Job) (h : Hold) (pop : Option (BitVec 4)) : State := s.beginWord j.jid h pop

/-- One thing after another for every element of every repetition, in order. -/
def foldWord {α : Type} (reps n : Nat) (f : Nat → Nat → α → α) (x : α) : α :=
  (List.range reps).foldl (fun x r => (List.range n).foldl (fun x k => f r k x) x) x

/-- Where an element at `ad` lies for a pattern in the scratchpad or in the job's accumulator window (01 R16, R19); nowhere if the
unit of storage that the code protects holds an uncorrectable error (02 R42). -/
def State.localPlace (s : State) (p : Pat) (ad : Word) : Option Nat :=
  let at_ := if p.space = 1 then apAddr s.fpkg s.ftile ad.toNat else s.accAddr ad.toNat
  let size := if p.space = 1 then padSize else s.window.2 * 8192
  let bad := if p.space = 1 then s.padFlawed ad.toNat p.bytes true else s.flawed at_ p.bytes
  if (p.space = 1 ∨ p.space = 2) ∧ ad.toNat + p.bytes ≤ size ∧ bad = false then some at_ else none

/-- Every element in bound of a pattern in a tile-local space, of each of `reps` repetitions, lies inside it. -/
def LocalPattern (s : State) (p : Pat) (step : BitVec 12) (reps : Nat) : Prop :=
  ∀ r k, r < reps → k < p.n → p.inB k = true → (s.localPlace p (p.addr step r k)).isSome = true

/-- Element `k` of repetition `r` of such a pattern in memory `m`; a 4-bit element is a nibble (07 R184). -/
def Pat.value (p : Pat) (s : State) (step : BitVec 12) (r k : Nat) (m : Memory) : Nat :=
  match s.localPlace p (p.addr step r k) with
  | none => 0
  | some a =>
    let v := readLe m a p.bytes
    if p.esize = 0 then (if p.high k then v / 16 else v % 16) else v

/-- Memory with that element made `v`. -/
def Pat.store (p : Pat) (s : State) (step : BitVec 12) (r k : Nat) (v : Nat) (m : Memory) : Memory :=
  match s.localPlace p (p.addr step r k) with
  | none => m
  | some a =>
    let old := readLe m a p.bytes
    writeLe m a p.bytes
      (if p.esize = 0 then (if p.high k then old % 16 + 16 * (v % 16) else old / 16 * 16 + v % 16) else v)

/-- A vector operand that no channel gives: a register, the constant, or none. -/
def notChannel : Option Nat → Prop
  | some c => c < 32 ∨ c = 40
  | none => True

/-- The lanes of such an operand in repetition `r` over registers `m` (11 R305). -/
def VDesc.lanesIn (v : VDesc) (m : Map W32) (step : BitVec 12) (r : Nat) (code : Option Nat) (adv : Bool) : List W32 :=
  match code with
  | none => []
  | some c => if c = 40 then List.replicate 256 v.const else vregLanes m (regAt c adv step r)

/-- The active lanes over registers `m`: those whose lane of vm is not zero, or all (11 R305). -/
def VDesc.activeIn (v : VDesc) (m : Map W32) : List Bool :=
  if v.me then (vregLanes m v.vm).map (fun x => x != 0) else List.replicate 256 true

/-- The vector registers after repetition `r` of an operation `f` whose destination is register code `d`: lanes not written
keep their value (11 R305). -/
def VDesc.after (v : VDesc) (d : Nat) (step : BitVec 12) (f : List Bool → List W32 → List W32 → List W32 → List W32 × List Bool)
    (r : Nat) (m : Map W32) : Map W32 :=
  let x := f (v.activeIn m) (v.lanesIn m step r v.oa v.advA) (v.lanesIn m step r v.ob v.advB) (v.lanesIn m step r v.oc v.advC)
  let n := regAt d v.advD step r
  vregPut m n (List.zipWith (fun (w : Bool) (y : W32 × W32) => if w then y.1 else y.2) x.2 (x.1.zip (vregLanes m n)))

/-! ### Invariants -/

/-- Memory keeps its canonical form. -/
def MemoryCanonical (s : State) : Prop := s.mem.wf = true

end Sys2Proof.Machine
end

