-- ==== Sys2Proof/Certificates/Slice0/Obligations.lean ====
section
/-!
DEFINITION. The statements for the provers. Each docstring names the rules of spec/ it formalises; where a clause is the
model's own choice it names the log entry.
-/

open Sys2Proof Sys2Proof.Machine

/-! ### Integer families (09 R223 to R230) -/

/-- R223: the sixteen 64-bit INT operations write g[d], drop a write to g0, and retire.
R224: the 32-bit INT forms work on bits 31:0 and write the sign-extended 32-bit result. -/
def Obligations.IntegerResults : Prop :=
  (∀ (s : State) (j : Job) (d a : Reg) (b : Opd), Ready s j → Allowed (s.core j) (d :: a :: opdRegs b) →
      let x := (s.core j).reg a
      let y := bval j (s.core j) b
      let r := fun (v : Word) => Host.Outcome.next (φ := Fault) (ρ := Refusal) (s.wrote d v (opdLen b))
      exec (.add d a b) s = r (x + y) ∧ exec (.sub d a b) s = r (x - y) ∧ exec (.and d a b) s = r (x &&& y) ∧
      exec (.or d a b) s = r (x ||| y) ∧ exec (.xor d a b) s = r (x ^^^ y) ∧ exec (.andn d a b) s = r (x &&& ~~~y) ∧
      exec (.shl d a b) s = r (x <<< (y.toNat % 64)) ∧ exec (.shr d a b) s = r (x >>> (y.toNat % 64)) ∧
      exec (.sar d a b) s = r (x.sshiftRight (y.toNat % 64)) ∧ exec (.rotl d a b) s = r (x.rotateLeft (y.toNat % 64)) ∧
      exec (.slt d a b) s = r (if x.toInt < y.toInt then 1 else 0) ∧
      exec (.sltu d a b) s = r (if x.toNat < y.toNat then 1 else 0) ∧
      exec (.min d a b) s = r (if y.toInt < x.toInt then y else x) ∧
      exec (.max d a b) s = r (if x.toInt < y.toInt then y else x) ∧
      exec (.minu d a b) s = r (if y.toNat < x.toNat then y else x) ∧
      exec (.maxu d a b) s = r (if x.toNat < y.toNat then y else x)) ∧
  (∀ (s : State) (j : Job) (d a : Reg) (b : Opd), Ready s j → Allowed (s.core j) (d :: a :: opdRegs b) →
      let x := ((s.core j).reg a).setWidth 32
      let y := (bval j (s.core j) b).setWidth 32
      let r := fun (v : W32) => Host.Outcome.next (φ := Fault) (ρ := Refusal) (s.wrote d (v.signExtend 64) (opdLen b))
      exec (.addw d a b) s = r (x + y) ∧ exec (.subw d a b) s = r (x - y) ∧
      exec (.shlw d a b) s = r (x <<< (y.toNat % 32)) ∧ exec (.shrw d a b) s = r (x >>> (y.toNat % 32)) ∧
      exec (.sarw d a b) s = r (x.sshiftRight (y.toNat % 32)))

/-- R227 and R228: products; and quotients and remainders where the divisor is not zero, the most negative value
divided by −1 included. -/
def Obligations.MulDivResults : Prop :=
  ∀ (s : State) (j : Job) (d a : Reg) (b : Opd), Ready s j → Allowed (s.core j) (d :: a :: opdRegs b) →
    let x := (s.core j).reg a
    let y := bval j (s.core j) b
    let xw := x.setWidth 32
    let yw := y.setWidth 32
    let r := fun (v : Word) => Host.Outcome.next (φ := Fault) (ρ := Refusal) (s.wrote d v (opdLen b))
    let rw := fun (v : W32) => r (v.signExtend 64)
    (exec (.mul d a b) s = r (x * y) ∧
     exec (.mulh d a b) s = r (((x.signExtend 128 * y.signExtend 128) >>> 64).setWidth 64) ∧
     exec (.mulhu d a b) s = r (((x.setWidth 128 * y.setWidth 128) >>> 64).setWidth 64) ∧
     exec (.mulw d a b) s = rw (xw * yw)) ∧
    (y ≠ 0 → exec (.div d a b) s = r (x.sdiv y) ∧ exec (.divu d a b) s = r (x.udiv y) ∧
      exec (.rem d a b) s = r (x.srem y) ∧ exec (.remu d a b) s = r (x.umod y)) ∧
    (yw ≠ 0 → exec (.divw d a b) s = rw (xw.sdiv yw) ∧ exec (.divuw d a b) s = rw (xw.udiv yw) ∧
      exec (.remw d a b) s = rw (xw.srem yw) ∧ exec (.remuw d a b) s = rw (xw.umod yw))

/-- R229: counts, reversals and fields of a register, bit by bit. -/
def Obligations.BitResults : Prop :=
  ∀ (s : State) (j : Job) (d a : Reg) (b : Opd), Ready s j → Allowed (s.core j) (d :: a :: opdRegs b) →
    let x := (s.core j).reg a
    let y := bval j (s.core j) b
    let lo := y.toNat % 64
    let w2 := min (y.toNat / 64 % 64 + 1) (64 - lo)
    let r4 := fun (v : Word) => Host.Outcome.next (φ := Fault) (ρ := Refusal) (s.wrote d v 4)
    let r := fun (v : Word) => Host.Outcome.next (φ := Fault) (ρ := Refusal) (s.wrote d v (opdLen b))
    (∃ n : Nat, exec (.clz d a) s = r4 (BitVec.ofNat 64 n) ∧ n ≤ 64 ∧ (∀ i, i < n → x.getLsbD (63 - i) = false) ∧
      (n < 64 → x.getLsbD (63 - n) = true)) ∧
    (∃ n : Nat, exec (.ctz d a) s = r4 (BitVec.ofNat 64 n) ∧ n ≤ 64 ∧ (∀ i, i < n → x.getLsbD i = false) ∧
      (n < 64 → x.getLsbD n = true)) ∧
    exec (.popc d a) s = r4 (BitVec.ofNat 64 ((List.range 64).countP (fun i => x.getLsbD i))) ∧
    (∃ v : Word, exec (.brev d a) s = r4 v ∧ ∀ i, i < 64 → v.getLsbD i = x.getLsbD (63 - i)) ∧
    (∃ v : Word, exec (.bswap d a) s = r4 v ∧ ∀ k i, k < 8 → i < 8 → v.getLsbD (8 * k + i) = x.getLsbD (8 * (7 - k) + i)) ∧
    (∃ v : Word, exec (.extu d a b) s = r v ∧ ∀ i, i < 64 → v.getLsbD i = (decide (i < w2) && x.getLsbD (lo + i))) ∧
    (∃ v : Word, exec (.exts d a b) s = r v ∧ ∀ i, i < 64 → v.getLsbD i = x.getLsbD (lo + min i (w2 - 1))) ∧
    (∃ v : Word, exec (.ins d a b) s = r v ∧ ∀ i, i < 64 → v.getLsbD i =
      (if lo ≤ i ∧ i < lo + w2 then x.getLsbD (i - lo) else ((s.core j).reg d).getLsbD i))

/-- R225, R226 and R230: the immediate family, LHI, and address arithmetic. -/
def Obligations.ImmediateResults : Prop :=
  ∀ (s : State) (j : Job) (d a : Reg) (b : Opd) (i : BitVec 14) (n : BitVec 6) (h : BitVec 20),
    Ready s j → Allowed (s.core j) (d :: a :: opdRegs b) →
    let x := (s.core j).reg a
    let y := bval j (s.core j) b
    let k := i.signExtend 64
    let r := fun (v : Word) => Host.Outcome.next (φ := Fault) (ρ := Refusal) (s.wrote d v 4)
    let q := fun (v : Word) => Host.Outcome.next (φ := Fault) (ρ := Refusal) (s.wrote d v (opdLen b))
    exec (.addi d a i) s = r (x + k) ∧ exec (.andi d a i) s = r (x &&& k) ∧ exec (.ori d a i) s = r (x ||| k) ∧
    exec (.xori d a i) s = r (x ^^^ k) ∧ exec (.shli d a n) s = r (x <<< n.toNat) ∧ exec (.shri d a n) s = r (x >>> n.toNat) ∧
    exec (.sari d a n) s = r (x.sshiftRight n.toNat) ∧ exec (.slti d a i) s = r (if x.toInt < k.toInt then 1 else 0) ∧
    exec (.sltui d a i) s = r (if x.toNat < k.toNat then 1 else 0) ∧
    exec (.lhi d h) s = r (BitVec.ofInt 64 (h.toInt * 2 ^ 12)) ∧
    exec (.shadd1 d a b) s = q (x + y <<< 1) ∧ exec (.shadd2 d a b) s = q (x + y <<< 2) ∧
    exec (.shadd3 d a b) s = q (x + y <<< 3) ∧ exec (.shadd4 d a b) s = q (x + y <<< 4) ∧
    exec (.lndiv d a) s = r (BitVec.ofNat 64 (x.toNat / 192)) ∧ exec (.lnmod d a) s = r (BitVec.ofNat 64 (x.toNat % 192))

/-! ### Floating point (09 R231 to R234; 07 R176 to R183) -/

/-- R231 and R234: sums, products, quotients and roots are the exact value rounded once to FP32, nearest even, and written
zero-extended; operands ignore bits 63:32; FLI is a move; comparisons write 0 or 1.
R176, R179 and R182: an operation on a NaN gives the canonical NaN 0x7FC0_0000, whatever the other operand; the invalid
sums, products and quotients give it too; a NaN compares false; a finite value divided by zero is an infinity; and the
special operands of the transcendental functions give the table's results. -/
def Obligations.FloatResults : Prop :=
  (∀ (s : State) (j : Job) (d a : Reg) (b : Opd) (i : BitVec 20), Ready s j → Allowed (s.core j) (d :: a :: opdRegs b) →
      let xw := ((s.core j).reg a).setWidth 32
      let x := f32 xw
      let yw := (bval j (s.core j) b).setWidth 32
      let y := f32 yw
      let z := f32 (((s.core j).reg d).setWidth 32)
      let k := f32 (i.setWidth 32 <<< 12)
      let w := fun (n : Nat) (v : W32) => Host.Outcome.next (φ := Fault) (ρ := Refusal) (s.wrote d (v.setWidth 64) n)
      let t := fun (v : Bool) => Host.Outcome.next (φ := Fault) (ρ := Refusal) (s.wrote d (if v then 1 else 0) (opdLen b))
      exec (.fadd d a b) s = w (opdLen b) (rne32 (fpAdd x y)) ∧ exec (.fsub d a b) s = w (opdLen b) (rne32 (fpAdd x (fpNeg y))) ∧
      exec (.fmul d a b) s = w (opdLen b) (rne32 (fpMul x y)) ∧ exec (.fdiv d a b) s = w (opdLen b) (rne32 (fpDiv x y)) ∧
      exec (.fmad d a b) s = w (opdLen b) (rne32 (fpAdd (fpMul z x) y)) ∧ exec (.fsqrt d a) s = w 4 (rne32 (fpSqrt x)) ∧
      exec (.fexp2 d a) s = w 4 (rne32 (fpExp2 x)) ∧ exec (.flog2 d a) s = w 4 (rne32 (fpLog2 x)) ∧
      exec (.frcp d a) s = w 4 (rne32 (fpRcp x)) ∧ exec (.frsq d a) s = w 4 (rne32 (fpRsq x)) ∧
      exec (.fli d i) s = w 4 (i.setWidth 32 <<< 12) ∧ exec (.faddi d i) s = w 4 (rne32 (fpAdd z k)) ∧
      exec (.fmuli d i) s = w 4 (rne32 (fpMul z k)) ∧
      exec (.fmin d a b) s = w (opdLen b) (if x.isNan || y.isNan then 0x7FC00000 else if f32Below yw xw then yw else xw) ∧
      exec (.fmax d a b) s = w (opdLen b) (if x.isNan || y.isNan then 0x7FC00000 else if f32Below xw yw then yw else xw) ∧
      (∃ v : W32, exec (.fsgn d a b) s = w (opdLen b) v ∧ v.getLsbD 31 = (xw.getLsbD 31 ^^ yw.getLsbD 31) ∧
        ∀ n, n < 31 → v.getLsbD n = xw.getLsbD n) ∧
      exec (.flt d a b) s = t (fpLt x y) ∧
      exec (.feq d a b) s = t (!x.isNan && !y.isNan && !fpLt x y && !fpLt y x) ∧
      exec (.fle d a b) s = t (!x.isNan && !y.isNan && !fpLt y x)) ∧
  ((∀ x y z : W32, (f32 x).isNan = true →
      f32Add x y = 0x7FC00000 ∧ f32Add y x = 0x7FC00000 ∧ f32Sub x y = 0x7FC00000 ∧ f32Sub y x = 0x7FC00000 ∧
      f32Mul x y = 0x7FC00000 ∧ f32Mul y x = 0x7FC00000 ∧ f32Div x y = 0x7FC00000 ∧ f32Div y x = 0x7FC00000 ∧
      f32Fma x y z = 0x7FC00000 ∧ f32Fma y x z = 0x7FC00000 ∧ f32Fma y z x = 0x7FC00000 ∧
      f32Min x y = 0x7FC00000 ∧ f32Max y x = 0x7FC00000 ∧
      f32Sqrt x = 0x7FC00000 ∧ f32Exp2 x = 0x7FC00000 ∧ f32Log2 x = 0x7FC00000 ∧ f32Rcp x = 0x7FC00000 ∧ f32Rsq x = 0x7FC00000 ∧
      f32Lt x y = false ∧ f32Lt y x = false ∧ f32Le x y = false ∧ f32Le y x = false ∧ f32Eq x y = false ∧ f32Eq y x = false) ∧
    (f32Add 0x7F800000 0xFF800000 = 0x7FC00000 ∧ f32Mul 0 0x7F800000 = 0x7FC00000 ∧ f32Div 0 0 = 0x7FC00000 ∧
      f32Div 0x7F800000 0x7F800000 = 0x7FC00000 ∧ f32Add 0x80000000 0x80000000 = 0x80000000 ∧
      f32Add 0 0x80000000 = 0 ∧ f32Sqrt 0x80000000 = 0x80000000) ∧
    (∀ x : W32, (f32 x).isNan = false → (f32 x).isInf = false → (f32 x).isZero = false →
      f32Div x 0 = (if x.getLsbD 31 then 0xFF800000 else 0x7F800000) ∧
      f32Div x 0x80000000 = (if x.getLsbD 31 then 0x7F800000 else 0xFF800000)) ∧
    (∀ x : W32, (f32 x).isNan = false → (f32 x).isZero = false → x.getLsbD 31 = true →
      f32Sqrt x = 0x7FC00000 ∧ f32Log2 x = 0x7FC00000 ∧ f32Rsq x = 0x7FC00000) ∧
    (f32Exp2 0xFF800000 = 0 ∧ f32Exp2 0x80000000 = 0x3F800000 ∧ f32Exp2 0 = 0x3F800000 ∧ f32Exp2 0x7F800000 = 0x7F800000 ∧
      f32Log2 0x80000000 = 0xFF800000 ∧ f32Log2 0 = 0xFF800000 ∧ f32Log2 0x7F800000 = 0x7F800000 ∧
      f32Rcp 0xFF800000 = 0x80000000 ∧ f32Rcp 0x80000000 = 0xFF800000 ∧ f32Rcp 0 = 0x7F800000 ∧ f32Rcp 0x7F800000 = 0 ∧
      f32Rsq 0x80000000 = 0xFF800000 ∧ f32Rsq 0 = 0x7F800000 ∧ f32Rsq 0x7F800000 = 0))

/-- R232, R233 and R181: FCLASS sets exactly the bit of its operand's class; FCVT between floating formats rounds the exact
value by its mode, and to or from an integer format saturates or rounds as R181 gives; a pair of formats with no
conversion raises Illegal-Instruction (08 R206). -/
def Obligations.ClassAndConvert : Prop :=
  (∀ (s : State) (j : Job) (d a : Reg), Ready s j → Allowed (s.core j) [d, a] →
    let x := ((s.core j).reg a).setWidth 32
    let e := x.toNat / 2 ^ 23 % 256
    let f := x.toNat % 2 ^ 23
    let n := x.getLsbD 31
    let k : Nat := if e = 255 then (if f ≠ 0 then 8 else if n then 0 else 7)
      else if e = 0 then (if f = 0 then (if n then 3 else 4) else if n then 2 else 5)
      else if n then 1 else 6
    exec (.fclass d a) s = .next (s.wrote d (BitVec.ofNat 64 (2 ^ k)) 4)) ∧
  (∀ (s : State) (j : Job) (d a : Reg) (m : BitVec 2) (f t : BitVec 3), Ready s j → Allowed (s.core j) [d, a] →
    fcvtLegal f t = true →
    let x := (s.core j).reg a
    let r := fun (v : Word) => Host.Outcome.next (φ := Fault) (ρ := Refusal) (s.wrote d v 4)
    (∀ ff ft, fmtOf f.toNat = some ff → fmtOf t.toNat = some ft →
      exec (.fcvt d a m f t) s = r (BitVec.ofNat 64 (fpRound ft (rmode m) (fpDecode ff (x.toNat % 2 ^ ff.width))))) ∧
    (∀ ff, fmtOf f.toNat = some ff → t = 5 →
      exec (.fcvt d a m f t) s =
        r (BitVec.ofInt 64 (fpToInt (rmode m) (-(2 ^ 31)) (2 ^ 31 - 1) (fpDecode ff (x.toNat % 2 ^ ff.width))))) ∧
    (∀ ff, fmtOf f.toNat = some ff → t = 6 →
      exec (.fcvt d a m f t) s =
        r (BitVec.ofInt 64 (fpToInt (rmode m) (-(2 ^ 63)) (2 ^ 63 - 1) (fpDecode ff (x.toNat % 2 ^ ff.width))))) ∧
    (∀ ff, fmtOf f.toNat = some ff → t = 7 →
      exec (.fcvt d a m f t) s =
        r (BitVec.ofInt 64 (fpToInt (rmode m) 0 (2 ^ 64 - 1) (fpDecode ff (x.toNat % 2 ^ ff.width))))) ∧
    (∀ ft, fmtOf t.toNat = some ft → f = 5 →
      exec (.fcvt d a m f t) s = r (BitVec.ofNat 64 (fpRound ft (rmode m) (fpOfInt (x.setWidth 32).toInt)))) ∧
    (∀ ft, fmtOf t.toNat = some ft → f = 6 →
      exec (.fcvt d a m f t) s = r (BitVec.ofNat 64 (fpRound ft (rmode m) (fpOfInt x.toInt)))) ∧
    (∀ ft, fmtOf t.toNat = some ft → f = 7 →
      exec (.fcvt d a m f t) s = r (BitVec.ofNat 64 (fpRound ft (rmode m) (fpOfInt x.toNat)))))  ∧
  (∀ (s : State) (j : Job) (d a : Reg) (m : BitVec 2) (f t : BitVec 3), Steady s j → fcvtLegal f t = false →
    exec (.fcvt d a m f t) s = .next (s.take.2.faulted j .illegal (Config.unstatedEva s.fresh)))

/-! ### Control transfer (09 R235 to R238) -/

/-- R235: a branch whose condition holds goes to p + 4 × disp10, checked under 01 R20; one whose condition fails goes to p + 4
and checks nothing. -/
def Obligations.BranchResults : Prop :=
  ∀ (s : State) (j : Job) (a b : Reg) (i : BitVec 10), Ready s j → Allowed (s.core j) [a, b] →
    let x := (s.core j).reg a
    let y := (s.core j).reg b
    let t : Int := (s.core j).pc.toNat + 4 * i.toInt
    let ok : Prop := 0 ≤ t ∧ t < 0x40000 ∧ t % 4 = 0
    let go := fun (c : Prop) (e : Host.Outcome State Fault Refusal) =>
      (c → ok → e = .next (s.jumped t.toNat)) ∧ (¬ c → e = .next (s.retired 4))
    go (x = y) (exec (.beq a b i) s) ∧ go (x ≠ y) (exec (.bne a b i) s) ∧
    go (x.toInt < y.toInt) (exec (.blt a b i) s) ∧ go (y.toInt ≤ x.toInt) (exec (.bge a b i) s) ∧
    go (x.toNat < y.toNat) (exec (.bltu a b i) s) ∧ go (y.toNat ≤ x.toNat) (exec (.bgeu a b i) s)

/-- R236 and R237: jumps and links; the target of JALR is read before its link is written.
R238: LCSET, LCGET, and LOOPB at a count of zero, at its last pass, and before it. -/
def Obligations.JumpsAndLoops : Prop :=
  (∀ (s : State) (j : Job) (d a : Reg) (i : BitVec 26), Ready s j → Allowed (s.core j) [d, a] →
      let p := (s.core j).pc.toNat
      let t : Int := p + 4 * i.toInt
      let x := (s.core j).reg a
      let link : Word := BitVec.ofNat 64 (p + 4)
      (0 ≤ t → t < 0x40000 → t % 4 = 0 →
        exec (.j i) s = .next (s.jumped t.toNat) ∧ exec (.jal i) s = .next ((s.setReg 63 link).jumped t.toNat)) ∧
      (x.toNat < 0x40000 → x.toNat % 4 = 0 →
        exec (.jr a) s = .next (s.jumped x.toNat) ∧ exec (.jalr d a) s = .next ((s.setReg d link).jumped x.toNat))) ∧
  (∀ (s : State) (j : Job) (l : BitVec 2) (a : Reg) (i : BitVec 10), Ready s j → Allowed (s.core j) [a] →
      let n := vget (s.core j).lc l.toNat
      let t : Int := (s.core j).pc.toNat + 4 * i.toInt
      exec (.lcset l a) s = .next ((s.setLc l (((s.core j).reg a).setWidth 32)).retired 4) ∧
      exec (.lcget l a) s = .next (s.wrote a (n.setWidth 64) 4) ∧
      (n = 0 → exec (.loopb l i) s = .next (s.retired 4)) ∧
      (n = 1 → exec (.loopb l i) s = .next ((s.setLc l 0).retired 4)) ∧
      (1 < n.toNat → 0 ≤ t → t < 0x40000 → t % 4 = 0 → exec (.loopb l i) s = .next ((s.setLc l (n - 1)).jumped t.toNat)))

/-! ### Checks that come before a meaning (08 R202; 06 R158) -/

/-! ### System registers and traps (09 R239 to R245) -/

/-- R239 and R240: what MFSR gives for every assigned number, and Illegal-Instruction for every other (its EVA is a free
value). How the clock is held (log 3), and that a value shows the write before it at once (log 19), are the model's own.
R240: MTSR writes TRAPV where the value passes its checks, and CAUSE, EPC and EVA while H = 1, each keeping the bits that
R239 defines; every other write raises Illegal-Instruction (its EVA is a free value). That the next instruction sees the value is the
model's choice, as R52 and R240 leave the old or the new one open for two cycles (log 19). -/
def Obligations.SystemRegisters : Prop :=
  ((∀ (s : State) (j : Job) (d : Reg), Ready s j → Allowed (s.core j) [d] →
      let c := s.core j
      let k := s.pkgAt s.fpkg
      let r := fun (n : BitVec 12) (v : Nat) => exec (.mfsr d n) s = .next (s.wrote d (BitVec.ofNat 64 v) 4)
      r 0x000 ((if j.sup then 1 else 0) + (if c.h then 4 else 0) + (if s.focus.kind = .X then 8 else 0)) ∧
      r 0x001 c.cause.toNat ∧ r 0x002 c.epc.toNat ∧ r 0x003 c.eva.toNat ∧ r 0x004 c.ecut.toNat ∧ r 0x005 j.trapv.toNat ∧
      r 0x010 j.tenant.toNat ∧ r 0x011 s.focus.slot.toNat ∧ r 0x012 c.allot ∧ r 0x013 k.granted ∧ r 0x014 s.focus.tile.toNat ∧
      r 0x015 (s.focus.tile.toNat / 64) ∧ r 0x016 s.focus.pkg.toNat ∧
      r 0x020 ((k.cycBase + (s.wall - k.cycWall) * (7 + k.granted)) / Config.cycleUnits)) ∧
    (∀ (s : State) (j : Job) (d : Reg) (n : BitVec 12), Steady s j → Allowed (s.core j) [d] →
      n.toNat ∉ [0x000, 0x001, 0x002, 0x003, 0x004, 0x005, 0x010, 0x011, 0x012, 0x013, 0x014, 0x015, 0x016, 0x020] →
      exec (.mfsr d n) s = .next (s.take.2.faulted j .illegal (Config.unstatedEva s.fresh)))) ∧
  ((∀ (s : State) (j : Job) (d : Reg), Ready s j → Allowed (s.core j) [d] →
      let v := (s.core j).reg d
      (v.getLsbD 1 = false → v.extractLsb' 18 14 = 0 → v.extractLsb' 55 9 = 0 → v.extractLsb' 32 8 = 0 →
        (v.extractLsb' 32 23).toNat ≤ 0x5FFF00 →
        exec (.mtsr d 0x005) s = .next ((s.modCur (fun j => { j with trapv := v })).retired 4)) ∧
      ((s.core j).h = true →
        exec (.mtsr d 0x001) s = .next ((s.modCore (fun c => { c with cause := v &&& 0x1FF })).retired 4) ∧
        exec (.mtsr d 0x002) s = .next ((s.modCore (fun c => { c with epc := v &&& 0x7FFFC })).retired 4) ∧
        exec (.mtsr d 0x003) s = .next ((s.modCore (fun c => { c with eva := v })).retired 4))) ∧
    (∀ (s : State) (j : Job) (d : Reg) (n : BitVec 12), Steady s j → Allowed (s.core j) [d] →
      let v := (s.core j).reg d
      (n.toNat ∉ [0x001, 0x002, 0x003, 0x005] ∨ (n ≠ 0x005 ∧ (s.core j).h = false) ∨
        (n = 0x005 ∧ (v.getLsbD 1 = true ∨ v.extractLsb' 18 14 ≠ 0 ∨ v.extractLsb' 55 9 ≠ 0 ∨ v.extractLsb' 32 8 ≠ 0 ∨
          0x5FFF00 < (v.extractLsb' 32 23).toNat))) →
      exec (.mtsr d n) s = .next (s.take.2.faulted j .illegal (Config.unstatedEva s.fresh))))

/-- R242 and R243: NOP only retires; TRAP retires, p + 4 being its resume address, and then raises cause TRAP with the code as
EVA. -/
def Obligations.TrapAndNop : Prop :=
  (∀ (s : State) (j : Job), Ready s j → exec .nop s = .next (s.retired 4)) ∧
  (∀ (s : State) (j : Job) (code : BitVec 12), Steady s j →
    let f : FaultInfo :=
      { cause := .trap, eva := code.setWidth 64, kind := s.focus.kind, point := (s.core j).pc.toNat, failed := none }
    exec (.trap code) s = .next (((s.retired 4).takeFault s.key f).noticeDeferred s.key))

/-- R244: a fault of a running job with TRAPV.E = 1 whose handling core runs no handler and has not finished, and none of whose
streams waits, enters the handler: CAUSE, EPC, EVA, ECUT and H are set, the pc is the handler's, registers, allotment and loop
counters stay, the other core keeps its registers, and the record of 15 R388 is written at the area and nowhere else. -/
def Obligations.HandlerEntry : Prop :=
  ∀ (s : State) (key : Nat) (j : Job) (f : FaultInfo), MemoryCanonical s → s.jobAt key = some j → j.st = .running → AtRest s key j →
    (f.kind = .A → j.x.fin = true) →
    let hk := if f.kind.isCore then f.kind else .X
    let c := j.core hk
    let area := (j.trapv.extractLsb' 32 23).toNat
    let at_ := apAddr (keyPkg key) (keyTile key) area
    j.trapv.getLsbD 0 = true → c.fin = false → c.h = false →
    ∃ j' : Job, (s.takeFault key f).jobAt key = some j' ∧ j'.st = .handler ∧
      (j'.core hk).cause = BitVec.ofNat 64 (f.cause.code ||| f.kind.code <<< 6) ∧
      (j'.core hk).epc = c.pc.setWidth 64 ∧ (j'.core hk).eva = f.eva ∧ (j'.core hk).ecut = BitVec.ofNat 64 area ∧
      (j'.core hk).h = true ∧ (j'.core hk).pc.toNat = 4 * (j.trapv.extractLsb' 2 16).toNat ∧
      (j'.core hk).g = c.g ∧ (j'.core hk).allot = c.allot ∧ (j'.core hk).lc = c.lc ∧
      (∀ k : Kind, k.isCore = true → k ≠ hk → (j'.core k).g = (j.core k).g ∧ (j'.core k).pc = (j.core k).pc) ∧
      (∀ n, n < at_ ∨ at_ + 256 ≤ n → readByte (s.takeFault key f).mem n = readByte s.mem n) ∧
      (∀ n, n < 32 → read64 (s.takeFault key f).mem (at_ + 8 * n) = nth (j.faultRecord key f.cause.code f) n 0)

/-- R244 and 15 R391: a fault that goes to the tenant supervisor freezes the job and appends one record to the tenant's fault
records; the handling core's CAUSE, EPC and EVA are set only where H = 0 and it has not finished, and H and ECUT stay. -/
def Obligations.SupervisorDelivery : Prop :=
  ∀ (s : State) (key : Nat) (j : Job) (f : FaultInfo), s.jobAt key = some j → AtRest s key j →
    (j.st = .running ∧ (f.kind = .A → j.x.fin = true)) ∨ j.st = .handler →
    let hk := if f.kind.isCore then f.kind else .X
    let c := j.core hk
    let u := j.tenant.toNat
    (j.trapv.getLsbD 0 = false ∨ c.fin = true ∨ c.h = true) →
    ∃ (j' : Job) (r : PendingRec), (s.takeFault key f).jobAt key = some j' ∧ j'.st = .frozen ∧
      ((s.takeFault key f).tenAt (keyPkg key) u).pending = (s.tenAt (keyPkg key) u).pending ++ [r] ∧
      r.empty = false ∧ bits (r.dws[0]) 7 0 = f.cause.code ∧ r.dws[2] = f.eva ∧
      (j'.core hk).h = c.h ∧ (j'.core hk).ecut = c.ecut ∧ (j'.core hk).pc = c.pc ∧
      (if c.h = false ∧ c.fin = false then
        (j'.core hk).cause = BitVec.ofNat 64 (f.cause.code ||| f.kind.code <<< 6) ∧ (j'.core hk).epc = c.pc.setWidth 64 ∧
          (j'.core hk).eva = f.eva
       else (j'.core hk).cause = c.cause ∧ (j'.core hk).epc = c.epc ∧ (j'.core hk).eva = c.eva) ∧
      (s.takeFault key f).mem = s.mem

/-- R245: ERET in a handler goes to EPC with H and ECUT zero, and the job runs again, every other stream where it stood; outside
a handler it raises Illegal-Instruction (its EVA is a free value). -/
def Obligations.HandlerReturn : Prop :=
  (∀ (s : State) (j : Job), Steady s j → AtRest s s.key j → (s.core j).h = true →
    (∀ k : Kind, k.isCore = true → k ≠ s.focus.kind → (j.core k).h = false) → j.insideWord = false →
    ∃ (t : State) (j' : Job), exec .eret s = .next t ∧ t.jobAt s.key = some j' ∧ j'.st = .running ∧
      (t.core j').h = false ∧ (t.core j').ecut = 0 ∧ (t.core j').pc = (s.core j).epc.setWidth 19 ∧ (t.core j').g = (s.core j).g ∧
      (∀ k : Kind, k.isCore = true → k ≠ s.focus.kind → (j'.core k).pc = (j.core k).pc ∧ (j'.core k).g = (j.core k).g) ∧
      (∀ k : Kind, k.isCore = false → (j'.eng k).pc = (j.eng k).pc) ∧ t.mem = s.mem) ∧
  (∀ (s : State) (j : Job), Steady s j → (s.core j).h = false →
    exec .eret s = .next (s.take.2.faulted j .illegal (Config.unstatedEva s.fresh)))

/-! ### A tile's own storage (10 R255 to R262; 02 R46 to R48) -/

/-- 10 R255 and 08 R199: LDL and STL, little-endian, sign- or zero-extended, complete where no fence or QMARK of the context keeps
its own tile's accesses; behind one an STL stands in its queue while the core goes on, and an LDL waits (05 R119; log 5); LDS, STS, KLD
and KST complete always. That the new value of the bank is seen at once is the model's choice (log 19). -/
def Obligations.LocalStorage : Prop :=
  ∀ (s : State) (j : Job) (d a : Reg) (z : LoadSize) (y : StoreSize) (i : BitVec 11) (m : BitVec 9),
    Ready s j → Allowed (s.core j) [d, a] →
    let c := s.core j
    let at_ := fun (n : Nat) => c.reg a + BitVec.ofInt 64 (i.toInt * n)
    let pa := fun (n : Nat) => apAddr s.fpkg s.ftile (at_ n).toNat
    let ok := fun (n : Nat) (write : Bool) => (at_ n).toNat < 0x60_0000 ∧ (at_ n).toNat % n = 0 ∧ s.localFree write = true ∧
      s.padFlawed (at_ n).toNat n write = false
    (ok (loadBytes z) false → exec (.ldl d a z i) s =
      .next (s.wrote d (extend (loadBytes z) (loadSigned z) (readLe s.mem (pa (loadBytes z)) (loadBytes z))) 4)) ∧
    (ok (storeBytes y) true → exec (.stl d a y i) s =
      .next (({ s with mem := writeLe s.mem (pa (storeBytes y)) (storeBytes y) (c.reg d).toNat } : State).retired 4)) ∧
    (let n := loadBytes z
     (at_ n).toNat < 0x60_0000 → (at_ n).toNat % n = 0 → s.localFree false = false → exec (.ldl d a z i) s = .next s.stalled) ∧
    (let n := storeBytes y
     (at_ n).toNat < 0x60_0000 → (at_ n).toNat % n = 0 → s.localFree true = false → s.padFlawed (at_ n).toNat n true = false →
      exec (.stl d a y i) s =
        .next ((s.queueUp s.issuer j.tenant (.own .store) (at_ n) (pa n) c.pc.toNat n (c.reg d) false).2.retired 4)) ∧
    exec (.lds d m) s = .next (s.wrote d ((mget c.spill m.toNat).getD 0) 4) ∧
    (∃ c' : Core, exec (.sts d m) s = .next ((s.modCore (fun _ => c')).retired 4) ∧ (mget c'.spill m.toNat).getD 0 = c.reg d ∧
      (∀ k, k ≠ m.toNat → mget c'.spill k = mget c.spill k) ∧ { c' with spill := c.spill } = c) ∧
    exec (.kld d m) s = .next (s.wrote d (vget j.kbank m.toNat) 4) ∧
    exec (.kst d m) s = .next ((s.modCur (fun j => { j with kbank := vset j.kbank m.toNat (c.reg d) })).retired 4)

/-- R158: a form that names a register outside the allotment, g63 apart, raises Allotment and has no effect; shown of a
form of each shape: three registers, a load, a store, a jump, a loop counter, a system register and an atomic. The EVA is a
free value (the spec states none).
R202 with 09 R246, 10 R269 and 09 R249: an instruction of tenant supervisor level raises Privileged-Instruction in a job at
job level. The EVA is a free value (the spec states none).
01 R20 with R235 to R238: the target of a jump, of a taken BEQ, BNE, BLT, BGE, BLTU or BGEU, and of a LOOPB that is not at its
last pass, raises Local-Range at or above 0x4_0000 and Misaligned-Access in range with a low bit set, before any effect. That EVA is
the target (log 21), and that a target below zero is one at or above 0x4_0000 (log 46), is the model's reading.
R228: a zero divisor raises Integer-Divide with EVA 0 and no other effect; the divisor of a 32-bit form is bits 31:0.
01 R16 and 10 R255: a local access past the scratchpad raises Local-Range, and one inside it that is not a multiple of its
size raises Misaligned-Access, before any effect. That EVA is the address is the model's reading (log 21).
10 R255, 15 R384 and 02 R42: a local load of bytes that hold an uncorrectable error, and a local store into 16-byte units that hold
one, raise Data-Error, with the local address as EVA. -/
def Obligations.CoreFaults : Prop :=
  (∀ (s : State) (j : Job) (d a b : Reg) (i : BitVec 11) (z : LoadSize) (y : StoreSize) (l : BitVec 2) (n : BitVec 12) (x : WD)
      (sp : AtomSpace), Steady s j →
      let bad := fun (r : Reg) => (s.core j).allot ≤ r.toNat ∧ r ≠ 63
      let f := Host.Outcome.next (φ := Fault) (ρ := Refusal) (s.take.2.faulted j .allotment (Config.unstatedEva s.fresh))
      (bad d ∨ bad a ∨ bad b → exec (.add d a (.reg b)) s = f ∧ exec (.acas d a b x sp) s = f) ∧
      (bad d ∨ bad a → exec (.ld d a z i) s = f ∧ exec (.st d a y i) s = f ∧ exec (.ldl d a z i) s = f ∧ exec (.stl d a y i) s = f ∧
        exec (.jalr d a) s = f ∧ exec (.fsqrt d a) s = f) ∧
      (bad a → exec (.jr a) s = f ∧ exec (.lcset l a) s = f ∧ exec (.lcget l a) s = f) ∧
      (bad d → exec (.mtsr d n) s = f)) ∧
  (∀ (s : State) (j : Job) (d a b : Reg) (o : Opd), Steady s j → j.sup = false →
      let f := Host.Outcome.next (φ := Fault) (ρ := Refusal) (s.take.2.faulted j .privileged (Config.unstatedEva s.fresh))
      exec (.tlbinv a) s = f ∧ exec .tlbinvt s = f ∧ exec (.tlbprb d a) s = f ∧ exec (.rgreset d a b) s = f ∧
      (Allowed (s.core j) (opdRegs o) → (bval j (s.core j) o).toNat < 3 ∨ (bval j (s.core j) o).toNat = 6 ∨ (bval j (s.core j) o).toNat = 7 →
        exec (.perfclr o) s = f)) ∧
  (∀ (s : State) (j : Job) (d a b : Reg) (i : BitVec 26) (k : BitVec 10) (l : BitVec 2), Steady s j → Allowed (s.core j) [d, a, b] →
      let x := (s.core j).reg a
      let y := (s.core j).reg b
      let t : Word := (s.core j).pc.setWidth 64 + BitVec.ofInt 64 (4 * i.toInt)
      let u : Word := (s.core j).pc.setWidth 64 + BitVec.ofInt 64 (4 * k.toInt)
      let f := fun (c : Cause) (v : Word) => Host.Outcome.next (φ := Fault) (ρ := Refusal) (s.faulted j c v)
      (0x40000 ≤ x.toNat → exec (.jr a) s = f .localRange x ∧ exec (.jalr d a) s = f .localRange x) ∧
      (x.toNat < 0x40000 → x.toNat % 4 ≠ 0 → exec (.jr a) s = f .misaligned x ∧ exec (.jalr d a) s = f .misaligned x) ∧
      (0x40000 ≤ t.toNat → exec (.j i) s = f .localRange t ∧ exec (.jal i) s = f .localRange t) ∧
      (t.toNat < 0x40000 → t.toNat % 4 ≠ 0 → exec (.j i) s = f .misaligned t ∧ exec (.jal i) s = f .misaligned t) ∧
      (∀ e ∈ [(x = y, Instr.beq a b k), (x ≠ y, .bne a b k), (x.toInt < y.toInt, .blt a b k), (y.toInt ≤ x.toInt, .bge a b k),
          (x.toNat < y.toNat, .bltu a b k), (y.toNat ≤ x.toNat, .bgeu a b k), (1 < (vget (s.core j).lc l.toNat).toNat, .loopb l k)],
        e.1 → (0x40000 ≤ u.toNat → exec e.2 s = f .localRange u) ∧
          (u.toNat < 0x40000 → u.toNat % 4 ≠ 0 → exec e.2 s = f .misaligned u))) ∧
  (∀ (s : State) (j : Job) (d a : Reg) (b : Opd), Steady s j → Allowed (s.core j) (d :: a :: opdRegs b) →
      let y := bval j (s.core j) b
      let f := Host.Outcome.next (φ := Fault) (ρ := Refusal) (s.faulted j .divide 0)
      (y = 0 → exec (.div d a b) s = f ∧ exec (.divu d a b) s = f ∧ exec (.rem d a b) s = f ∧ exec (.remu d a b) s = f) ∧
      (y.setWidth 32 = 0#32 →
        exec (.divw d a b) s = f ∧ exec (.divuw d a b) s = f ∧ exec (.remw d a b) s = f ∧ exec (.remuw d a b) s = f)) ∧
  (∀ (s : State) (j : Job) (d a : Reg) (z : LoadSize) (y : StoreSize) (i : BitVec 11), Steady s j → Allowed (s.core j) [d, a] →
      let l := (s.core j).reg a + BitVec.ofInt 64 (i.toInt * loadBytes z)
      let t := (s.core j).reg a + BitVec.ofInt 64 (i.toInt * storeBytes y)
      (0x60_0000 ≤ l.toNat → exec (.ldl d a z i) s = .next (s.faulted j .localRange l)) ∧
      (l.toNat < 0x60_0000 → l.toNat % loadBytes z ≠ 0 → exec (.ldl d a z i) s = .next (s.faulted j .misaligned l)) ∧
      (0x60_0000 ≤ t.toNat → exec (.stl d a y i) s = .next (s.faulted j .localRange t)) ∧
      (t.toNat < 0x60_0000 → t.toNat % storeBytes y ≠ 0 → exec (.stl d a y i) s = .next (s.faulted j .misaligned t)) ∧
      (l.toNat < 0x60_0000 → l.toNat % loadBytes z = 0 → s.localFree false = true →
        s.flawed (apAddr s.fpkg s.ftile l.toNat) (loadBytes z) = true → exec (.ldl d a z i) s = .next (s.faulted j .dataError l)) ∧
      (t.toNat < 0x60_0000 → t.toNat % storeBytes y = 0 → s.localFree true = true →
        s.flawed (apAddr s.fpkg s.ftile (t.toNat / 16 * 16)) 16 = true → exec (.stl d a y i) s = .next (s.faulted j .dataError t)))

/-- 10 R257, R260 and R261: a put by the right core enters at the tail, a get takes the oldest element and a peek leaves it,
in dq0 to dq5 and, once linked, in dq6 and dq7; the first put to dq6 or dq7 links it; and DQSTAT never waits. The wrong core, a queue
that is full, or empty, with its other core finished, and dq6 or dq7 unbound raise Queue-Discipline with the queue's number; a full or
empty queue is waited for. That a put with room enters though the taker has finished is the model's reading (log 40).
10 R262 and 06 R156: TKSEND leaves the core at once, and its token enters when nothing of the core waits; TKWAIT takes a token and
waits while there is none; TKTRY and TKSTAT never wait; a wrong stream, and TKWAIT at an empty queue whose producer has finished, raise
Queue-Discipline, and a token beyond 32, those on the way counted, Token-Overflow. -/
def Obligations.QueuesAndTokens : Prop :=
  ((∀ (s : State) (j : Job) (q : BitVec 6) (d : Reg) (b : Opd), Steady s j → Allowed (s.core j) (d :: opdRegs b) →
      let n := q.toNat
      let nb := vget j.nq (n - 6)
      let putter := if n < 4 then Kind.A else .X
      let taker := if n < 4 then Kind.X else .A
      let f := Host.Outcome.next (φ := Fault) (ρ := Refusal) (s.faulted j .queueDiscipline (BitVec.ofNat 64 n))
      let w := Host.Outcome.next (φ := Fault) (ρ := Refusal) s.stalled
      (n < 6 → s.focus.kind ≠ putter → exec (.dqput q b) s = f) ∧
      (n < 6 → s.focus.kind ≠ taker → exec (.dqget d q) s = f ∧ exec (.dqpeek d q) s = f) ∧
      (n < 6 → s.focus.kind = putter → 64 ≤ (vget j.dq n).length →
        exec (.dqput q b) s = if j.finished taker then f else w) ∧
      (n < 6 → s.focus.kind = taker → vget j.dq n = [] →
        exec (.dqget d q) s = (if j.finished putter then f else w) ∧ exec (.dqpeek d q) s = if j.finished putter then f else w) ∧
      (∀ id l, n < 6 → s.focus.kind = taker → vget j.dq n = .waiting id :: l → exec (.dqget d q) s = w ∧ exec (.dqpeek d q) s = w) ∧
      (∀ l, 6 ≤ n → nb.link = some l → s.neighbourPresent s.fpkg s.ftile l.toNat = true → 64 ≤ nb.outq.length →
        exec (.dqput q b) s = w) ∧
      (6 ≤ n → nb.link = none → exec (.dqget d q) s = f ∧ exec (.dqpeek d q) s = f) ∧
      (6 ≤ n → nb.link.isSome = true → nb.inq = [] → exec (.dqget d q) s = w ∧ exec (.dqpeek d q) s = w)) ∧
    ∀ (s : State) (j : Job) (q : BitVec 6) (d : Reg) (b : Opd), Ready s j → Allowed (s.core j) (d :: opdRegs b) →
      let v := bval j (s.core j) b
      let n := q.toNat
      let nb := vget j.nq (n - 6)
      (n < 6 → s.focus.kind = (if n < 4 then Kind.A else .X) → (vget j.dq n).length < 64 →
        exec (.dqput q b) s = .next ((s.modCur (fun j => { j with dq := vset j.dq n (vget j.dq n ++ [.val v]) })).retired (opdLen b))) ∧
      (∀ x l, n < 6 → s.focus.kind = (if n < 4 then Kind.X else .A) → vget j.dq n = .val x :: l →
        exec (.dqget d q) s = .next ((s.modCur (fun j => { j with dq := vset j.dq n l })).wrote d x 4) ∧
        exec (.dqpeek d q) s = .next (s.wrote d x 4)) ∧
      (6 ≤ n → nb.link = none → v.toNat < 4 → s.neighbourPresent s.fpkg s.ftile v.toNat = true →
        exec (.dqput q b) s = .next ((s.modCur (fun j =>
          { j with nq := vset j.nq (n - 6) { nb with link := some (v.setWidth 2) } })).retired (opdLen b))) ∧
      (∀ l, 6 ≤ n → nb.link = some l → s.neighbourPresent s.fpkg s.ftile l.toNat = true → nb.outq.length < 64 →
        exec (.dqput q b) s = .next ((s.modCur (fun j =>
          { j with nq := vset j.nq (n - 6) { nb with outq := nb.outq ++ [v] } })).retired (opdLen b))) ∧
      (∀ x l, 6 ≤ n → nb.link.isSome = true → nb.inq = x :: l →
        exec (.dqget d q) s = .next ((s.modCur (fun j => { j with nq := vset j.nq (n - 6) { nb with inq := l } })).wrote d x 4) ∧
        exec (.dqpeek d q) s = .next (s.wrote d x 4)) ∧
      exec (.dqstat d q) s = .next (s.wrote d (dqStatus j n) 4)) ∧
  ((∀ (s : State) (j : Job) (q : BitVec 6) (d : Reg), Ready s j → Allowed (s.core j) [d] →
      let n := q.toNat
      let t := vget j.tq n
      let count := fun (v : Nat) (s : State) => s.modCur (fun j => { j with tq := vset j.tq n { vget j.tq n with count := v } })
      (t.producer = some s.focus.kind → t.count + s.tokensComing n < 32 →
        let o := (s.queueUp s.issuer j.tenant (.token n) 0 0 (s.core j).pc.toNat 0 0 false).2
        exec (.tksend q) s = .next (o.retired 4) ∧ o.mem = s.mem ∧ (Quiet s → o.jobs = (count (t.count + 1) s).jobs)) ∧
      (t.consumer = some s.focus.kind → 0 < t.count →
        exec (.tkwait q) s = .next ((count (t.count - 1) s).retired 4) ∧
        exec (.tktry d q) s = .next ((count (t.count - 1) s).wrote d 1 4)) ∧
      (∀ p, t.bind = some (p, s.focus.kind) → t.count = 0 →
        exec (.tktry d q) s = .next (s.wrote d (if j.finished p then 2 else 0) 4) ∧
        (j.finished p = false → exec (.tkwait q) s = .next s.stalled)) ∧
      exec (.tkstat d q) s = .next (s.wrote d (match t.bind with
        | none => 1024
        | some (p, c) => BitVec.ofNat 64 ((if j.finished c then 512 else 0) + (if j.finished p then 256 else 0) + t.count)) 4)) ∧
    (∀ (s : State) (j : Job) (q : BitVec 6) (d : Reg), Steady s j → Allowed (s.core j) [d] →
      let t := vget j.tq q.toNat
      let f := Host.Outcome.next (φ := Fault) (ρ := Refusal) (s.take.2.faulted j .queueDiscipline (Config.unstatedEva s.fresh))
      (t.producer ≠ some s.focus.kind → exec (.tksend q) s = f) ∧
      (t.consumer ≠ some s.focus.kind → exec (.tkwait q) s = f ∧ exec (.tktry d q) s = f) ∧
      (∀ p, t.bind = some (p, s.focus.kind) → t.count = 0 → j.finished p = true → exec (.tkwait q) s = f) ∧
      (t.producer = some s.focus.kind → 32 ≤ t.count + s.tokensComing q.toNat →
        exec (.tksend q) s = .next (s.faulted j .tokenOverflow (BitVec.ofNat 64 q.toNat)))))

/-- 02 R46 to R48 and 10 R270, R271: TGLOOK, TGSET, TGINV, TGCLR and TGRD complete for every geometry and slot in range where no
fence or QMARK of the context keeps its own tile's accesses (05 R119, R125, R128 to R130; log 5); behind one, TGSET, TGINV and TGCLR
stand in the local queue while the core goes on, and TGLOOK and TGRD wait. A look-up answers a valid match, a match that is pending, or
a way to fill, and changes no memory outside the set looked up; TGSET writes the entry with age 0, an entry of kind 0b00 as zero, and
ages its set as a hit does; TGINV writes a zero, TGCLR zeros the geometry's slots, and TGRD reads the first of them. That an entry of
kind 0b00 ages its set too is the model's reading (log 23). -/
def Obligations.TagTable : Prop :=
  ∀ (s : State) (j : Job) (d a : Reg) (b : Opd) (m : Geom), Ready s j → Allowed (s.core j) (d :: a :: opdRegs b) →
    let c := s.core j
    let v := bval j c b
    let slot := (c.reg d).toNat
    let queued := fun (op : LocalOp) (k : Nat) (v : Word) (len : Nat) => Host.Outcome.next (φ := Fault) (ρ := Refusal)
      ((s.queueUp s.issuer j.tenant (.own op) (BitVec.ofNat 64 k) (tagAddr s.fpkg s.ftile k) c.pc.toNat 0 v false).2.retired len)
    geomOf (c.reg a) = some m →
    (bits v 63 62 = 1 ∨ (bits v 63 62 = 2 ∧ m.lgsets ≤ 8) →
      let set := (if bits v 63 62 = 1 then bits v 53 0 else bits v 61 54) % 2 ^ m.lgsets
      let lo := tagAddr s.fpkg s.ftile (m.base + set * m.ways)
      (s.localFree true = true → ∃ (t : State) (r : Word), exec (.tglook d a b) s = .next (t.wrote d r (opdLen b)) ∧
        ((∃ w, w < m.ways ∧ tagMatch (s.tag (m.base + set * m.ways + w)) (bits v 63 62) (bits v 53 0) = true) →
          bits r 63 62 = 0 ∨ bits r 63 62 = 1) ∧
        ((∀ w, w < m.ways → tagMatch (s.tag (m.base + set * m.ways + w)) (bits v 63 62) (bits v 53 0) = false) →
          (bits r 63 62 = 2 ∨ bits r 63 62 = 3) ∧ t = s) ∧
        (∀ n, n < lo ∨ lo + 8 * m.ways ≤ n → readByte t.mem n = readByte s.mem n)) ∧
      (s.localFree true = false → exec (.tglook d a b) s = .next s.stalled)) ∧
    (m.base ≤ slot → slot < m.base + m.slots →
      (s.localFree true = true →
        exec (.tginv d a) s = .next ((s.setTag slot 0).retired 4) ∧
        (bits v 63 62 ≠ 3 → ∃ t : State, exec (.tgset d a b) s = .next (t.retired (opdLen b)) ∧ t.jobs = s.jobs ∧
          (MemoryCanonical s → t.tag slot = (if bits v 63 62 = 0 then (0 : Word) else v &&& ~~~((7 : Word) <<< 54)) ∧
            ∀ k ∈ m.setSlots ((slot - m.base) / m.ways), k ≠ slot → t.tag k =
              if tagValid (s.tag k) = true ∧ tagAge (s.tag k) < tagAge (s.tag slot) then setAge (s.tag k) (tagAge (s.tag k) + 1)
              else s.tag k))) ∧
      (s.localFree true = false →
        exec (.tginv d a) s = queued .tginv slot 0 4 ∧
        (bits v 63 62 ≠ 3 →
          exec (.tgset d a b) s = queued (.tgset (m.base + (slot - m.base) / m.ways * m.ways) m.ways) slot v (opdLen b)))) ∧
    (s.localFree true = true →
      ∃ t : State, exec (.tgclr a) s = .next (t.retired 4) ∧ t.jobs = s.jobs ∧
        (∀ k, m.base ≤ k → k < m.base + m.slots → t.tag k = 0) ∧
        ∀ n, n < tagAddr s.fpkg s.ftile m.base ∨ tagAddr s.fpkg s.ftile m.base + 8 * m.slots ≤ n →
          readByte t.mem n = readByte s.mem n) ∧
    (s.localFree true = false → exec (.tgclr a) s = queued (.tgclr m.slots) m.base 0 4) ∧
    exec (.tgrd d a) s = if s.localFree false = true then .next (s.wrote d (s.tag m.base) 4) else .next s.stalled

/-! ### Tenant virtual memory (10 R254 to R267; 05 R128 to R130; 09 R246 to R251) -/

/-- 01 R14, R15 and 03 R79: a data access to an address whose bits 63:56 are not zero raises Address-Form, one whose address is
not a multiple of its size Misaligned-Access, and one whose translation fails the cause the walk gives, with the address as EVA
and before any other effect than the translation's own. That the EVA of Misaligned-Access, of an absent tile's Protection and of
Request-Timeout is the address is the model's reading (log 21).
10 R254, 01 R24, 15 R384: a load that reaches its place raises Protection where the tile is absent and Data-Error where the bytes
hold an uncorrectable error; 02 R66: a load that has been issued three times again without an answer raises Request-Timeout. -/
def Obligations.DataAccessFaults : Prop :=
  ∀ (s : State) (j : Job) (d a : Reg) (z : LoadSize) (y : StoreSize) (i : BitVec 11), Steady s j → Allowed (s.core j) [d, a] →
    let l := (s.core j).reg a + BitVec.ofInt 64 (i.toInt * loadBytes z)
    let t := (s.core j).reg a + BitVec.ofInt 64 (i.toInt * storeBytes y)
    let form := fun (v : Word) (n : Nat) (e : Host.Outcome State Fault Refusal) (need : Perm) => s.askOf = none →
      (bits v 63 56 ≠ 0 → e = .next (s.faulted j .addressForm v)) ∧
      (bits v 63 56 = 0 → v.toNat % n ≠ 0 → e = .next (s.faulted j .misaligned v)) ∧
      (∀ s1 c, bits v 63 56 = 0 → v.toNat % n = 0 →
        s.coreTranslate j.tenant.toNat v.toNat need = (s1, .fault c) → e = .next (s1.faulted j c v))
    form l (loadBytes z) (exec (.ld d a z i) s) permR ∧ form t (storeBytes y) (exec (.st d a y i) s) permW ∧
    (∀ s1 pa, Translated s j l permR s1 pa → l.toNat % loadBytes z = 0 → s1.clear (.ldq 0 false) pa = true →
      let p := s1.parcel (.ldq 0 false) pa
      Arrives s1 p →
      (s1.absent pa = true → exec (.ld d a z i) s = .next ((s1.asked p).faulted j .protection l)) ∧
      (s1.absent pa = false → s1.flawed pa (loadBytes z) = true →
        exec (.ld d a z i) s = .next ((s1.asked p).faulted j .dataError l))) ∧
    (∀ q : Asked, s.askOf = some q → q.held = false → q.reissues = 3 → (s.region q.pa).isMmio = false →
      s.overdue s.fpkg (s.placeOf q.pa) q.sentAt = true → exec (.ld d a z i) s = .next (s.faulted j .requestTimeout l))

/-- 03 R75 to R79 and 01 R30: a translation never writes memory; a hit gives the entry's frame plus the offset in its page where the
leaf and a window of the tenant grant the access, and Protection where the leaf does not; a miss with TROOT.V = 0 is
Page-Absent. -/
def Obligations.Translation : Prop :=
  ∀ (s : State) (p t : Nat) (u va : Nat) (need : Perm),
    (s.translate p t .core u va need).1.mem = s.mem ∧
    (∀ e l, s.tlbOf p t .core = e :: l → e.hits u va = true → e.placement ≠ 0b1100 →
      (need &&& e.xwr = need → s.windowOk p u e.pa (e.pa + pageBytes e.size.toNat - 1) need = true →
        (s.translate p t .core u va need).2 = .ok e (e.pa + (va - e.va))) ∧
      (need &&& e.xwr ≠ need → (s.translate p t .core u va need).2 = .fault .protection)) ∧
    (s.tlbOf p t .core = [] → (s.tenAt p u).troot.getLsbD 0 = false →
      (s.translate p t .core u va need).2 = .fault .pageAbsent)

/-- 10 R254, R263 and R265: LD, LDACQ and LDBY complete where the address translates and the place answers: g[d] gets the
little-endian bytes at the physical address, sign- or zero-extended, and no byte of memory changes. -/
def Obligations.GlobalLoads : Prop :=
  ∀ (s : State) (j : Job) (d a : Reg) (z : LoadSize) (wd : WD) (sc : Scope) (i : BitVec 11) (t : State) (pa : Nat),
    Ready s j → Allowed (s.core j) [d, a] →
    let va := (s.core j).reg a
    let op : ReqOp := .ldq 0 false
    let u := fun (n : Nat) (h : Hint) => (t.asked (t.parcel op pa)).touchHome pa n h
    let r := fun (n : Nat) (signed : Bool) (h : Hint) =>
      Host.Outcome.next (φ := Fault) (ρ := Refusal) ((u n h).wrote d (extend n signed (readLe s.mem pa n)) 4)
    (let x := va + BitVec.ofInt 64 (i.toInt * loadBytes z)
     Translated s j x permR t pa → Answers t op pa (loadBytes z) → x.toNat % loadBytes z = 0 →
      exec (.ld d a z i) s = r (loadBytes z) (loadSigned z) .load) ∧
    (Translated s j va permR t pa → Answers t op pa (wdBytes wd) → va.toNat % wdBytes wd = 0 →
      exec (.ldacq d a wd sc) s = r (wdBytes wd) true .load ∧ exec (.ldby d a wd) s = r (wdBytes wd) true .bypass) ∧
    (∀ n h, (u n h).mem = t.mem)

/-- 10 R254, R263 and R265: ST, STNA and STREL complete where the address translates: one posted write of the bytes enters the
queue of the core (05 R119), which goes on; memory changes only when the write performs. -/
def Obligations.GlobalStores : Prop :=
  ∀ (s : State) (j : Job) (d a : Reg) (y : StoreSize) (wd : WD) (sc : Scope) (i : BitVec 11) (t : State) (pa : Nat),
    Ready s j → Allowed (s.core j) [d, a] →
    let va := (s.core j).reg a
    let v := (s.core j).reg d
    let o := fun (x : Word) (op : ReqOp) (n : Nat) (noalloc : Bool) =>
      (t.queueUp t.issuer j.tenant op x pa (s.core j).pc.toNat n (BitVec.ofNat 64 (v.toNat % 2 ^ (8 * n))) noalloc).2
    let r := fun (x : Word) (op : ReqOp) (n : Nat) (noalloc : Bool) =>
      Host.Outcome.next (φ := Fault) (ρ := Refusal) ((o x op n noalloc).retired 4)
    (let x := va + BitVec.ofInt 64 (i.toInt * storeBytes y)
     Translated s j x permW t pa → x.toNat % storeBytes y = 0 →
      exec (.st d a y i) s = r x .store (storeBytes y) false) ∧
    (Translated s j va permW t pa → va.toNat % wdBytes wd = 0 →
      exec (.stna a d wd) s = r va .store (wdBytes wd) true ∧
      exec (.strel a d wd sc) s = r va (.strel sc) (wdBytes wd) false) ∧
    (∀ x op n b, op = .store ∨ op = .strel sc → (o x op n b).mem = t.mem ∧ (o x op n b).jobs = t.jobs)

/-- 05 R120 to R122, 02 R63 and R67: an access that has been sent and may perform, and whose answer comes back, does so once: a store
writes exactly its bytes, an atomic makes the one read-modify-write, a HOSTSIG queues its signal record, and a load of an LDQ fills
its entry; then it is over, and its place keeps the result of what is no load. An access of a local queue performs, at its tile, as
soon as nothing older keeps it there. -/
def Obligations.RequestsPerform : Prop :=
  ∀ (s : State) (r : Req), s.mayPerform r = true → s.wayOf r = .through → s.absent r.pa = false → s.flawed r.pa r.size = false →
    (∀ q ∈ (s.performReq r).reqs, q.id ≠ r.id) ∧
    ((r.op = .store ∨ r.op = .hostsig ∨ ∃ sc, r.op = .strel sc) →
      (∀ q ∈ s.reqs, q.op.isOwn = false) → (s.performReq r).mem = writeLe s.mem r.pa r.size r.data.toNat ∧
      ∀ n, n < r.pa ∨ r.pa + r.size ≤ n → readByte (s.performReq r).mem n = readByte s.mem n) ∧
    (∀ op sc, r.op = .atomic op sc → (∀ q ∈ s.reqs, q.op.isOwn = false) →
      (s.performReq r).mem = atomMem s.mem r.pa r.size op (r.data.toNat % 2 ^ (8 * r.size)) 0) ∧
    (∀ op older, r.op = .own op → older.any (fun a => s.bars a r) = false → s.bankFree (keyPkg r.by_.key) (keyTile r.by_.key) = true →
      op.flawed s (keyPkg r.by_.key) (keyTile r.by_.key) r.va.toNat r.size = false →
      s.letGo older r = { s with mem := op.act s.mem (keyPkg r.by_.key) (keyTile r.by_.key) r.va.toNat r.size r.data
                                 reqs := s.reqs.filter (fun q => q.id != r.id) }) ∧
    (r.op = .hostsig → ((s.performReq r).tenAt (keyPkg r.by_.key) r.tenant.toNat).signals =
      (s.tenAt (keyPkg r.by_.key) r.tenant.toNat).signals ++ [(r.va, r.data, s.wall)]) ∧
    (r.op.isLoad = false → (s.performReq r).kept = keepResult s.kept ⟨r.by_.queue false, s.targetNum r.pa, r.seq, 0, []⟩) ∧
    (∀ q signed j, r.op = .ldq q signed → q < 4 → s.jobAt r.by_.key = some j → j.jid = r.by_.jid →
      ((∀ x ∈ s.reqs, x.op.isOwn = false) → (s.performReq r).mem = s.mem) ∧
      ∃ j', (s.performReq r).jobAt r.by_.key = some j' ∧
        vget j'.dq q = (vget j.dq q).map (fun e => if e = .waiting r.id then .val (extend r.size signed (readLe s.mem r.pa r.size)) else e))

/-- 10 R266 and R267: the twelve atomics on the scratchpad complete where no fence or QMARK keeps them, a tile-scope one with nothing
older of its tile in flight: the old value to g[d], and the operation's result in memory; ACAS writes only where the old value
equals g[d]. Behind one, an atomic with a destination waits, and one whose d is g0 stands in the local queue while the core goes on
(05 R119; log 5). -/
def Obligations.LocalAtomics : Prop :=
  ∀ (s : State) (j : Job) (d a b : Reg) (z : WD) (sp : AtomSpace), Ready s j → Allowed (s.core j) [d, a, b] →
    sp = .localRelaxed ∨ sp = .localTile →
    let free : Prop := s.localFree true = true ∧ (sp = .localTile → s.released .tile = true)
    let c := s.core j
    let at_ := apAddr s.fpkg s.ftile (c.reg a).toNat
    let n := wdBytes z
    let old := readLe s.mem at_ n
    let x := (c.reg b).toNat % 2 ^ (8 * n)
    let sound := fun (k : Nat) => s.padFlawed (c.reg a).toNat k true = false
    let put := fun (k v : Nat) (g : Word) =>
      Host.Outcome.next (φ := Fault) (ρ := Refusal) (({ s with mem := writeLe s.mem at_ k v } : State).wrote d g 4)
    let r := fun (v : Nat) => put n v (BitVec.ofInt 64 (toInt (8 * n) old))
    (free → (c.reg a).toNat < 0x60_0000 → (c.reg a).toNat % n = 0 → sound n →
      exec (.aadd d a b z sp) s = r ((old + x) % 2 ^ (8 * n)) ∧ exec (.aand d a b z sp) s = r (old &&& x) ∧
      exec (.aor d a b z sp) s = r (old ||| x) ∧ exec (.axor d a b z sp) s = r (old ^^^ x) ∧
      exec (.amin d a b z sp) s = r (if toInt (8 * n) x < toInt (8 * n) old then x else old) ∧
      exec (.amax d a b z sp) s = r (if toInt (8 * n) old < toInt (8 * n) x then x else old) ∧
      exec (.aminu d a b z sp) s = r (min old x) ∧ exec (.amaxu d a b z sp) s = r (max old x) ∧
      exec (.aswap d a b z sp) s = r x ∧
      exec (.acas d a b z sp) s = (if old = (c.reg d).toNat % 2 ^ (8 * n) then r x
        else .next (s.wrote d (BitVec.ofInt 64 (toInt (8 * n) old)) 4))) ∧
    (free → (c.reg a).toNat < 0x60_0000 → (c.reg a).toNat % 4 = 0 → sound 4 →
      let o := BitVec.ofNat 32 (readLe s.mem at_ 4)
      let y := (c.reg b).setWidth 32
      exec (.afadd d a b sp) s = put 4 (f32Add o y).toNat (o.setWidth 64) ∧
      exec (.afmax d a b sp) s = put 4 (f32Max o y).toNat (o.setWidth 64)) ∧
    (¬ free → ∀ x ∈ [((0 : BitVec 4), n, Instr.aadd d a b z sp), (1, n, .aand d a b z sp), (2, n, .aor d a b z sp), (3, n, .axor d a b z sp),
        (4, n, .amin d a b z sp), (5, n, .amax d a b z sp), (6, n, .aminu d a b z sp), (7, n, .amaxu d a b z sp), (8, n, .aswap d a b z sp),
        (9, n, .acas d a b z sp), (10, 4, .afadd d a b sp), (11, 4, .afmax d a b sp)],
      (c.reg a).toNat < 0x60_0000 → (c.reg a).toNat % x.2.1 = 0 →
      (d ≠ 0 → exec x.2.2 s = .next s.stalled) ∧
      (d = 0 → exec x.2.2 s = .next ((s.queueUp s.issuer j.tenant (.own (.atomic x.1 (if sp = .localTile then some .tile else none)))
        (c.reg a) at_ c.pc.toNat x.2.1 (BitVec.ofNat 64 ((c.reg b).toNat % 2 ^ (8 * x.2.1))) false).2.retired 4)))

/-- 10 R266 and R267: the global atomics complete where the address translates: one with a destination performs as it is issued,
where its place answers, and returns the old value; one whose d is g0 enters the queue as a posted access, and what it does is
RequestsPerform's. -/
def Obligations.GlobalAtomics : Prop :=
  ∀ (s : State) (j : Job) (d a b : Reg) (z : WD) (sp : AtomSpace) (t : State) (pa : Nat),
    Ready s j → Allowed (s.core j) [d, a, b] → sp ≠ .localRelaxed → sp ≠ .localTile →
    let c := s.core j
    let va := c.reg a
    let rel : Option Scope := match sp with
      | .globalScoped sc => some sc
      | _ => none
    let form := fun (op : BitVec 4) (n : Nat) (e : Host.Outcome State Fault Refusal) =>
      va.toNat % n = 0 →
      (let p := t.parcel (.atomic op rel) pa
       let v := atomResult op n (readLe s.mem pa n)
       d ≠ 0 → Answers t (.atomic op rel) pa n → e = .next
        ((((t.asked p).atomicNow pa n op ((c.reg b).toNat % 2 ^ (8 * n)) ((c.reg d).toNat % 2 ^ (8 * n))).1.keep p (t.askSeq p) v []).wrote d
          v 4)) ∧
      (d = 0 → e = .next ((t.queueUp t.issuer j.tenant (.atomic op rel) va pa c.pc.toNat n
        (BitVec.ofNat 64 ((c.reg b).toNat % 2 ^ (8 * n))) false).2.retired 4))
    Translated s j va permRW t pa →
    (∀ x ∈ [((0 : BitVec 4), Instr.aadd d a b z sp), (1, .aand d a b z sp), (2, .aor d a b z sp), (3, .axor d a b z sp),
        (4, .amin d a b z sp), (5, .amax d a b z sp), (6, .aminu d a b z sp), (7, .amaxu d a b z sp), (8, .aswap d a b z sp),
        (9, .acas d a b z sp)], form x.1 (wdBytes z) (exec x.2 s)) ∧
    form 10 4 (exec (.afadd d a b sp) s) ∧ form 11 4 (exec (.afmax d a b sp) s) ∧
    (∀ op n x cmp p, ((t.asked p).atomicNow pa n op x cmp).1.mem = atomMem s.mem pa n op x cmp)

/-- 10 R258 and R259: LDQ reserves an entry at the tail of its queue, its load enters the queue of the core, and it completes; STQ
takes the oldest element of dq4 or dq5, the element being taken only when the address has passed, and completes. -/
def Obligations.QueueAccesses : Prop :=
  ∀ (s : State) (j : Job) (q : BitVec 6) (a : Reg) (z : LoadSize) (y : StoreSize) (i : BitVec 11) (t : State) (pa : Nat),
    Ready s j → Allowed (s.core j) [a] → s.focus.kind = .A →
    let p := (s.core j).pc.toNat
    (let n := loadBytes z
     let va := (s.core j).reg a + BitVec.ofInt 64 (i.toInt * n)
     let r := fun (f : Job → Job) =>
       (((t.modCur f).queueUp t.issuer j.tenant (.ldq q.toNat (loadSigned z)) va pa p n 0 false).2.retired 4)
     Translated s j va permR t pa → va.toNat % n = 0 →
     (q.toNat < 4 → (vget j.dq q.toNat).length < 64 →
       exec (.ldq q a z i) s = .next (r (fun j => { j with dq := vset j.dq q.toNat (vget j.dq q.toNat ++ [.waiting t.fresh]) }))) ∧
     (q = 8 → sqCount j.sq + n ≤ 256 →
       exec (.ldq q a z i) s = .next (r (fun j => { j with sq := j.sq ++ [.waiting t.fresh n] })))) ∧
    (let n := storeBytes y
     let va := (s.core j).reg a + BitVec.ofInt 64 (i.toInt * n)
     Translated s j va permW t pa → va.toNat % n = 0 → ∀ v l, q = 4 ∨ q = 5 → vget j.dq q.toNat = .val v :: l →
       exec (.stq q a y i) s = .next (((t.modCur (fun j => { j with dq := vset j.dq q.toNat l })).queueUp t.issuer j.tenant .store va pa p n
         (BitVec.ofNat 64 (v.toNat % 2 ^ (8 * n))) false).2.retired 4))

/-- 05 R125, R128 to R130; 10 R264, R265: FENCE and QMARK stop no issue: they complete always and stand in the queue of the core, which
is empty after them if it was before; PREF completes always and changes no register and no memory, its request standing in the load
queue; YIELD completes always and ends the issue turn. While a QMARK stands, a load of the core waits, and so does a load of its own
tile; a local store stands behind a QMARK and a FENCE.rel, and has no effect yet. That the core goes on at once, and that what a fence
keeps stands in a queue, is the model's choice (log 5). -/
def Obligations.OrderingInstructions : Prop :=
  ∀ (s : State) (j : Job) (a : Reg) (k : FenceKind) (sc : Scope), Ready s j → Allowed (s.core j) [a] →
    let put := fun (op : ReqOp) => (s.queueUp s.issuer j.tenant op 0 0 (s.core j).pc.toNat 0 0 false).2
    (exec (.fence k sc) s = .next ((put (.fence k sc)).retired 4) ∧ exec .qmark s = .next ((put .qmark).retired 4) ∧
      (∀ op, op = .qmark ∨ op = .fence k sc → (put op).jobs = s.jobs ∧ (put op).mem = s.mem ∧ (Quiet s → Quiet (put op)))) ∧
    (∃ t : State, exec (.pref a) s = .next (t.retired 4) ∧ t.mem = s.mem ∧ t.jobs = s.jobs ∧
      (t.reqs.map Req.op = s.reqs.map Req.op ∨ t.reqs.map Req.op = s.reqs.map Req.op ++ [.pref])) ∧
    exec .yield s = .next ((s.modTile s.tkey (fun t =>
      { t with issue := mput t.issue s.focus.kind.code { t.issueOf s.focus.kind with gave := true } })).retired 4) ∧
    (∀ (q : Req) (d : Reg) (z : LoadSize) (y : StoreSize) (i : BitVec 11), q ∈ s.reqs → q.by_ = s.issuer → q.pending = true →
      Allowed (s.core j) [d] →
      let l := (s.core j).reg a + BitVec.ofInt 64 (i.toInt * loadBytes z)
      let t := (s.core j).reg a + BitVec.ofInt 64 (i.toInt * storeBytes y)
      let here := fun (v : Word) (n : Nat) => v.toNat < 0x60_0000 ∧ v.toNat % n = 0
      (q.op = .qmark →
        (∀ s1 pa, Translated s j l permR s1 pa → l.toNat % loadBytes z = 0 → exec (.ld d a z i) s = .next s1.stalled) ∧
        (here l (loadBytes z) → exec (.ldl d a z i) s = .next s.stalled)) ∧
      (q.op = .qmark ∨ q.op = .fence .rel sc → here t (storeBytes y) → s.padFlawed t.toNat (storeBytes y) true = false →
        let o := (s.queueUp s.issuer j.tenant (.own .store) t (apAddr s.fpkg s.ftile t.toNat) (s.core j).pc.toNat (storeBytes y)
          ((s.core j).reg d) false).2
        exec (.stl d a y i) s = .next (o.retired 4) ∧ o.mem = s.mem))

/-- 09 R246 to R251, 03 R78 and 20 R427: TLBINV, TLBINVT, TLBPRB, PERFRD, PERFCLR, HOSTINT and HOSTSIG complete. An invalidation,
once the tenant's requests already translated have gone and older accesses of the core have performed, leaves no entry of the
tenant for the address (or none at all) in any TLB of the package, and waits before; TLBPRB reports a hit or what the walk gives;
PERFRD reads and PERFCLR clears the counters, those of the tile as the cycle found them; HOSTINT raises its vector; HOSTSIG sends its
store. That TLBINV and TLBINVT wait at the core for every older access, where R78 asks for stores and translated requests, and HOSTINT
for what R145 and R250 only order before the interrupt, is the model's choice (log 5). -/
def Obligations.SystemInstructions : Prop :=
  ∀ (s : State) (j : Job) (d a : Reg) (b : Opd), Ready s j → Allowed (s.core j) (d :: a :: opdRegs b) →
    let va := (s.core j).reg a
    let v := bval j (s.core j) b
    let u := j.tenant.toNat
    let n := opdLen b
    (j.sup = true →
      (s.translatedGone s.fpkg u = true → s.released .dom = true →
        (bits va 63 56 = 0 → ∃ t : State, exec (.tlbinv a) s = .next (t.retired 4) ∧ t.mem = s.mem ∧
          (∀ k ∈ t.tiles, k.1 / 256 = s.fpkg → ∀ e ∈ k.2.tlb ++ k.2.tlbC ++ k.2.tlbT ++ k.2.tlbV ++ k.2.tlbW, e.hits u va.toNat = false) ∧
          (∀ e ∈ (t.pkgAt s.fpkg).hostTlb, e.hits u va.toNat = false)) ∧
        (∃ t : State, exec .tlbinvt s = .next (t.retired 4) ∧ t.mem = s.mem ∧
          (∀ k ∈ t.tiles, k.1 / 256 = s.fpkg → ∀ e ∈ k.2.tlb ++ k.2.tlbC ++ k.2.tlbT ++ k.2.tlbV ++ k.2.tlbW, e.tenant ≠ j.tenant) ∧
          (∀ e ∈ (t.pkgAt s.fpkg).hostTlb, e.tenant ≠ j.tenant))) ∧
      (s.translatedGone s.fpkg u = false ∨ s.released .dom = false → exec .tlbinvt s = .next s.stalled ∧
        (bits va 63 56 = 0 → exec (.tlbinv a) s = .next s.stalled))) ∧
    (j.sup = true →
      (bits va 63 56 ≠ 0 → exec (.tlbprb d a) s = .next (s.wrote d (BitVec.ofNat 64 (3 * 2 ^ 60)) 4)) ∧
      (∀ e l, bits va 63 56 = 0 → (s.tileAt s.tkey).tlb = e :: l → e.hits u va.toNat = true →
        s.windowOk s.fpkg u e.pa (e.pa + pageBytes e.size.toNat - 1) 0 = true →
        exec (.tlbprb d a) s = .next (s.wrote d (BitVec.ofNat 64 (e.phys va.toNat / 2 ^ 16 * 2 ^ 16
          + e.placement.toNat * 2 ^ 12 + e.xwr.toNat * 2 ^ 4 + e.size.toNat * 2 ^ 2)) 4)) ∧
      (∀ t, bits va 63 56 = 0 → (s.tileAt s.tkey).tlb = [] →
        (s.countMiss u va.toNat).walk s.fpkg (dieOf s.ftile) u va.toNat 0 = (t, .fault .pageAbsent) →
        exec (.tlbprb d a) s = .next (t.wrote d (BitVec.ofNat 64 (2 ^ 60)) 4))) ∧
    (let c := s.core j
     let t := s.tileAt s.tkey
     let rd := fun (x : Word) => exec (.perfrd d b) s = .next (s.wrote d x n)
     (v = 3 → rd c.instret) ∧ (v = 4 → rd c.issuecyc) ∧ (v = 5 → rd c.stallcyc) ∧
     (∀ k i : Nat, (k, i) ∈ [(0, 0), (1, 1), (2, 2), (6, 3), (7, 4)] → v.toNat = k →
       ((∀ x, t.before = some x → x.1 ≠ s.wall) → rd (nth [t.reqloc, t.reqdie, t.reqpkg, t.tlbmiss, t.reissue] i 0)) ∧
       (∀ x, t.before = some (s.wall, x) → rd (vget x i))) ∧
     (v = 3 → exec (.perfclr b) s = .next ((s.modCore (fun c => { c with instret := 0 })).retired n)) ∧
     (v = 4 → exec (.perfclr b) s = .next ((s.modCore (fun c => { c with issuecyc := 0 })).retired n)) ∧
     (v = 5 → exec (.perfclr b) s = .next ((s.modCore (fun c => { c with stallcyc := 0 })).retired n)) ∧
     (v = 6 → j.sup = true →
       ((∀ x, t.before = some x → x.1 ≠ s.wall) →
         exec (.perfclr b) s = .next ((s.modTile s.tkey (fun t => { t with tlbmiss := 0 })).retired n)) ∧
       (∀ x, t.before = some (s.wall, x) → ∃ t' : Tile, exec (.perfclr b) s = .next ((s.modTile s.tkey (fun _ => t')).retired n) ∧
         t'.tlbmiss = t.tlbmiss - vget x 3 ∧ t'.reissue = t.reissue))) ∧
    (v.toNat ≤ 15 →
      (s.released .dom = true → exec (.hostint b) s = .next ((s.raiseVector s.fpkg u v.toNat).retired n)) ∧
      (s.released .dom = false → exec (.hostint b) s = .next s.stalled) ∧
      ((s.raiseVector s.fpkg u v.toNat).tenAt s.fpkg u).vpend.getLsbD v.toNat = true) ∧
    (∀ t pa, Translated s j va permW t pa → va.toNat % 8 = 0 →
      exec (.hostsig a b) s = .next ((t.queueUp t.issuer j.tenant .hostsig va pa (s.core j).pc.toNat 8 v false).2.retired n))

/-! ### Rings (02 R53 to R61; 10 R268, R269) -/

/-- 10 R253, R268 and R269: RGCLAIM, RGFILL, RGTAKE, RGTAKE.obs, RGFREE, RGINIT, RGJOIN, RGLEAVE, RGRESET and RGSTAT complete where
the unit answers at once, on a ring of the core's own tile (`far` none) or of another (`far` its package and tile, reached by a
ring message that R36 counts): g[d] gets the result dword, and the ring is left as the unit leaves it. -/
def Obligations.RingOperations : Prop :=
  ∀ (s : State) (j : Job) (d a b : Reg) (sc : Scope) (far : Option (Nat × Nat)) (n : Nat) (o : RingOut) (r : Word), Ready s j →
    Allowed (s.core j) [d, a, b] → s.askOf = none → Sound s → n < 64 →
    let ref := ((s.core j).reg a).toNat
    let v := (s.core j).reg b
    let i := s.issuer
    let k := (far.map (fun f => tileKey f.1 f.2)).getD s.tkey
    let p : Parcel := ⟨true, false, tilePlace k, (tilePlace k).ringTarget⟩
    let u := if far.isSome then s.asked p else s
    let fin := fun (x : State) (v : Word) (l : List Byte) => if far.isSome then x.keep p (s.askSeq p) v l else x
    (far = none → ref = n) →
    (∀ q t, far = some (q, t) → ref = 2 ^ 16 * q + 2 ^ 8 * t + 2 ^ 7 + n ∧ t < 256 ∧ (q, t) ≠ (s.fpkg, s.ftile) ∧
      q < (s.pkgAt s.fpkg).d ∧ q < 256 ∧ s.tilePresent q t = true ∧
      s.windowOk s.fpkg j.tenant.toNat (apAddr q t 0) (apAddr q t 0xFFFF) permRW = true ∧ Arrives s p) →
    s.outgoing k = false →
    let g := s.ringAt k n
    let t := Host.Outcome.next (φ := Fault) (ρ := Refusal) ((fin (u.setRing k n o.ring) r []).wrote d r 4)
    let answers := fun (x : RingOut) => x = o ∧ o.done = [(i, r)] ∧ o.froze = false
    (answers (g.claim i v.toNat) → exec (.rgclaim d a b sc) s = t) ∧
    (answers (g.fill i) → s.released sc = true → exec (.rgfill d a sc) s = t) ∧
    (answers (g.take i v.toNat) → exec (.rgtake d a b sc) s = t) ∧
    (answers (g.observe i (v.setWidth 32)) → exec (.rgtakeObs d a b sc) s = t) ∧
    (answers (g.free i) → s.released sc = true → exec (.rgfree d a sc) s = t) ∧
    (answers (g.init i v) → bits v 22 0 + max (2 ^ bits v 55 52 * 16 * bits v 51 40) 1 ≤ 0x60_0000 → exec (.rginit d a b) s = t) ∧
    (answers (g.join i (v.getLsbD 0) (v.getLsbD 1)) → v.toNat < 4 → exec (.rgjoin d a b) s = t) ∧
    (answers (g.leave i (v.getLsbD 0) (v.getLsbD 1)) → v.toNat < 4 → exec (.rgleave d a b) s = t) ∧
    (let dw := fun (k : Nat) => BitVec.ofNat 64 (readLe s.mem (apAddr s.fpkg s.ftile (v.toNat + 8 * k)) 8)
     answers (g.resetOp i (dw 1) (dw 2) (dw 3)) → j.sup = true → v.toNat + 32 ≤ 0x60_0000 → v.toNat % 16 = 0 →
       exec (.rgreset d a b) s = t) ∧
    (let l := g.entry.flatMap (fun w => leBytes 8 w.toNat)
     let x := fin u 0 l
     v.toNat + 32 ≤ 0x60_0000 → v.toNat % 16 = 0 →
      exec (.rgstat d a b) s = .next (({ x with mem := writeBytes s.mem (apAddr s.fpkg s.ftile v.toNat) l } : State).wrote d 0 4))

/-- 02 R57: on an active ring with no waiter and no void range, a member with no open range is granted a claim where there is room
and a take where there are tokens; its fill advances tail and its free advances head over that range; every other counter
stays.
02 R53 to R61 and 10 R269: RGINIT, RGJOIN, RGLEAVE, RGRESET and RGTAKE.obs on one ring, and the waits: a malformed image and a ring
that is not idle change nothing, a good one starts the ring with its counters at zero; a job joins each role once and at most 255 do;
a member that leaves with an open claim leaves a void range, which the unit fills when tail reaches it, and the ninth freezes the
ring; one with an open take leaves it to be freed in its turn; a reset loads the counters and answers every waiter; an observation
waits for its count unless nothing more is ever filled; a claim without room, a take without tokens, and a fill and a free out of
their turn wait; a take at a void range is granted it with status void; a frozen ring holds everything. -/
def Obligations.RingGrants : Prop :=
  (∀ (r : Ring) (b : Issuer) (n : Nat), r.st = .active → r.waiters = [] → r.voidRanges = [] → r.freeRanges = [] → r.slotsz ≠ 0 →
      ringInv r.slots r.head r.taken r.tail r.claimed = true → r.lgcount < 16 → 0 < n → n ≤ r.slots →
      (b.jid ∈ r.prods → rangeOf r.claims b.jid = none → dist r.head r.claimed + n ≤ r.slots →
        (r.claim b n).ring = { r with claimed := r.claimed + BitVec.ofNat 32 n, claims := r.claims ++ [⟨b.jid, r.claimed, n⟩] } ∧
        (r.claim b n).done = [(b, ringResult r .ok n r.claimed)] ∧ (r.claim b n).froze = false) ∧
      (b.jid ∈ r.cons → rangeOf r.takes b.jid = none → n ≤ dist r.taken r.tail →
        (r.take b n).ring = { r with taken := r.taken + BitVec.ofNat 32 n, takes := r.takes ++ [⟨b.jid, r.taken, n⟩] } ∧
        (r.take b n).done = [(b, ringResult r .ok n r.taken)] ∧ (r.take b n).froze = false) ∧
      (b.jid ∈ r.prods → rangeOf r.claims b.jid = some ⟨b.jid, r.tail, n⟩ → dist r.head r.tail + n ≤ dist r.head r.claimed →
        (r.fill b).ring = { r with tail := r.tail + BitVec.ofNat 32 n, claims := dropRange r.claims b.jid } ∧
        (r.fill b).done = [(b, ringResult r .ok n r.tail)] ∧ (r.fill b).froze = false) ∧
      (b.jid ∈ r.cons → rangeOf r.takes b.jid = some ⟨b.jid, r.head, n⟩ → n ≤ dist r.head r.taken →
        (r.free b).ring = { r with head := r.head + BitVec.ofNat 32 n, takes := dropRange r.takes b.jid } ∧
        (r.free b).done = [(b, ringResult r .ok n r.head)] ∧ (r.free b).froze = false)) ∧
  (∀ (r : Ring) (b : Issuer),
      let ok := [(b, ringResult r .ok 0 0)]
      let still := fun (o : RingOut) (st : RingStatus) => o = ⟨r, [(b, ringResult r st 0 0)], false⟩
      let waits := fun (o : RingOut) (w : RingWait) => o = ⟨{ r with waiters := r.waiters ++ [⟨w, b⟩] }, [], false⟩
      (∀ img : Word,
        (bits img 61 56 ≠ 0 ∨ bits img 23 23 ≠ 0 ∨ bits img 3 0 ≠ 0 → still (r.init b img) .malformed) ∧
        (bits img 61 56 = 0 → bits img 23 23 = 0 → bits img 3 0 = 0 →
          (r.st ≠ .idle → still (r.init b img) .busy) ∧
          (r.st = .idle → let o := r.init b img
            o.done = ok ∧ o.froze = false ∧ o.ring.st = .active ∧ o.ring.lgcount = bits img 55 52 ∧ o.ring.slotsz = bits img 51 40 ∧
              o.ring.base = bits img 22 0 ∧ o.ring.head = 0 ∧ o.ring.taken = 0 ∧ o.ring.tail = 0 ∧ o.ring.claimed = 0 ∧
              o.ring.prods = [] ∧ o.ring.cons = [] ∧ o.ring.voids = 0))) ∧
      (r.st ≠ .frozen →
        (b.jid ∉ r.prods → r.prods.length < 255 → r.join b true false = ⟨{ r with prods := r.prods ++ [b.jid] }, ok, false⟩) ∧
        (b.jid ∉ r.cons → r.cons.length < 255 → r.join b false true = ⟨{ r with cons := r.cons ++ [b.jid] }, ok, false⟩) ∧
        (b.jid ∉ r.prods → 255 ≤ r.prods.length → still (r.join b true false) .busy) ∧
        (b.jid ∉ r.cons → 255 ≤ r.cons.length → still (r.join b false true) .busy) ∧
        (b.jid ∈ r.prods → b.jid ∈ r.cons → still (r.join b true true) .ok) ∧
        (∀ n k, r.st = .idle ∨ b.jid ∉ r.prods → still (r.claim b n) .notJoined ∧ still (r.fill b) .notJoined ∧
          (r.st = .idle ∨ b.jid ∉ r.cons → still (r.take b n) .notJoined ∧ still (r.observe b k) .notJoined ∧ still (r.free b) .notJoined))) ∧
      (r.st = .frozen → ∀ (p c : Bool) (n : Nat) (k : W32),
        waits (r.join b p c) (.held true p c) ∧ waits (r.leave b p c) (.held false p c) ∧ waits (r.claim b n) (.claim n) ∧
        waits (r.fill b) .fill ∧ waits (r.take b n) (.take n) ∧ waits (r.observe b k) (.obs k) ∧ waits (r.free b) .free) ∧
      (r.st = .active → r.waiters = [] → r.freeRanges = [] → r.voidRanges = [] →
        let out := { r with prods := r.prods.erase b.jid, claims := dropRange r.claims b.jid }
        let gone := { r with cons := r.cons.erase b.jid, takes := dropRange r.takes b.jid }
        (b.jid ∉ r.prods → b.jid ∉ r.cons → still (r.leave b true true) .ok) ∧
        (b.jid ∈ r.prods → rangeOf r.claims b.jid = none → r.leave b true false = ⟨out, ok, false⟩) ∧
        (b.jid ∈ r.cons → rangeOf r.takes b.jid = none → r.leave b false true = ⟨gone, ok, false⟩) ∧
        (∀ c, b.jid ∈ r.prods → rangeOf r.claims b.jid = some c →
          (8 ≤ r.voids → r.leave b true false = ⟨{ out with st := .frozen }, ok, true⟩) ∧
          (r.voids < 8 → c.start ≠ r.tail → r.leave b true false = ⟨{ out with voidRanges := [c], voids := r.voids + 1 }, ok, false⟩) ∧
          (r.voids < 8 → c.start = r.tail → r.slotsz ≠ 0 → 0 < c.len → c.len < 2 ^ 31 → r.lgcount < 16 →
            ringInv r.slots r.head r.taken r.tail r.claimed = true → dist r.head r.tail + c.len ≤ dist r.head r.claimed →
            r.leave b true false =
              ⟨{ out with voidRanges := [c], voids := r.voids + 1, tail := r.tail + BitVec.ofNat 32 c.len }, ok, false⟩)) ∧
        (∀ c, b.jid ∈ r.cons → rangeOf r.takes b.jid = some c →
          (c.start ≠ r.head → r.leave b false true = ⟨{ gone with freeRanges := [c] }, ok, false⟩) ∧
          (c.start = r.head → r.lgcount < 16 → ringInv r.slots r.head r.taken r.tail r.claimed = true → c.len ≤ dist r.head r.taken →
            r.leave b false true = ⟨{ gone with head := r.head + BitVec.ofNat 32 c.len }, ok, false⟩)) ∧
        (∀ k, b.jid ∈ r.cons → if r.reached k then still (r.observe b k) .ok else
          if r.dry then still (r.observe b k) .orphaned else waits (r.observe b k) (.obs k)) ∧
        (∀ n, 0 < n → n ≤ r.slots →
          (b.jid ∈ r.prods → rangeOf r.claims b.jid = none → r.slots < dist r.head r.claimed + n →
            if r.slotsz ≠ 0 ∧ r.cons = [] ∧ r.taken = r.head then still (r.claim b n) .orphaned else waits (r.claim b n) (.claim n)) ∧
          (b.jid ∈ r.cons → rangeOf r.takes b.jid = none → dist r.taken r.tail < n →
            if r.dry then still (r.take b n) .orphaned else waits (r.take b n) (.take n))) ∧
        (∀ c, b.jid ∈ r.prods → rangeOf r.claims b.jid = some c → (∀ n, still (r.claim b n) .openRange) ∧
          (c.start ≠ r.tail → waits (r.fill b) .fill)) ∧
        (∀ c, b.jid ∈ r.cons → rangeOf r.takes b.jid = some c → (∀ n, still (r.take b n) .openRange) ∧
          (c.start ≠ r.head → waits (r.free b) .free))) ∧
      (r.st = .active → r.waiters = [] → r.freeRanges = [] → ∀ v n, r.voidRanges = [v] → v.start = r.taken → v.len ≤ dist r.taken r.tail →
        0 < v.len → 0 < n → n ≤ r.slots → r.lgcount < 16 → ringInv r.slots r.head r.taken r.tail r.claimed = true →
        b.jid ∈ r.cons → rangeOf r.takes b.jid = none →
        let o := r.take b n
        o.done = [(b, ringResult r .void (min n v.len) r.taken)] ∧ o.froze = false ∧
          o.ring.taken = r.taken + BitVec.ofNat 32 (min n v.len) ∧ o.ring.head = r.head ∧ o.ring.tail = r.tail ∧
          (v.len ≤ n → o.ring.voidRanges = [] ∧ o.ring.voids = r.voids - 1)) ∧
      (∀ d1 d2 d3 : Word,
        let head := d1.setWidth 32
        let taken := (d1 >>> 32).setWidth 32
        let tail := d2.setWidth 32
        let claimed := (d2 >>> 32).setWidth 32
        (r.st = .idle → r.resetOp b d1 d2 d3 = ⟨{ r with prods := [], cons := [] }, ok, false⟩) ∧
        (r.st ≠ .idle → ringInv r.slots head taken tail claimed = false → still (r.resetOp b d1 d2 d3) .malformed) ∧
        (r.st ≠ .idle → ringInv r.slots head taken tail claimed = true → r.freeRanges = [] → r.voidRanges = [] →
          r.resetOp b d1 d2 d3 =
            ⟨{ r with st := .active, head := head, taken := taken, tail := tail, claimed := claimed
                      voids := (d3 >>> 8).toNat % 256, waiters := [] },
              r.waiters.map (fun w => (w.by_, ringResult r .reset 0 0)) ++ ok, false⟩)))

/-! ### Content-addressed memory (04 R95 to R113; 10 R272) -/

/-- 04 R95, R101 and R113: a CA operation of a tenant without a region answers no-pool; one on the null name answers ok and does
nothing; and a local range that leaves the scratchpad, a name whose zero field is not zero, or a name that is not live raises
Local-Range or CA-Name. That the EVA of a local range is its address is the model's reading (log 21).
04 R102 to R107, R113 and R114: where nothing waits at the home and the operation arrives, CAPUT, CANODE, CAGET, CAREF and CADROP
complete: the operation leaves with what it carries (`t`), acts once at its home, and its answer comes back (R36, R65, R67). CAGET
copies the 192 bytes of a live line, CAREF and CADROP move its count up and down (a saturated count stays, and a count that reaches
zero makes the line dead, in the reclaim queue of its die), a name that is not live raises CA-Name with the operation's address,
CAPUT and CANODE answer what lookup-or-allocate finds: the line that holds the content, or a new one with count 1 that holds it. -/
def Obligations.ContentOperations : Prop :=
  (∀ (s : State) (j : Job) (d a : Reg), Steady s j → Allowed (s.core j) [d, a] → Sound s → s.askOf = none →
      let l := (s.core j).reg a
      let n := s.localName l.toNat
      (0x60_0000 < l.toNat + 16 → exec (.caref d a) s = .next (s.faulted j .localRange l) ∧
        exec (.cadrop d a) s = .next (s.faulted j .localRange l)) ∧
      (l.toNat + 16 ≤ 0x60_0000 → l.toNat % 16 = 0 →
        (bits n 7 0 ≠ 0 → exec (.caref d a) s = .next (s.faulted j .caName l) ∧ exec (.cadrop d a) s = .next (s.faulted j .caName l)) ∧
        (bits n 7 0 = 0 → s.caRegion s.fpkg j.tenant.toNat = none →
          exec (.caref d a) s = .next (s.wrote d (BitVec.ofNat 64 (5 * 2 ^ 60)) 4) ∧
          exec (.cadrop d a) s = .next (s.wrote d (BitVec.ofNat 64 (5 * 2 ^ 60)) 4)) ∧
        (n = 0 → (s.caRegion s.fpkg j.tenant.toNat).isSome = true → s.localFree true = true →
          exec (.caref d a) s = .next (s.wrote d 0 4) ∧ exec (.cadrop d a) s = .next (s.wrote d 0 4)))) ∧
  (∀ (s : State) (j : Job) (d a b : Reg) (pp dom : Nat), Ready s j → Allowed (s.core j) [d, a, b] → Sound s →
      s.localFree true = true → s.caRegion s.fpkg j.tenant.toNat = some (pp, dom) → (s.caAt pp dom).serving = true →
      (s.caAt pp dom).held = [] →
      let l := ((s.core j).reg a).toNat
      let k := ((s.core j).reg b).toNat
      let r := fun (node : Bool) (n : Nat) => BitVec.ofNat 64 ((if node then 2 else 1) * 2 ^ 58 + n)
      (let n := s.localName l
       let c := s.caAt pp dom
       let h := nameTarget pp (nameDie n)
       let t := s.caGone h (leBytes 16 n.toNat)
       let back := fun (u : State) (out : Nat) (v : Word) (x : List Byte) =>
         Host.Outcome.next (φ := Fault) (ρ := Refusal) (u.caBack d out h (s.caSeq h (leBytes 16 n.toNat)) v x)
       let fall := fun (y : CaLine) => if y.dead = true ∨ y.count = 0xFFFF_FFFF then y
         else if y.count = 1 then { y with count := 0, dead := true } else { y with count := y.count - 1 }
       let down := t.setCa pp dom (c.modLine n fall)
       (l + 16 ≤ 0x60_0000 → l % 16 = 0 → bits n 7 0 = 0 → n ≠ 0 → c.find n = none → s.CaArrives h (leBytes 16 n.toNat) →
        j.st ≠ .freezing →
        let bad := Host.Outcome.next (φ := Fault) (ρ := Refusal) (t.faulted j .caName ((s.core j).reg a))
        (k + 192 ≤ 0x60_0000 → k % 16 = 0 → exec (.caget d a b) s = bad) ∧ exec (.caref d a) s = bad ∧ exec (.cadrop d a) s = bad) ∧
       ∀ x, l + 16 ≤ 0x60_0000 → l % 16 = 0 → bits n 7 0 = 0 → n ≠ 0 → c.find n = some x → s.CaArrives h (leBytes 16 n.toNat) →
        (k + 192 ≤ 0x60_0000 → k % 16 = 0 →
          exec (.caget d a b) s = back t k (r x.node x.count.toNat) (readBytes s.mem x.at_ 192)) ∧
        (let m := min (x.count.toNat + 1) 0xFFFF_FFFF
         exec (.caref d a) s = back (t.setCa pp dom (c.modLine n (fun y =>
           { y with count := if y.count = 0xFFFF_FFFF then y.count else y.count + 1 }))) 0 (r x.node m) []) ∧
        (x.count = 0xFFFF_FFFF → exec (.cadrop d a) s = back down 0 (r x.node x.count.toNat) []) ∧
        (x.count ≠ 0xFFFF_FFFF → x.count ≠ 1 → exec (.cadrop d a) s = back down 0 (r x.node (x.count - 1).toNat) []) ∧
        (x.count = 1 → ((s.pkgAt pp).deadAt (nameDie n)).length < 4096 → exec (.cadrop d a) s =
          back (down.modPkg pp (fun q => { q with reclaim := q.reclaim ++ [(dom, n)] })) 0 (r x.node 0) [])) ∧
      (∀ node : Bool, l + 192 ≤ 0x60_0000 → l % 16 = 0 → k + 16 ≤ 0x60_0000 → k % 16 = 0 →
        (node = true → ∀ i, i < 12 → bits (s.localName (l + 16 * i)) 7 0 = 0) →
        let content := readBytes s.mem (apAddr s.fpkg s.ftile l) 192
        let h := nameTarget pp (caDigest (s.caAt pp dom) node content / 2 ^ 110)
        let o := (s.caGone h content).lookupOrAllocate pp dom node content
        let i := if node then Instr.canode d a b else .caput d a b
        let back := fun (v : Word) (x : List Byte) =>
          Host.Outcome.next (φ := Fault) (ρ := Refusal) (o.1.caBack d k h (s.caSeq h content) v x)
        s.CaArrives h content →
        (∀ n m, o.2 = .match_ n m → exec i s = back (r node m.toNat) (leBytes 16 n.toNat) ∧
          ∃ x ∈ (s.caAt pp dom).lines, x.name = n ∧ x.dead = false ∧ x.node = node ∧ readBytes s.mem x.at_ 192 = content) ∧
        (∀ n, o.2 = .new n → exec i s = back (BitVec.ofNat 64 (2 ^ 60) + r node 1) (leBytes 16 n.toNat) ∧
          ∃ x ∈ (o.1.caAt pp dom).lines, x.name = n ∧ x.count = 1 ∧ x.dead = false ∧ x.node = node ∧
            (MemoryCanonical s → readBytes o.1.mem x.at_ 192 = content)) ∧
        (o.2 = .deadChild → exec i s = back (BitVec.ofNat 64 (4 * 2 ^ 60)) []) ∧
        (o.2 = .full → exec i s = back (BitVec.ofNat 64 (3 * 2 ^ 60)) [])))

/-- 04 R108 to R111 and 05 R146: root slot i of a tenant is the 16 bytes at 16 i of its root frame. Where the older accesses of the core
have performed, nothing waits at the home and the operation arrives, CAROOT, CAROOT.ref, CASWAP and CACAS complete: CAROOT reads the
slot, CAROOT.ref also counts the line it names, CASWAP exchanges it with a name that is null or live, and CACAS stores the new name
only where the slot holds the expected one, else answers mismatch and the name it holds. The slot's access goes through the cache of
its home (02 R41). That CAROOT and the others without a count report no kind is the model's choice (log 89). -/
def Obligations.RootSlots : Prop :=
  ∀ (s : State) (j : Job) (d a b : Reg) (pp dom : Nat), Ready s j → Allowed (s.core j) [d, a, b] → Sound s →
    s.localFree true = true → s.released .dom = true → s.caRegion s.fpkg j.tenant.toNat = some (pp, dom) →
    let i := ((s.core j).reg a).toNat
    let l := ((s.core j).reg b).toNat
    let v := (s.tenAt s.fpkg j.tenant.toNat).caten
    let slot := bits v 55 16 * 0x1_0000 + 16 * i
    let h := s.slotTarget slot
    let c := s.caAt pp dom
    let held := nameAt s.mem slot
    let live := fun (n : BitVec 128) => n = 0 ∨ (c.find n).isSome = true
    let with_ := fun (names : List Byte) => leBytes 8 slot ++ names
    let back := fun (names : List Byte) (u : State) (v : Word) (x : BitVec 128) =>
      Host.Outcome.next (φ := Fault) (ρ := Refusal) (u.caBack d l h (s.caSeq h (with_ names)) v (leBytes 16 x.toNat))
    let read := fun (names : List Byte) => (s.caGone h (with_ names)).touchHome slot 16 .load
    let put := fun (names : List Byte) (n : BitVec 128) =>
      ({ (s.caGone h (with_ names)).touchHome slot 16 .store with mem := writeLe s.mem slot 16 n.toNat } : State)
    (placeOfNum (h / 4)).pkg = pp → c.serving = true → c.held = [] →
    i < 4096 → l + 16 ≤ 0x60_0000 → l % 16 = 0 →
    (s.CaArrives h (with_ []) →
      exec (.caroot d a b) s = back [] (read []) 0 held ∧
      (held = 0 ∨ c.find held = none → exec (.carootRef d a b) s = back [] (read []) 0 held) ∧
      (∀ x, held ≠ 0 → c.find held = some x → exec (.carootRef d a b) s = back [] ((read []).setCa pp dom (c.inc held))
        (BitVec.ofNat 64 ((if x.node then 2 else 1) * 2 ^ 58 + min (x.count.toNat + 1) 0xFFFF_FFFF)) held)) ∧
    (let n := s.localName l
     let x := leBytes 16 n.toNat
     bits n 7 0 = 0 → live n → s.CaArrives h (with_ x) → exec (.caswap d a b) s = back x (put x n) 0 held) ∧
    (let e := s.localName l
     let n := s.localName (l + 16)
     let x := leBytes 16 e.toNat ++ leBytes 16 n.toNat
     l + 32 ≤ 0x60_0000 → bits e 7 0 = 0 → bits n 7 0 = 0 → s.CaArrives h (with_ x) →
     (held ≠ e → exec (.cacas d a b) s = back x (read x) (BitVec.ofNat 64 (2 * 2 ^ 60)) held) ∧
     (held = e → live n → exec (.cacas d a b) s = back x (put x n) 0 e))

/-! ### Jobs (06 R157 to R172; 10 R273 to R277) -/

/-- 06 R168 to R172 and 10 R273 to R277: SPAWN queues the image with tenant, class and level forced; JOIN adds to the dword; TRIGGER
takes the job out of its launch's producers; WAITDEP retires once its dependency is met and waits before; REND finishes the core's
stream; PHASE seals, and an instance whose records are all queued too; SWPT goes where the schedule says. SPAWN, TRIGGER and REND
complete once the older accesses of the core have performed, and SPAWN where its queue has room and the package is not quiesced. That
TRIGGER, SPAWN and REND wait for them at the core is the model's choice (log 5); that what SPAWN makes in a package that is stopping is
discarded is another (log 82). -/
def Obligations.JobOperations : Prop :=
  ∀ (s : State) (j : Job) (a : Reg) (b : Opd), Ready s j → Allowed (s.core j) (a :: opdRegs b) →
    let c := s.core j
    let ad := (c.reg a).toNat
    let u := j.tenant.toNat
    let v := bval j c b
    (let img := dw8 (readDwords s.mem (apAddr s.fpkg s.ftile ad) 8)
     let dw := spawned img j.tenant j.cls j.sup
     let q := vget (s.tenAt s.fpkg u).queues (recClass dw)
     let t := s.enqueue s.fpkg u (qrec dw (some (dieOf s.ftile)) none false)
     ad + 64 ≤ 0x60_0000 → ad % 64 = 0 → s.localFree false = true → s.padFlawed ad 64 false = false →
       (s.tenAt s.fpkg u).hasRoom (recClass dw) = true → s.released .dom = true → (s.tenAt s.fpkg u).refuses dw = false →
       exec (.spawn a) s = .next (t.retired 4) ∧
       recTenant dw = u ∧ recClass dw = max (recClass img) j.cls % 4 ∧ recLv dw = j.sup ∧
       (∀ k, 0 < k → k < 8 → vget dw k = vget img k) ∧
       (q.length < 64 → (∀ r ∈ q, r.slot = none) → (s.pkgAt s.fpkg).quiesce = 0 →
         t.mem = s.mem ∧ ∃ r, r.dw = dw ∧ vget (t.tenAt s.fpkg u).queues (recClass dw) = q ++ [r])) ∧
    (∀ t pa, Translated s j (c.reg a) permRW t pa → Answers t (.atomic 0 (some .dom)) pa 8 → ad % 64 = 0 →
      let p := t.parcel (.atomic 0 (some .dom)) pa
      let o := (t.asked p).atomicNow pa 8 0 v.toNat 0
      exec (.join a b) s = .next ((o.1.keep p (t.askSeq p) o.2 []).retired (opdLen b)) ∧
        o.1.mem = atomMem s.mem pa 8 0 v.toNat 0) ∧
    (let t := s.modCur (fun j => { j with triggered := true })
     (s.released .dom = true → exec .trigger s = .next ((t.settleDeps s.fpkg u).retired 4)) ∧
     (s.released .dom = false → exec .trigger s = .next s.stalled)) ∧
    ((recDv j.qrec.dw = false ∨ s.depMet s.fpkg u (recPlaunch j.qrec.dw) = true) → exec .waitdep s = .next (s.retired 4)) ∧
    (recDv j.qrec.dw = true → s.depMet s.fpkg u (recPlaunch j.qrec.dw) = false → exec .waitdep s = .next s.stalled) ∧
    (c.h = false → j.st ≠ .freezing → s.released .dom = true →
      exec .rend s = .next ((s.modCore (fun c => { c with fin := true })).retired 4)) ∧
    (v.toNat ≤ 255 → ∃ t : State, exec (.phase b) s = .next (t.retired (opdLen b)) ∧ t.mem = s.mem ∧ t.jobs = s.jobs ∧
      (∀ x ∈ (t.tenAt s.fpkg u).phases, x.tag = j.tag → x.phase.toNat = v.toNat → x.sealed_ = true) ∧
      (∀ r ∈ (s.tenAt s.fpkg u).ofTag j.tag.toNat, recPhase r.dw = v.toNat →
        ∃ x ∈ (t.tenAt s.fpkg u).phases, x.tag = j.tag ∧ x.phase.toNat = v.toNat)) ∧
    (let e := j.sched.find? (fun e => e.kind == s.focus.kind.code && e.point == c.pc.toNat)
     let lv := (s.pkgAt s.fpkg).granted
     (e = none → exec .swpt s = .next (s.retired 4)) ∧
     (∀ x, e = some x → x.tgt.getLsbD (24 * lv + 23) = true → bits x.tgt (24 * lv + 17) (24 * lv) % 4 = 0 →
       exec .swpt s = .next (s.jumped (bits x.tgt (24 * lv + 17) (24 * lv)))))

/-- 06 R157 and R159: ALLOT answers 1 and zeroes the registers it gains where the core file has room, 0 where it has not, and 1
without a change where N is not above the allotment; SHRINK lowers the allotment; both raise Illegal-Instruction for an N that is
no allotment (its EVA is a free value); EXIT finishes every stream of a job at rest, an engine stream inside a word or with a
pending push being to end when that is done, and frees a matrix engine whose stream has finished (11 R282). -/
def Obligations.AllotmentAndExit : Prop :=
  (∀ (s : State) (j : Job) (d : Reg) (b : Opd), Ready s j → Allowed (s.core j) (d :: opdRegs b) →
    let c := s.core j
    let n := (bval j c b).toNat
    let used := ((List.range 4).map (fun sl =>
      ((s.jobAt (slotKey s.fpkg s.ftile sl)).map (fun i => (s.core i).allot)).getD 0)).sum
    n % 8 = 0 → 8 ≤ n → n ≤ 64 →
      (n ≤ c.allot → exec (.allot d b) s = .next (s.wrote d 1 (opdLen b))) ∧
      (c.allot < n → n - c.allot ≤ 256 - used →
        let c' : Core := { c with
          allot := n, g := Vector.ofFn (fun i => if c.allot ≤ i.val ∧ i.val < n ∧ i.val < 63 then 0 else c.g[i]) }
        exec (.allot d b) s = .next ((s.modCore (fun _ => c')).wrote d 1 (opdLen b))) ∧
      (c.allot < n → 256 - used < n - c.allot → exec (.allot d b) s = .next (s.wrote d 0 (opdLen b))) ∧
      exec (.shrink b) s = .next ((s.modCore (fun c => { c with allot := min c.allot n })).retired (opdLen b))) ∧
  (∀ (s : State) (j : Job) (d : Reg) (b : Opd), Steady s j → Allowed (s.core j) (d :: opdRegs b) →
    let n := (bval j (s.core j) b).toNat
    (n % 8 ≠ 0 ∨ n < 8 ∨ 64 < n) →
      exec (.allot d b) s = .next (s.take.2.faulted j .illegal (Config.unstatedEva s.fresh)) ∧
      exec (.shrink b) s = .next (s.take.2.faulted j .illegal (Config.unstatedEva s.fresh))) ∧
  (∀ (s : State) (j : Job), Steady s j → AtRest s s.key j →
    let stop := fun (e : Engine) => if e.pos.isSome ∨ e.push.isSome then { e with ending := true } else { e with fin := true }
    let i := j.modCore s.focus.kind (fun c => (c.goto (c.pc.toNat + 4)).retire)
    exec .exit s = .next ((s.setJob s.key { i with
      a := { i.a with fin := true }, x := { i.x with fin := true }, m := stop j.m, v := stop j.v, t := stop j.t, c := stop j.c
      w := stop j.w }).freeMatrix s.key))

/-! ### Circuits and collectives from a core (13 R358 to R369; 18 R416) -/

/-- 13 R358 to R364 and 20 R437: CLAND opens the lowest free landing record and answers its handle, and busy when all sixteen are in
use; COPEN answers no-path in pilot-light service, busy where the sixteen send records are in use, and no-landing; CHOLD adds to the
time left, up to 2^20 cycles, of a circuit whose lease has not run out, and of a landing handle raises Illegal-Instruction; CCLOSE frees
the record, whose next use carries another sequence number, and ends an open circuit, at its sender with cause 1 and at its receiver
with cause 2; CSTAT reads the record, and at the sender of an open circuit its lease; a stale handle does nothing. That busy comes
first is the model's choice (log 27), and that EVA is a free value (log 18).
13 R361 and R362: where a landing and a path are there (`t` is the state after the probe, which changes no job or memory) and the
request arrives, COPEN opens the lowest free send record and the landing record, puts the circuit between them in being with its
lease, which runs from the cycle of the result, and answers ok with the send handle; the circuits of other records stay. -/
def Obligations.CircuitOperations : Prop :=
  (∀ (s : State) (j : Job) (d a : Reg) (b : Opd), Ready s j → Allowed (s.core j) (d :: a :: opdRegs b) → s.askOf = none →
      let c := s.core j
      let h := c.reg a
      let v := bval j c b
      let n := opdLen b
      (0 < v.toNat → v.toNat ≤ 1572864 → h.toNat + 4 * v.toNat ≤ 0x60_0000 → h.toNat % 4 = 0 →
        (∀ i, i < 16 → (vget j.land i).st = .free → (∀ k, k < i → (vget j.land k).st ≠ .free) →
          let r := vget j.land i
          exec (.cland d a b) s = .next ((s.modCur (fun j => { j with
            land := vset j.land i { r with st := .opened, base := h.toNat, len := v.toNat, circ := none, cause := 0, delivered := 0 } })).wrote d
            (BitVec.ofNat 64 (2 ^ 15 + s.focus.slot.toNat * 2 ^ 13 + i * 2 ^ 9 + r.seq % 2 ^ 9)) n)) ∧
        ((∀ k, k < 16 → (vget j.land k).st ≠ .free) → exec (.cland d a b) s = .next (s.wrote d (BitVec.ofNat 64 (3 * 2 ^ 60)) n))) ∧
      (1 ≤ v.toNat → v.toNat ≤ 2 ^ 20 →
        (let d0 := BitVec.ofNat 64 (s.readL h.toNat 8)
         let d1 := BitVec.ofNat 64 (s.readL (h.toNat + 8) 8)
         let p := bits d0 38 31
         let t := bits d0 30 23
         let q : Parcel := ⟨false, false, .tile p t, (Place.tile p t).unitTarget⟩
         let answer := fun (u : State) (k : Nat) =>
           exec (.copen d a b) s = .next (u.wrote d (BitVec.ofNat 64 (k * 2 ^ 60)) n)
         h.toNat + 16 ≤ 0x60_0000 → h.toNat % 16 = 0 → bits d0 63 39 = 0 → bits d1 63 16 = 0 → p < (s.pkgAt s.fpkg).d →
         s.tilePresent p t = true → s.windowOk s.fpkg j.tenant.toNat (apAddr p t 0) (apAddr p t 0xFFFF) permRW = true →
         s.localFree false = true → Sound s →
         ((s.pkgAt s.fpkg).svc = 0 → answer s 1) ∧
         ((s.pkgAt s.fpkg).svc ≠ 0 →
           ((∀ k, k < 16 → (vget j.send k).st ≠ .free) → answer s 3) ∧
           ((∃ k, k < 16 ∧ (vget j.send k).st = .free) → s.landing j.tenant p t (bits d0 22 0) d1 = none → Arrives s q →
             answer ((s.asked q).keep q (s.askSeq q) (BitVec.ofNat 64 (2 * 2 ^ 60)) []) 2))) ∧
        (∀ i q, h.getLsbD 15 = false → j.findSend h = some i → s.sendCirc j i = some q →
          (s.expired q = false → exec (.chold a b) s = .next ((s.setCirc { q with
            leaseEnd := min (q.leaseEnd + cycles v.toNat) (s.phase s.fpkg + cycles (2 ^ 20)) }).retired n)) ∧
          (s.expired q = true → exec (.chold a b) s = .next (s.retired n))) ∧
        (h.getLsbD 15 = false → j.findSend h = none → exec (.chold a b) s = .next (s.retired n)) ∧
        (h.getLsbD 15 = true → j.st ≠ .freezing →
          exec (.chold a b) s = .next (s.take.2.faulted j .illegal (Config.unstatedEva s.fresh)))) ∧
      (j.findSend h = none → j.findLand s.focus.slot.toNat h = none →
        exec (.cclose a) s = .next (s.retired 4) ∧ exec (.cstat d a) s = .next (s.wrote d (BitVec.ofNat 64 (3 * 2 ^ 60)) 4)) ∧
      (∀ i, h.getLsbD 15 = true → j.findLand s.focus.slot.toNat h = some i →
        (let r := vget j.land i
         exec (.cstat d a) s = .next (s.wrote d (BitVec.ofNat 64 ((match r.st with
           | .opened => 0 | .broken => 1 | .closed => 2 | .free => 3) * 2 ^ 60 + r.cause.toNat * 2 ^ 56 + r.delivered.toNat)) 4)) ∧
        ((vget j.land i).circ = none → exec (.cclose a) s = .next ((s.modCur (fun j => { j with
          land := vset j.land i { vget j.land i with st := .free, seq := (vget j.land i).seq + 1, cause := 0, circ := none } })).retired 4)) ∧
        (∀ q, (vget j.land i).circ = some q.id → s.circ q.id = some q → q.alive = true → q.flow = none → s.expired q = false →
          ∃ (t : State) (j' : Job), exec (.cclose a) s = .next (t.retired 4) ∧ t.mem = s.mem ∧ t.circ q.id = some { q with
              alive := false, links := [], words := [], endedAt := s.wall, signal := some 2
              notice := some (2, BitVec.ofNat 32 q.delivered) } ∧
            t.jobAt s.key = some j' ∧ (vget j'.land i).st = .free ∧ (vget j'.land i).seq = (vget j.land i).seq + 1)) ∧
      (∀ i q, h.getLsbD 15 = false → j.findSend h = some i → (vget j.send i).circ = q.id → s.circ q.id = some q → q.alive = true →
        q.flow = none → s.expired q = false → q.words = [] →
        ∃ (t : State) (j' : Job), exec (.cclose a) s = .next (t.retired 4) ∧ t.mem = s.mem ∧ t.circ q.id = some { q with
            alive := false, links := [], endedAt := s.wall, signal := none, notice := some (1, BitVec.ofNat 32 q.delivered) } ∧
          t.jobAt s.key = some j' ∧ (vget j'.send i).st = .free ∧ (vget j'.send i).seq = (vget j.send i).seq + 1 ∧
          ∀ key k, s.keyOfJob q.dstJid = some key → s.jobAt key = some k → q.dstRec < 16 → (vget k.land q.dstRec).circ = some q.id →
            (vget k.land q.dstRec).st ≠ .free → ∃ k', t.jobAt key = some k' ∧ (vget k'.land q.dstRec).st = .closed ∧
              (vget k'.land q.dstRec).cause = 1 ∧ (vget k'.land q.dstRec).delivered = BitVec.ofNat 32 q.delivered) ∧
      (∀ i, h.getLsbD 15 = false → j.findSend h = some i →
        let r := vget j.send i
        (∀ q, r.st = .opened → s.circ r.circ = some q → q.flow = none → exec (.cstat d a) s = .next (s.wrote d (BitVec.ofNat 64
          ((q.leaseEnd - s.phase (keyPkg q.src) + (Config.cycleUnits - 1)) / Config.cycleUnits % 2 ^ 21 * 2 ^ 32)) 4)) ∧
        (r.st ≠ .opened → exec (.cstat d a) s = .next (s.wrote d (BitVec.ofNat 64 ((match r.st with
          | .opened => 0 | .broken => 1 | .closed => 2 | .free => 3) * 2 ^ 60 + r.cause.toNat * 2 ^ 56
            + ((r.resume.map BitVec.toNat).getD 0xFFFF_FFFF))) 4))) ∧
      (∀ i, h.getLsbD 15 = false → j.findSend h = some i → s.circ (vget j.send i).circ = none →
        exec (.cclose a) s = .next ((s.modCur (fun j => { j with
          send := vset j.send i { vget j.send i with st := .free, seq := (vget j.send i).seq + 1, cause := 0, resume := none } })).retired 4))) ∧
  (∀ (s t : State) (j k : Job) (d a : Reg) (b : Opd) (i key jid r : Nat) (links : List Link),
      Ready s j → Allowed (s.core j) (d :: a :: opdRegs b) → Sound s → s.localFree false = true → (s.pkgAt s.fpkg).svc ≠ 0 →
      let h := (s.core j).reg a
      let v := (bval j (s.core j) b).toNat
      let d0 := BitVec.ofNat 64 (s.readL h.toNat 8)
      let d1 := BitVec.ofNat 64 (s.readL (h.toNat + 8) 8)
      let p := bits d0 38 31
      let tl := bits d0 30 23
      let la := bits d0 22 0
      let q : Parcel := ⟨false, false, .tile p tl, (Place.tile p tl).unitTarget⟩
      1 ≤ v → v ≤ 2 ^ 20 → h.toNat + 16 ≤ 0x60_0000 → h.toNat % 16 = 0 → bits d0 63 39 = 0 → bits d1 63 16 = 0 →
      p < (s.pkgAt s.fpkg).d → s.tilePresent p tl = true →
      s.windowOk s.fpkg j.tenant.toNat (apAddr p tl 0) (apAddr p tl 0xFFFF) permRW = true → Arrives s q →
      i < 16 → (vget j.send i).st = .free → (∀ x, x < i → (vget j.send x).st ≠ .free) →
      s.landing j.tenant p tl la d1 = some (key, jid, r) → s.jobAt key = some k → r < 16 →
      (s.asked q).probe s.fpkg s.ftile p tl j.cls = (t, some links) →
      t.jobs = s.jobs → t.mem = s.mem → t.wall = s.wall → t.pkgs = s.pkgs → t.focus = s.focus →
      let w := BitVec.ofNat 64 (i * 2 ^ 11 + (vget j.send i).seq % 2 ^ 11)
      ∃ (t' : State) (j' k' : Job) (c : Circuit),
        exec (.copen d a b) s = .next ((t'.keep q (s.askSeq q) w []).wrote d w (opdLen b)) ∧
        t'.mem = s.mem ∧ c ∈ t'.circuits ∧ (∀ x ∈ t.circuits, x.srcJid ≠ j.jid ∨ x.srcRec ≠ i → x ∈ t'.circuits) ∧ c.links = links ∧ c.next = la ∧ c.alive = true ∧ c.words = [] ∧
        c.leaseEnd = s.phase s.fpkg + cycles v ∧
        t'.jobAt s.key = some j' ∧ (vget j'.send i).st = .opened ∧ (vget j'.send i).circ = c.id ∧
        t'.jobAt key = some k' ∧ (vget k'.land r).st = .opened ∧ (vget k'.land r).circ = some c.id ∧ (vget k'.land r).delivered = 0)

/-- 13 R366 and R369: DMSET stores a well-formed entry where no generation is in flight and waits while one is; DMREADY of a
participant completes once the older accesses of the core have performed and its ready reaches the root package, where it is held; it
waits there while one of the tile is held; DMWAIT answers once the done count has passed its target, and waits before; DMSTAT reads
the entry. -/
def Obligations.Collectives : Prop :=
  ∀ (s : State) (j : Job) (d a : Reg) (b : Opd), Ready s j → Allowed (s.core j) (d :: a :: opdRegs b) → s.askOf = none →
    let c := s.core j
    let v := c.reg a
    let u := j.tenant.toNat
    let i := bits v 9 0
    let e := s.domAt s.fpkg u i
    let at_ := (bval j c b).toNat
    let neu : Domino := { e with dw := Vector.ofFn (fun k => BitVec.ofNat 64 (s.readL (at_ + 8 * k.val) 8)), readies := [] }
    (bits v 63 10 = 0 → at_ + 32 ≤ 0x60_0000 → at_ % 16 = 0 → s.localFree false = true → s.padFlawed at_ 32 false = false →
      (neu.v = true → neu.malformed (s.pkgAt s.fpkg).d = false) →
      (e.inflight = false → exec (.dmset a b) s = .next ((s.setDom s.fpkg u i neu).retired (opdLen b))) ∧
      (e.inflight = true → exec (.dmset a b) s = .next s.stalled)) ∧
    (bits v 63 10 = 0 → e.v = true → e.names (s.pkgAt s.fpkg).d s.fpkg s.ftile = true → s.released .dom = true →
      let r := s.domAt e.rpkg u i
      let q : Parcel := ⟨false, false, .hdie e.rpkg, (Place.hdie e.rpkg).unitTarget⟩
      Arrives s q →
      (s.tkey ∉ r.readies → r.v = true → r.malformed (s.pkgAt e.rpkg).d = false →
        r.names (s.pkgAt e.rpkg).d s.fpkg s.ftile = true →
        exec (.dmready a) s = .next ((((s.asked q).setDom e.rpkg u i { r with readies := r.readies ++ [s.tkey] }).keep q (s.askSeq q)
          0 []).retired 4)) ∧
      (s.tkey ∈ r.readies → ∃ (t : State) (x : Asked), exec (.dmready a) s = .next t ∧ t.askOf = some x ∧ x.held = true ∧
        t.domAt e.rpkg u i = r ∧ t.mem = s.mem)) ∧
    (let res := BitVec.ofNat 64 ((if e.v = false then 2 * 2 ^ 60 else if e.failed then 2 ^ 60 else 0)
       + (if e.inflight then 2 ^ 59 else 0) + (if e.v = true ∧ s.tkey ∈ (s.domAt e.rpkg u i).readies then 2 ^ 58 else 0) + e.done.toNat)
     (bits v 63 10 = 0 → exec (.dmstat d a) s = .next (s.wrote d res 4)) ∧
     (bits v 31 10 = 0 →
       ((e.v = false ∨ (e.done - v.extractLsb' 32 32).toNat < 2 ^ 31) → exec (.dmwait d a) s = .next (s.wrote d res 4)) ∧
       (e.v = true → 2 ^ 31 ≤ (e.done - v.extractLsb' 32 32).toNat → exec (.dmwait d a) s = .next s.stalled)))

/-! ### Pinwheel from a core (12 R338 to R341) -/

/-- 12 R337 to R341: PWSAVE and PWREST take an array that is free, cleared, or go on with the one their job holds; PWSAVE writes its
save image, and PWREST loads an image without an offending byte, both once the W stream is at rest and no fence or QMARK keeps the
core's own accesses (05 R119); PWRDY answers once the W stream is at rest; PWSTAT never waits. -/
def Obligations.PinwheelOperations : Prop :=
  ∀ (s : State) (j : Job) (a d : Reg), Ready s j → Allowed (s.core j) [a, d] →
    let at_ := ((s.core j).reg a).toNat
    let base := apAddr s.fpkg s.ftile at_
    let dword := fun (o : Nat) => BitVec.ofNat 64 (readLe s.mem (base + o) 8)
    let byte := fun (o : Nat) => readByte s.mem (base + o)
    let t := s.tileAt s.tkey
    (let i := s.modTile s.tkey (fun t => if t.pwHolder = some j.jid then t else { t with pwHolder := some j.jid, pw := Pinwheel.reset })
     at_ + 12544 ≤ 0x60_0000 → at_ % 256 = 0 → t.pwHolder = none ∨ t.pwHolder = some j.jid → j.wRest = true →
      (s.localFree true = true → exec (.pwsave a) s = .next (({ i with mem := writeBytes s.mem base i.pwAt.image } : State).retired 4)) ∧
      (s.localFree false = true → s.padFlawed at_ 12544 false = false → imageBad dword byte = none →
        exec (.pwrest a) s = .next ((i.modPw (fun p => p.load dword byte)).retired 4))) ∧
    (j.wRest = true → exec (.pwrdy d) s = .next (s.wrote d (if j.w.fin then BitVec.ofNat 64 (2 ^ 63)
      else
        let own := if j.st = .handler then j.hkind == .W else j.st == .freezing && j.freeze.any (fun f => f.kind == .W)
        BitVec.ofNat 64 ((if j.st = .handler ∨ j.st = .freezing then 2 ^ 62 else 0) + (if own then 2 ^ 61 else 0)
          + j.w.pc % 2 ^ 14)) 4)) ∧
    (j.wRest = false → exec (.pwrdy d) s = .next s.stalled) ∧
    (∃ r : Word, exec (.pwstat d) s = .next (s.wrote d r 4) ∧ (r.getLsbD 63 = true ↔ t.pwHolder = some j.jid) ∧
      (r.getLsbD 62 = true ↔ t.pwHolder.isSome = true ∧ t.pwHolder ≠ some j.jid) ∧ (r.getLsbD 61 = true ↔ j.wRest = true) ∧
      (t.pwHolder = some j.jid → r.extractLsb' 0 32 = t.pw.cyc) ∧ (t.pwHolder ≠ some j.jid → r.extractLsb' 0 61 = 0))

/-! ### Engine words: the common course (11 R278 to R295) -/

/-- 11 R278, R281, R282 and R289, 06 R156, 14 R381 and 15 R404: a word of another class raises Engine-Word with its index as EVA; a
word whose engine runs a word of another slot, whose unit another job holds, or whose pop finds no token yet, waits without any
effect; a pop whose producer has finished, or of another stream's queue, raises Queue-Discipline (its EVA is a free value). While
its rail has a droop window open a word inside has no effect, and one that starts has none beyond its pop and its unit; one suspect in
its last 8 executions raises Data-Error before its first repetition. That the window holds the effects back so is the model's choice
(log 58), and that the push of a word that has completed is tried again at each turn of its stream another (log 44).
11 R278 to R280 and 06 R156: a completed word counts, its stream goes where its chain says, or finishes, and its push adds a
token; a 33rd token is Token-Overflow, a queue that the stream does not produce for is Queue-Discipline (its EVA is a free value),
with the pushing word as the faulting one. -/
def Obligations.WordCourse : Prop :=
  (∀ (s : State) (j : Job) (w : EW) (k : Kind) (i : Instr), s.jobAt s.key = some j → s.focus.kind.isCore = false →
      (k, i) ∈ [(Kind.M, Instr.mldb w), (.M, .mma w), (.M, .mmaz w), (.M, .mclr w), (.M, .mthr w), (.M, .mrdc w), (.M, .mout w),
        (.V, .vld w), (.V, .vst w), (.V, .vlda w), (.V, .vsta w), (.V, .vadd w), (.V, .vsub w), (.V, .vmul w), (.V, .vfma w),
        (.V, .vmax w), (.V, .vmin w), (.V, .vexp2 w), (.V, .vlog2 w), (.V, .vrcp w), (.V, .vrsq w), (.V, .vcvt w), (.V, .vqnt w),
        (.V, .vdq w), (.V, .vrsum w), (.V, .vrmax w), (.V, .vscan w), (.V, .vcmp w), (.V, .vsel w), (.V, .vperm w), (.V, .vbcst w),
        (.V, .vgath w), (.V, .vscat w), (.V, .vsmx w), (.T, .txblk w), (.T, .txcvt w), (.T, .txgat w), (.C, .cpy w), (.C, .cpyred w),
        (.C, .cpypk w), (.C, .cpyck w), (.C, .cpycode w), (.C, .cpyout w), (.W, .wpatch w), (.W, .wloady w), (.W, .wrun w),
        (.W, .wsamp w), (.W, .wsave w), (.W, .wrest w), (.W, .wdom w)] →
      let at_ := (j.eng s.focus.kind).pc
      (s.focus.kind ≠ k → exec i s = .next (s.engineFault none .engineWord (BitVec.ofNat 64 at_) at_)) ∧
      let h : Hold := if k = .M then .matrix else if k = .W then .pinwheel else .none
      (s.focus.kind = k → s.engineTaken = true → exec i s = .next s) ∧
      (s.focus.kind = k → s.engineTaken = false → s.drooping = true →
        ((j.eng k).pos.isSome = true → (j.eng k).suspect < 8 → exec i s = .next s) ∧
        ((j.eng k).pos = none → popCheck j k w.pop = .ok → exec i s = .next s ∨ ∃ (t : State) (f : Engine → Engine),
          exec i s = .next (t.modEng f) ∧ (t = s ∨ t = s.begun j h w.pop) ∧
            ∀ e, (f e).pc = e.pc ∧ (f e).words = e.words ∧ (f e).fin = e.fin)) ∧
      (∀ p, s.focus.kind = k → s.engineTaken = false → s.bankFree s.fpkg s.ftile = true → (j.eng k).pos = some p → 8 ≤ (j.eng k).suspect →
        exec i s = .next ((s.modEng (fun e => { e with suspect := 0 })).take.2.engineFault
          (some { WordPos.first with scales := p.scales }) .dataError (Config.unstatedEva s.fresh) at_)) ∧
      (s.focus.kind = k → s.engineTaken = false → (j.eng k).pos = none → popCheck j k w.pop = .ok →
        h.free (s.tileAt s.tkey) j.jid = false → exec i s = .next s) ∧
      (s.focus.kind = k → s.engineTaken = false → s.bankFree s.fpkg s.ftile = true → (j.eng k).pos = none → ∀ q, w.pop = some q →
        (∀ p, (vget j.tq q.toNat).bind = some (p, k) → (vget j.tq q.toNat).count = 0 → j.finished p = false → exec i s = .next s) ∧
        (((vget j.tq q.toNat).consumer ≠ some k ∨
            ((vget j.tq q.toNat).count = 0 ∧ ∃ p, (vget j.tq q.toNat).producer = some p ∧ j.finished p = true)) →
          exec i s = .next (s.take.2.engineFault none .queueDiscipline (Config.unstatedEva s.fresh) at_)))) ∧
  (∀ (s : State) (j : Job) (push : Option (BitVec 4)) (chain : Chain) (nxt : Option Nat),
      s.jobAt s.key = some j → s.focus.kind.isCore = false →
      let k := s.focus.kind
      let e := j.eng k
      e.threshold = none → e.ending = false →
      let go : Nat := match chain with
        | .next => nxt.getD (e.pc + 1)
        | .link => e.link.toNat
        | .stop => e.pc
      let e1 : Engine := { e with
        pos := none, words := e.words + 1, starved := none, suspect := 0, last := e.pc, pc := go, push := none, asked := none }
      let e2 : Engine := if chain = .stop then { e1 with fin := true } else e1
      let leave := fun (s : State) => if chain = .stop ∧ k = .M then
        s.modTile s.tkey (fun t => if t.mHolder = some j.jid then { t with mHolder := none } else t) else s
      (push = none → s.completeWord push chain nxt = leave (s.setJob s.key (j.setEng k e2))) ∧
      (∀ q, push = some q → (vget j.tq q.toNat).producer = some k →
        let t := vget j.tq q.toNat
        (t.count < 32 → s.completeWord push chain nxt =
          leave (s.setJob s.key { j.setEng k e2 with tq := vset j.tq q.toNat { t with count := t.count + 1 } })) ∧
        (32 ≤ t.count → s.completeWord push chain nxt = (s.setJob s.key (j.setEng k { e1 with push := some q, ending := chain == .stop })).engineFault
          none .tokenOverflow (q.setWidth 64) e.pc)) ∧
      (∀ q, push = some q → (vget j.tq q.toNat).producer ≠ some k →
        s.completeWord push chain nxt =
          (s.setJob s.key (j.setEng k { e1 with push := some q, ending := chain == .stop })).take.2.engineFault none .queueDiscipline
            (Config.unstatedEva s.fresh) e.pc))

/-- 11 R290 to R292 and R295: the common words and the switch words, each with the next PC it gives. That ENOP, which would hold its
engine for as many cycles as it says, moves no clock here is the model's choice (log 3). -/
def Obligations.CommonWords : Prop :=
  ∀ (s : State) (j : Job),
    let k := s.focus.kind
    let e := j.eng k
    (∀ (c : CW) (n : BitVec 6) (v : BitVec 10) (ch p q : BitVec 3), EngineReady s j none .none c.pop →
      let b := s.begun j .none c.pop
      let done := fun (t : State) (nxt : Option Nat) => Host.Outcome.next (φ := Fault) (ρ := Refusal) (t.completeWord c.push c.chain nxt)
      exec (.enop c n) s = done b none ∧ exec (.ewait c) s = done b none ∧
      exec (.emark c v) s = done (b.modEng (fun e => { e with mark := v })) none ∧
      (let x := j.sched.find? (fun x => x.kind == k.code && x.point == e.pc)
       let lv := (s.pkgAt s.fpkg).granted
       (x = none → exec (.eswpt c) s = done b (some (e.pc + 1))) ∧
       (∀ y, x = some y → exec (.eswpt c) s =
         done b (some (if y.tgt.getLsbD (24 * lv + 23) then bits y.tgt (24 * lv + 17) (24 * lv) else e.pc + 1)))) ∧
      (∀ kp kq, kindOf p.toNat = some kp → kindOf q.toNat = some kq → kp.isCore = false → kq.isCore = false → kp ≠ kq →
        (vget j.sw ch.toNat).bind = none →
        exec (.swlink c ch p q) s = done (b.modSw ch.toNat (fun x => { x with bind := some (kp, kq) })) none) ∧
      (∀ y, (vget j.sw ch.toNat).bind = some y → y.1 = k ∨ y.2 = k → (vget j.sw ch.toNat).q = [] →
        exec (.swcut c ch) s = done (b.modSw ch.toNat (fun x => { x with bind := none })) none)) ∧
    (∀ (c : PW) (i : BitVec 1) (disp : BitVec 12) (n : BitVec 10) (link : Bool), EngineReady s j none .none c.pop →
      let b := s.begun j .none c.pop
      let done := fun (t : State) (nxt : Option Nat) => Host.Outcome.next (φ := Fault) (ρ := Refusal) (t.completeWord c.push .next nxt)
      let target := (BitVec.ofInt 64 (e.pc + disp.toInt)).toNat
      (let v := (if vget e.ec i.toNat = 0 then BitVec.ofNat 11 (n.toNat + 1) else vget e.ec i.toNat) - 1
       exec (.eloop c i disp n) s =
         done (b.modEng (fun e => { e with ec := vset e.ec i.toNat v })) (if v = 0 then none else some target)) ∧
      exec (.ejmp c disp link) s =
        done (if link then b.modEng (fun e => { e with link := BitVec.ofNat 14 (e.pc + 1) }) else b) (some target))

/-- 11 R283 to R288, R293 and R294: what an element access of an engine word comes to. In global space one that lies in one piece
reads the bytes at its physical address, or writes them and no others, when its request comes through (02 R66), and one whose
translation fails raises the cause with the element's address; a channel gives its oldest beat, an early mark ends a consumer's stream,
and a beat enters a channel only when it holds fewer than eight. -/
def Obligations.ElementAccess : Prop :=
  (∀ (p : Pat) (u : Use) (rep k : Nat) (r : Run) (t : State) (pa : Nat), p.space = 0 → p.esize ≠ 0 → u.red = false →
    let va := p.addr u.step rep k
    let n := p.esize
    r.s.pieces r.s.party u.need n va.toNat n = (t, .ok [(pa, n)]) → r.s.engAsked = none → t.engAsked = none →
    t.party = r.s.party → t.flawed pa n = false → t.absent pa = false → t.passageAll r.s.party [(pa, n)] = .through →
    let same := fun (r' : Run) => r'.s.jobs = t.jobs ∧
      { r'.w with a := r.w.a, b := r.w.b, left := r.w.left, made := r.w.made } = r.w
    (∃ r', p.read u rep k r = .ok r' (readLe r.s.mem pa n) ∧ r'.s.mem = r.s.mem ∧ same r') ∧
    (∀ f, ∃ r', p.write u f rep k r = .ok r' () ∧ r'.s.mem = writeLe r.s.mem pa n (f (readLe r.s.mem pa n)) ∧ same r')) ∧
  (∀ (p : Pat) (u : Use) (rep k : Nat) (r : Run) (t : State) (c : Cause) (x : Word), p.space = 0 →
    let va := p.addr u.step rep k
    r.s.pieces r.s.party u.need p.bytes va.toNat p.bytes = (t, .fault c x) →
    p.read u rep k r = .fault { r with s := t } c va ∧ (∀ f, p.write u f rep k r = .fault { r with s := t } c va)) ∧
  (∀ (c n : Nat) (r : Run) (l : List Beat), r.w.held.length < n → r.w.ended c = false → c < 8 →
    (r.s.beats c = [] → takeBeat c n r = .wait { r with w := { r.w with inOn := some c } }) ∧
    (∀ b, r.s.beats c = .beat b :: l → ∃ r', takeBeat c n r = .ok r' () ∧ r'.w.held = r.w.held ++ b ∧ r'.s.beats c = l ∧
      r'.s.mem = r.s.mem) ∧
    (r.s.beats c = .mark :: l → ∃ r', takeBeat c n r = .ok r' () ∧ r'.w.held = r.w.held ∧ r'.w.ended c = true ∧ r'.s.beats c = l)) ∧
  (∀ (c : Nat) (b : Beat) (r : Run), (r.s.jobAt r.s.key).isSome = true → c < 8 →
    (8 ≤ (r.s.beats c).length → putBeat c b r = .wait { r with w := { r.w with outOn := some c } }) ∧
    ((r.s.beats c).length < 8 → ∃ r', putBeat c b r = .ok r' () ∧ r'.s.beats c = r.s.beats c ++ [b] ∧ r'.w = r.w ∧
      r'.s.mem = r.s.mem))

/-! ### Vector words (11 R304 to R312) -/

/-- 11 R304 to R307, R309, R311 and R312: a register operation whose sources are registers or the constant writes, repetition by
repetition, the lanes that its function gives where they are active, and nothing else.
11 R293, R294 and R305: a register operation of one repetition whose first source is a channel with a beat and its mark, and
whose destination is a channel with room, takes both and sends one beat, zero where a lane is not written, and its mark. -/
def Obligations.VectorResults : Prop :=
  (∀ (s : State) (j : Job) (w : EW) (v : VDesc) (d : Nat), EngineReady s j (some .V) .none w.pop → v.od = some d → d < 32 →
      notChannel v.oa → notChannel v.ob → notChannel v.oc →
      let b := s.begun j .none w.pop
      let form := fun (i : Instr) (u : VUses) (f : List Bool → List W32 → List W32 → List W32 → List W32 × List Bool) =>
        parseV u (s.desc w.desc.toNat) = some v →
        exec i s = .next ((b.modVregs (foldWord (w.rep.toNat + 1) 1 (fun r _ => v.after d w.step f r))).completeWord w.push w.chain none)
      let ab : VUses := { ob := true }
      let abc : VUses := { ob := true, oc := true }
      let two := fun (g : W32 → W32 → W32) => fun (act : List Bool) (x y _ : List W32) => (List.zipWith g x y, act)
      let one := fun (g : W32 → W32) => fun (act : List Bool) (x _ _ : List W32) => (x.map g, act)
      let all := List.replicate 256 true
      form (.vadd w) ab (two f32Add) ∧ form (.vsub w) ab (two f32Sub) ∧ form (.vmul w) ab (two f32Mul) ∧
      form (.vmax w) ab (two f32Max) ∧ form (.vmin w) ab (two f32Min) ∧
      form (.vfma w) abc (fun act x y z => (List.zipWith (fun a (p : W32 × W32) => f32Fma a p.1 p.2) x (y.zip z), act)) ∧
      form (.vexp2 w) {} (one f32Exp2) ∧ form (.vlog2 w) {} (one f32Log2) ∧ form (.vrcp w) {} (one f32Rcp) ∧
      form (.vrsq w) {} (one f32Rsq) ∧
      form (.vcvt w) { rm := true, fmt := true } (one (fun x => (fcvt64 v.rm v.ffrom v.fto (x.setWidth 64)).setWidth 32)) ∧
      form (.vcmp w) { ob := true, cond := true } (two (fun x y =>
        if (if v.cond = 0 then f32Eq x y else if v.cond = 1 then f32Lt x y else f32Le x y) then 1 else 0)) ∧
      form (.vsel w) abc (fun act x y z => (List.zipWith (fun a (p : W32 × W32) => if p.2 = 0 then p.1 else a) x (y.zip z), act)) ∧
      form (.vperm w) ab (fun act x y _ => (y.map (fun i => nth x (i.toNat % 256) 0), act)) ∧
      form (.vbcst w) { k := true } (fun act x _ _ => (List.replicate 256 (nth x v.k 0), act)) ∧
      form (.vrsum w) {} (fun act x _ _ => (List.replicate 256 (vrsum act x), all)) ∧
      form (.vrmax w) {} (fun act x _ _ => (List.replicate 256 (vrmax act x), all)) ∧
      form (.vscan w) {} (fun act x _ _ => (vscan 0 act x, act)) ∧
      form (.vqnt w) { mask := false, nt := true, rm := true } (fun act x _ _ => (vqnt (rmode v.rm) v.nt x, act)) ∧
      form (.vdq w) {} (fun act x _ _ => (vdq x, act)) ∧
      (∀ c, parseV { ob := true, oc := true, mask := false, hdr := true } (s.desc w.desc.toNat) = some v → v.oc = some c → c < 32 →
        let h := (vregLanes j.vreg c).take 4
        exec (.vsmx w) s = .next ((b.modVregs (fun m => vregPut (foldWord (w.rep.toNat + 1) 1
          (fun r _ => v.after d w.step (fun act x y _ => (smxLanes h x y, act)) r) m) v.vm (smxHeader h))).completeWord w.push w.chain none))) ∧
  (∀ (s : State) (j : Job) (w : EW) (v : VDesc) (c e : Nat) (x : List Byte) (l : List Beat) (p q : Kind),
      EngineReady s j (some .V) .none w.pop → w.rep = 0 → v.oa = some (32 + c) → v.od = some (32 + e) → c < 8 → e < 8 → c ≠ e →
      notChannel v.ob → notChannel v.oc → (vget j.sw c).bind = some (p, .V) → (vget j.sw e).bind = some (.V, q) →
      (vget j.sw c).q = .beat x :: .mark :: l → x.length = 1024 → (vget j.sw e).q.length ≤ 6 →
      let form := fun (i : Instr) (u : VUses) (f : List Bool → List W32 → List W32 → List W32 → List W32 × List Bool) =>
        parseV u (s.desc w.desc.toNat) = some v →
        let o := f (v.activeIn j.vreg) (lanesOf x) (v.lanesIn j.vreg w.step 0 v.ob v.advB) (v.lanesIn j.vreg w.step 0 v.oc v.advC)
        let out := lanesBytes (List.zipWith (fun (a : Bool) (y : W32) => if a then y else 0) o.2 o.1)
        exec i s = .next ((((s.begun j .none w.pop).modSw c (fun k => { k with q := l })).modSw e
          (fun k => { k with q := k.q ++ [.beat out, .mark] })).completeWord w.push w.chain none)
      form (.vadd w) { ob := true } (fun act a b _ => (List.zipWith f32Add a b, act)) ∧
      form (.vmul w) { ob := true } (fun act a b _ => (List.zipWith f32Mul a b, act)) ∧
      form (.vfma w) { ob := true, oc := true } (fun act a b z =>
        (List.zipWith (fun a (p : W32 × W32) => f32Fma a p.1 p.2) a (b.zip z), act)) ∧
      form (.vexp2 w) {} (fun act a _ _ => (a.map f32Exp2, act)) ∧
      form (.vrsum w) {} (fun act a _ _ => (List.replicate 256 (vrsum act a), List.replicate 256 true)))

/-- 11 R308 and R310: in the scratchpad and the accumulator window a load puts each element in bound, or zero, in its lane, a store
writes each unmasked lane to its element, VGATH reads and VSCAT writes at each active lane's index; other lanes and bytes stay. -/
def Obligations.VectorMoves : Prop :=
  ∀ (s : State) (j : Job) (w : EW), EngineReady s j (some .V) .none w.pop → Sound s →
    let b := s.begun j .none w.pop
    let d := s.desc w.desc.toNat
    let reps := w.rep.toNat + 1
    let done := fun (t : State) => Host.Outcome.next (φ := Fault) (ρ := Refusal) (t.completeWord w.push w.chain none)
    let put := fun (m : Memory) => done ({ b with mem := m } : State)
    (∀ (acc : Bool) (v : VMove), parseMove acc d = some v → (acc = true ∨ v.p.space = 1) → LocalPattern s v.p w.step reps →
      let live := fun (k : Nat) (m : Map W32) => v.me = false ∨ vlane m v.vm (v.lane k) ≠ 0
      exec (if acc then .vlda w else .vld w) s = done (b.modVregs (foldWord reps v.p.n (fun r k m =>
        if live k m then vlanePut m (v.reg r k) (v.lane k) (BitVec.ofNat 32 (if v.p.inB k then v.p.value s w.step r k s.mem else 0))
        else m))) ∧
      exec (if acc then .vsta w else .vst w) s = put (foldWord reps v.p.n (fun r k m =>
        if live k j.vreg ∧ v.p.inB k = true then
          v.p.store s w.step r k ((vlane j.vreg (v.reg r k) (v.lane k)).toNat % 2 ^ (8 * v.p.esize)) m
        else m) s.mem)) ∧
    (∀ (v : VDesc) (p : Pat), w.rep = 0 → parseGather d = some p → p.space = 1 → notChannel v.oa → notChannel v.ob →
      let act := v.activeIn j.vreg
      let at_ := fun (i : Nat) => (nth (v.lanesIn j.vreg w.step 0 v.ob v.advB) i 0).toNat
      let bound := bits (nth d 3 0) 63 32
      let ok := fun (i : Nat) => bound = 0 ∨ at_ i < bound
      let pa := fun (i : Nat) => apAddr s.fpkg s.ftile (p.base + 4 * at_ i)
      (∀ i, i < 256 → nth act i false = true → ok i → p.base + 4 * at_ i + 4 ≤ 0x60_0000) →
      (∀ c, parseV { od := true, oa := false, ob := true, mem := true } d = some v → v.od = some c → c < 32 →
        exec (.vgath w) s = done (b.modVregs (foldWord 1 256 (fun _ i m =>
          if nth act i false then vlanePut m (regAt c v.advD w.step 0) i (if ok i then read32 s.mem (pa i) else 0) else m)))) ∧
      (parseV { od := false, oa := true, ob := true, mem := true } d = some v →
        exec (.vscat w) s = put (foldWord 1 256 (fun _ i m =>
          if nth act i false = true ∧ ok i then write32 m (pa i) (nth (v.lanesIn j.vreg w.step 0 v.oa v.advA) i 0) else m) s.mem)))

/-! ### Copies and transposes (11 R313 to R319) -/

/-- 11 R313 to R315: between scratchpad and accumulator patterns a copy word makes each destination element in bound the value of
its source element, zero where that is out of bound: as it is (CPY, TXBLK, TXGAT), reduced into the old one (CPYRED) or converted
(TXCVT); every other byte stays. -/
def Obligations.LocalCopies : Prop :=
  ∀ (s : State) (j : Job) (w : EW) (ps pd : Pat), w.desc.toNat ≠ 1023 → Sound s →
    let reps := w.rep.toNat + 1
    let d1 := s.desc w.desc.toNat
    let d2 := s.desc (w.desc.toNat + 1)
    let locals := fun (l : List Nat) => parsePat d1 l = some ps ∧ parsePat d2 l = some pd ∧ (ps.space = 1 ∨ ps.space = 2) ∧
      (pd.space = 1 ∨ pd.space = 2) ∧ LocalPattern s ps w.step reps ∧ LocalPattern s pd w.step reps
    let val := fun (ok : Bool) (r k : Nat) (m : Memory) => if ok then ps.value s w.step r k m else 0
    let put := fun (m : Memory) => ({ s.begun j .none w.pop with mem := m } : State).completeWord w.push w.chain none
    let done := fun (n : Nat) (f : Nat → Nat → Memory → Nat) => Host.Outcome.next (φ := Fault) (ρ := Refusal)
      (put (foldWord reps n (fun r k m => if pd.inB k then pd.store s w.step r k (f r k m) m else m) s.mem))
    (EngineReady s j (some .C) .none w.pop → ps.n = pd.n → ps.esize = pd.esize → ps.aux = 0 →
      (locals [0, 1, 2, 3] → pd.aux = 0 → exec (.cpy w) s = done pd.n (fun r k m => val (ps.inB k) r k m)) ∧
      (let op := bits pd.aux 2 0
       locals [0, 1, 2, 3] → pd.space = 1 → bits pd.aux 31 3 = 0 → op ≤ 4 → pd.esize = (if op = 1 then 2 else 4) →
        exec (.cpyred w) s = done pd.n (fun r k m => reduceStep op (pd.value s w.step r k m) (val (ps.inB k) r k m)))) ∧
    (EngineReady s j (some .T) .none w.pop → locals [0, 1, 3] →
      (let src := BitVec.ofNat 3 (bits ps.aux 2 0)
       let dst := BitVec.ofNat 3 (bits ps.aux 5 3)
       bits ps.aux 31 8 = 0 → pd.aux = 0 → ps.n = pd.n → fcvtLegal src dst = true → ps.esize = fmtBytes src.toNat →
       pd.esize = fmtBytes dst.toNat → exec (.txcvt w) s = done pd.n (fun r k m =>
         (fcvt64 (BitVec.ofNat 2 (bits ps.aux 7 6)) src dst (BitVec.ofNat 64 (val (ps.inB k) r k m))).toNat % 2 ^ (8 * pd.esize))) ∧
      (ps.e0 = 32 → ps.e1 = 32 → pd.e0 = 32 → pd.e1 = 32 → ps.e2 = pd.e2 → ps.esize = pd.esize → ps.esize ≤ 4 → ps.aux = 0 → pd.aux = 0 →
        exec (.txblk w) s = done pd.n (fun r k m =>
          let i := k / 32 % 32 + 32 * (k % 32 + 32 * (k / 1024))
          val (ps.inB i) r i m)) ∧
      (let at_ := bits pd.aux 22 0
       ps.e0 = pd.e0 → ps.e2 = pd.e2 → ps.esize = pd.esize → ps.aux = 0 → bits pd.aux 31 23 = 0 → bits pd.aux 0 0 = 0 →
       at_ + 2 * pd.e1 ≤ 0x60_0000 →
        exec (.txgat w) s = done pd.n (fun r k m =>
          let i := readLe m (apAddr s.fpkg s.ftile (at_ + 2 * pd.i1 k)) 2
          val (decide (i < ps.b1) && decide (i < ps.e1) && decide (pd.i0 k < ps.b0)) r (pd.i0 k + ps.e0 * (i + ps.e1 * pd.i2 k)) m)))

/-- 11 R316 to R319, 13 R359, 08 R218 and 04 R118: CPYPK writes each element of a flow that has no circuit to the remote tile; CPYCK
puts its word on the open circuit and its status dword; CPYCODE loads the image; CPYOUT writes the line that the walk from the root
reaches, zeros for a null: each completes where its requests come through (02 R66). -/
def Obligations.CopyUnits : Prop :=
  ∀ (s : State) (j : Job) (w : EW), EngineReady s j (some .C) .none w.pop → Sound s →
    let b := s.begun j .none w.pop
    let reps := w.rep.toNat + 1
    let d1 := s.desc w.desc.toNat
    let d2 := s.desc (w.desc.toNat + 1)
    let done := fun (t : State) => Host.Outcome.next (φ := Fault) (ρ := Refusal) (t.completeWord w.push w.chain none)
    (∀ ps pd : Pat, w.desc.toNat ≠ 1023 → parsePat d1 [0, 1, 2] = some ps → parsePat d2 [4] = some pd → ps.n = pd.n →
      ps.esize = pd.esize → ps.esize ≠ 0 → ps.aux = 0 → bits pd.aux 31 8 = 0 → (ps.space = 1 ∨ ps.space = 2) →
      LocalPattern s ps w.step reps →
      let pk := pd.base / 2 ^ 31
      let tl := pd.base / 2 ^ 23 % 256
      let at_ := fun (r k : Nat) => (pd.addr w.step r k - BitVec.ofNat 64 (pd.base / 2 ^ 23 * 2 ^ 23)).toNat
      (pd.aux = 0 ∨ (s.flows.filter (fun x => x.ofMeter s.fpkg s.ftile)).length < 64) →
      (∀ f, s.pkFlow pd = some f → f.circuited = false) →
      pk < (s.pkgAt s.fpkg).d → s.tilePresent pk tl = true →
      s.windowOk s.fpkg j.tenant.toNat (apAddr pk tl 0) (apAddr pk tl 0xFFFF) permW = true →
      s.passage s.fpkg s.ftile (.tile pk tl) = .through →
      (∀ r k, r < reps → k < pd.n → pd.inB k = true → at_ r k + pd.esize ≤ 0x60_0000) →
      ∃ t : State, exec (.cpypk w) s = done t ∧ t.mem = foldWord reps pd.n (fun r k m => if pd.inB k then
        writeLe m (apAddr pk tl (at_ r k)) pd.esize (if ps.inB k then ps.value s w.step r k m else 0) else m) s.mem) ∧
    (∀ (ps pd : Pat) (i : Nat) (c : Circuit), w.desc.toNat ≠ 1023 → w.rep = 0 → parsePat d1 [1] = some ps → parsePat d2 [5] = some pd →
      ps.n = 1 → pd.n = 1 → ps.esize = 4 → pd.esize = 4 → ps.aux = 0 → bits pd.aux 31 23 = 0 → pd.aux.toNat % 8 = 0 →
      LocalPattern s ps w.step 1 → ps.inB 0 = true → pd.inB 0 = true → pd.aux.toNat + 8 ≤ 0x60_0000 →
      j.findSend (BitVec.ofNat 64 pd.base) = some i → (vget j.send i).st = .opened → s.circ (vget j.send i).circ = some c →
      c.alive = true → s.expired c = false → MemoryCanonical s →
      ∃ t : State, exec (.cpyck w) s = done t ∧
        t.circ c.id = some { c with sent := c.sent + 1, words := c.words ++ [[(0, BitVec.ofNat 32 (ps.value s w.step 0 0 s.mem))]] } ∧
        read64 t.mem (apAddr s.fpkg s.ftile pd.aux.toNat) = 1) ∧
    (∀ (t : State) (x : Unit), let d := fun (k : Nat) => nth d1 k (0 : Word)
      bits (d 0) 63 61 = 0 → (d 0).getLsbD 56 = false → bits (d 0) 7 0 = 0 → bits (d 1) 63 1 = 0 → d 2 = 0 → d 3 = 0 → w.rep = 0 →
      w.step = 0 → b.loadImage s.fpkg s.ftile s.focus.slot.toNat j.tenant.toNat (bits (d 0) 55 0) (!(d 1).getLsbD 0) = (t, .ok x) →
      exec (.cpycode w) s = done t) ∧
    (∀ (tr : Tree) (pp dom : Nat) (l : List (Nat × Nat)), parseTree d1 = some tr → w.rep = 0 → tr.n = 1 → tr.h = 1 →
      tr.root + 16 ≤ 0x60_0000 → s.caRegion s.fpkg j.tenant.toNat = some (pp, dom) →
      let n := s.localName tr.root
      let c := s.caAt pp dom
      let va := BitVec.ofNat 64 tr.base
      let through := fun (u : State) (l : List (Nat × Nat)) => (∀ x ∈ l, u.absent x.1 = false) ∧ u.passageAll b.party l = .through
      let reaches := fun (pl : Place) => s.passage s.fpkg s.ftile pl = .through
      let brought := fun (u : State) (pl : Place) (x : CaLine) =>
        ((u.countReq s.fpkg s.ftile pl).takeSeq (requester s.key .C false) pl.target).2.carry (wayBack s.fpkg (dieOf s.ftile) pl) x.at_
          (readBytes s.mem x.at_ 192)
      (n = 0 → ∀ t, b.pieces b.party permW 192 va.toNat 192 = (t, .ok l) → through t l →
        ∃ t' : State, exec (.cpyout w) s = done t' ∧ t'.mem = putBytes s.mem l (List.replicate 192 0)) ∧
      (∀ x y t, n ≠ 0 → c.serving = true → c.find n = some x → x.node = true → reaches (.die pp (nameDie n)) →
        let n0 := nameAt s.mem x.at_
        n0 ≠ 0 → c.find n0 = some y → y.node = false → reaches (.die pp (nameDie n0)) →
        let b1 := brought (brought b (.die pp (nameDie n)) x) (.die pp (nameDie n0)) y
        b1.pieces b1.party permW 192 va.toNat 192 = (t, .ok l) → through t l →
        ∃ t' : State, exec (.cpyout w) s = done t' ∧ t'.mem = putBytes s.mem l (readBytes s.mem y.at_ 192)))

/-! ### Matrix words (11 R296 to R303) -/

/-- 11 R296 to R303: MLDB makes B resident, each dense byte from its place; MMA adds and MMAZ lays down the block sums of each
repetition's row, with the trap counters and the scale bytes they use; MCLR, MTHR, MRDC and MOUT. -/
def Obligations.MatrixWords : Prop :=
  ∀ (s : State) (j : Job) (w : EW), EngineReady s j (some .M) .matrix w.pop → Sound s →
    let b := s.begun j .matrix w.pop
    let d := s.desc w.desc.toNat
    let x := fun (k : Nat) => nth d k (0 : Word)
    let reps := w.rep.toNat + 1
    let pilot := (s.pkgAt s.fpkg).svc == 0
    let pad := apAddr s.fpkg s.ftile
    let done := fun (t : State) => Host.Outcome.next (φ := Fault) (ρ := Refusal) (t.completeWord w.push w.chain none)
    let put := fun (m : Memory) => done ({ b with mem := m } : State)
    (∀ m cols, parseMldb pilot d = some m → w.rep = 0 → m.columns s = .ok cols →
      exec (.mldb w) s = done (b.modCur (fun j => { j with
        resB := some ⟨BitVec.ofNat 2 m.btype, BitVec.ofNat 2 m.layout, m.sp, m.bscl, m.k, m.n, cols⟩ })) ∧
      (m.sp = false → m.cv = false → m.btype ≠ 0 → ∀ (c kb i : Nat) (col : List BBlock) (blk : BBlock), i < 32 →
        cols[c]? = some col → col[kb]? = some blk →
          blk.live = true ∧ nth blk.codes i 0 = readByte s.mem (pad (m.base + c * m.cstride + 32 * kb + i)))) ∧
    (∀ (r : ResidentB) (m : Mma) (zero : Bool), j.resB = some r → parseMma pilot (some r) d = some m →
      let row := fun (i : Nat) => (m.arow : Int) + i * m.ainc
      let a0 := fun (i : Nat) => (BitVec.ofInt 64 (m.base + i * w.step.toInt * m.gran)).toNat
      let len := if m.atype = 0 then (m.kb + 1) / 2 else m.kb
      let need := if m.ascl then m.k / 32 else 0
      (∀ i, i < reps → 0 ≤ row i ∧ row i < s.window.2 ∧ a0 i + len ≤ 0x60_0000) → reps * need ≤ (scaleFront j.sq).length →
      let scales := fun (i : Nat) => ((scaleFront j.sq).drop (i * need)).take need
      let o := foldWord reps 1 (fun i _ (y : Memory × Vector W32 3) =>
        rowOut r.btype.toNat r.bscl zero (m.row (readBytes y.1 (pad (a0 i)) len) (scales i)) r.cols
          (s.accAddr (row i * 8192 + 4 * m.acol).toNat) y.1 y.2) (s.mem, j.traps.count)
      let traps : MatrixTraps := { j.traps with count := o.2 }
      exec (if zero then .mmaz w else .mma w) s = done (({ b with mem := o.1 } : State).modCur (fun j =>
        let m := { j.m with threshold := crossed j.traps.count.toList traps, starved := if m.ascl then none else j.m.starved }
        { j with traps := traps, sq := j.sq.drop (reps * need), m := m }))) ∧
    (∀ p, parsePat d [2] = some p → p.aux = 0 → LocalPattern s p w.step reps →
      exec (.mclr w) s = put (foldWord reps p.n (fun r k m => if p.inB k then p.store s w.step r k 0 m else m) s.mem)) ∧
    (bits (x 0) 63 32 = 0 → bits (x 1) 63 32 = 0 → bits (x 2) 63 32 = 0 → bits (x 3) 63 1 = 0 →
      exec (.mthr w) s = done (b.modCur (fun j => { j with
        traps := ⟨if (x 3).getLsbD 0 then Vector.replicate 3 0 else j.traps.count,
          #v[(x 0).setWidth 32, (x 1).setWidth 32, (x 2).setWidth 32]⟩ }))) ∧
    (∀ p, parsePat [x 0, 0, 0, 0] [1] = some p → x 1 = 0 → x 2 = 0 → bits (x 3) 63 1 = 0 → p.base % 4 = 0 →
      let at_ := fun (r i : Nat) => (BitVec.ofInt 64 (p.base + r * w.step.toInt * 16 + 4 * i)).toNat
      (∀ r i, r < reps → i < 6 → at_ r i + 4 ≤ 0x60_0000) →
      let o := foldWord reps 6 (fun r i (y : Memory × MatrixTraps) =>
        (write32 y.1 (pad (at_ r i)) (if i < 3 then vget y.2.count i else vget y.2.limit (i - 3)),
          if (x 3).getLsbD 0 ∧ i = 5 then { y.2 with count := Vector.replicate 3 0 } else y.2)) (s.mem, j.traps)
      exec (.mrdc w) s = done (({ b with mem := o.1 } : State).modCur (fun j => { j with traps := o.2 }))) ∧
    (∀ p f n, parsePat d [1, 3] = some p → p.space = 1 → bits p.aux 31 22 = 0 → moutFmt (bits p.aux 21 20) = some (f, n) → p.esize = n →
      bits p.aux 19 9 + p.n ≤ 2048 → LocalPattern s p w.step reps →
      (∀ r, r < reps → bits p.aux 8 0 + r < s.window.2) →
      exec (.mout w) s = put (foldWord reps p.n (fun r k m => if p.inB k then p.store s w.step r k
        (fpConvert fp32 f .rne (read32 m (s.accAddr ((bits p.aux 8 0 + r) * 8192 + 4 * (bits p.aux 19 9 + k)))).toNat) m else m) s.mem))

/-! ### Pinwheel words (12 R321 to R337) -/

/-- 12 R323 to R335: WPATCH, WLOADY and WREST give cells their entries and registers from the scratchpad, WSAVE writes Y and Z of
each, WDOM sets the domains, WRUN makes its array cycles, a WRUN of one repetition delivers the lanes of its input beat before them and
sends a sample beat after, with the marks of both channels, and WSAMP sends a sample beat and its mark; a step's residue and output
make up the exact sum. -/
def Obligations.PinwheelWords : Prop :=
  (∀ (s : State) (j : Job) (w : EW), EngineReady s j (some .W) .pinwheel w.pop →
    let b := s.begun j .pinwheel w.pop
    let d := s.desc w.desc.toNat
    let x := fun (k : Nat) => nth d k (0 : Word)
    let reps := w.rep.toNat + 1
    let done := fun (t : State) => Host.Outcome.next (φ := Fault) (ρ := Refusal) (t.completeWord w.push w.chain none)
    let put := fun (m : Memory) => done ({ b with mem := m } : State)
    (∀ (p : Pat), p.space = 1 → bits p.aux 31 9 = 0 → LocalPattern s p w.step reps →
      let f := bits p.aux 8 0
      let cell := fun (r k : Nat) => f + r * p.n + k
      let val := fun (r k : Nat) => p.value s w.step r k s.mem
      let each := fun (g : Nat → Nat → Pinwheel → Pinwheel) =>
        done (b.modPw (foldWord reps p.n (fun r k y => if p.inB k then g (cell r k) (val r k) y else y)))
      f + reps * p.n ≤ 512 →
      (parsePat d [0, 1] = some p → p.esize = 8 →
        ((∀ r k, r < reps → k < p.n → p.inB k = true → patchBad (BitVec.ofNat 64 (val r k)) = false) →
          exec (.wpatch w) s = each (fun i v y => y.setEntry i (BitVec.ofNat 64 v))) ∧
        exec (.wrest w) s = each (fun i v y =>
          y.setCell i { y.cell i with y := BitVec.ofNat 32 v, z := BitVec.ofNat 32 (v / 2 ^ 32) }) ∧
        exec (.wsave w) s = put (foldWord reps p.n (fun r k m => if p.inB k then
          p.store s w.step r k ((b.pwAt.cell (cell r k)).y.toNat + (b.pwAt.cell (cell r k)).z.toNat * 2 ^ 32) m else m) s.mem)) ∧
      (parsePat d [0, 1, 3] = some p → p.esize = 4 →
        exec (.wloady w) s = each (fun i v y => y.setCell i { y.cell i with y := BitVec.ofNat 32 v }))) ∧
    (let reg := fun (p : Pinwheel) (i : Fin 8) => BitVec.ofNat 64
       ((if (x 2).getLsbD (16 + i.val) then 0 else bits p.dom[i] 47 32) * 2 ^ 32 + (if (x 2).getLsbD i.val then 2 ^ 16 else 0) +
         (if (x 2).getLsbD (8 + i.val) then bits (x (i.val / 4)) (16 * (i.val % 4) + 15) (16 * (i.val % 4)) else bits p.dom[i] 15 0))
     bits (x 2) 63 24 = 0 → x 3 = 0 → w.step = 0 → w.rep = 0 →
      exec (.wdom w) s = done (b.modPw (fun p => { p with dom := Vector.ofFn (reg p) }))) ∧
    (∀ p : Nat → Pinwheel, bits (x 0) 63 36 = 0 → x 1 = 0 → x 2 = 0 → x 3 = 0 → w.step = 0 → bits (x 0) 25 24 ≠ 3 →
      (x 0).getLsbD 16 = false → (x 0).getLsbD 20 = false →
      let n := reps * (bits (x 0) 15 0 + 1)
      p 0 = b.pwAt → (∀ i, i < n → (p i).cycle = .ok (p (i + 1))) → exec (.wrun w) s = done (b.modPw (fun _ => p n))) ∧
    (∀ (p : Nat → Pinwheel) (kp kq : Kind) (y : List Byte) (l : List Beat),
      bits (x 0) 63 36 = 0 → x 1 = 0 → x 2 = 0 → x 3 = 0 → w.step = 0 → w.rep = 0 →
      let input := (x 0).getLsbD 16
      let output := (x 0).getLsbD 20
      let ich := bits (x 0) 19 17
      let och := bits (x 0) 23 21
      let f := bits (x 0) 35 27
      let mode := bits (x 0) 25 24
      let n := bits (x 0) 15 0 + 1
      mode ≠ 3 → (input = true → output = true → ich ≠ och) →
      (input = true → (vget j.sw ich).bind = some (kp, .W) ∧ (vget j.sw ich).q = .beat y :: .mark :: l ∧ y.length = 1024 ∧
        lanesOk y = true ∧ b.pwAt.lanes y = .ok (p 0)) →
      (input = false → p 0 = b.pwAt) → (∀ i, i < n → (p i).cycle = .ok (p (i + 1))) →
      (output = true → (vget j.sw och).bind = some (.W, kq) ∧ (vget j.sw och).q.length ≤ 6) →
      let t := b.modPw (fun _ => if output = true ∧ mode = 2 ∧ (x 0).getLsbD 26 = true then (p n).clearCounts f 256 else p n)
      let t := if input = true then t.modSw ich (fun k => { k with q := l }) else t
      let t := if output = true then t.modSw och (fun k => { k with q := k.q ++ [.beat ((p n).sampleBeat mode f 256), .mark] }) else t
      exec (.wrun w) s = done t) ∧
    (∀ k : Kind, bits (x 0) 63 23 = 0 → x 1 = 0 → x 2 = 0 → x 3 = 0 → bits (x 0) 4 3 ≠ 3 → w.rep = 0 →
      let n := bits (x 0) 22 15 + 1
      let f := bits (x 0) 14 6
      let c := bits (x 0) 2 0
      let mode := bits (x 0) 4 3
      f + n ≤ 512 → (vget j.sw c).bind = some (.W, k) → (vget j.sw c).q.length ≤ 6 →
      let t := if mode = 2 ∧ (x 0).getLsbD 5 = true then b.modPw (fun p => p.clearCounts f n) else b
      exec (.wsamp w) s = done (t.modSw c (fun k => { k with q := k.q ++ [.beat (b.pwAt.sampleBeat mode f n), .mark] })))) ∧
  (∀ (y z : W32) (i : Int), i = -1 ∨ i = 0 ∨ i = 1 →
    z.toInt + i * y.toInt = (zStep y z i).1.toInt + (zStep y z i).2 * 2 ^ 32 ∧
      ((zStep y z i).2 = -1 ∨ (zStep y z i).2 = 0 ∨ (zStep y z i).2 = 1))

/-! ### Events: bring-up, measurement, quiesce (20 R425, R436 to R441; 01 R13) -/

/-- 20 R436 to R441 and 01 R13: what the bring-up, firmware, attestation and quiesce events leave. A reset leaves nothing of the
package's tiles, jobs, tenants and requests and no service but pilot light, keeps the rollback counter, and changes no byte
outside the package's tiles (log 8); full service repairs the lanes and the dies that come into service, each of which then offers
its sound tiles (R434), and comes to no package with an HBM stack that cannot be trained. The model chose the order and the layout of
what QUOTE and MEAS hash (log 32), what the tests find and what it repairs (logs 12, 33), and which requests a power-off and a stop leave
(logs 65, 82). -/
def Obligations.BringUpEvents : Prop :=
  ∀ s : State,
    let p := s.evPkg
    let a := s.arg
    let k := s.pkgAt p
    let n := fun (t : State) => Host.Outcome.next (φ := Fault) (ρ := Refusal) t
    (∃ t : State, exec .packageReset s = n t ∧ (∀ key, keyPkg key = p → t.jobAt key = none) ∧
      (∀ r ∈ t.reqs, keyPkg r.by_.key ≠ p) ∧ (∀ i, i / 256 = p → t.tileAt i = Tile.reset) ∧
      (∀ u, u < 256 → t.tenAt p u = TenantArea.resetFor u) ∧
      (∀ q u, u < 256 → q ≠ p → t.tenAt q u = s.tenAt q u) ∧
      ((t.pkgAt p).boot = .pilot ∨ (t.pkgAt p).boot = .recovery) ∧ (t.pkgAt p).svc = 0 ∧ (t.pkgAt p).rollback = k.rollback ∧
      ∀ b, (b < apAddr p 0 0 ∨ apAddr p 256 0 ≤ b) → (b < blockAddr p 0 0 ∨ blockAddr p 256 0 ≤ b) →
        readByte t.mem b = readByte s.mem b) ∧
    (k.boot = .pilot → k.cfgOk = true → k.svc = 0 → a.grant.trained = true →
      let mid := s.repairLanes p a.grant
      let k' := mid.pkgAt p
      ∃ t : State, exec .fullServiceChange s = n t ∧ (t.pkgAt p).boot = .full ∧
      (t.pkgAt p).svc = 1 ∧ (t.pkgAt p).dies = k'.dies ||| k'.soundDies a.grant ∧ (t.pkgAt p).ports = k'.ports ||| a.grant.ports ∧
      (∀ (d i : Nat), d < 4 → (vget k'.capt d).getLsbD i = true → (vget (t.pkgAt p).capt d).getLsbD i = true) ∧
      (∀ (d i : Nat), d < 4 → i < 64 → (k'.soundDies a.grant).getLsbD d = true → k'.dies.getLsbD d = false →
        ((vget a.grant.capt d).getLsbD i = true → (∀ c ∈ a.grant.columns, c.1 / 64 ≠ d) → (∀ e ∈ k'.columns, e.1 / 256 / 64 ≠ d) →
          (vget (t.pkgAt p).capt d).getLsbD i = true) ∧
        ((vget a.grant.capt d).getLsbD i = false → vget k'.spares d = 0 → (vget k'.capt d).getLsbD i = false →
          (vget (t.pkgAt p).capt d).getLsbD i = false)) ∧
      (t.pkgAt p).alerts = k'.alerts + 1 ∧ t.jobs = mid.jobs ∧ t.tiles = mid.tiles ∧ (a.grant.lanes = [] → mid = s)) ∧
    ((k.boot ≠ .pilot ∨ k.cfgOk = false ∨ k.svc ≠ 0 ∨ a.grant.trained = false) → exec .fullServiceChange s = n s) ∧
    (k.boot = .pilot ∨ k.boot = .full → exec .firmwareUpdate s =
      if a.img.version.toNat < k.rollback then n s
      else n (s.modPkg p (fun k => { k with fw := vset k.fw (1 - k.fwActive % 2) ⟨a.img, k.verifies a.img, false⟩ }))) ∧
    (k.boot = .pilot ∨ k.boot = .full →
      (let mask := BitVec.ofNat 8 a.idx
       let q := sm3 (a.data ++ [mask] ++ ((List.range 8).filter (fun m => mask.getLsbD m)).flatMap (fun m =>
         beBytes 32 (vget k.meas m).toNat) ++ dwordBytes [k.cap0 p, k.cap1])
       let sig := Config.sm2Sign (Config.identityKey p) (Config.deviceSerial p) q
       a.data.length = 32 → exec .quoteRequest s = n { s.modPkg p (fun k => { k with quote := some ⟨q, sig⟩ }) with
         answer := ansOk (beBytes 32 q.toNat ++ beBytes 64 sig.toNat) }) ∧
      (let h := sm3 (beBytes 32 (vget k.meas a.idx).toNat ++ beBytes 32 a.digest.toNat)
       3 ≤ a.idx → a.idx ≤ 7 → exec .measExtend s = n (s.modPkg p (fun k => { k with meas := vset k.meas a.idx h })))) ∧
    (k.quiesce = 3 → exec .trayPowerOff s =
      n { s.modPkg p (fun k => { k with boot := .poweredOff }) with reqs := s.reqs.filter (fun r => keyPkg r.by_.key != p) }) ∧
    (k.quiesce = 0 → ∃ t : State, exec .quiesceStop s = n t ∧ (t.pkgAt p).quiesce = 1 ∧ (t.pkgAt p).svc = 2 ∧
      (t.pkgAt p).stopAt = s.wall ∧ (t.pkgAt p).alerts = k.alerts + 1 ∧ t.jobs = s.jobs) ∧
    (k.quiesce = 1 → us (100 * k.deadline) ≤ s.wall - k.stopAt → ∃ t : State, exec .quiesceDeadline s = n t ∧
      ((∀ e ∈ t.jobs, keyPkg e.1 ≠ p) → (t.pkgAt p).quiesce = 2) ∧ (∀ e ∈ t.jobs, keyPkg e.1 = p → (t.pkgAt p).quiesce = 1)) ∧
    (k.quiesce = 2 → (∃ t : State, exec .quiesceIsolate s = n t ∧ (t.pkgAt p).quiesce = 3 ∧
        ∀ q, q < 6 → (vget (t.pkgAt p).port q).iso = true) ∧
      exec .quiesceResume s = n ((s.modPkg p (fun k => { k with
        quiesce := 0, svc := if k.boot == Boot.full then 1 else 0, alerts := k.alerts + 1
        pfRaises := k.pfRaises + 1 })).ceilingFall p)) ∧
    (k.quiesce = 3 → ∃ t : State, exec .quiesceResume s = n t ∧ (t.pkgAt p).quiesce = 0 ∧ (t.pkgAt p).alerts = k.alerts + 1 ∧
      ∀ q, q < 6 → (vget (t.pkgAt p).port q).iso = false)

/-! ### Events: power, sensors, repair, ports and links (20 R431 to R435; 15 R403, R404; 13 R347 to R350; 02 R69) -/

/-- 20 R431 to R435: what a power evaluation, a fall of the ceiling, a sensor sample, a clear of sensor failures and an in-field
test leave; the core clock, and
CYCLE with it, goes on from where it stands. That a tile which a spare replaces serves no tenant yet is the model's choice (log 33).
15 R403 and R404, 11 R300, 13 R347 to R350, 02 R69: a timing replay costs an issue and nothing else; a droop window opens, and
closes after 64 engine cycles, when a word that began inside it has one more suspect execution and runs again; an MMA whose row
checksum mismatches goes back to its start, its rows, trap counts and scale bytes as it found them. How a window and a re-execution
run their course is the model's choice (log 58). A starved MMA faults (when it has not begun: log 45); port and link events leave the lane counts, states and breaks that those rules give; a CRC error on a die-to-die link
resets the dictionaries of both its directions and loses the requests on it. -/
def Obligations.PowerAndLinkEvents : Prop :=
  (∀ s : State,
      let p := s.evPkg
      let a := s.arg
      let k := s.pkgAt p
      let n := fun (t : State) => Host.Outcome.next (φ := Fault) (ρ := Refusal) t
      (us k.pcwinNow / 8 ≤ s.wall - k.lastEval →
        let l := if k.pclimit ≠ 0 ∧ k.pclimit < a.idx ∧ 0 < k.level then k.level - 1
          else if (k.pclimit = 0 ∨ 100 * a.idx ≤ 85 * k.pclimit) ∧ us k.pcramp ≤ s.wall - k.lastChange ∧ k.level < 7 then k.level + 1
          else k.level
        ∃ t : State, exec .capEvaluate s = n t ∧ (t.pkgAt p).level = l ∧ (t.pkgAt p).granted = min l k.ceilingNow ∧
          (t.pkgAt p).ceiling = k.ceilingNow ∧ (t.pkgAt p).average = a.idx % 2 ^ 16 ∧ (t.pkgAt p).lastEval = s.wall ∧
          (t.pkgAt p).pcwinNow = k.pcwin ∧ t.phase p = s.phase p) ∧
      (k.ceilingNow < k.ceiling → ∃ t : State, exec .ceilingFall s = n t ∧ (t.pkgAt p).ceiling = k.ceilingNow ∧
        (t.pkgAt p).granted = min k.level k.ceilingNow ∧ (t.pkgAt p).level = k.level ∧ t.phase p = s.phase p) ∧
      (a.idx < 14 → (∀ w, mget k.lastSample a.idx = some w → us 10 ≤ s.wall - w) →
        ∃ t : State, exec .sensorSample s = n t ∧
          (t.pkgAt p).sensors = vset k.sensors a.idx (((vget k.sensors a.idx).judge a.temps).vote a.temps k.ttrip) ∧
          mget (t.pkgAt p).lastSample a.idx = some s.wall ∧ k.alerts ≤ (t.pkgAt p).alerts) ∧
      (a.idx < 14 → ∃ t : State, exec .senstatClear s = n t ∧ ∀ i : Fin 3,
        (vget (t.pkgAt p).sensors a.idx).failed.getLsbD i.val =
          ((vget k.sensors a.idx).failed.getLsbD i.val && !a.val.getLsbD i.val)) ∧
      (let tk := s.evTKey
       ((s.tileAt tk).testing = false → s.mayTest p s.evTile = true →
         exec .infieldTest s = n (s.modTile tk (fun x => { x with testing := true }))) ∧
       ((s.tileAt tk).testing = true →
         (a.yes = true → exec .infieldTest s = n (s.modTile tk (fun x => { x with testing := false }))) ∧
         (a.yes = false → 0 < vget k.spares (dieOf s.evTile) → ∃ t : State, exec .infieldTest s = n t ∧
           (t.tileAt tk).tenant = none ∧ (t.tileAt tk).testing = false ∧ (t.pkgAt p).capt = k.capt ∧
           vget (t.pkgAt p).spares (dieOf s.evTile) = vget k.spares (dieOf s.evTile) - 1) ∧
         (a.yes = false → vget k.spares (dieOf s.evTile) = 0 → ∃ t : State, exec .infieldTest s = n t ∧
           (t.tileAt tk).testing = false ∧ t.tilePresent p s.evTile = false ∧ (t.pkgAt p).alerts = k.alerts + 1)))) ∧
  (∀ s : State,
      let p := s.evPkg
      let a := s.arg
      let q := a.idx
      let n := fun (t : State) => Host.Outcome.next (φ := Fault) (ρ := Refusal) t
      let port := fun (f : Port → Port) => s.modPkg p (fun k => { k with port := vset k.port q (f (vget k.port q)) })
      let core := if a.yes then Kind.X else .A
      let lost := fun (t : State) => t.mem = s.mem ∧ t.jobs = s.jobs ∧ t.reqs.map Req.id = s.reqs.map Req.id
      (∀ j, s.jobAt s.evKey = some j → j.mayAct core = true → exec .coreTimingReplay s =
        n (s.setJob s.evKey (j.modCore core (fun c => { c with issuecyc := c.issuecyc + 1 })))) ∧
      (q < 4 → exec .droopWindowOpen s =
        n (s.modPkg p (fun k => { k with droop := setBits k.droop q q 1, droopAt := vset k.droopAt q (s.phase p) }))) ∧
      (a.yes = false → a.idx2 < 4 → (s.pkgAt p).droop.getLsbD a.idx2 = true →
        engineCycles 64 ≤ s.since p (vget (s.pkgAt p).droopAt a.idx2) →
        let shut := s.modPkg p (fun k => { k with droop := setBits k.droop a.idx2 a.idx2 0 })
        (s.suspects p a.idx2 = [] → exec .droopReexecute s = n shut) ∧
        (∀ id, s.suspects p a.idx2 = [id] → exec .droopReexecute s =
          n (({ shut with focus := id } : State).modEng (fun e => { e with suspect := e.suspect + 1 })))) ∧
      (∀ j w, a.yes = true → let s1 := { s with focus := ⟨a.pkg, a.tile, a.slot, .M⟩ }
        s1.jobAt s1.key = some j → s1.nextWord s1.key .M = some w → j.mayAct .M = true →
        ∀ x, j.m.pos = some x →
          let back := x.undo.foldl (fun (m : Memory) (e : Nat × List Byte) => writeBytes m e.1 e.2) s.mem
          let counts := if x.header = [] then j.traps else { j.traps with count := Vector.ofFn (fun i => nth x.header i.val 0) }
          let start := { WordPos.first with active := true, scales := x.used ++ x.scales, fetched := x.fetched }
          exec .droopReexecute s = n (({ s1 with mem := back } : State).setJob s1.key
            { j with traps := counts, m := { j.m with pos := some start, suspect := j.m.suspect + 1 } })) ∧
      (∀ j w t0, let s1 := { s with focus := ⟨a.pkg, a.tile, a.slot, .M⟩ }
        s1.jobAt s1.key = some j → j.m.starved = some t0 → s1.nextWord s1.key .M = some w → j.mayAct .M = true → j.sq = [] →
        engineCycles 4096 ≤ s1.since s1.fpkg t0 → exec .scaleQueueTimeout s = n (s1.starveOut j w)) ∧
      exec .flitNackReplay s = n (port (fun k => { k with nacks := if a.yes then min 16 (k.nacks + 1) else 0 })) ∧
      (∃ t : State, exec .planeDown s = n t ∧ lost t ∧ (t.pkgAt p).port = vset (s.pkgAt p).port q
        { vget (s.pkgAt p).port q with pdown := (vget (s.pkgAt p).port q).pdown || decide (16 ≤ (vget (s.pkgAt p).port q).nacks) }) ∧
      (a.yes = false → ∃ t : State, exec .laneFailure s = n t ∧ lost t ∧ (t.pkgAt p).port = vset (s.pkgAt p).port q
        { vget (s.pkgAt p).port q with plost := min 18 ((vget (s.pkgAt p).port q).plost + 1) }) ∧
      (a.yes = true → ∃ t : State, exec .laneFailure s = n t ∧
        (t.pkgAt p).port = vset (s.pkgAt p).port q
          { vget (s.pkgAt p).port q with clost := min 18 ((vget (s.pkgAt p).port q).clost + 1) }) ∧
      exec .laneRetrain s = n (port (fun k => { k with plost := min k.plost a.id, clost := min k.clost a.idx2 })) ∧
      (∃ t : State, exec .portIsolate s = n t ∧
        (t.pkgAt p).port = vset (s.pkgAt p).port q { vget (s.pkgAt p).port q with iso := true }) ∧
      exec .portRetrain s = n (port (fun k => { k with iso := false, pdown := false, nacks := 0 })) ∧
      (∃ t : State, exec .dieLinkCrcError s = n t ∧ lost t ∧
        (∀ l, l = q ∨ l = linkBack q → mget (t.pkgAt p).dicts l = none ∧ mget (t.pkgAt p).linkErr l = some s.wall) ∧
        ∀ r ∈ s.reqs, r.st = .sent →
          (p, q) ∈ wayTo (keyPkg r.by_.key) (dieOf (keyTile r.by_.key)) (s.placeOf r.pa) → { r with st := .lost } ∈ t.reqs))

/-! ### Events: translation, windows, migration, the host's accesses (01 R27, R30, R31; 03 R73 to R93) -/

/-- 01 R27 and R31, 03 R73, R74, R90: a write of a tenant window or of TROOT changes that register and leaves no translation of the
tenant, and it waits while a request made through one has still to be accepted; HBMSPLIT changes only while it is not locked; a
page walk changes no byte of memory and no job.
03 R84 to R88: a well-formed request that nothing conflicts with joins the queue; one that comes later starts, where its leaf is
there to be migrated: the page is busy, with no translation of any byte of it left; once no request made through the old translations
remains, the frame is copied, and the leaf, still unchanged, gets the new frame and placement; a changed leaf is left, with
status changed. That no copy precedes the last of those requests is R88; the model chose that every equal entry of the leaf's group
is rewritten (log 31), the status where several hold (log 72) and which destinations it takes (log 85).
03 R91 to R93 and R74, 05 R144: HFPOP gives the oldest host fault record, or zero; a host access outside every window, or one its
window does not grant, is answered Unsupported Request; one that a window serves has its effect and answer, behind those already
held for its function; an access whose page is absent records a fault and is held, once, and completes when its page is there; a held
access that is not served within 1 ms of that ends with Completer Abort. That the accesses of one function wait in the order of arrival is
log 74. -/
def Obligations.TranslationAndHostEvents : Prop :=
  (∀ s : State,
      let p := s.evPkg
      let u := s.evTen
      let v := s.arg.val
      let k := s.pkgAt p
      let n := fun (t : State) => Host.Outcome.next (φ := Fault) (ρ := Refusal) t
      let clean := fun (t : State) =>
        (∀ x ∈ t.tiles, x.1 / 256 = p → ∀ e ∈ x.2.tlb ++ x.2.tlbC ++ x.2.tlbT ++ x.2.tlbV ++ x.2.tlbW, e.tenant.toNat ≠ u) ∧
        (∀ e ∈ (t.pkgAt p).hostTlb, e.tenant.toNat ≠ u)
      (s.translatedGone p u = false → exec .tenantWindowWrite s = n s ∧ exec .trootWrite s = n s) ∧
      (s.translatedGone p u = true →
        (v ≠ 0 → s.arg.idx < 32 → ∃ t : State, exec .tenantWindowWrite s = n t ∧ clean t ∧
          mget (t.tenAt p u).win s.arg.idx = some v ∧ t.mem = s.mem) ∧
        (∃ t : State, exec .trootWrite s = n t ∧ clean t ∧ t.mem = s.mem ∧
          (t.tenAt p u).troot = keepBits v 55 13 ||| keepBits v 0 0)) ∧
      (k.hbmLocked = false → bits v 5 0 ≤ 32 → exec .hbmsplitWrite s = n (s.modPkg p (fun k => { k with hbmsplit := bits v 5 0 }))) ∧
      (k.hbmLocked = true ∨ 32 < bits v 5 0 → ∃ t : State, exec .hbmsplitWrite s = n t ∧ t.pkgAt p = k) ∧
      exec .tbudgetWrite s = n (s.modTen p u (fun a => { a with tbudget := bits v 39 0 })) ∧
      (∀ t0, s.arg.walker = .core t0 → let r := s.translate p t0.toNat .core u (v.toNat % 2 ^ 56) 0
        exec .pageWalk s = n r.1 ∧ r.1.mem = s.mem ∧ r.1.jobs = s.jobs)) ∧
  (∀ s : State,
      let p := s.evPkg
      let u := s.evTen
      let n := fun (t : State) => Host.Outcome.next (φ := Fault) (ρ := Refusal) t
      let q := (s.pkgAt p).migQueue
      (∀ host : Bool,
        let t := s.modTen p u (fun a => if host then { a with migH := vset a.migH 3 s.arg.val } else { a with mig := vset a.mig 3 s.arg.val })
        let dw := if host then (t.tenAt p u).migH else (t.tenAt p u).mig
        let m : Migration := { tenant := BitVec.ofNat 8 u, dw := dw, host := host, arrived := s.cycle p, leaf := none, inplace := false
                               ended := none }
        let r := exec (if host then .migreqhSubmit else .migreqSubmit) s
        let ok := fun (t : State) => n (if host then { t with answer := ansOk [] } else t)
        (host = true → (s.pkgAt p).linkUp = true ∧ (s.tenAt p u).isOff = false ∧ (s.pkgAt p).held = []) →
        (migFormOk dw = true → paPkg (migFrame dw) = p → migPlacement dw / 4 ≠ 3 → (∀ x ∈ q, t.samePage p x m = false) →
          (s.pkgAt p).pinned = [] → q.length < 64 → r = ok (t.modPkg p (fun k => { k with migQueue := k.migQueue ++ [m] }))) ∧
        (migFormOk dw = false → r = ok (t.migEnd p m .malformed 0))) ∧
      (∀ m l, q = m :: l → m.leaf = none → m.ended = none → m.arrived < s.cycle p → (q.filter (fun x => x.leaf.isSome)).length < 4 →
        let w := s.migWalk p m.tenant.toNat (migVa m.dw)
        (w.leafOf p m.tenant.toNat (migVa m.dw) = none → exec .migrationRun s = n ((w.dropMig p m).migEnd p m .notMigratable 0)) ∧
        (∀ v at_ lv, w.leafOf p m.tenant.toNat (migVa m.dw) = some (v, at_, lv) →
          let base := leafBase v (migVa m.dw)
          ((bits v 12 12 = 0 ∨ bits v 3 2 = 2 ∨ bits v 11 10 = 3) →
            exec .migrationRun s = n ((w.dropMig p m).migEnd p m .notMigratable 0)) ∧
          (bits v 12 12 = 1 → bits v 3 2 ≠ 2 → bits v 11 10 ≠ 3 → paPkg (leafFrame v) = p →
            w.frameOk p (migFrame m.dw) (bits v 3 2) (migPlacement m.dw) = true →
            ∃ t : State, exec .migrationRun s = n t ∧ (t.pkgAt p).busyPages = (s.pkgAt p).busyPages ++ [(m.tenant.toNat, base)] ∧
              t.mem = s.mem ∧ t.jobs = s.jobs ∧
              (∀ e ∈ (t.pkgAt p).hostTlb, e.meets m.tenant.toNat base (pageBytes (bits v 3 2)) = false) ∧
              ∀ x ∈ t.tiles, x.1 / 256 = p → ∀ e ∈ x.2.tlb ++ x.2.tlbC ++ x.2.tlbT ++ x.2.tlbV ++ x.2.tlbW,
                e.meets m.tenant.toNat base (pageBytes (bits v 3 2)) = false))) ∧
      (∀ m v at_, q[s.arg.id]? = some m → m.ended = none → m.leaf = some (v, at_) →
        let quiet := s.oldFrameQuiet p m.tenant.toNat (leafFrame v) (pageBytes (bits v 3 2))
        let c := s.copyPage m v
        let key := pinKey m.tenant.toNat (leafBase v (migVa m.dw))
        let rest := fun (t : State) => (t.touchHome at_ 8 .store).dropMig p m
        let free := fun (k : Package) => k.busyPages.erase (m.tenant.toNat, leafBase v (migVa m.dw))
        (quiet = false → exec .migrationComplete s = n s) ∧
        (quiet = true →
          c.mem = (if m.inplace = true then s.mem else copyBytes s.mem (leafFrame v) (migFrame m.dw) (pageBytes (bits v 3 2))) ∧
          (read64 c.mem at_ = v →
            let mem := (leafGroup v at_).foldl (fun mem a => if read64 mem a = v then write64 mem a (newLeaf v m) else mem) c.mem
            let t := (rest { c with mem := mem }).modPkg p (fun k => { k with busyPages := free k, pinned := mput k.pinned key s.wall })
            exec .migrationComplete s = n (t.migEnd p m (if m.inplace then .inPlace else .done) (leafFrame v)) ∧
            (MemoryCanonical c → bits v 3 2 = 0 → read64 t.mem at_ = newLeaf v m) ∧
            ∀ t', t.migWrite p m.tenant.toNat (vget m.dw 2).toNat (if m.inplace then 6 else 0) (leafFrame v) = some t' →
              t.migEnd p m (if m.inplace then .inPlace else .done) (leafFrame v) = t') ∧
          (read64 c.mem at_ ≠ v → exec .migrationComplete s = n (((rest c).modPkg p (fun k => { k with busyPages := free k })).migEnd p m
            .changed (leafFrame v)))))) ∧
  (∀ s : State,
      let p := s.evPkg
      let u := s.evTen
      let a := s.tenAt p u
      let o := s.arg.off.toNat
      let n := fun (t : State) => Host.Outcome.next (φ := Fault) (ρ := Refusal) t
      (∀ r l, a.hostFaults = r :: l → exec .hfpop s =
        n { s.modTen p u (fun a => { a with hostFaults := l }) with answer := ansOk (leBytes 8 r.toNat) }) ∧
      (a.hostFaults = [] → exec .hfpop s = n { s with answer := ansOk (leBytes 8 0) }) ∧
      (∀ w : Bool,
        let x := if w then Instr.hostWrite else .hostRead
        let len := if w then s.arg.data.length else s.arg.idx
        let data := if w then s.arg.data else []
        (s.pkgAt p).linkUp = true →
        ((a.tstate = 0 ∨ bits a.txctl 8 8 = 0 ∨ a.hostWindow o = none) → exec x s = n { s with answer := ansUnsupported }) ∧
        (∀ i d0 d1, a.tstate ≠ 0 → bits a.txctl 8 8 = 1 → a.hostWindow o = some (i, d0, d1) →
          let va := bits d1 55 16 * 0x1_0000 + (o - bits d0 39 16 * 0x1_0000)
          (d1.getLsbD (if w then 1 else 0) = false → exec x s = n { s with answer := ansUnsupported }) ∧
          (d1.getLsbD (if w then 1 else 0) = true →
            ((s.pkgAt p).held.any (fun h => !h.mmio && h.tenant.toNat == u) = true → exec x s = n (s.hold p u w false o va len data)) ∧
            ((s.pkgAt p).held.any (fun h => !h.mmio && h.tenant.toNat == u) = false →
              (∀ t ans, s.hostPerform p u w va len data = .done t ans → exec x s = n { t with answer := ans }) ∧
              (∀ t, s.hostPerform p u w va len data = .wait t → exec x s = n (t.hold p u w false o va len data)) ∧
              (∀ t, s.hostPerform p u w va len data = .absent t →
                exec x s = n ((t.hostFault p u i va w).hold p u w true o va len data)))))) ∧
      (∀ h, (s.pkgAt p).held[s.arg.id]? = some h →
        let gone := fun (t : State) => t.modPkg p (fun k => { k with held := k.held.eraseIdx s.arg.id })
        ((s.pkgAt p).heldTurn s.arg.id = false → exec .hostHeldComplete s = n s) ∧
        ((s.pkgAt p).heldTurn s.arg.id = true →
          (h.mmio = true → exec .hostHeldComplete s = n { (gone s).bar0Write p h.tenant.toNat h.off h.len h.va with answer := ansOk [] }) ∧
          (h.mmio = false →
            (∀ t ans, s.hostPerform p h.tenant.toNat h.write h.va.toNat h.len h.data = .done t ans →
              exec .hostHeldComplete s = n { gone t with answer := ans }) ∧
            (∀ t, s.hostPerform p h.tenant.toNat h.write h.va.toNat h.len h.data = .absent t →
              (h.absent = true → exec .hostHeldComplete s = n t) ∧
              (h.absent = false → ∃ i, exec .hostHeldComplete s = n ((t.hostFault p h.tenant.toNat i h.va.toNat h.write).modPkg p
                (fun k => k.modHeld s.arg.id (fun h => { h with absent := true, since := t.wall }))))))) ∧
        (∀ t, s.hostPerform p h.tenant.toNat h.write h.va.toNat h.len h.data = .absent t →
          (h.absent = true → us 1000 ≤ s.wall - h.since → exec .hostHeldExpire s = n { (gone t).modTen p h.tenant.toNat
            (fun a => { a with txctl := expireCount a.txctl }) with answer := ansAbort }) ∧
          (s.wall - h.since < us 1000 → exec .hostHeldExpire s = n s))))

/-! ### Events: the content-addressed region, requests, rings (04; 02) -/

/-- 04 R95, R96, R99, R106 to R108: an enable makes the domain's copy ready with no line, no wait and no reclaim, or error where a
check fails; a disable waits for the operations that homes have accepted and leaves the copy off with no line and null roots
(log 24); CATEN joins, leaves or is ignored as R95, R96 and R108 give (log 87); a die's reclaim engine takes the oldest of its dead
lines, of whichever domain, and sends a decrement for each child, each in its turn (log 88); one whose decrements are all accepted
leaves nothing of the line.
02 R62 to R67 and 15 R385: a request in flight performs at its home or tile, is sent again at most three times when its time is
over, and then fails; a duplicate of one that has performed is answered from the kept result; a failing answer leaves its fault
with the job that sent it: a load to be issued again, a write that timed out never to perform.
02 R58 to R60 and 10 R261: the counter unit makes the updates that its waiters call for; it fills a void range that tail has
reached and frees a departed consumer's take that head has reached; the oldest outgoing element of dq6 or dq7 enters the
neighbour's queue bound to the same link, or is discarded where the neighbour is absent. -/
def Obligations.RegionAndRequestEvents : Prop :=
  (∀ s : State,
      let p := s.evPkg
      let u := s.evTen
      let d := s.arg.idx
      let g := s.arg.idx2
      let c := s.caAt p d
      let v := s.arg.val
      let n := fun (t : State) => Host.Outcome.next (φ := Fault) (ρ := Refusal) t
      d < 256 → g < 4 →
      (c.st = .off → ∃ t : State, exec .cactlEnable s = n t ∧ t.mem = s.mem ∧ t.jobs = s.jobs ∧
        ((s.pkgAt p).svc = 0 → (t.caAt p d).st = .init) ∧
        ((s.pkgAt p).svc ≠ 0 → s.caEnableOk p c = false → (t.caAt p d).st = .error) ∧
        ((s.pkgAt p).svc ≠ 0 → s.caEnableOk p c = true → (t.caAt p d).st = .ready ∧
          (c.pool = p → (t.caAt p d).lines = [] ∧ (t.caAt p d).held = [] ∧ (t.caAt p d).up = true ∧
            (∀ e ∈ (t.pkgAt p).reclaim, e.1 ≠ d) ∧ ∀ o ∈ (t.pkgAt p).owed, o.dom ≠ d))) ∧
      (c.st ≠ .off →
        ((s.caAt c.pool d).serves = true → exec .cactlDisable s = n s) ∧
        ((s.caAt c.pool d).serves = false → ∃ t : State, exec .cactlDisable s = n t ∧ (t.caAt p d).st = .off ∧
          (t.caAt c.pool d).lines = [] ∧ (t.caAt c.pool d).held = [] ∧ (t.caAt c.pool d).up = false ∧
          (∀ e ∈ (t.pkgAt c.pool).reclaim, e.1 ≠ d) ∧ (∀ o ∈ (t.pkgAt c.pool).owed, o.dom ≠ d) ∧
          t.mem = nullRoots s.mem (s.caRoots d))) ∧
      (∀ e l, (s.pkgAt p).deadAt g = e :: l →
        (e.1 ≠ d → exec .caReclaim s = n s) ∧
        (∀ q, e.1 = d → c.lines.find? (fun y => y.name == e.2) = some q →
          let fields := if q.node then nodeFields (readBytes s.mem q.at_ 192) else []
          let taken := (s.setCa p d (c.modLine q.name (fun l => { l with freed := true }))).modPkg p (fun k =>
            { k with reclaim := k.reclaim.erase e, owed := k.owed ++ fields.map (fun f => Owed.mk d q.name f) })
          exec .caReclaim s = n (taken.flushOwed p g) ∧
          ((s.pkgAt p).owed = [] → c.held = [] → (fields = [] → exec .caReclaim s = n taken) ∧
            ∀ f t, fields = [f] → taken.caDec p d f = some t →
              exec .caReclaim s = n (t.modPkg p (fun k => { k with owed := k.owed.erase ⟨d, q.name, f⟩ }))))) ∧
      (let t := s.flushOwed p g
       let c' := t.caAt p d
       ∀ x, c'.lines.find? (fun y => y.freed && nameDie y.name == g &&
           !(t.pkgAt p).owed.any (fun o => o.dom == d && o.node == y.name)) = some x →
         exec .reclaimFinish s = n (t.setCa p d { c' with lines := c'.lines.filter (fun l => l.name != x.name) })) ∧
      (let old := (s.tenAt p u).caten
       let area := s.caAt p (catenDom v)
       let f := catenRoots v
       let put := fun (t : State) => n (t.modTen p u (fun a => { a with caten := v }))
       ((bits v 63 56 ≠ 0 ∨ bits v 7 1 ≠ 0) → exec .catenWrite s = n s) ∧
       ((area.first.getLsbD 0 = false ∨ f < area.lo ∨ area.hi < f + 0x1_0000) → exec .catenWrite s = n s) ∧
       (bits v 63 56 = 0 → bits v 7 1 = 0 → area.first.getLsbD 0 = true → area.lo ≤ f → f + 0x1_0000 ≤ area.hi →
         (catenE v = false → catenE old = false → exec .catenWrite s = put s) ∧
         (catenE v = true → catenE old = false → (s.caAt area.pool (catenDom v)).displaced f = [] →
           exec .catenWrite s = put { s with mem := clearRange s.mem f (f + 0x1_0000) }) ∧
         (let pp := (s.caAt p (catenDom old)).pool
          let f0 := catenRoots old
          let gone := s.caDropAll pp (catenDom old) (rootNames s.mem f0)
          catenE v = false → catenE old = true →
          ((s.caAt pp (catenDom old)).slotBusy f0 = true ∨ gone = none → exec .catenWrite s = n s) ∧
          ((s.caAt pp (catenDom old)).slotBusy f0 = false → ∀ t, gone = some t →
            exec .catenWrite s = put { t with mem := clearRange t.mem f0 (f0 + 0x1_0000) }))))) ∧
  (∀ (s : State) (r : Req), s.reqAt s.arg.id = some r →
      let n := fun (t : State) => Host.Outcome.next (φ := Fault) (ρ := Refusal) t
      let key := r.by_.key
      let again := (s.modReq r.id (fun q =>
        { q with sentAt := s.wall, reissues := q.reissues + 1, st := if q.st == .lost then .sent else q.st })).countTile (key / 4)
          (fun t => { t with reissue := t.reissue + 1 })
      (r.st ≠ .again → Calm (s.performReq r) key →
        ((s.placeOf r.pa).isTile = false → exec .homeRequest s = n (s.performReq r)) ∧
        ((s.placeOf r.pa).isTile = true → exec .tileAddressedRequest s = n (s.performReq r))) ∧
      (s.timedOut r = true → r.reissues < 3 →
        (r.st ≠ .unanswered → exec .requestReissue s = n again) ∧
        (r.st = .unanswered → again.wayOf r = .through →
          exec .requestReissue s = n ((again.dropReq r.id).advance r.by_))) ∧
      (s.timedOut r = false → exec .requestReissue s = n s ∧ exec .requestTimeout s = n s) ∧
      (∀ j, s.jobAt key = some j → j.jid = r.by_.jid → j.st = .frozen → r.st = .sent ∨ r.st = .accepted →
        r.op ≠ .pref → (∀ a ∈ s.reqs, a.op.isOwn = false ∧ (a.by_ = r.by_ → a.st ≠ .waiting ∧ a.st ≠ .again)) →
        let fails := fun (i : Instr) (c : Cause) => ∃ (t : State) (j' : Job), exec i s = n t ∧ t.jobAt key = some j' ∧
          j'.deferred = j.deferred ++ [r.faultInfo c] ∧ j'.st = .frozen ∧ t.mem = s.mem ∧
          (∀ q ∈ t.reqs, q.id = r.id → q.st = if r.op.isLoad then .failed else .timedOut) ∧
          (r.op.isLoad = false → c ≠ .requestTimeout → ∀ q ∈ t.reqs, q.id ≠ r.id)
        (s.timedOut r = true → r.reissues = 3 → fails .requestTimeout .requestTimeout) ∧
        (s.mayPerform r = true → s.arg.cause = .dataError → fails .deferredFault .dataError) ∧
        (s.mayPerform r = true → s.arg.cause = .protection → s.absent r.pa = true → fails .deferredFault .protection))) ∧
  (∀ s : State,
      let tk := s.evTKey
      let i := s.arg.idx
      let r := s.ringAt tk i
      let n := fun (t : State) => Host.Outcome.next (φ := Fault) (ρ := Refusal) t
      (∀ o, i < 64 → r.pump1 = some o → exec .ringWaiterGrant s = n (s.putRing tk i o.pump) ∧
        (r.dry = true → exec .ringWaiterOrphan s = n (s.putRing tk i o.pump))) ∧
      (i < 64 → r.st = .active → r.waiters = [] → r.slotsz ≠ 0 → r.lgcount < 16 →
        (∀ x, r.freeRanges = [] → r.voidRanges = [x] → x.start = r.tail → 0 < x.len → x.len ≤ r.slots →
          ringInv r.slots r.head r.taken (r.tail + BitVec.ofNat 32 x.len) r.claimed = true →
          exec .voidRangeFill s = n (s.setRing tk i { r with tail := r.tail + BitVec.ofNat 32 x.len })) ∧
        (∀ x, r.voidRanges = [] → r.freeRanges = [x] → x.start = r.head →
          ringInv r.slots (r.head + BitVec.ofNat 32 x.len) r.taken r.tail r.claimed = true →
          exec .departedTakeFree s = n (s.setRing tk i { r with head := r.head + BitVec.ofNat 32 x.len, freeRanges := [] }))) ∧
      (∀ j l v rest t, i < 2 → s.jobAt s.evKey = some j → (vget j.nq i).link = some l → (vget j.nq i).outq = v :: rest →
        neighbour s.evTile l.toNat = some t →
        (s.tilePresent s.evPkg t = false → exec .neighbourDelivery s =
          n (s.modJob s.evKey (fun j => { j with nq := vset j.nq i { vget j.nq i with outq := [] } }))) ∧
        (∀ k, let key := slotKey s.evPkg t s.arg.slot.toNat
          s.tilePresent s.evPkg t = true → s.nbRoom key (l.toNat ^^^ 2) j.tenant = some k → exec .neighbourDelivery s =
          n ((s.modJob s.evKey (fun j => { j with nq := vset j.nq i { vget j.nq i with outq := rest } })).modJob key (fun j =>
            { j with nq := vset j.nq k { vget j.nq k with inq := (vget j.nq k).inq ++ [v] } })))))

/-! ### Events: launches and jobs (06 R157 to R170; 14 R370 to R383) -/

/-- 14 R370 to R375: a submit stages its last dword and queues the record, or sets OVF; LQSTAT reads and clears OVF; a launch taken is
refused with its status or enters flight as accepted, and one whose pages are under migration waits; the spawner makes the
records of a launch one by one.
06 R155 to R157, R167 and R170, 14 R376 to R382, 15 R392, R396 and R397: a job that the dispatcher starts stands in its slot with
the entry, frame, indices and bank that R155 gives, once its tile has taken its tenant; a retired job leaves its slot, and so does a
killed one once it is at rest; teardown and enable change TCTL, and a tenant that is torn down is off once nothing of it is left; a dependency is met once its producers are gone; a pre-emption decision drains, and a drain that
is over ends in a checkpoint, a kill, or a drain to the job's end. -/
def Obligations.LaunchAndJobEvents : Prop :=
  (∀ s : State,
      let p := s.evPkg
      let u := s.evTen
      let a := s.tenAt p u
      let n := fun (t : State) => Host.Outcome.next (φ := Fault) (ρ := Refusal) t
      (let dwJ := vset a.pushJ 7 s.arg.val
       let dwS := vset a.pushS 7 s.arg.val
       (s.arg.also = false →
         (a.tstate = 1 → s.arg.yes = false → a.queueJ.length < 32 → ∃ t : State, exec .launchSubmit s = n t ∧
           (t.tenAt p u).queueJ = a.queueJ ++ [dwJ] ∧ (t.tenAt p u).queueS = a.queueS ∧ (t.tenAt p u).ovf = a.ovf ∧ t.mem = s.mem) ∧
         (a.tstate = 1 → s.arg.yes = true → a.queueS.length < 32 → ∃ t : State, exec .launchSubmit s = n t ∧
           (t.tenAt p u).queueS = a.queueS ++ [dwS] ∧ (t.tenAt p u).queueJ = a.queueJ ∧ (t.tenAt p u).ovf = a.ovf ∧ t.mem = s.mem) ∧
         ((a.tstate = 0 ∨ 32 ≤ (if s.arg.yes then a.queueS else a.queueJ).length) → ∃ t : State, exec .launchSubmit s = n t ∧
           (t.tenAt p u).ovf = true ∧ (t.tenAt p u).queueJ = a.queueJ ∧ (t.tenAt p u).queueS = a.queueS)) ∧
       (s.arg.also = true → (s.pkgAt p).linkUp = true →
         (a.isOff = true → ∃ t : State, exec .launchSubmit s = n t ∧ (t.tenAt p u).ovf = true ∧ t.answer = ansUnsupported ∧
           (t.tenAt p u).queueJ = a.queueJ ∧ (t.tenAt p u).queueS = a.queueS) ∧
         (a.tstate = 1 → (s.pkgAt p).held = [] → s.arg.yes = false → a.queueJ.length < 32 → ∃ t : State, exec .launchSubmit s = n t ∧
           (t.tenAt p u).queueJ = a.queueJ ++ [dwJ] ∧ t.answer = ansOk [] ∧ t.mem = s.mem))) ∧
      exec .lqstatRead s = n { s.modTen p u (fun a => { a with ovf := false }) with answer := ansOk (leBytes 8 a.lqstat.toNat) } ∧
      (∀ sup dw, a.nextLaunch = some (sup, dw) → (s.pkgAt p).quiesce = 0 →
        let status := fun (t : State) (st : LaunchStatus) => n ((t.modTen p u (fun a => a.popLaunch sup)).writeStatus p u dw st)
        let k := launchKernel dw
        let args := bits (vget dw 2) 55 0
        let len := bits (vget dw 3) 6 0
        (s.statusWaits p u dw = true → exec .launchTake s = n s) ∧
        (s.statusWaits p u dw = false →
          ((a.launch (launchTag dw)).isSome = true → exec .launchTake s = status s .tagBusy) ∧
          (a.launch (launchTag dw) = none → 64 ≤ a.launches.length → exec .launchTake s = n s) ∧
          (a.launch (launchTag dw) = none → a.launches.length < 64 →
            ((launchFormOk dw = false ∨ bits a.ktlen 15 0 ≤ k) → exec .launchTake s = status s .malformed) ∧
            (launchFormOk dw = true → k < bits a.ktlen 15 0 →
              (s.kernel p u k = .wait → exec .launchTake s = n s) ∧
              (s.kernel p u k = .ok none → exec .launchTake s = status (s.readKernel p u k none) .malformed) ∧
              (∀ kern, s.kernel p u k = .ok (some kern) →
                (s.peekDwords p u args len = .wait → exec .launchTake s = n s) ∧
                (∀ c e, s.peekDwords p u args len = .fault c e →
                  exec .launchTake s = status (s.readKernel p u k none) .argFault) ∧
                (∀ l, s.peekDwords p u args len = .ok l →
                  exec .launchTake s = n (((((s.readKernel p u k none).peeked p u args len).modTen p u (fun a => a.popLaunch sup)).writeStatus
                    p u dw .accepted).modTen p u (fun a => { a with
                      launches := a.launches ++ [⟨BitVec.ofNat 12 (launchTag dw), dw, sup, l, kern, 0, false, none, false⟩] }))))))) ) ∧
      (∀ l d t0, a.launch s.arg.idx = some l → l.expanded = false → (s.pkgAt p).quiesce = 0 → l.made < l.kern.records →
        s.homeOf p l.kern.levels (iterations l.kern.levels l.made) = some (d, t0) →
        (a.hasRoom (launchClass l.dw) = false → exec .spawnerExpand s = n s) ∧
        (a.hasRoom (launchClass l.dw) = true →
          let t := (s.enqueue p u (qrec (launchRecord l u (iterations l.kern.levels l.made)) (some d) (some t0) true)).modLaunch p u
            s.arg.idx (fun l => { l with made := l.made + 1 })
          (l.made + 1 < l.kern.records → exec .spawnerExpand s = n t) ∧
          (l.made + 1 = l.kern.records → exec .spawnerExpand s = n (t.endExpansion p u s.arg.idx))))) ∧
  (∀ s : State,
      let p := s.evPkg
      let u := s.evTen
      let key := s.evKey
      let a := s.tenAt p u
      let n := fun (t : State) => Host.Outcome.next (φ := Fault) (ρ := Refusal) t
      (∀ tl c k, let s0 := s.considered p s.arg.idx
        (s.pkgAt p).quiesce = 0 → s.arg.idx < 4 → s0.choose p s.arg.idx = some (tl, c, k) → c.frame = none →
        ((s0.setPkg p k).takeTenant p tl c.u = none → exec .dispatchStartJob s = n s0) ∧
        ∀ s1, (s0.setPkg p k).takeTenant p tl c.u = some s1 →
        ∃ (t : State) (j : Job), exec .dispatchStartJob s = n (t.idleDeficits p s.arg.idx) ∧ t.jobAt (slotKey p tl c.slot) = some j ∧
          j.st = .running ∧ j.code = (s1.rangesOf p tl c.u c.kern.image).getD none ∧ j.qrec = c.r ∧ j.kern = c.kern ∧ j.a.g[1] = recFrame c.r.dw ∧ j.a.g[2] = BitVec.ofNat 64 (recIndex c.r.dw 0) ∧
          j.a.g[8] = 0 ∧ j.a.allot = 8 * (c.kern.alloc + 1) ∧ j.x.pc = BitVec.ofNat 19 (j.a.pc.toNat + 4 * c.kern.xoff) ∧
          j.a.fin = !c.kern.smask.getLsbD 0 ∧ j.a.h = false ∧ j.trapv = 0 ∧ j.a.spill = [] ∧ j.vreg = []) ∧
      (∀ j, s.jobAt key = some j → j.allFinished = true → j.st = .running → j.deferred = [] → recJoin j.qrec.dw = 0 →
        (∀ r ∈ s.reqs, r.ofJob key j.jid = false) → ∃ t : State, exec .jobRetire s = n t ∧ t.jobAt key = none) ∧
      (∀ j, s.jobAt key = some j →
        (AtRest s key j → ∃ t : State, exec .jctlKill s = n t ∧ t.jobAt key = none) ∧
        (j.a.asked.isSome = true → s.mayWithdraw ⟨key, j.jid, false⟩ = false → j.a.reply = none → j.x.reply = none →
          ∃ (t : State) (j' : Job), exec .jctlKill s = n t ∧ t.jobAt key = some j' ∧ j'.dying = true)) ∧
      (∀ l, a.launches = [l] → l.final = none → a.phases = [] → a.statuses = [] → s.producersGone p u l = true →
        (s.jobsOfTag p u l.tag.toNat).isEmpty = false →
        ∃ t : State, exec .dependencyMet s = n t ∧ (t.tenAt p u).launches = [{ l with met := true }] ∧ t.jobs = s.jobs ∧ t.mem = s.mem) ∧
      (a.tstate = 0 → exec .tctlEnable s = n (s.modTen p u (fun a => { a with tctl := setTstate (setBits a.tctl 0 0 1) 1 }))) ∧
      (a.tstate = 1 → a.launches = [] → a.frames = [] → a.queueJ = [] → a.queueS = [] → a.statuses = [] → s.jobsOf p u = [] →
        ∃ t : State, exec .tctlTeardown s = n t ∧ (t.tenAt p u).tstate = 2 ∧ (t.tenAt p u).tctl.getLsbD 0 = false ∧
          (∀ c, vget (t.tenAt p u).queues c = []) ∧ t.jobs = s.jobs ∧ t.mem = s.mem) ∧
      (a.tstate = 2 → a.launches = [] → a.statuses = [] → s.jobsOf p u = [] →
        ∃ t : State, exec .dependencyMet s = n t ∧ (t.tenAt p u).tstate = 0 ∧ t.jobs = s.jobs ∧ t.mem = s.mem) ∧
      (∀ w r e d0, s.arg.idx < 4 → (s.pkgAt p).quiesce = 0 → s.pressing p s.arg.idx = some (w, r) → (s.tenAt p w).ptok ≠ 0 →
        s.preChoice p w (s.preCands p s.arg.idx r) = some (d0, [(e, .drain)]) →
        exec .preemptDecide s =
          n (((s.modJob e.1 (fun j => { j with drain := some (s.phase (keyPkg e.1)) })).modTen p w (fun a => { a with ptok := a.ptok - 1 })).modPkg p
            (fun k => { k with heldSlots := k.heldSlots.filter (fun h => h.1 != d0) ++ [(d0, r)] }))) ∧
      (∀ j t0, s.jobAt key = some j → j.drain = some t0 → j.st = .running →
        let past := engineCycles (256 * (s.pkgAt (keyPkg key)).drbudget) ≤ s.since (keyPkg key) t0
        let frame := (s.freeFrame (keyPkg key) j.tenant.toNat).isSome && !s.holdsWrite key j
        (¬ past → exec .drainExpire s = n s) ∧
        (past → frame = false → recRs j.qrec.dw = true → AtRest s key j →
          ∃ t : State, exec .drainExpire s = n t ∧ t.jobAt key = none) ∧
        (past → frame = false → recRs j.qrec.dw = false →
          exec .drainExpire s = n (s.setJob key { j with drain := none, toEnd := true })) ∧
        (past → frame = true → AtRest s key j →
          ∃ (t : State) (j' : Job), exec .drainExpire s = n t ∧ t.jobAt key = some j' ∧ j'.st = .checkpointing ∧ j'.drain = none ∧
            j'.since = s.phase (keyPkg key) ∧ j'.ran = j.ran + (s.phase (keyPkg key) - j.since))) ∧
      (∀ j, s.jobAt key = some j → (j.drain = none ∨ j.st = .freezing ∨ j.st = .checkpointing) → exec .drainExpire s = n s))

/-- 15 R389 to R392, R398 and R401, 08 R203 and R209: a freeze that has nothing left to wait for delivers its fault; a record is written in
turn, with the vector and the record of FQREC after it, and its loss is counted; JCTL resumes a frozen job where its handling core's
EPC says; a checkpoint writes the frame and frees the slot, and a frame is laid back once the dispatcher of its die comes to it; a word
that no encoding matches raises Illegal-Instruction or Engine-Word. The model chose the course of a freeze (log 57), the frame a
checkpoint takes and how it holds the job (log 20), and that a frame waits for the units that its job held (log 36). -/
def Obligations.FaultEvents : Prop :=
  ∀ s : State,
    let p := s.evPkg
    let u := s.evTen
    let key := s.evKey
    let a := s.tenAt p u
    let n := fun (t : State) => Host.Outcome.next (φ := Fault) (ρ := Refusal) t
    (∀ j f, s.jobAt key = some j → j.st = .freezing → j.freeze = some f → j.astop = none → AtRest s key j →
      exec .faultFreeze s = n ((s.setJob key j).deliver key (j.stopClock (s.phase (keyPkg key))) f)) ∧
    (∀ j, s.jobAt key = some j → j.st = .freezing → j.x.stopped = false → s.xTimeUp key j = true →
      exec .xcoreStopTimeout s = n (s.haltX key)) ∧
    (a.fqspawn = none →
      (∀ r rest, a.pending = r :: rest → a.fqopen = true →
        let at_ := bits a.fqbase 55 8 * 256 + 256 * (a.fqtail.toNat % a.fqcap)
        (∀ t, s.spanWrite (agent p u) at_ (dwordBytes r.dws.toList) .store = (t, .ok ()) →
          let t' := t.modTen p u (fun a => { a with pending := rest, fqtail := a.fqtail + 1 })
          let t'' := if a.fqctl.getLsbD 8 then t'.raiseVector p u (bits a.fqctl 15 12) else t'
          let q := setLv (vset a.fqrec 1 (setBits (vget a.fqrec 1) 55 0 at_)) true
          let q := vset q 0 (setBits (vget q 0) 47 40 u)
          (a.fqctl.getLsbD 16 = false → exec .faultRecordWrite s = n t'') ∧
          (a.fqctl.getLsbD 16 = true →
            exec .faultRecordWrite s = n ((t''.modTen p u (fun a => { a with fqspawn := some (q, r.die) })).spawnFault p u))) ∧
        (∀ t c e, s.spanWrite (agent p u) at_ (dwordBytes r.dws.toList) .store = (t, .fault c e) →
          exec .faultRecordWrite s = n (t.modTen p u (fun a => { a with fqbase := setBits a.fqbase 0 0 0 })))) ∧
      (a.fqopen = false → exec .faultRecordWrite s = n (s.modTen p u TenantArea.dropEmpty))) ∧
    (∀ dw d, a.fqspawn = some (dw, d) → a.hasRoom (recClass dw) = false → exec .faultRecordWrite s = n s) ∧
    exec .fqlostRead s =
      n { s.modTen p u (fun a => { a with fqlost := 0 }) with answer := ansOk (leBytes 8 (a.fqlost.setWidth 64).toNat) } ∧
    (∀ j, s.jobAt key = some j → j.st = .frozen → j.deferred = [] → AtRest s key j → j.insideWord = false →
      j.a.h = false → j.x.h = false → ∃ (t : State) (j' : Job), exec .jctlResume s = n t ∧ t.jobAt key = some j' ∧
        j'.st = .running ∧ j'.freeze = none ∧ j'.since = s.phase (keyPkg key) ∧ j'.ran = j.ran ∧ t.mem = s.mem ∧
        (∀ f, j.freeze = some f → (j.core j.hcore).fin = false → (j'.core j.hcore).pc = (j.core j.hcore).epc.setWidth 19)) ∧
    (∀ j i t, s.jobAt key = some j → j.st = .checkpointing → AtRest s key j →
      (∀ c ∈ s.circuits, c.srcJid ≠ j.jid ∧ c.dstJid ≠ j.jid) →
      let b := s.tenAt (keyPkg key) j.tenant.toNat
      let k := tileKey (keyPkg key) (keyTile key)
      let pw := if (s.tileAt k).pwHolder = some j.jid then some (s.tileAt k).pw else none
      (List.range b.ckcount).find? (fun i => !(b.frames.map Frame.idx).contains i) = some i →
      (s.setJob key j).take.2.putArea (agent (keyPkg key) j.tenant.toNat) (b.frameAt i) (framePages j) ((s.setJob key j).frameOf key j pw) =
        (t, .ok ()) →
      ∃ t' : State, exec .checkpoint s = n t' ∧ t'.jobAt key = none ∧ t'.mem = t.mem ∧
        (t'.tenAt (keyPkg key) j.tenant.toNat).frames = (t.tenAt (keyPkg key) j.tenant.toNat).frames ++ [⟨i, j.parked, k, keySlot key, pw, s.fresh⟩]) ∧
    (∀ f tl c k s1 t l, a.frames.find? (fun f => f.idx == s.arg.id) = some f → (s.pkgAt p).quiesce = 0 →
      let d := dieOf (f.tileKey % 256)
      let s0 := s.considered p d
      s0.choose p d = some (tl, c, k) → c.u = u → c.frame = some s.arg.id →
      ((s0.setPkg p k).tenAt p u).frames.find? (fun f => f.idx == s.arg.id) = some f →
      (s0.setPkg p k).takeTenant p tl u = some s1 →
      s1.getArea (agent p u) ((s1.tenAt p u).frameAt s.arg.id) (framePages f.job) = (t, .ok l) →
      let back := t.modTen p u (fun a => { a with frames := a.frames.filter (fun g => g.idx != s.arg.id) })
      exec .checkpointResume s = n ((back.loadFrame f c.slot l).idleDeficits p d)) ∧
    (∀ f tl c k, a.frames.find? (fun f => f.idx == s.arg.id) = some f →
      (s.considered p (dieOf (f.tileKey % 256))).choose p (dieOf (f.tileKey % 256)) = some (tl, c, k) → c.frame ≠ some s.arg.id →
      exec .checkpointResume s = n s) ∧
    (∀ j, Steady s j →
      (∀ c v, s.fetchHere j = .fail c (some v) → exec .illegalInstruction s = n (s.faulted j c v)) ∧
      (∀ c, s.fetchHere j = .fail c none →
        exec .illegalInstruction s = n (s.take.2.faulted j c (Config.unstatedEva s.fresh)))) ∧
    (∀ j c v, s.jobAt s.key = some j → let e := j.eng s.focus.kind
      s.engineFetch s.fpkg s.ftile e = .fail c v → exec .engineDecodeFailure s = n (s.engineFault e.pos c v e.pc))

/-! ### Events: circuits, flows, collectives, the host link, MMIO (13; 20 R426 to R429; 01 R32 to R34) -/

/-- 13 R351 to R363: a beat lands its words in order, a program's in its window and a promoted flow's at its addresses; a full landing
or a bad CRC breaks the circuit; a lease that is over breaks it with cause 3; the break signal and then the break notice, where it
can arrive, reach the sender's record; a promoted circuit whose words have not all landed stays until they have been sent again.
13 R354 to R357 and R365 to R368: the end of a meter window clears its counts; a probe reserves a path or puts the flow on hold-off;
a promoted flow that idles closes, unless it has broken with words that are still to be sent again; a generation fires once every participant is ready, a broadcast copies the root's
words to the peer, and completion counts it at every package. -/
def Obligations.FabricEvents : Prop :=
  (∀ (s : State) (c : Circuit), s.circ s.arg.id = some c →
      let n := fun (t : State) => Host.Outcome.next (φ := Fault) (ρ := Refusal) t
      (∀ b rest, c.alive = true → c.words = b :: rest → s.arg.yes = true →
        (c.flow = none → c.next + 4 * b.length ≤ c.stop → ∃ (t : State) (c' : Circuit), exec .circuitBeatLand s = n t ∧
          t.circ c.id = some c' ∧ c'.alive = true ∧ c'.words = rest ∧ c'.next = c.next + 4 * b.length ∧
          c'.delivered = c.delivered + b.length ∧
          t.mem = (b.foldl (fun (x : Memory × Nat) w => (write32 x.1 (apAddr c.dstPkg c.dstTile x.2) w.2, x.2 + 4)) (s.mem, c.next)).1) ∧
        (c.flow.isSome = true → ∃ (t : State) (c' : Circuit), exec .circuitBeatLand s = n t ∧ t.circ c.id = some c' ∧ c'.alive = true ∧
          c'.words = rest ∧ c'.delivered = c.delivered + b.length ∧
          t.mem = b.foldl (fun m w => write32 m (apAddr c.dstPkg c.dstTile w.1) w.2) s.mem) ∧
        (c.flow = none → b ≠ [] → c.stop < c.next + 4 → ∃ (t : State) (c' : Circuit), exec .circuitBeatLand s = n t ∧ t.mem = s.mem ∧
          t.circ c.id = some c' ∧ c'.alive = false ∧ c'.notice = some (7, BitVec.ofNat 32 c.delivered) ∧ c'.words = [])) ∧
      (c.alive = true → c.words ≠ [] → s.arg.yes = false → s.expired c = false → ∃ (t : State) (c' : Circuit),
        exec .circuitBeatLand s = n t ∧ t.mem = s.mem ∧ t.circ c.id = some c' ∧ c'.alive = false ∧ c'.links = [] ∧ c'.words = [] ∧
        c'.notice = some (9, BitVec.ofNat 32 c.delivered) ∧ c'.signal = some 9) ∧
      (c.alive = true → c.words = [] → s.expired c = true → ∃ (t : State) (c' : Circuit),
        exec .leaseExpiry s = n t ∧ t.mem = s.mem ∧ t.circ c.id = some c' ∧ c'.alive = false ∧ c'.links = [] ∧
        c'.notice = some (3, BitVec.ofNat 32 c.delivered)) ∧
      (s.expired c = false → exec .leaseExpiry s = n s) ∧
      (∀ code, c.signal = some code → exec .breakSignalArrival s = n ((s.modSend c (fun r => { r with
        st := endState code.toNat, cause := code, resume := none })).setCirc { c with signal := none })) ∧
      (∀ code w, c.notice = some (code, w) →
        let t := (s.modSend c (fun r => { r with st := endState code.toNat, cause := code, resume := some w })).dropCirc c.id
        (s.reaches c.dstPkg (keyPkg c.src) = true → s.inFrame c.srcJid = false →
          (c.flow = none → exec .breakNotice s = n t ∧ ∀ x ∈ t.circuits, x.id ≠ c.id) ∧
          (∀ f, c.flow = some f → (c.sent = c.delivered → exec .breakNotice s = n (s.clearFlow f)) ∧
            (c.sent ≠ c.delivered → exec .breakNotice s = n (s.setCirc { c with signal := none, notice := none })))) ∧
        ((s.reaches c.dstPkg (keyPkg c.src) = false ∨ s.inFrame c.srcJid = true) → exec .breakNotice s = n s))) ∧
  (∀ s : State,
      let p := s.evPkg
      let u := s.evTen
      let i := s.arg.idx
      let n := fun (t : State) => Host.Outcome.next (φ := Fault) (ρ := Refusal) t
      (s.windowOver p i = true →
        ∃ t : State, exec .flowMeterWindowEnd s = n t ∧ mget (t.pkgAt p).meterFrom i = some (s.phase p) ∧
          t.flows = s.flows.map (fun f => if f.pkg = p ∧ f.tile / 4 = i then { f with bytes := 0 } else f)) ∧
      (s.windowOver p i = false → exec .flowMeterWindowEnd s = n s) ∧
      (∀ f, s.flowAt s.arg.id = some f →
        (s.mayProbe f = true →
          (∀ t links, s.probe f.pkg f.tile f.dstPkg f.dstTile f.cls = (t, some links) →
            ∃ (t' : State) (c : Circuit), exec .flowProbe s = n t' ∧ t'.circuits = t.circuits ++ [c] ∧ c.flow = some f.id ∧
              c.links = links ∧ c.alive = true ∧ t'.mem = t.mem ∧
              t'.flows = t.flows.map (fun x => if x.id = f.id then { x with st := .probing } else x)) ∧
          (∀ t, s.probe f.pkg f.tile f.dstPkg f.dstTile f.cls = (t, none) → exec .flowProbe s = n (t.modFlow f.id (fun x =>
            { x with st := .holdoff (t.phase f.pkg + cycles (t.pkgAt f.pkg).fmhold) })))) ∧
        (∀ c, f.st = .probing → s.circuits.find? (fun c => c.flow == some f.id && c.alive) = some c →
          exec .flowPromote s = n (s.modFlow f.id (fun x => { x with st := .promoted c.id }))) ∧
        (∀ t0, f.st = .holdoff t0 → t0 ≤ s.phase f.pkg → exec .holdoffExpire s = n (s.modFlow f.id (fun x => { x with st := .metered }))) ∧
        (f.circuited = true → s.passed f.pkg f.lastSent (s.pkgAt f.pkg).fmidle = true →
          ((∃ c, s.circuits.find? (fun c => c.flow == some f.id) = some c ∧ c.unsettled = true) → exec .flowIdleClose s = n s) ∧
          ((∀ c ∈ s.circuits, c.flow = some f.id → c.unsettled = false) →
            exec .flowIdleClose s = n (s.closeFlow f) ∧ (∀ c ∈ (s.closeFlow f).circuits, c.flow ≠ some f.id) ∧
            (s.closeFlow f).flows = s.flows.map (fun x => if x.id = f.id then { x with st := .metered, bytes := 0 } else x) ∧
            ((∀ c ∈ s.circuits, c.words = []) → (s.closeFlow f).mem = s.mem)))) ∧
      (let root := s.domAt p u i
       let d := (s.pkgAt p).d
       (root.v = true → root.malformed d = false → root.rpkg = p → root.inflight = false →
         (∀ k ∈ root.participants d, k ∈ root.readies) →
         let s1 := (root.packages d).foldl (fun s q => s.setDom q u i { s.domAt q u i with inflight := true }) s
         let s2 := s1.setDom p u i { s1.domAt p u i with readies := [], failing := false }
         (∀ t, s2.generation u i root = (t, none) → exec .dominoFire s = n t) ∧
         (∀ t q c eva, s2.generation u i root = (t, some (q, c, eva)) →
           ∃ t' : State, exec .dominoFire s = n t' ∧ (t'.domAt p u i).failing = true ∧ t'.mem = t.mem) ∧
         (∀ q, root.op = 6 → root.peers d = [q] → root.count = 1 → s2.copyFault q u i = none →
           s2.reaches p q = true → s2.seqFault p u root.rtile root.sbase 4 permR = none →
           (let e := s2.domAt q u i
            s2.seqFault q u e.ptile e.dbase 4 permW = none → ∃ t : State, exec .dominoFire s = n t ∧
              t.mem = writeLe s.mem (apAddr q e.ptile e.dbase) 4 (readLe s.mem (apAddr p root.rtile root.sbase) 4)))) ∧
       (root.inflight = true → root.rpkg = p → ∃ t : State, exec .dominoComplete s = n t ∧ t.mem = s.mem ∧
         ∀ q ∈ root.packages d, t.domAt q u i =
           { s.domAt q u i with done := (s.domAt q u i).done + 1, failed := root.failing, inflight := false })))

/-- 20 R426 to R429, 05 R144: what the loss of the host link, a signal record, an expired delivery, and the host's accesses to VPEND,
the MSI-X table and SQCTL leave; a write behind a held one of its function is held too (log 74).
01 R32 to R34 and 09 R241: an IMEM word written through the tile block is fetched as written and its literal tag is clear; the tag
window takes tag bytes; a slot's CAUSE, EPC, EVA and TRAPV are written while the job is stopped; a register write reaches the register
it names and is refused below its level. -/
def Obligations.HostLinkAndMmioEvents : Prop :=
  (∀ s : State,
      let p := s.evPkg
      let u := s.evTen
      let a := s.tenAt p u
      let k := s.pkgAt p
      let v := s.arg.val
      let n := fun (t : State) => Host.Outcome.next (φ := Fault) (ρ := Refusal) t
      let fresh := fun (t : Nat) => decide (s.wall - t < us 1000)
      (k.linkUp = true → exec .soraroLinkDown s = n (s.modPkg p (fun k => { k with linkUp := false, linkDownAt := s.wall }))) ∧
      (∀ ad w t0 rest, a.signals = (ad, w, t0) :: rest → k.linkUp = true → a.sqctl.getLsbD 8 = false →
        let base := bits a.sqbase 63 6 * 64
        (base ≠ 0 → (a.sqtail - a.sqhead).toNat ≠ 2 ^ a.sqcap → ∃ t : State, exec .signalRecordWrite s = n t ∧
          (t.tenAt p u).hostMem = a.hostMem ++ [(BitVec.ofNat 64 (base + 16 * (a.sqtail.toNat % 2 ^ a.sqcap)), setBits ad 63 56 0, w)] ∧
          (t.tenAt p u).sqtail = a.sqtail + 1 ∧ (t.tenAt p u).signals = rest ∧ (t.tenAt p u).sqctl = a.sqctl) ∧
        (base = 0 ∨ (a.sqtail - a.sqhead).toNat = 2 ^ a.sqcap → ∃ t : State, exec .signalRecordWrite s = n t ∧
          (t.tenAt p u).hostMem = a.hostMem ∧ (t.tenAt p u).sqtail = a.sqtail ∧ (t.tenAt p u).signals = rest ∧
          (t.tenAt p u).sqctl = setBits a.sqctl 16 16 1)) ∧
      (k.linkUp = false → ∃ t : State, exec .hostDeliveryExpire s = n t ∧ t.mem = s.mem ∧ ∀ w, w < 256 →
        let b := s.tenAt p w
        (t.tenAt p w).signals = b.signals.filter (fun x => fresh x.2.2) ∧ (t.tenAt p w).heldMsgs = b.heldMsgs.filter (fun x => fresh x.2) ∧
        ((∃ x ∈ b.signals, fresh x.2.2 = false) ∨ (∃ x ∈ b.heldMsgs, fresh x.2 = false) → (t.tenAt p w).sqctl.getLsbD 16 = true)) ∧
      (k.linkUp = true → a.isOff = true → exec .vpendClear s = n { s with answer := ansUnsupported } ∧
        exec .msixUnmask s = n { s with answer := ansUnsupported } ∧ exec .sqctlRead s = n { s with answer := ansUnsupported }) ∧
      (k.linkUp = true → a.isOff = false → exec .sqctlRead s = n { s.modTen p u (fun a => { a with sqctl := setBits a.sqctl 16 16 0 }) with
        answer := ansOk (leBytes 8 a.sqctl.toNat) }) ∧
      (k.linkUp = true → a.isOff = false → (∀ h ∈ k.held, h.write = true → h.tenant.toNat ≠ u) →
        ((∀ i, i < 16 → mget a.vraise i = none) → ∃ t : State, exec .vpendClear s = n t ∧ t.answer = ansOk [] ∧
          (t.tenAt p u).vpend = a.vpend &&& ~~~(v.setWidth 16) ∧ (t.tenAt p u).messages = a.messages) ∧
        (s.arg.idx < 16 → a.msixOff = false → ∃ t : State, exec .msixUnmask s = n t ∧ t.answer = ansOk [] ∧
          (t.tenAt p u).msixMask = setBits a.msixMask s.arg.idx s.arg.idx 0 ∧ (t.tenAt p u).messages = a.messages ++
            (if a.msixMask.getLsbD s.arg.idx = true ∧ a.vpend.getLsbD s.arg.idx = true then [BitVec.ofNat 4 s.arg.idx] else []))) ∧
      (∀ h ∈ k.held, k.linkUp = true → a.isOff = false → h.write = true → h.tenant.toNat = u → exec .vpendClear s =
        n { s.modPkg p (fun k => { k with held := k.held ++ [⟨BitVec.ofNat 8 u, true, true, false, 0, v, 8, [], s.wall⟩] }) with
          answer := ansHeld })) ∧
  (∀ s : State,
      let p := s.evPkg
      let o := s.arg.off.toNat
      let v := s.arg.val
      let len := if s.arg.yes then 4 else 8
      let n := fun (t : State) => Host.Outcome.next (φ := Fault) (ρ := Refusal) t
      (s.arg.level.geb .sup = true →
        (MemoryCanonical s → s.arg.yes = true → 0x40_0000 ≤ o → o < 0x44_0000 → o % 4 = 0 → ∃ t : State, exec .mmioImemWrite s = n t ∧
          t.imem p s.evTile (o - 0x40_0000) = BitVec.ofNat 32 v.toNat ∧ t.litTag p s.evTile (o - 0x40_0000) = false ∧ t.jobs = s.jobs) ∧
        (0x48_0000 ≤ o → o < 0x48_2000 → o % len = 0 → ∃ t : State, exec .mmioTagWindowWrite s = n t ∧
          t.mem = writeLe s.mem (blockAddr p s.evTile o) len v.toNat ∧ t.jobs = s.jobs) ∧
        (∀ j, s.arg.idx < 2 → s.jobAt s.evKey = some j → j.st = .frozen ∨ j.st = .handler →
          let k := if s.arg.idx = 0 then Kind.A else .X
          (s.arg.idx2 = 2 → exec .mmioSysregWrite s = n (s.setJob s.evKey (j.modCore k (fun c => { c with epc := epcKeep v })))) ∧
          (s.arg.idx2 = 1 → exec .mmioSysregWrite s = n (s.setJob s.evKey (j.modCore k (fun c => { c with cause := causeKeep v })))) ∧
          (s.arg.idx2 = 3 → exec .mmioSysregWrite s = n (s.setJob s.evKey (j.modCore k (fun c => { c with eva := v })))) ∧
          (s.arg.idx2 = 5 → trapvOk v = true → exec .mmioSysregWrite s = n (s.setJob s.evKey { j with trapv := v }))) ∧
        (∀ j, s.arg.idx < 2 → s.jobAt s.evKey = some j → j.st = .running ∨ j.st = .freezing ∨ j.st = .checkpointing →
          exec .mmioSysregWrite s = n s)) ∧
      (s.arg.level.geb .sup = false → exec .mmioImemWrite s = n s ∧ exec .mmioTagWindowWrite s = n s ∧ exec .mmioSysregWrite s = n s) ∧
      (s.arg.also = false → o % len = 0 →
        (∀ w t, s.mmioWrite o len v s.arg.level = .ok w t → exec .mmioRegisterWrite s = n t) ∧
        (∀ f, s.region o = .hmmio f → (hreg f).access.mayWrite s.arg.level = false → exec .mmioRegisterWrite s = n s) ∧
        (∀ f u, s.region o = .hmmio f → hreg f = .ktbase u → s.arg.yes = false → s.arg.level.geb .sup = true →
          exec .mmioRegisterWrite s = n (s.modTen (paPkg o) u (fun a => { a with ktbase := keepBits v 55 8 }))) ∧
        (∀ f u, s.region o = .hmmio f → hreg f = .tquant u → s.arg.yes = false → s.arg.level = .fw →
          exec .mmioRegisterWrite s = n (s.modTen (paPkg o) u (fun a => { a with tquant := bits v 23 0 })))))

/-! ### The whole machine -/

/-- What reset leaves: no job, no request, no circuit. The spec gives: no tenant, no code image, CYCLE and the request counters zero (01
R13, R35; 06 R164; 09 R239), HBMSPLIT 16 and not locked (01 R27), CATEN (04 R95), the fabric registers (13 R350), TCTL, RQCAP, TQUANT,
DSTEAL and DAGE (14 R370, R371), FQCTL's capacity (15 R390), PRWAIT and DRBUDGET (15 R395), PCLIMIT, PCWIN, PCRAMP and TTRIP (20 R424),
pilot-light service (20 R437), 8 spare tiles a C-die (20 R434). The model chose the rest: memory lists nothing (log 1); the rings idle, TROOT, TXCTL, FQCTL's other
bits, PTOK, CKCOUNT, QUIESCE and the domain copies as log 6 says. -/
def Obligations.ResetState : Prop :=
  let s := State.reset
  MemoryCanonical s ∧ s.mem = [] ∧ (∀ k, s.jobAt k = none) ∧ s.reqs = [] ∧ s.kept = [] ∧ s.circuits = [] ∧ s.flows = [] ∧ s.round = [] ∧
  (∀ k i, (s.ringAt k i).st = .idle ∧ (s.ringAt k i).head = 0 ∧ (s.ringAt k i).tail = 0 ∧ (s.ringAt k i).claimed = 0) ∧
  (∀ k, (s.tileAt k).tenant = none ∧ (s.tileAt k).tlb = [] ∧ (s.tileAt k).reqloc = 0 ∧ (s.tileAt k).resident = []) ∧
  (∀ p u, let a := s.tenAt p u
    a.troot = 0 ∧ a.txctl = 0 ∧ a.caten = BitVec.ofNat 64 (u % 256 * 256) ∧ a.tstate = 0 ∧ a.rqcap = 6 ∧ a.tquant = 0x1000 ∧
    a.fqctl = 4 ∧ a.ptok = 0 ∧ a.ckcount = 0 ∧ a.launches = [] ∧ a.pending = []) ∧
  (∀ p, let k := s.pkgAt p
    s.cycle p = 0 ∧ k.svc = 0 ∧ k.hbmsplit = 16 ∧ k.hbmLocked = false ∧ k.pclimit = 2200 ∧ k.pcwin = 1000 ∧ k.pcwinNow = 1000 ∧ k.pcramp = 500 ∧
    k.ttrip = 100 ∧ k.quiesce = 0 ∧ k.fmthr = 0x10_0000 ∧ k.fmwin = 0x2_22E0 ∧ k.fmhold = 0x2_22E0 ∧ k.fmidle = 0x6D60 ∧
    k.c0share = 25 ∧ k.dsteal = 14000 ∧ k.dage = 140000 ∧ k.prwait = 28000 ∧ k.drbudget = 40 ∧
    (∀ d, d < 4 → vget k.spares d = 8) ∧ ∀ d, (s.caAt p d).st = .off)

/-- 08 R192 to R210 and 09, Example 5: words written out from the encoding tables decode to the instructions they stand for, and the
illegal variants do not decode. -/
def Obligations.DecodedWords : Prop :=
  (∀ x ∈ [((0x00000001 : W32), Instr.nop), (0x00000502, .trap 5), (0x00502003, .mfsr 5 0x020), (0x00600504, .mtsr 6 0x005),
      (0x00000005, .eret), (0x1030FFFF, .addi 3 3 (-1)), (0x2072000C, .shli 7 8 12), (0x34440490, .lhi 4 0x40490),
      (0x08928342, .mulhu 9 10 (.kbank 3)), (0x4863FA00, .fli 6 0x3FA00), (0x710003F0, .loopb 1 (-16)), (0x68000180, .jal 0x180),
      (0x6C0FC000, .jr 63), (0xF0014000, .tlbinv 5)],
    decode x.1 .outside = .ok x.2) ∧
  decode 0xF4400180 (.word true 1) = .ok (.perfrd 4 (.lit .zext 1)) ∧
  decode 0xF8000180 (.word true 3) = .ok (.hostint (.lit .zext 3)) ∧
  decode 0xF4400180 (.word false 1) = .error .untaggedLit ∧ decode 0xF4400180 .outside = .error .litOutside ∧
  (∀ w ∈ [(0x00000000 : W32), 0x00500603, 0x20720040, 0x44310000], ∃ e, decode w .outside = .error e) ∧
  decodeEngine 0x200000000000 = .ok (.mldb ⟨none, none, 0, 0, .next, 0⟩) ∧
  decodeEngine 0x41AD01001803 = .ok (.vst ⟨some 5, some 4, 1, 1, .stop, 3⟩) ∧
  decodeEngine 0xA20000000000 = .ok (.wrun ⟨none, none, 0, 0, .next, 0⟩) ∧
  (∃ e, decodeEngine 0x000000000C00 = .error e) ∧ ∃ e, decodeEngine 0x000800000000 = .error e

/-- 00 R6, 08 R196, R197, R202 and R209, 11 R280: a step at which a stream moves runs exec of the instruction that the bytes at its
program counter decode to, and a step at which an event occurs runs that event; a move that ends its cycle lets one core cycle pass.
Which move comes next is the model's own (logs 2, 3 and 16): what is left of the cycle under way, else what `turns` names. -/
def Obligations.StepRuns : Prop :=
  ∀ s : State,
    (∀ m l, s.round = m :: l → s.nextMove = (m, { s with round := l })) ∧
    (∀ m rest, s.round = [] → s.turns = m :: rest → m.ends = true → s.nextMove = (m, { s with turns := rest })) ∧
    ∀ m base, s.nextMove = (m, base) →
      let ends := m.ends
      let runs := fun (p : Nat) (o : Host.Outcome State Fault Refusal) =>
        (∀ t, o = .next t → step s = .next (if ends then { t with wall := t.wall + t.corePer p } else t))
      (∀ id j, m = (if ends then .stream id else .streamIn id) →
        let t := { base with focus := id }
        let p := id.pkg.toNat
        t.jobAt t.key = some j → j.mayAct id.kind = true →
        (∀ i, id.kind.isCore = true →
          let pc := (j.core id.kind).pc.toNat
          let next := if 0x4_0000 ≤ pc + 4 then LitFetch.outside
            else .word (t.litTag p id.tile.toNat (pc + 4)) (t.imem p id.tile.toNat (pc + 4))
          pc < 0x4_0000 → t.litTag p id.tile.toNat pc = false → decode (t.imem p id.tile.toNat pc) next = .ok i →
          runs p (exec i t)) ∧
        (∀ i, id.kind.isCore = false →
          let e := j.eng id.kind
          e.load = none → e.push = none → e.ending = false → e.threshold = none → e.pos = none → e.pc < 16384 →
          decodeEngine (BitVec.ofNat 48 (readLe t.mem (blockAddr p id.tile.toNat (0x44_0000 + 8 * e.pc)) 8)) = .ok i →
          ∀ t1, exec i t = .next t1 → runs p (.next (t1.freezeOn t.key)))) ∧
      (∀ i a, m = (if ends then .event i a else .eventIn i a) →
        (encode i = none ∧ i ≠ .illegalInstruction ∧ i ≠ .engineDecodeFailure) → a.wf i = true →
        runs a.pkg.toNat (exec i { base with arg := a })) ∧
      (∀ n, m = .elapse n → step s = .next { base with wall := base.wall + n * base.corePer 0 })

/-- 08 R192 to R210: decode and encode agree, in both directions: a well-formed instruction's words decode to it, with every operand at
every value, and whatever decodes is well formed and is encoded by just those bits. -/
def Obligations.CodecRoundTrip : Prop :=
  (∀ (i : Instr) (w : W32), i.wf = true →
    (encode i = some (.core w none) → ∀ l, decode w l = .ok i) ∧
    (∀ x, encode i = some (.core w (some x)) → decode w (.word true x) = .ok i) ∧
    ∀ e, encode i = some (.engine e) → decodeEngine e = .ok i) ∧
  (∀ (w : W32) (l : LitFetch) (i : Instr), decode w l = .ok i →
    i.wf = true ∧ (encode i = some (.core w none) ∨ ∃ x, l = .word true x ∧ encode i = some (.core w (some x)))) ∧
  ∀ (w : BitVec 48) (i : Instr), decodeEngine w = .ok i → i.wf = true ∧ encode i = some (.engine w)

/-- Every step keeps the canonical form of memory: addresses strictly rising, and no entry equal to what an unlisted address reads
as (log 1). -/
def Obligations.CanonicalMemoryKept : Prop :=
  ∀ s t : State, MemoryCanonical s → step s = .next t → MemoryCanonical t

/-- The machine never stops: every state, whatever stands at its program counters, has a next state (08 R202, R203, R209: a word that no
encoding matches is an exception, not a stop). -/
def Obligations.EveryStepCompletes : Prop :=
 ∀ s : State, ∃ t : State, step s = .next t

/-- 08 R193, 09 R219, R248 and 15 R387: the frame. A register result changes the program counter, the retirement counts and the one
destination of its own core context, and nothing else of the machine; g0 discards it and reads zero; a local store changes just the bytes
that its address and size name. -/
def Obligations.Frames : Prop :=
  ∀ (s : State) (j : Job) (d a b : Reg) (o : Opd) (y : StoreSize) (i : BitVec 11) (m : BitVec 14) (n : BitVec 20),
    let c := s.core j
    let same := fun (t : State) (j' : Job) => ({ t with jobs := s.jobs } : State) = s ∧ (∀ k, k ≠ s.key → t.jobAt k = s.jobAt k) ∧
      t.jobAt s.key = some j' ∧ j'.modCore s.focus.kind (fun _ => c) = j ∧
      { t.core j' with g := c.g, pc := c.pc, instret := c.instret, issuecyc := c.issuecyc, seq := c.seq, asked := c.asked
                       reply := c.reply, missed := c.missed, fin := c.fin, leaving := c.leaving } = c ∧
      (t.core j').instret = c.instret + 1 ∧ (t.core j').issuecyc = c.issuecyc + (if c.asked = none then 1 else 0) ∧
      (t.core j').seq = c.seq + 1 ∧ (t.core j').asked = none ∧ (t.core j').fin = (c.fin || c.leaving)
    s.jobAt s.key = some j → s.focus.kind.isCore = true →
    (∀ v len, let t := s.wrote d v len
      ∃ j', same t j' ∧ (t.core j').pc = BitVec.ofNat 19 (c.pc.toNat + len) ∧ (∀ r, r ≠ d → (t.core j').reg r = c.reg r) ∧ (t.core j').reg 0 = 0 ∧
      (d ≠ 0 → (t.core j').reg d = v)) ∧
    (∀ len, ∃ j', same (s.retired len) j' ∧ ((s.retired len).core j').g = c.g ∧
      ((s.retired len).core j').pc = BitVec.ofNat 19 (c.pc.toNat + len)) ∧
    (∀ x, ∃ j', same (s.jumped x) j' ∧ ((s.jumped x).core j').g = c.g ∧ ((s.jumped x).core j').pc = BitVec.ofNat 19 x) ∧
    (Ready s j → Allowed c (d :: a :: b :: opdRegs o) →
      (∀ x ∈ [Instr.add d a o, .sub d a o, .and d a o, .or d a o, .xor d a o, .shl d a o, .shr d a o, .sar d a o, .slt d a o,
          .sltu d a o, .min d a o, .max d a o, .minu d a o, .maxu d a o, .andn d a o, .addw d a o, .subw d a o, .shlw d a o,
          .shrw d a o, .sarw d a o, .mul d a o, .mulh d a o, .mulhu d a o, .mulw d a o, .fadd d a o, .fsub d a o, .fmul d a o,
          .feq d a o, .flt d a o, .fle d a o],
        ∃ v, exec x s = .next (s.wrote d v (opdLen o))) ∧
      (∀ x ∈ [Instr.addi d a m, .andi d a m, .ori d a m, .xori d a m, .slti d a m, .sltui d a m, .lhi d n, .fli d n, .faddi d n,
          .fmuli d n],
        ∃ v, exec x s = .next (s.wrote d v 4)) ∧
      (let at_ := (c.reg a + BitVec.ofInt 64 (i.toInt * storeBytes y)).toNat
       at_ < 0x60_0000 → at_ % storeBytes y = 0 → Sound s → ∀ t, exec (.stl d a y i) s = .next t →
         (∀ k, k < apAddr s.fpkg s.ftile at_ ∨ apAddr s.fpkg s.ftile at_ + storeBytes y ≤ k → readByte t.mem k = readByte s.mem k) ∧
         t.tiles = s.tiles ∧ t.pkgs = s.pkgs ∧ t.tenants = s.tenants ∧
         ∀ j', t.jobAt s.key = some j' → (t.core j').g = c.g ∧ (t.core j').lc = c.lc))
end

