-- ==== Sys2Proof/Laws/Maps.lean ====
section
/-!
SUPPORT. Maps: reading after a write or a removal.
-/

namespace Sys2Proof.Machine

@[simp] theorem mget_mput_same {β : Type} (m : Map β) (n : Nat) (v : β) : mget (mput m n v) n = some v := by
  induction m with
  | nil => simp [mput, mget]
  | cons e r ih =>
    obtain ⟨k, w⟩ := e
    simp only [mput]
    split
    · simp [mget]
    · split
      · simp [mget]
      · simp only [mget]
        rw [if_neg (by omega)]
        exact ih

theorem mget_mput_ne {β : Type} (m : Map β) (n k : Nat) (v : β) (h : k ≠ n) : mget (mput m n v) k = mget m k := by
  induction m with
  | nil => simp [mput, mget, Ne.symm h]
  | cons e r ih =>
    obtain ⟨a, w⟩ := e
    simp only [mput]
    split
    · simp [mget, Ne.symm h]
    · split
      · next h2 => subst h2; simp [mget, Ne.symm h]
      · simp only [mget]
        split
        · rfl
        · exact ih

@[simp] theorem mput_mput_same {β : Type} (m : Map β) (n : Nat) (v w : β) : mput (mput m n v) n w = mput m n w := by
  induction m with
  | nil => simp [mput]
  | cons e r ih =>
    obtain ⟨a, x⟩ := e
    simp only [mput]
    split
    · simp [mput]
    · split
      · simp [mput]
      · next h1 h2 => simp only [mput]; rw [if_neg h1, if_neg h2, ih]

theorem mget_mdel_ne {β : Type} (m : Map β) (n k : Nat) (h : k ≠ n) : mget (mdel m n) k = mget m k := by
  induction m with
  | nil => rfl
  | cons e r ih =>
    obtain ⟨a, w⟩ := e
    simp only [mdel, List.filter] at ih ⊢
    by_cases ha : a = n
    · subst ha
      simp only [bne_self_eq_false, mget, if_neg (Ne.symm h)]
      exact ih
    · have : (a != n) = true := by simpa using ha
      simp only [this, mget]
      split
      · rfl
      · exact ih

theorem mget_mdel_same {β : Type} (m : Map β) (n : Nat) : mget (mdel m n) n = none := by
  induction m with
  | nil => rfl
  | cons e r ih =>
    obtain ⟨a, w⟩ := e
    simp only [mdel, List.filter] at ih ⊢
    by_cases ha : a = n
    · subst ha
      simp only [bne_self_eq_false]
      exact ih
    · have : (a != n) = true := by simpa using ha
      simp only [this, mget, if_neg ha]
      exact ih

end Sys2Proof.Machine
end

