-- ==== Sys2Proof/Laws/State.lean ====
section
/-!
SUPPORT. What each update of State leaves of each part of it, so that no later proof unfolds a record update.
-/

namespace Sys2Proof.Machine

/-! ### Jobs -/

@[simp] theorem setJob_jobAt_same (s : State) (k : Nat) (j : Job) : (s.setJob k j).jobAt k = some j := mget_mput_same _ _ _
theorem setJob_jobAt_ne (s : State) (k n : Nat) (j : Job) (h : n ≠ k) : (s.setJob k j).jobAt n = s.jobAt n :=
  mget_mput_ne _ _ _ _ h
@[simp] theorem setJob_mem (s : State) (k : Nat) (j : Job) : (s.setJob k j).mem = s.mem := rfl
@[simp] theorem setJob_focus (s : State) (k : Nat) (j : Job) : (s.setJob k j).focus = s.focus := rfl
@[simp] theorem setJob_key (s : State) (k : Nat) (j : Job) : (s.setJob k j).key = s.key := rfl
@[simp] theorem setJob_reqs (s : State) (k : Nat) (j : Job) : (s.setJob k j).reqs = s.reqs := rfl
@[simp] theorem setJob_pkgs (s : State) (k : Nat) (j : Job) : (s.setJob k j).pkgs = s.pkgs := rfl
@[simp] theorem setJob_tiles (s : State) (k : Nat) (j : Job) : (s.setJob k j).tiles = s.tiles := rfl
@[simp] theorem setJob_tenants (s : State) (k : Nat) (j : Job) : (s.setJob k j).tenants = s.tenants := rfl
@[simp] theorem setJob_wall (s : State) (k : Nat) (j : Job) : (s.setJob k j).wall = s.wall := rfl
@[simp] theorem setJob_fresh (s : State) (k : Nat) (j : Job) : (s.setJob k j).fresh = s.fresh := rfl
@[simp] theorem setJob_errs (s : State) (k : Nat) (j : Job) : (s.setJob k j).errs = s.errs := rfl
@[simp] theorem setJob_circuits (s : State) (k : Nat) (j : Job) : (s.setJob k j).circuits = s.circuits := rfl
@[simp] theorem setJob_flows (s : State) (k : Nat) (j : Job) : (s.setJob k j).flows = s.flows := rfl
@[simp] theorem setJob_seqs (s : State) (k : Nat) (j : Job) : (s.setJob k j).seqs = s.seqs := rfl
@[simp] theorem setJob_kept (s : State) (k : Nat) (j : Job) : (s.setJob k j).kept = s.kept := rfl
@[simp] theorem setJob_turns (s : State) (k : Nat) (j : Job) : (s.setJob k j).turns = s.turns := rfl
@[simp] theorem setJob_round (s : State) (k : Nat) (j : Job) : (s.setJob k j).round = s.round := rfl
@[simp] theorem setJob_arg (s : State) (k : Nat) (j : Job) : (s.setJob k j).arg = s.arg := rfl
@[simp] theorem setJob_phase (s : State) (k p : Nat) (j : Job) : (s.setJob k j).phase p = s.phase p := rfl
@[simp] theorem setJob_setJob (s : State) (k : Nat) (i j : Job) : (s.setJob k i).setJob k j = s.setJob k j := by
  simp [State.setJob]

theorem modJob_some {s : State} {k : Nat} {j : Job} (h : s.jobAt k = some j) (f : Job → Job) :
    s.modJob k f = s.setJob k (f j) := by simp [State.modJob, h]
theorem modJob_none {s : State} {k : Nat} (h : s.jobAt k = none) (f : Job → Job) : s.modJob k f = s := by
  simp [State.modJob, h]

@[simp] theorem modJob_mem (s : State) (k : Nat) (f : Job → Job) : (s.modJob k f).mem = s.mem := by
  unfold State.modJob; split <;> rfl
@[simp] theorem modJob_focus (s : State) (k : Nat) (f : Job → Job) : (s.modJob k f).focus = s.focus := by
  unfold State.modJob; split <;> rfl
@[simp] theorem modJob_key (s : State) (k : Nat) (f : Job → Job) : (s.modJob k f).key = s.key := by
  unfold State.modJob; split <;> rfl
@[simp] theorem modJob_reqs (s : State) (k : Nat) (f : Job → Job) : (s.modJob k f).reqs = s.reqs := by
  unfold State.modJob; split <;> rfl
@[simp] theorem modJob_pkgs (s : State) (k : Nat) (f : Job → Job) : (s.modJob k f).pkgs = s.pkgs := by
  unfold State.modJob; split <;> rfl
@[simp] theorem modJob_tiles (s : State) (k : Nat) (f : Job → Job) : (s.modJob k f).tiles = s.tiles := by
  unfold State.modJob; split <;> rfl
@[simp] theorem modJob_tenants (s : State) (k : Nat) (f : Job → Job) : (s.modJob k f).tenants = s.tenants := by
  unfold State.modJob; split <;> rfl
@[simp] theorem modJob_wall (s : State) (k : Nat) (f : Job → Job) : (s.modJob k f).wall = s.wall := by
  unfold State.modJob; split <;> rfl
@[simp] theorem modJob_fresh (s : State) (k : Nat) (f : Job → Job) : (s.modJob k f).fresh = s.fresh := by
  unfold State.modJob; split <;> rfl
@[simp] theorem modJob_errs (s : State) (k : Nat) (f : Job → Job) : (s.modJob k f).errs = s.errs := by
  unfold State.modJob; split <;> rfl
@[simp] theorem modJob_circuits (s : State) (k : Nat) (f : Job → Job) : (s.modJob k f).circuits = s.circuits := by
  unfold State.modJob; split <;> rfl
@[simp] theorem modJob_flows (s : State) (k : Nat) (f : Job → Job) : (s.modJob k f).flows = s.flows := by
  unfold State.modJob; split <;> rfl
@[simp] theorem modJob_seqs (s : State) (k : Nat) (f : Job → Job) : (s.modJob k f).seqs = s.seqs := by
  unfold State.modJob; split <;> rfl
@[simp] theorem modJob_kept (s : State) (k : Nat) (f : Job → Job) : (s.modJob k f).kept = s.kept := by
  unfold State.modJob; split <;> rfl
@[simp] theorem modJob_turns (s : State) (k : Nat) (f : Job → Job) : (s.modJob k f).turns = s.turns := by
  unfold State.modJob; split <;> rfl
@[simp] theorem modJob_round (s : State) (k : Nat) (f : Job → Job) : (s.modJob k f).round = s.round := by
  unfold State.modJob; split <;> rfl
@[simp] theorem modJob_arg (s : State) (k : Nat) (f : Job → Job) : (s.modJob k f).arg = s.arg := by
  unfold State.modJob; split <;> rfl
theorem modJob_jobAt_same (s : State) (k : Nat) (f : Job → Job) : (s.modJob k f).jobAt k = (s.jobAt k).map f := by
  unfold State.modJob; split <;> simp_all
theorem modJob_jobAt_ne (s : State) (k n : Nat) (f : Job → Job) (h : n ≠ k) : (s.modJob k f).jobAt n = s.jobAt n := by
  unfold State.modJob; split
  · exact setJob_jobAt_ne _ _ _ _ h
  · rfl

/-! ### The job, the core and the register in focus -/

@[simp] theorem modCur_mem (s : State) (f : Job → Job) : (s.modCur f).mem = s.mem := modJob_mem _ _ _
@[simp] theorem modCur_focus (s : State) (f : Job → Job) : (s.modCur f).focus = s.focus := modJob_focus _ _ _
@[simp] theorem modCur_key (s : State) (f : Job → Job) : (s.modCur f).key = s.key := modJob_key _ _ _
@[simp] theorem modCur_reqs (s : State) (f : Job → Job) : (s.modCur f).reqs = s.reqs := modJob_reqs _ _ _
@[simp] theorem modCur_pkgs (s : State) (f : Job → Job) : (s.modCur f).pkgs = s.pkgs := modJob_pkgs _ _ _
@[simp] theorem modCur_tiles (s : State) (f : Job → Job) : (s.modCur f).tiles = s.tiles := modJob_tiles _ _ _
@[simp] theorem modCur_tenants (s : State) (f : Job → Job) : (s.modCur f).tenants = s.tenants := modJob_tenants _ _ _
@[simp] theorem modCur_wall (s : State) (f : Job → Job) : (s.modCur f).wall = s.wall := modJob_wall _ _ _
@[simp] theorem modCur_errs (s : State) (f : Job → Job) : (s.modCur f).errs = s.errs := modJob_errs _ _ _
@[simp] theorem modCur_circuits (s : State) (f : Job → Job) : (s.modCur f).circuits = s.circuits := modJob_circuits _ _ _
@[simp] theorem modCur_flows (s : State) (f : Job → Job) : (s.modCur f).flows = s.flows := modJob_flows _ _ _
@[simp] theorem modCur_seqs (s : State) (f : Job → Job) : (s.modCur f).seqs = s.seqs := modJob_seqs _ _ _
@[simp] theorem modCur_kept (s : State) (f : Job → Job) : (s.modCur f).kept = s.kept := modJob_kept _ _ _
@[simp] theorem modCur_turns (s : State) (f : Job → Job) : (s.modCur f).turns = s.turns := modJob_turns _ _ _
@[simp] theorem modCur_round (s : State) (f : Job → Job) : (s.modCur f).round = s.round := modJob_round _ _ _
@[simp] theorem modCur_arg (s : State) (f : Job → Job) : (s.modCur f).arg = s.arg := modJob_arg _ _ _
theorem modCur_jobAt (s : State) (f : Job → Job) : (s.modCur f).jobAt s.key = (s.jobAt s.key).map f :=
  modJob_jobAt_same _ _ _
theorem modCur_some {s : State} {j : Job} (h : s.jobAt s.key = some j) (f : Job → Job) : s.modCur f = s.setJob s.key (f j) :=
  modJob_some h f

@[simp] theorem modCore_mem (s : State) (f : Core → Core) : (s.modCore f).mem = s.mem := modCur_mem _ _
@[simp] theorem modCore_focus (s : State) (f : Core → Core) : (s.modCore f).focus = s.focus := modCur_focus _ _
@[simp] theorem modCore_key (s : State) (f : Core → Core) : (s.modCore f).key = s.key := modCur_key _ _
@[simp] theorem modCore_reqs (s : State) (f : Core → Core) : (s.modCore f).reqs = s.reqs := modCur_reqs _ _
@[simp] theorem modCore_pkgs (s : State) (f : Core → Core) : (s.modCore f).pkgs = s.pkgs := modCur_pkgs _ _
@[simp] theorem modCore_tiles (s : State) (f : Core → Core) : (s.modCore f).tiles = s.tiles := modCur_tiles _ _
@[simp] theorem modCore_tenants (s : State) (f : Core → Core) : (s.modCore f).tenants = s.tenants := modCur_tenants _ _
@[simp] theorem modCore_wall (s : State) (f : Core → Core) : (s.modCore f).wall = s.wall := modCur_wall _ _
@[simp] theorem modCore_errs (s : State) (f : Core → Core) : (s.modCore f).errs = s.errs := modCur_errs _ _
@[simp] theorem modCore_circuits (s : State) (f : Core → Core) : (s.modCore f).circuits = s.circuits := modCur_circuits _ _
@[simp] theorem modCore_flows (s : State) (f : Core → Core) : (s.modCore f).flows = s.flows := modCur_flows _ _
@[simp] theorem modCore_seqs (s : State) (f : Core → Core) : (s.modCore f).seqs = s.seqs := modCur_seqs _ _
@[simp] theorem modCore_kept (s : State) (f : Core → Core) : (s.modCore f).kept = s.kept := modCur_kept _ _
@[simp] theorem modCore_turns (s : State) (f : Core → Core) : (s.modCore f).turns = s.turns := modCur_turns _ _
@[simp] theorem modCore_round (s : State) (f : Core → Core) : (s.modCore f).round = s.round := modCur_round _ _
@[simp] theorem modCore_arg (s : State) (f : Core → Core) : (s.modCore f).arg = s.arg := modCur_arg _ _
theorem modCore_jobAt (s : State) (f : Core → Core) :
    (s.modCore f).jobAt s.key = (s.jobAt s.key).map (fun j => j.modCore s.focus.kind f) := modCur_jobAt _ _

@[simp] theorem setReg_mem (s : State) (r : Reg) (v : Word) : (s.setReg r v).mem = s.mem := modCore_mem _ _
@[simp] theorem setReg_focus (s : State) (r : Reg) (v : Word) : (s.setReg r v).focus = s.focus := modCore_focus _ _
@[simp] theorem setReg_key (s : State) (r : Reg) (v : Word) : (s.setReg r v).key = s.key := modCore_key _ _
@[simp] theorem setReg_reqs (s : State) (r : Reg) (v : Word) : (s.setReg r v).reqs = s.reqs := modCore_reqs _ _
@[simp] theorem setReg_tiles (s : State) (r : Reg) (v : Word) : (s.setReg r v).tiles = s.tiles := modCore_tiles _ _
@[simp] theorem setReg_tenants (s : State) (r : Reg) (v : Word) : (s.setReg r v).tenants = s.tenants := modCore_tenants _ _
@[simp] theorem setReg_pkgs (s : State) (r : Reg) (v : Word) : (s.setReg r v).pkgs = s.pkgs := modCore_pkgs _ _
@[simp] theorem setReg_errs (s : State) (r : Reg) (v : Word) : (s.setReg r v).errs = s.errs := modCore_errs _ _
@[simp] theorem setReg_circuits (s : State) (r : Reg) (v : Word) : (s.setReg r v).circuits = s.circuits := modCore_circuits _ _
@[simp] theorem setReg_flows (s : State) (r : Reg) (v : Word) : (s.setReg r v).flows = s.flows := modCore_flows _ _
@[simp] theorem setReg_seqs (s : State) (r : Reg) (v : Word) : (s.setReg r v).seqs = s.seqs := modCore_seqs _ _
@[simp] theorem setReg_kept (s : State) (r : Reg) (v : Word) : (s.setReg r v).kept = s.kept := modCore_kept _ _
@[simp] theorem setReg_turns (s : State) (r : Reg) (v : Word) : (s.setReg r v).turns = s.turns := modCore_turns _ _
@[simp] theorem setReg_round (s : State) (r : Reg) (v : Word) : (s.setReg r v).round = s.round := modCore_round _ _
@[simp] theorem setReg_arg (s : State) (r : Reg) (v : Word) : (s.setReg r v).arg = s.arg := modCore_arg _ _

/-! ### Cores -/

@[simp] theorem setCore_core (j : Job) (k : Kind) (c : Core) : (j.setCore k c).core k = c := by cases k <;> rfl
@[simp] theorem modCore_core (j : Job) (k : Kind) (f : Core → Core) : (j.modCore k f).core k = f (j.core k) := setCore_core _ _ _
@[simp] theorem setCore_st (j : Job) (k : Kind) (c : Core) : (j.setCore k c).st = j.st := by cases k <;> rfl
@[simp] theorem setCore_deferred (j : Job) (k : Kind) (c : Core) : (j.setCore k c).deferred = j.deferred := by cases k <;> rfl
@[simp] theorem modCore_st (j : Job) (k : Kind) (f : Core → Core) : (j.modCore k f).st = j.st := setCore_st _ _ _
@[simp] theorem modCore_deferred (j : Job) (k : Kind) (f : Core → Core) : (j.modCore k f).deferred = j.deferred :=
  setCore_deferred _ _ _
@[simp] theorem setCore_setCore (j : Job) (k : Kind) (c e : Core) : (j.setCore k c).setCore k e = j.setCore k e := by
  cases k <;> rfl

@[simp] theorem setReg_zero (c : Core) (v : Word) : c.setReg 0 v = c := rfl
@[simp] theorem setReg_pc (c : Core) (r : Reg) (v : Word) : (c.setReg r v).pc = c.pc := by
  unfold Core.setReg; split <;> rfl
@[simp] theorem setReg_allot (c : Core) (r : Reg) (v : Word) : (c.setReg r v).allot = c.allot := by
  unfold Core.setReg; split <;> rfl
@[simp] theorem setReg_lc (c : Core) (r : Reg) (v : Word) : (c.setReg r v).lc = c.lc := by
  unfold Core.setReg; split <;> rfl
theorem reg_zero (c : Core) : c.reg 0 = 0 := rfl
theorem setReg_reg_same (c : Core) (r : Reg) (v : Word) (h : r ≠ 0) : (c.setReg r v).reg r = v := by
  unfold Core.setReg
  rw [if_neg h]
  unfold Core.reg
  rw [if_neg h]
  simp
theorem setReg_reg_ne (c : Core) (r q : Reg) (v : Word) (h : q ≠ r) : (c.setReg r v).reg q = c.reg q := by
  unfold Core.setReg Core.reg
  split
  · rfl
  · split
    · rfl
    · have : r.toNat ≠ q.toNat := fun e => h (BitVec.eq_of_toNat_eq e.symm)
      simp [this]
@[simp] theorem goto_reg (c : Core) (t : Nat) (r : Reg) : (c.goto t).reg r = c.reg r := rfl
@[simp] theorem retire_reg (c : Core) (r : Reg) : c.retire.reg r = c.reg r := rfl
@[simp] theorem goto_pc (c : Core) (t : Nat) : (c.goto t).pc = BitVec.ofNat 19 t := rfl
@[simp] theorem retire_pc (c : Core) : c.retire.pc = c.pc := rfl
@[simp] theorem retire_asked (c : Core) : c.retire.asked = none := rfl
@[simp] theorem retire_reply (c : Core) : c.retire.reply = none := rfl
@[simp] theorem retire_missed (c : Core) : c.retire.missed = false := rfl
@[simp] theorem unask_asked (c : Core) : c.unask.asked = none := rfl
@[simp] theorem unask_reply (c : Core) : c.unask.reply = none := rfl
@[simp] theorem unask_pc (c : Core) : c.unask.pc = c.pc := rfl
@[simp] theorem unask_reg (c : Core) (r : Reg) : c.unask.reg r = c.reg r := rfl
@[simp] theorem setReg_asked (c : Core) (r : Reg) (v : Word) : (c.setReg r v).asked = c.asked := by
  unfold Core.setReg; split <;> rfl

/-! ### Tiles, packages and tenants -/

@[simp] theorem setTile_tileAt_same (s : State) (k : Nat) (t : Tile) : (s.setTile k t).tileAt k = t := by
  simp [State.tileAt, State.setTile]
theorem setTile_tileAt_ne (s : State) (k n : Nat) (t : Tile) (h : n ≠ k) : (s.setTile k t).tileAt n = s.tileAt n := by
  simp [State.tileAt, State.setTile, mget_mput_ne _ _ _ _ h]
@[simp] theorem modTile_mem (s : State) (k : Nat) (f : Tile → Tile) : (s.modTile k f).mem = s.mem := rfl
@[simp] theorem modTile_jobAt (s : State) (k n : Nat) (f : Tile → Tile) : (s.modTile k f).jobAt n = s.jobAt n := rfl
@[simp] theorem modTile_key (s : State) (k : Nat) (f : Tile → Tile) : (s.modTile k f).key = s.key := rfl
@[simp] theorem modTile_focus (s : State) (k : Nat) (f : Tile → Tile) : (s.modTile k f).focus = s.focus := rfl
@[simp] theorem modTile_reqs (s : State) (k : Nat) (f : Tile → Tile) : (s.modTile k f).reqs = s.reqs := rfl
@[simp] theorem modTile_errs (s : State) (k : Nat) (f : Tile → Tile) : (s.modTile k f).errs = s.errs := rfl
@[simp] theorem modTile_pkgs (s : State) (k : Nat) (f : Tile → Tile) : (s.modTile k f).pkgs = s.pkgs := rfl
@[simp] theorem modTile_circuits (s : State) (k : Nat) (f : Tile → Tile) : (s.modTile k f).circuits = s.circuits := rfl
@[simp] theorem modTile_flows (s : State) (k : Nat) (f : Tile → Tile) : (s.modTile k f).flows = s.flows := rfl
@[simp] theorem modTile_seqs (s : State) (k : Nat) (f : Tile → Tile) : (s.modTile k f).seqs = s.seqs := rfl
@[simp] theorem modTile_kept (s : State) (k : Nat) (f : Tile → Tile) : (s.modTile k f).kept = s.kept := rfl
@[simp] theorem modTile_turns (s : State) (k : Nat) (f : Tile → Tile) : (s.modTile k f).turns = s.turns := rfl
@[simp] theorem modTile_round (s : State) (k : Nat) (f : Tile → Tile) : (s.modTile k f).round = s.round := rfl
@[simp] theorem modTile_arg (s : State) (k : Nat) (f : Tile → Tile) : (s.modTile k f).arg = s.arg := rfl
@[simp] theorem modTile_tileAt_same (s : State) (k : Nat) (f : Tile → Tile) : (s.modTile k f).tileAt k = f (s.tileAt k) :=
  setTile_tileAt_same _ _ _

@[simp] theorem setPkg_pkgAt_same (s : State) (p : Nat) (k : Package) : (s.setPkg p k).pkgAt p = k := by
  simp [State.pkgAt, State.setPkg]
theorem setPkg_pkgAt_ne (s : State) (p q : Nat) (k : Package) (h : q ≠ p) : (s.setPkg p k).pkgAt q = s.pkgAt q := by
  simp [State.pkgAt, State.setPkg, mget_mput_ne _ _ _ _ h]
@[simp] theorem modPkg_mem (s : State) (p : Nat) (f : Package → Package) : (s.modPkg p f).mem = s.mem := rfl
@[simp] theorem modPkg_jobAt (s : State) (p n : Nat) (f : Package → Package) : (s.modPkg p f).jobAt n = s.jobAt n := rfl
@[simp] theorem modPkg_key (s : State) (p : Nat) (f : Package → Package) : (s.modPkg p f).key = s.key := rfl
@[simp] theorem modPkg_focus (s : State) (p : Nat) (f : Package → Package) : (s.modPkg p f).focus = s.focus := rfl
@[simp] theorem modPkg_errs (s : State) (p : Nat) (f : Package → Package) : (s.modPkg p f).errs = s.errs := rfl
@[simp] theorem modPkg_reqs (s : State) (p : Nat) (f : Package → Package) : (s.modPkg p f).reqs = s.reqs := rfl
@[simp] theorem modPkg_tiles (s : State) (p : Nat) (f : Package → Package) : (s.modPkg p f).tiles = s.tiles := rfl
@[simp] theorem modPkg_circuits (s : State) (p : Nat) (f : Package → Package) : (s.modPkg p f).circuits = s.circuits := rfl
@[simp] theorem modPkg_flows (s : State) (p : Nat) (f : Package → Package) : (s.modPkg p f).flows = s.flows := rfl
@[simp] theorem modPkg_seqs (s : State) (p : Nat) (f : Package → Package) : (s.modPkg p f).seqs = s.seqs := rfl
@[simp] theorem modPkg_kept (s : State) (p : Nat) (f : Package → Package) : (s.modPkg p f).kept = s.kept := rfl
@[simp] theorem modPkg_turns (s : State) (p : Nat) (f : Package → Package) : (s.modPkg p f).turns = s.turns := rfl
@[simp] theorem modPkg_round (s : State) (p : Nat) (f : Package → Package) : (s.modPkg p f).round = s.round := rfl
@[simp] theorem modPkg_arg (s : State) (p : Nat) (f : Package → Package) : (s.modPkg p f).arg = s.arg := rfl
@[simp] theorem modPkg_pkgAt_same (s : State) (p : Nat) (f : Package → Package) : (s.modPkg p f).pkgAt p = f (s.pkgAt p) :=
  setPkg_pkgAt_same _ _ _

@[simp] theorem setTen_tenAt_same (s : State) (p u : Nat) (a : TenantArea) : (s.setTen p u a).tenAt p u = a := by
  simp [State.tenAt, State.setTen]
@[simp] theorem modTen_mem (s : State) (p u : Nat) (f : TenantArea → TenantArea) : (s.modTen p u f).mem = s.mem := rfl
@[simp] theorem modTen_jobAt (s : State) (p u n : Nat) (f : TenantArea → TenantArea) : (s.modTen p u f).jobAt n = s.jobAt n := rfl
@[simp] theorem modTen_key (s : State) (p u : Nat) (f : TenantArea → TenantArea) : (s.modTen p u f).key = s.key := rfl
@[simp] theorem modTen_focus (s : State) (p u : Nat) (f : TenantArea → TenantArea) : (s.modTen p u f).focus = s.focus := rfl
@[simp] theorem modTen_errs (s : State) (p u : Nat) (f : TenantArea → TenantArea) : (s.modTen p u f).errs = s.errs := rfl
@[simp] theorem modTen_reqs (s : State) (p u : Nat) (f : TenantArea → TenantArea) : (s.modTen p u f).reqs = s.reqs := rfl
@[simp] theorem modTen_tiles (s : State) (p u : Nat) (f : TenantArea → TenantArea) : (s.modTen p u f).tiles = s.tiles := rfl
@[simp] theorem modTen_pkgs (s : State) (p u : Nat) (f : TenantArea → TenantArea) : (s.modTen p u f).pkgs = s.pkgs := rfl
@[simp] theorem modTen_circuits (s : State) (p u : Nat) (f : TenantArea → TenantArea) : (s.modTen p u f).circuits = s.circuits := rfl
@[simp] theorem modTen_flows (s : State) (p u : Nat) (f : TenantArea → TenantArea) : (s.modTen p u f).flows = s.flows := rfl
@[simp] theorem modTen_seqs (s : State) (p u : Nat) (f : TenantArea → TenantArea) : (s.modTen p u f).seqs = s.seqs := rfl
@[simp] theorem modTen_kept (s : State) (p u : Nat) (f : TenantArea → TenantArea) : (s.modTen p u f).kept = s.kept := rfl
@[simp] theorem modTen_turns (s : State) (p u : Nat) (f : TenantArea → TenantArea) : (s.modTen p u f).turns = s.turns := rfl
@[simp] theorem modTen_round (s : State) (p u : Nat) (f : TenantArea → TenantArea) : (s.modTen p u f).round = s.round := rfl
@[simp] theorem modTen_arg (s : State) (p u : Nat) (f : TenantArea → TenantArea) : (s.modTen p u f).arg = s.arg := rfl
@[simp] theorem modTen_tenAt_same (s : State) (p u : Nat) (f : TenantArea → TenantArea) :
    (s.modTen p u f).tenAt p u = f (s.tenAt p u) := setTen_tenAt_same _ _ _ _

end Sys2Proof.Machine
end

