-- ==== Sys2Proof/Laws/Core.lean ====
section
/-!
SUPPORT. What one core instruction comes to: the frame that every core meaning shares (08 R202; 09 R219), as one lemma
per outcome of its body. Provers cite these and never unfold `coreExec`.
-/

namespace Sys2Proof.Machine

/-! ### Deferred faults -/

theorem noticeDeferred_calm {s : State} {k : Nat} (h : Calm s k) : s.noticeDeferred k = s := by
  unfold State.noticeDeferred
  cases hj : s.jobAt k with
  | none => rfl
  | some j =>
    cases hd : j.deferred with
    | nil => simp [hd]
    | cons f rest =>
      have hn : ¬ (j.st = .running ∨ j.st = .handler) := fun e => by simp [h j hj e] at hd
      have hn2 : ¬ (j.st = .running ∨ (j.st = .handler ∧ (!j.later || j.allFinished) = true)) :=
        fun e => hn (e.imp id And.left)
      simp only [hd]
      exact if_neg hn2

theorem Calm.modJob {s : State} {k : Nat} (h : Calm s k) (f : Job → Job)
    (hs : ∀ j, (f j).st = j.st) (hd : ∀ j, (f j).deferred = j.deferred) : Calm (s.modJob k f) k := by
  intro j hj hr
  rw [modJob_jobAt_same] at hj
  cases hi : s.jobAt k with
  | none => simp [hi] at hj
  | some i =>
    simp only [hi, Option.map_some, Option.some.injEq] at hj
    subst hj
    rw [hd]
    exact h i hi (by rwa [hs] at hr)

theorem Calm.modCur {s : State} (h : Calm s s.key) (f : Job → Job) (hs : ∀ j, (f j).st = j.st)
    (hd : ∀ j, (f j).deferred = j.deferred) : Calm (s.modCur f) s.key := h.modJob f hs hd

theorem Calm.modCore {s : State} (h : Calm s s.key) (f : Core → Core) : Calm (s.modCore f) s.key :=
  h.modCur _ (fun _ => by simp) (fun _ => by simp)

theorem Calm.setReg {s : State} (h : Calm s s.key) (r : Reg) (v : Word) : Calm (s.setReg r v) s.key := h.modCore _

theorem Ready.calm {s : State} {j : Job} (h : Ready s j) : Calm s s.key := by
  intro i hi hr
  have : i = j := by simpa [h.1] using hi.symm
  subst this
  rcases h.2.2 with ⟨-, hd⟩ | ⟨hf, -⟩
  · exact hd
  · rw [hf] at hr; rcases hr with hr | hr <;> cases hr

/-- A state whose job in focus is the same is calm with it. -/
theorem Calm.of_jobAt {s t : State} {k : Nat} (h : Calm s k) (e : t.jobAt k = s.jobAt k) : Calm t k :=
  fun j hj hr => h j (e ▸ hj) hr

/-! ### The checks -/

theorem regs_ok {c : Core} {l : List Reg} (h : Allowed c l) : l.all (regOk c.allot) = true := by
  simp only [List.all_eq_true]
  intro r hr
  rcases h r hr with h1 | h1 <;> simp [regOk, h1]

theorem checked_ok {j : Job} {c : Core} {sup : Bool} {regs : List Reg} {body : Job → Core → State → Res} {s : State}
    (hsup : sup = true → j.sup = true) (ha : Allowed c regs) : checked j c sup regs body s = body j c s := by
  unfold checked
  rw [regs_ok ha]
  cases sup
  · simp
  · simp [hsup rfl]

/-! ### The outcomes -/

section
variable {s : State} {j : Job} {len : Nat} {sup : Bool} {regs : List Reg} {body : Job → Core → State → Res}

/-- The common frame: a ready core runs the body. -/
theorem coreExec_ready (h : Ready s j) (hsup : sup = true → j.sup = true) (ha : Allowed (s.core j) regs) :
    coreExec len sup regs body s =
      .next ((settle len s.focus.kind (j.st == .freezing) s (body j (s.core j) s)).noticeDeferred s.key) := by
  unfold coreExec
  have hk := h.2.1
  have hx : ((j.st == .freezing) && s.xTimeUp s.key j) = false := by
    rcases h.2.2 with ⟨hr, -⟩ | ⟨-, ht⟩
    · rcases hr with hr | hr <;> simp [hr]
    · simp [ht]
  simp only [h.1, hk, hx, Bool.not_true, Bool.false_and, Bool.false_eq_true, if_false]
  rw [checked_ok hsup (show Allowed (j.core s.focus.kind) regs from ha)]
  rfl

theorem coreExec_next {s1 : State} (h : Ready s j) (hsup : sup = true → j.sup = true) (ha : Allowed (s.core j) regs)
    (hb : body j (s.core j) s = .next s1) (hk : s1.key = s.key) (hc : Calm s1 s.key) :
    coreExec len sup regs body s = .next (s1.retired len) := by
  rw [coreExec_ready h hsup ha, hb]
  simp only [settle]
  rw [show s1.modCore (fun c => (c.goto (c.pc.toNat + len)).retire) = s1.retired len from rfl]
  rw [noticeDeferred_calm]
  rw [← hk] at hc ⊢
  exact hc.modCore _

theorem coreExec_goto {s1 : State} {t : Word} (h : Ready s j) (hsup : sup = true → j.sup = true)
    (ha : Allowed (s.core j) regs) (hb : body j (s.core j) s = .goto s1 t) (hk : s1.key = s.key) (hc : Calm s1 s.key) :
    coreExec len sup regs body s = .next (s1.jumped t.toNat) := by
  rw [coreExec_ready h hsup ha, hb]
  simp only [settle]
  rw [show s1.modCore (fun c => (c.goto t.toNat).retire) = s1.jumped t.toNat from rfl]
  rw [noticeDeferred_calm]
  rw [← hk] at hc ⊢
  exact hc.modCore _

theorem coreExec_done {s1 : State} (h : Ready s j) (hsup : sup = true → j.sup = true) (ha : Allowed (s.core j) regs)
    (hb : body j (s.core j) s = .done s1) (hc : Calm s1 s.key) : coreExec len sup regs body s = .next s1 := by
  rw [coreExec_ready h hsup ha, hb]
  simp only [settle]
  rw [noticeDeferred_calm hc]

theorem coreExec_raise {s1 : State} {c : Cause} {eva : Word} (h : Steady s j) (hsup : sup = true → j.sup = true)
    (ha : Allowed (s.core j) regs) (hb : body j (s.core j) s = .raise s1 c eva) (hk : s1.key = s.key) :
    coreExec len sup regs body s =
      .next (((s1.modCore Core.unask).takeFault s.key (s.coreFault j c eva)).noticeDeferred s.key) := by
  have hf : (j.st == JobState.freezing) = false := by
    have := h.2
    cases hs : j.st <;> simp_all
  rw [coreExec_ready h.1 hsup ha, hb, hf]
  simp [settle, hk, h.1.1, State.coreFault, State.core]

/-- A body that raises a cause and has moved nothing. -/
theorem coreExec_faulted {c : Cause} {eva : Word} (h : Steady s j) (hsup : sup = true → j.sup = true)
    (ha : Allowed (s.core j) regs) (hb : body j (s.core j) s = .raise s c eva) :
    coreExec len sup regs body s = .next (s.faulted j c eva) := coreExec_raise h hsup ha hb rfl

theorem coreExec_wait {s1 : State} (h : Ready s j) (hsup : sup = true → j.sup = true) (ha : Allowed (s.core j) regs)
    (hb : body j (s.core j) s = .wait s1) (hk : s1.key = s.key) (hc : Calm s1 s.key) :
    coreExec len sup regs body s = .next s1.stalled := by
  rw [coreExec_ready h hsup ha, hb]
  simp only [settle]
  rw [show s1.modCore (fun c => { c with stallcyc := c.stallcyc + 1 }) = s1.stalled from rfl]
  rw [noticeDeferred_calm]
  rw [← hk] at hc ⊢
  exact hc.modCore _

/-- A body whose request has left and is not answered yet. -/
theorem coreExec_sent {s1 : State} (h : Ready s j) (hsup : sup = true → j.sup = true) (ha : Allowed (s.core j) regs)
    (hb : body j (s.core j) s = .sent s1) (hk : s1.key = s.key) (hc : Calm s1 s.key) :
    coreExec len sup regs body s = .next (s1.modCore (fun c => { c with issuecyc := c.issuecyc + 1 })) := by
  rw [coreExec_ready h hsup ha, hb]
  simp only [settle]
  rw [noticeDeferred_calm]
  rw [← hk] at hc ⊢
  exact hc.modCore _

/-- A form that names a register outside the allotment raises Allotment (06 R158). -/
theorem coreExec_allotment (h : Steady s j) (hsup : sup = true → j.sup = true)
    (hr : ∃ r ∈ regs, ¬ r.toNat < (s.core j).allot ∧ r ≠ 63) :
    coreExec len sup regs body s = .next (s.take.2.faulted j .allotment (Config.unstatedEva s.fresh)) := by
  have hf : (j.st == JobState.freezing) = false := by
    have := h.2
    cases hs : j.st <;> simp_all
  have ha : regs.all (regOk (s.core j).allot) = false := by
    obtain ⟨r, hm, h1, h2⟩ := hr
    rw [List.all_eq_false]
    exact ⟨r, hm, by simp [regOk, h1]; exact h2⟩
  have hx : (!regs.all (regOk (j.core s.focus.kind).allot)) = true := by
    rw [show (j.core s.focus.kind) = s.core j from rfl, ha]; rfl
  have hs : (sup && !j.sup) = false := by cases sup <;> simp_all
  unfold coreExec
  simp only [h.1.1, h.1.2.1, hf, Bool.not_true, Bool.false_and, Bool.false_eq_true, if_false, checked, hs, hx, if_true]
  simp [raiseFree, settle, h.1.1, State.coreFault, State.core, State.take, State.faulted]
  rfl

/-- A privileged form at job level raises Privileged (09 R219, step 3 of 08 R202). -/
theorem coreExec_privileged (h : Steady s j) (hs : j.sup = false) :
    coreExec len true regs body s = .next (s.take.2.faulted j .privileged (Config.unstatedEva s.fresh)) := by
  have hf : (j.st == JobState.freezing) = false := by
    have := h.2
    cases hs : j.st <;> simp_all
  unfold coreExec
  simp only [h.1.1, h.1.2.1, hf, hs, Bool.not_true, Bool.not_false, Bool.false_and, Bool.true_and, Bool.false_eq_true, if_false, checked, if_true]
  simp [raiseFree, settle, h.1.1, State.coreFault, State.core, State.take, State.faulted]
  rfl

end

/-- A form whose one effect is a register. -/
theorem coreWrite_ready {s : State} {j : Job} {len : Nat} {regs : List Reg} {d : Reg} {f : Job → Core → Word}
    (h : Ready s j) (ha : Allowed (s.core j) (d :: regs)) :
    coreWrite len regs d f s = .next (s.wrote d (f j (s.core j)) len) :=
  coreExec_next h (by simp) ha rfl (setReg_key _ _ _) (h.calm.setReg _ _)

/-! ### What retirement leaves -/

theorem retired_mem (s : State) (n : Nat) : (s.retired n).mem = s.mem := modCore_mem _ _
theorem jumped_mem (s : State) (t : Nat) : (s.jumped t).mem = s.mem := modCore_mem _ _
theorem wrote_mem (s : State) (d : Reg) (v : Word) (n : Nat) : (s.wrote d v n).mem = s.mem := by
  simp [State.wrote, retired_mem]

end Sys2Proof.Machine
end

