-- ==== Sys2Proof/Laws/Mem.lean ====
section
/-!
SUPPORT. Memory: a read after a write, what a write leaves alone, and the canonical form that every operation keeps.
-/

namespace Sys2Proof.Machine

/-! ### One byte -/

theorem wfFrom_mono {lo hi : Nat} (h : lo ≤ hi) : ∀ m, Memory.wfFrom hi m = true → Memory.wfFrom lo m = true
  | [], _ => rfl
  | (k, b) :: r, hw => by
    simp only [Memory.wfFrom, Bool.and_eq_true, decide_eq_true_eq] at hw ⊢
    exact ⟨⟨by omega, hw.1.2⟩, hw.2⟩

theorem readByte_below : ∀ {m : Memory} {lo a : Nat}, Memory.wfFrom lo m = true → a < lo → readByte m a = blank
  | [], _, _, _, _ => rfl
  | (k, b) :: r, lo, a, hw, ha => by
    simp only [Memory.wfFrom, Bool.and_eq_true, decide_eq_true_eq] at hw
    have : k ≠ a := by omega
    simp only [readByte, this, if_false]
    exact readByte_below hw.2 (by omega)

theorem writeByte_wfFrom : ∀ {m : Memory} {lo a : Nat} (b : Byte), Memory.wfFrom lo m = true → lo ≤ a →
    Memory.wfFrom lo (writeByte m a b) = true
  | [], lo, a, b, _, ha => by
    simp only [writeByte]
    split
    · rfl
    · next h => simp [Memory.wfFrom, ha, h]
  | (k, c) :: r, lo, a, b, hw, ha => by
    have hw' := hw
    simp only [Memory.wfFrom, Bool.and_eq_true, decide_eq_true_eq] at hw'
    obtain ⟨⟨h1, h2⟩, h3⟩ := hw'
    simp only [writeByte]
    split
    · split
      · exact hw
      · next hk hb =>
        simp only [Memory.wfFrom, Bool.and_eq_true, decide_eq_true_eq, bne_iff_ne, ne_eq]
        exact ⟨⟨ha, hb⟩, ⟨by omega, by simpa using h2⟩, h3⟩
    · split
      · next hk he =>
        subst he
        split
        · exact wfFrom_mono (by omega) _ h3
        · next hb =>
          simp only [Memory.wfFrom, Bool.and_eq_true, decide_eq_true_eq, bne_iff_ne, ne_eq]
          exact ⟨⟨ha, hb⟩, h3⟩
      · next hk he =>
        simp only [Memory.wfFrom, Bool.and_eq_true, decide_eq_true_eq]
        exact ⟨⟨h1, h2⟩, writeByte_wfFrom b h3 (by omega)⟩

/-- A write keeps the canonical form. -/
theorem writeByte_wf {m : Memory} (a : Nat) (b : Byte) (h : m.wf = true) : (writeByte m a b).wf = true :=
  writeByte_wfFrom b h (Nat.zero_le _)

/-- A write leaves every other byte alone, in any memory. -/
theorem readByte_writeByte_ne : ∀ (m : Memory) {a n : Nat} (b : Byte), n ≠ a → readByte (writeByte m a b) n = readByte m n
  | [], a, n, b, h => by
    simp only [writeByte]
    split
    · rfl
    · simp [readByte, Ne.symm h]
  | (k, c) :: r, a, n, b, h => by
    simp only [writeByte]
    split
    · split
      · rfl
      · simp [readByte, Ne.symm h]
    · split
      · next hk he =>
        subst he
        split
        · simp [readByte, Ne.symm h]
        · simp [readByte, Ne.symm h]
      · simp only [readByte]
        split
        · rfl
        · exact readByte_writeByte_ne r b h

theorem readByte_writeByte_from : ∀ {m : Memory} {lo a : Nat} (b : Byte), Memory.wfFrom lo m = true → lo ≤ a →
    readByte (writeByte m a b) a = b
  | [], lo, a, b, _, _ => by
    simp only [writeByte]
    split
    · next h => simp [readByte, h]
    · simp [readByte]
  | (k, c) :: r, lo, a, b, hw, ha => by
    simp only [Memory.wfFrom, Bool.and_eq_true, decide_eq_true_eq] at hw
    obtain ⟨⟨h1, h2⟩, h3⟩ := hw
    simp only [writeByte]
    split
    · next hk =>
      split
      · next hb =>
        have : k ≠ a := by omega
        simp only [readByte, this, if_false, hb]
        exact readByte_below h3 (by omega)
      · simp [readByte]
    · split
      · next hk he =>
        subst he
        split
        · next hb => rw [hb]; exact readByte_below h3 (by omega)
        · simp [readByte]
      · next hk he =>
        simp only [readByte, if_neg (Ne.symm he)]
        exact readByte_writeByte_from b h3 (by omega)

/-- A read after a write to the same byte of a canonical memory. -/
theorem readByte_writeByte_same {m : Memory} (h : m.wf = true) (a : Nat) (b : Byte) : readByte (writeByte m a b) a = b :=
  readByte_writeByte_from b h (Nat.zero_le _)

/-! ### Bytes, numbers and dwords -/

theorem writeBytes_wf : ∀ (l : List Byte) {m : Memory} (a : Nat), m.wf = true → (writeBytes m a l).wf = true
  | [], _, _, h => h
  | b :: l, _, a, h => writeBytes_wf l (a + 1) (writeByte_wf a b h)

theorem readByte_writeBytes_out : ∀ (l : List Byte) (m : Memory) (a n : Nat), n < a ∨ a + l.length ≤ n →
    readByte (writeBytes m a l) n = readByte m n
  | [], _, _, _, _ => rfl
  | b :: l, m, a, n, h => by
    simp only [List.length_cons] at h
    rw [writeBytes, readByte_writeBytes_out l _ (a + 1) n (by omega), readByte_writeByte_ne m b (by omega)]

theorem readByte_writeBytes_in : ∀ (l : List Byte) {m : Memory} (a i : Nat), m.wf = true → (h : i < l.length) →
    readByte (writeBytes m a l) (a + i) = l[i]
  | [], _, _, _, _, h => by simp at h
  | b :: l, m, a, i, hw, h => by
    cases i with
    | zero =>
      rw [writeBytes, readByte_writeBytes_out l _ (a + 1) (a + 0) (by omega)]
      exact readByte_writeByte_same hw a b
    | succ i =>
      have := readByte_writeBytes_in l (a + 1) i (writeByte_wf a b hw) (by simpa using h)
      rw [writeBytes, show a + (i + 1) = a + 1 + i by omega, this]
      rfl

@[simp] theorem leBytes_length : ∀ (n v : Nat), (leBytes n v).length = n
  | 0, _ => rfl
  | n + 1, v => by simp [leBytes, leBytes_length n]

theorem leNat_leBytes : ∀ (n v : Nat), leNat (leBytes n v) = v % 256 ^ n
  | 0, v => by simp [leBytes, leNat, Nat.mod_one]
  | n + 1, v => by
    rw [leBytes, leNat, leNat_leBytes n, Nat.pow_succ, Nat.mul_comm (256 ^ n) 256, Nat.mod_mul]
    simp

theorem readBytes_writeBytes {m : Memory} (h : m.wf = true) (a : Nat) (l : List Byte) :
    readBytes (writeBytes m a l) a l.length = l := by
  apply List.ext_getElem
  · simp [readBytes]
  · intro i h1 h2
    simp only [readBytes, List.getElem_map, List.getElem_range]
    exact readByte_writeBytes_in l a i h h2

/-- The number read back is the number written, modulo its width. -/
theorem readLe_writeLe {m : Memory} (h : m.wf = true) (a n v : Nat) : readLe (writeLe m a n v) a n = v % 256 ^ n := by
  have := readBytes_writeBytes h a (leBytes n v)
  rw [leBytes_length] at this
  rw [readLe, writeLe, this, leNat_leBytes]

theorem writeLe_wf {m : Memory} (h : m.wf = true) (a n v : Nat) : (writeLe m a n v).wf = true := writeBytes_wf _ _ h
theorem readByte_writeLe_out (m : Memory) (a n v k : Nat) (h : k < a ∨ a + n ≤ k) :
    readByte (writeLe m a n v) k = readByte m k :=
  readByte_writeBytes_out _ _ _ _ (by simpa using h)
theorem write64_wf {m : Memory} (h : m.wf = true) (a : Nat) (v : Word) : (write64 m a v).wf = true := writeLe_wf h _ _ _
theorem write32_wf {m : Memory} (h : m.wf = true) (a : Nat) (v : W32) : (write32 m a v).wf = true := writeLe_wf h _ _ _

theorem read64_write64 {m : Memory} (h : m.wf = true) (a : Nat) (v : Word) : read64 (write64 m a v) a = v := by
  rw [read64, write64, readLe_writeLe h]
  apply BitVec.eq_of_toNat_eq
  have := v.isLt
  simp only [BitVec.toNat_ofNat]
  omega

theorem readBytes_congr {m q : Memory} {a n : Nat} (h : ∀ i, i < n → readByte m (a + i) = readByte q (a + i)) :
    readBytes m a n = readBytes q a n := by
  unfold readBytes
  exact List.map_congr_left (fun i hi => h i (by simpa using hi))

theorem readLe_congr {m q : Memory} {a n : Nat} (h : ∀ i, i < n → readByte m (a + i) = readByte q (a + i)) :
    readLe m a n = readLe q a n := by rw [readLe, readLe, readBytes_congr h]

theorem read64_congr {m q : Memory} {a : Nat} (h : ∀ i, i < 8 → readByte m (a + i) = readByte q (a + i)) :
    read64 m a = read64 q a := by rw [read64, read64, readLe_congr h]

theorem writeDwords_wf : ∀ (l : List Word) {m : Memory} (a : Nat), m.wf = true → (writeDwords m a l).wf = true
  | [], _, _, h => h
  | v :: l, _, a, h => writeDwords_wf l (a + 8) (write64_wf h a v)

theorem readByte_writeDwords_out : ∀ (l : List Word) (m : Memory) (a n : Nat), n < a ∨ a + 8 * l.length ≤ n →
    readByte (writeDwords m a l) n = readByte m n
  | [], _, _, _, _ => rfl
  | v :: l, m, a, n, h => by
    simp only [List.length_cons] at h
    rw [writeDwords, readByte_writeDwords_out l _ (a + 8) n (by omega), write64, readByte_writeLe_out m a 8 _ n (by omega)]

theorem read64_writeDwords : ∀ (l : List Word) {m : Memory} (a i : Nat), m.wf = true → (h : i < l.length) →
    read64 (writeDwords m a l) (a + 8 * i) = l[i]
  | [], _, _, _, _, h => by simp at h
  | v :: l, m, a, i, hw, h => by
    cases i with
    | zero =>
      rw [writeDwords, read64_congr (q := write64 m a v) (fun k hk => readByte_writeDwords_out l _ (a + 8) _ (by omega))]
      exact read64_write64 hw a v
    | succ i =>
      have := read64_writeDwords l (a + 8) i (write64_wf hw a v) (by simpa using h)
      rw [writeDwords, show a + 8 * (i + 1) = a + 8 + 8 * i by omega, this]
      rfl

theorem clearRange_wfFrom (lo hi : Nat) : ∀ {m : Memory} {n : Nat}, Memory.wfFrom n m = true → Memory.wfFrom n (clearRange m lo hi) = true
  | [], _, _ => rfl
  | (k, b) :: r, n, h => by
    have h' := h
    simp only [Memory.wfFrom, Bool.and_eq_true, decide_eq_true_eq] at h'
    have ih := clearRange_wfFrom lo hi h'.2
    simp only [clearRange] at ih ⊢
    rw [List.filter_cons]
    split
    · simp only [Memory.wfFrom, Bool.and_eq_true, decide_eq_true_eq]
      exact ⟨h'.1, ih⟩
    · exact wfFrom_mono (by omega) _ ih

/-- A clear keeps the canonical form. -/
theorem clearRange_wf {m : Memory} (h : m.wf = true) (lo hi : Nat) : (clearRange m lo hi).wf = true := clearRange_wfFrom lo hi h

theorem readByte_clearRange : ∀ (m : Memory) (lo hi n : Nat),
    readByte (clearRange m lo hi) n = if lo ≤ n ∧ n < hi then blank else readByte m n
  | [], _, _, _ => by simp [clearRange, readByte]
  | (k, b) :: r, lo, hi, n => by
    have ih := readByte_clearRange r lo hi n
    simp only [clearRange] at ih ⊢
    rw [List.filter_cons]
    split
    · next hk =>
      simp only [Bool.or_eq_true, decide_eq_true_eq] at hk
      simp only [readByte]
      by_cases he : k = n
      · subst he
        rw [if_pos rfl, if_pos rfl, if_neg (by omega)]
      · rw [if_neg he, if_neg he, ih]
    · next hk =>
      simp only [Bool.or_eq_true, decide_eq_true_eq, not_or, not_lt, not_le] at hk
      rw [ih]
      by_cases he : k = n
      · subst he; rw [if_pos (by omega), if_pos (by omega)]
      · simp only [readByte, if_neg he]

theorem layAt_wf : ∀ (l : List (Nat × Byte)) {m : Memory} (lo : Nat), m.wf = true → (layAt m lo l).wf = true
  | [], _, _, h => h
  | (o, b) :: l, _, lo, h => layAt_wf l lo (writeByte_wf (lo + o) b h)

theorem putBytes_wf : ∀ (l : List (Nat × Nat)) {m : Memory} (b : List Byte), m.wf = true → (putBytes m l b).wf = true
  | [], _, _, h => h
  | (pa, n) :: l, _, b, h => putBytes_wf l (b.drop n) (writeBytes_wf _ pa h)

theorem atomMem_wf {m : Memory} (h : m.wf = true) (a n : Nat) (op : BitVec 4) (x cmp : Nat) : (atomMem m a n op x cmp).wf = true := by
  unfold atomMem; split
  · exact writeLe_wf h _ _ _
  · exact h

end Sys2Proof.Machine
end

