-- ==== Sys2Proof/Laws/Quiet.lean ====
section
/-!
SUPPORT. What releases, withdrawals and freezes do where nothing is in flight: nothing; and what a request that arrives comes to.
-/

namespace Sys2Proof.Machine

theorem Quiet.notOf {s : State} (h : Quiet s) (r : Req) (hr : r ∈ s.reqs) : ofCtx s.issuer r = false := by
  simpa [ofCtx] using h r hr

/-- A release waits for nothing where nothing of the core stands in its queues. -/
theorem Quiet.released {s : State} (h : Quiet s) (sc : Scope) : s.released sc = true := by
  simp only [State.released, List.all_eq_true]
  intro r hr
  simp [h.notOf r hr]

/-- Nor does an access of its own tile. -/
theorem Quiet.localFree {s : State} (h : Quiet s) (hb : s.bankFree s.fpkg s.ftile = true) (write : Bool) : s.localFree write = true := by
  simp only [State.localFree, hb, Bool.and_true, List.all_eq_true]
  intro r hr
  have hn : r.sameCtx (s.newReq (.own (if write then .store else .load)) (apAddr s.fpkg s.ftile 0)) = false := h.notOf r hr
  simp [State.bars, hn]

/-- What a release answers once it is over. -/
theorem afterRelease_ok {s : State} {sc : Scope} (h : s.released sc = true) (body : State → Res) :
    afterRelease s sc body = body s := if_pos h

theorem afterRelease_wait {s : State} {sc : Scope} (h : s.released sc = false) (body : State → Res) :
    afterRelease s sc body = .wait s := if_neg (by simp [h])

/-- Places depend on the packages alone. -/
theorem pkgAt_pkgs {s t : State} (h : s.pkgs = t.pkgs) (p : Nat) : s.pkgAt p = t.pkgAt p := by
  unfold State.pkgAt; rw [h]
theorem region_pkgs {s t : State} (h : s.pkgs = t.pkgs) (pa : Nat) : s.region pa = t.region pa := by
  unfold State.region; rw [pkgAt_pkgs h]
theorem placeOf_pkgs {s t : State} (h : s.pkgs = t.pkgs) (pa : Nat) : s.placeOf pa = t.placeOf pa := by
  unfold State.placeOf; rw [region_pkgs h]; simp only [pkgAt_pkgs h]
theorem portNeighbour_pkgs {s t : State} (h : s.pkgs = t.pkgs) (p q : Nat) : s.portNeighbour p q = t.portNeighbour p q := by
  unfold State.portNeighbour; rw [pkgAt_pkgs h]
theorem linkOk_pkgs {s t : State} (h : s.pkgs = t.pkgs) (p q : Nat) : s.linkOk p q = t.linkOk p q := by
  unfold State.linkOk; simp only [pkgAt_pkgs h, portNeighbour_pkgs h]
theorem routes_pkgs {s t : State} (h : s.pkgs = t.pkgs) : ∀ (n : Nat) (l : List Nat), s.routes n l = t.routes n l
  | 0, _ => rfl
  | n + 1, l => by
    have e1 : s.linkOk = t.linkOk := funext fun p => funext fun q => linkOk_pkgs h p q
    have e2 : s.portNeighbour = t.portNeighbour := funext fun p => funext fun q => portNeighbour_pkgs h p q
    simp only [State.routes, e1, e2, routes_pkgs h n]
theorem route_pkgs {s t : State} (h : s.pkgs = t.pkgs) : ∀ (n p q : Nat), s.route n p q = t.route n p q
  | 0, _, _ => rfl
  | n + 1, p, q => by
    have e : s.nextPort p q = t.nextPort p q := by unfold State.nextPort; rw [pkgAt_pkgs h]
    simp only [State.route, e, portNeighbour_pkgs h, route_pkgs h n]
theorem reaches_pkgs {s t : State} (h : s.pkgs = t.pkgs) (p q : Nat) : s.reaches p q = t.reaches p q := by
  unfold State.reaches State.routeOk; simp only [pkgAt_pkgs h, route_pkgs h, linkOk_pkgs h, routes_pkgs h]
/-- The way of a request depends on the packages and the time alone. -/
theorem passage_pkgs {s t : State} (h : s.pkgs = t.pkgs) (hw : s.wall = t.wall) (n k : Nat) (pl : Place) :
    s.passage n k pl = t.passage n k pl := by
  have e : s.linkBad = t.linkBad := funext fun x => by unfold State.linkBad; rw [pkgAt_pkgs h, hw]
  unfold State.passage; rw [reaches_pkgs h, e]
theorem countReq_pkgs (s : State) (p t : Nat) (pl : Place) : (s.countReq p t pl).pkgs = s.pkgs := rfl

theorem takeSeq_pkgs (s : State) (b n : Nat) : (s.takeSeq b n).2.pkgs = s.pkgs := rfl
theorem asked_pkgs (s : State) (p : Parcel) : (s.asked p).pkgs = s.pkgs := by unfold State.asked; split <;> rfl
theorem asked_jobs (s : State) (p : Parcel) : (s.asked p).jobs = s.jobs := by unfold State.asked; split <;> rfl
theorem asked_mem (s : State) (p : Parcel) : (s.asked p).mem = s.mem := by unfold State.asked; split <;> rfl
theorem asked_reqs (s : State) (p : Parcel) : (s.asked p).reqs = s.reqs := by unfold State.asked; split <;> rfl
theorem asked_errs (s : State) (p : Parcel) : (s.asked p).errs = s.errs := by unfold State.asked; split <;> rfl
theorem asked_kept (s : State) (p : Parcel) : (s.asked p).kept = s.kept := by unfold State.asked; split <;> rfl
theorem asked_wall (s : State) (p : Parcel) : (s.asked p).wall = s.wall := by unfold State.asked; split <;> rfl
theorem asked_focus (s : State) (p : Parcel) : (s.asked p).focus = s.focus := by unfold State.asked; split <;> rfl
theorem asked_key (s : State) (p : Parcel) : (s.asked p).key = s.key := by unfold State.key; rw [asked_focus]
theorem asked_issuer (s : State) (p : Parcel) : (s.asked p).issuer = s.issuer := by unfold State.asked; split <;> rfl
theorem asked_passage (s : State) (p : Parcel) (n t : Nat) (pl : Place) : (s.asked p).passage n t pl = s.passage n t pl :=
  passage_pkgs (asked_pkgs s p) (asked_wall s p) n t pl

/-- Flow, absence and errors seen after the request has left are those seen before. -/
theorem asked_absent (s : State) (p : Parcel) (pa : Nat) : (s.asked p).absent pa = s.absent pa := by
  unfold State.asked; split <;> rfl
theorem asked_flawed (s : State) (p : Parcel) (a n : Nat) : (s.asked p).flawed a n = s.flawed a n := by
  unfold State.asked; split <;> rfl
theorem asked_lineTaken (s : State) (p : Parcel) (pa : Nat) : (s.asked p).lineTaken pa = s.lineTaken pa := by
  unfold State.asked; split <;> rfl
theorem asked_placeOf (s : State) (p : Parcel) (pa : Nat) : (s.asked p).placeOf pa = s.placeOf pa :=
  placeOf_pkgs (asked_pkgs s p) pa

/-! ### What an exchange comes to (02 R65 to R67) -/

/-- What the core comes to when its unit answers so. -/
def answeredAs (p : Parcel) (a : Asked) (k : State → Word → List Byte → Res) : Answer → Res
  | .ok t v x => k (t.keep p a.seq v x) v x
  | .err t c e => .raise t c e
  | .hold t => .sent (t.ask { a with held := true })

/-- A request that arrives is performed once. -/
theorem exchange_arrives {s : State} {p : Parcel} (h : Arrives s p) (va : Word) (pa : Nat) (data : List Byte) (late : State → Res)
    (act : List Byte → State → Answer) (k : State → Word → List Byte → Res) :
    exchange s p va pa data late act k =
      answeredAs p ⟨va, pa, s.askSeq p, s.wall, 0, data, false⟩ k (act data (s.asked p)) := by
  obtain ⟨h1, h2, h3⟩ := h
  unfold exchange
  have hb : (!p.load && s.targetBusy p.target) = false := by
    cases hl : p.load
    · simp [(h3 hl).1]
    · rfl
  rw [h1]
  simp only [hb, Bool.false_eq_true, if_false]
  have hseq : ∀ c : Bool, ((if c then s.countReq s.fpkg s.ftile p.place else s).takeSeq
      ((if c then s.countReq s.fpkg s.ftile p.place else s).issuer.queue p.load) p.target).1 = s.askSeq p := by
    intro c; cases c <;> rfl
  have hst : ((if p.counted then s.countReq s.fpkg s.ftile p.place else s).takeSeq
      ((if p.counted then s.countReq s.fpkg s.ftile p.place else s).issuer.queue p.load) p.target).2 = s.asked p := by
    unfold State.asked; cases p.counted <;> rfl
  simp only [hseq, hst]
  unfold arrive
  have hp : (s.asked p).passage (s.asked p).fpkg (s.asked p).ftile p.place = .through := by
    rw [asked_passage]
    unfold State.fpkg State.ftile
    rw [asked_focus]
    exact h2
  rw [hp]
  simp only
  have hk : (if p.load then none else (s.asked p).keptOf ((s.asked p).issuer.queue false) p.target (s.askSeq p)) = none := by
    cases hl : p.load
    · have := (h3 hl).2
      rw [asked_issuer]
      unfold State.keptOf at this ⊢
      rw [asked_kept]
      simpa using this
    · rfl
  rw [hk, asked_wall]
  simp only
  cases act data (s.asked p) <;> rfl

/-- Withdrawal of waiters of which none stands in a ring. -/
theorem dropWaiters_none {s : State} {f : Waiter → Bool}
    (h : ∀ t ∈ s.tiles, ∀ r ∈ t.2.rings, ∀ w ∈ r.2.waiters, f w = false) : s.dropWaiters f = s := by
  have inner : ∀ (k : Nat) (l : Map Ring) (x : State), (∀ r ∈ l, ∀ w ∈ r.2.waiters, f w = false) →
      l.foldl (fun s r => if r.2.waiters.any f then s.putRing k r.1 (r.2.withdraw f) else s) x = x := by
    intro k l
    induction l with
    | nil => intro x _; rfl
    | cons r l ih =>
      intro x hx
      have : r.2.waiters.any f = false := by
        simp only [List.any_eq_false]
        intro w hw
        simp [hx r (by simp) w hw]
      simp only [List.foldl_cons, this]
      exact ih x (fun q hq => hx q (by simp [hq]))
  unfold State.dropWaiters
  have outer : ∀ (l : Map Tile) (x : State), (∀ t ∈ l, ∀ r ∈ t.2.rings, ∀ w ∈ r.2.waiters, f w = false) →
      l.foldl (fun s t => t.2.rings.foldl (fun s r =>
        if r.2.waiters.any f then s.putRing t.1 r.1 (r.2.withdraw f) else s) s) x = x := by
    intro l
    induction l with
    | nil => intro x _; rfl
    | cons t l ih =>
      intro x hx
      simp only [List.foldl_cons]
      rw [inner t.1 t.2.rings x (hx t (by simp))]
      exact ih x (fun q hq => hx q (by simp [hq]))
  exact outer s.tiles s h

theorem mayWithdraw_none {s : State} {key jid : Nat} {x : Bool}
    (h : ∀ t ∈ s.tiles, ∀ r ∈ t.2.rings, ∀ w ∈ r.2.waiters, w.by_.key ≠ key) : s.mayWithdraw ⟨key, jid, x⟩ = false := by
  simp only [State.mayWithdraw, List.any_eq_false, List.any_eq_true, not_exists, not_and, Bool.and_eq_true, beq_iff_eq]
  intro t ht r hr w hw e
  exact absurd (congrArg Issuer.key e) (h t ht r hr w hw)

/-- Nothing of a core context to advance. -/
theorem advance_none {s : State} {b : Issuer} (h : ∀ r ∈ s.reqs, r.by_ ≠ b) : s.advance b = s := by
  have : s.reqs.filter (fun r => r.by_ == b) = [] := by
    rw [List.filter_eq_nil_iff]
    intro r hr
    simpa using h r hr
  simp [State.advance, this]

/-- A job none of whose accesses is in flight has none to issue again. -/
theorem reissueFailed_none {s : State} {key jid : Nat} (h : ∀ r ∈ s.reqs, r.by_.key ≠ key) : s.reissueFailed key jid = s := by
  have hm : s.reqs.map (fun (r : Req) =>
      if r.st == ReqStatus.failed && r.ofJob key jid then { r with st := .again } else r) = s.reqs := by
    rw [List.map_congr_left (g := id) (fun r hr => by
      have : r.ofJob key jid = false := by simp [Req.ofJob, h r hr]
      simp [this])]
    exact List.map_id _
  unfold State.reissueFailed
  simp only [hm]
  have e : ({ s with reqs := s.reqs } : State) = s := rfl
  rw [e, advance_none (b := ⟨key, jid, false⟩) (fun r hr eq => h r hr (by rw [eq])),
    advance_none (b := ⟨key, jid, true⟩) (fun r hr eq => h r hr (by rw [eq]))]

/-- Nor anything to wait for. -/
theorem settledJob_none {s : State} {key jid : Nat} (h : ∀ r ∈ s.reqs, r.by_.key ≠ key)
    (hc : ∀ c ∈ s.circuits, c.flow.isSome = true → c.srcJid = jid → c.words = []) : s.settledJob key jid = true := by
  have hf : s.reqs.filter (fun r => r.ofJob key jid) = [] := by
    rw [List.filter_eq_nil_iff]
    intro r hr
    simp [Req.ofJob, h r hr]
  simp only [State.settledJob, hf, List.isEmpty_nil, Bool.true_or, Bool.true_and, List.all_eq_true]
  intro c hm
  cases h1 : c.flow.isSome
  · simp
  · by_cases h2 : c.srcJid = jid
    · simp [hc c hm h1 h2]
    · simp [h2]

/-! ### A freeze with nothing in flight (15 R389) -/

/-- The waits of a job at rest end without effect. -/
theorem endWaits_rest {s : State} {key : Nat} {j : Job} (h : s.jobAt key = some j) (hr : AtRest s key j) :
    s.endWaits key = s.setJob key j := by
  obtain ⟨ha, hx, hra, hrx, -, -, hw, -⟩ := hr
  have h1 : ∀ w, (if s.answerComes key j.a then j.a.takeReply w else j.a) = j.a := fun w => by simp [Core.takeReply, hra]
  have h2 : ∀ w, (if s.answerComes key j.x then j.x.takeReply w else j.x) = j.x := fun w => by simp [Core.takeReply, hrx]
  unfold State.endWaits
  simp only [h, h1, h2]
  rw [dropWaiters_none (s := s.setJob key j)]
  · rw [modJob_some (setJob_jobAt_same s key j), setJob_setJob]
    congr 1
    simp [mayWithdraw_none hw]
  · intro t ht r hr w hw'
    have := hw t ht r hr w hw'
    simp [Waiter.of, this]

/-- A freeze of a job at rest delivers the fault at once. -/
theorem finishFreeze_rest {s : State} {key : Nat} {j : Job} {f : FaultInfo} (h : s.jobAt key = some j) (hr : AtRest s key j) :
    s.finishFreeze key f = (s.setJob key j).deliver key (j.stopClock (s.phase (keyPkg key))) f := by
  have hb : j.busyStill = false := by simp [Job.busyStill, hr.1, hr.2.1, hr.2.2.2.2.1]
  have hs : (s.setJob key j).settledJob key j.jid = true := settledJob_none (s := s.setJob key j) hr.2.2.2.2.2.1 hr.2.2.2.2.2.2.2
  unfold State.finishFreeze
  simp only [endWaits_rest h hr, setJob_jobAt_same, hb, hs]
  simp

/-- AtRest depends only on what it names. -/
theorem AtRest.setJob {s : State} {key : Nat} {j i : Job} (h : AtRest s key j) (e1 : i.a.asked = j.a.asked)
    (e2 : i.x.asked = j.x.asked) (e3 : i.a.reply = j.a.reply) (e4 : i.x.reply = j.x.reply) (e5 : i.wordRuns = j.wordRuns)
    (e6 : i.jid = j.jid) : AtRest (s.setJob key i) key i := by
  obtain ⟨h1, h2, h3, h4, h5, h6, h7, h8⟩ := h
  exact ⟨e1 ▸ h1, e2 ▸ h2, e3 ▸ h3, e4 ▸ h4, e5 ▸ h5, h6, h7, fun c hc hf hj => h8 c hc hf (e6 ▸ hj)⟩

end Sys2Proof.Machine
end

