-- ==== Sys2Proof/Laws/Sound.lean ====
section
/-!
SUPPORT. Accesses to storage without an uncorrectable error: the checks pass and leave their body.
-/

namespace Sys2Proof.Machine

/-- Whether an access meets an error depends on the errors alone. -/
theorem flawed_errs {s t : State} (h : s.errs = t.errs) (a n : Nat) : s.flawed a n = t.flawed a n := by
  unfold State.flawed; rw [h]

theorem Sound.flawed {s : State} (h : Sound s) (a n : Nat) : s.flawed a n = false := by
  unfold State.flawed; rw [h]; rfl

theorem Sound.flawedAt {s : State} (h : Sound s) (l : List (Nat × Nat)) : s.flawedAt l = false := by
  simp [State.flawedAt, h.flawed]

theorem Sound.padFlawed {s : State} (h : Sound s) (a n : Nat) (w : Bool) : s.padFlawed a n w = false := by
  unfold State.padFlawed State.padFlawedAt; split <;> exact h.flawed _ _

/-- A write's unit holds the bytes it writes. -/
theorem padFlawed_sub {s : State} {a n : Nat} (h : s.padFlawed a n true = false) : s.padFlawed a n false = false := by
  have h0 : s.flawed (apAddr s.fpkg s.ftile (a / 16 * 16)) ((a % 16 + n + 15) / 16 * 16) = false := h
  show s.flawed (apAddr s.fpkg s.ftile a) n = false
  unfold State.flawed at h0 ⊢
  rw [List.any_eq_false] at h0 ⊢
  intro e he
  have := h0 e he
  intro hh
  obtain ⟨h1, h2⟩ := Bool.and_eq_true_iff.mp hh
  have h1 := of_decide_eq_true h1
  have h2 := of_decide_eq_true h2
  refine this (Bool.and_eq_true_iff.mpr ⟨decide_eq_true ?_, decide_eq_true ?_⟩) <;> simp only [apAddr] at h1 h2 ⊢ <;> omega

/-- A local address in range, aligned, free of its queue and over sound storage leaves the body. -/
theorem withPad_ok {s : State} {a : Word} {n : Nat} {write : Bool} (hr : a.toNat < padSize) (ha : a.toNat % n = 0)
    (hq : s.localFree write = true) (hs : s.padFlawed a.toNat n write = false) (body : State → Res) :
    withPad s a n write body = body s := by
  have h1 : ¬ padSize < a.toNat + 1 := by omega
  simp [withPad, withLocal, localFault, inLocalQueue, soundPad, h1, ha, hq, hs]

/-- One over storage that holds an error raises Data-Error. -/
theorem withPad_flawed {s : State} {a : Word} {n : Nat} {write : Bool} (hr : a.toNat < padSize) (ha : a.toNat % n = 0)
    (hq : s.localFree write = true) (hs : s.padFlawed a.toNat n write = true) (body : State → Res) :
    withPad s a n write body = .raise s .dataError a := by
  have h1 : ¬ padSize < a.toNat + 1 := by omega
  simp [withPad, withLocal, localFault, inLocalQueue, soundPad, h1, ha, hq, hs]

/-- One that its queue keeps waits. -/
theorem withPad_wait {s : State} {a : Word} {n : Nat} {write : Bool} (hr : a.toNat < padSize) (ha : a.toNat % n = 0)
    (hq : s.localFree write = false) (body : State → Res) : withPad s a n write body = .wait s := by
  have h1 : ¬ padSize < a.toNat + 1 := by omega
  simp [withPad, withLocal, localFault, inLocalQueue, h1, ha, hq]

/-- An access of memory whose place answers performs. -/
theorem Answers.memAct {s : State} {op : ReqOp} {pa n : Nat} (h : Answers s op pa n) (va : Word) (act : State → State × Word) :
    memAct va pa n act (s.asked (s.parcel op pa)) =
      .ok (act (s.asked (s.parcel op pa))).1 (act (s.asked (s.parcel op pa))).2 [] := by
  have hl : s.lineTaken pa = false := by
    have := h.2.1
    simp only [State.clear, Bool.and_eq_true, Bool.not_eq_true'] at this
    exact this.1.2
  unfold Machine.memAct
  rw [asked_absent, asked_flawed, asked_lineTaken, h.2.2.1, h.2.2.2, hl]
  rfl

/-- An access that performs as it is issued. -/
theorem Answers.askPlace {s : State} {op : ReqOp} {pa n : Nat} (h : Answers s op pa n) (va : Word) (act : State → State × Word)
    (k : State → Word → Res) :
    Machine.askPlace op va (Machine.memAct va pa n act) k s pa =
      k ((act (s.asked (s.parcel op pa))).1.keep (s.parcel op pa) (s.askSeq (s.parcel op pa)) (act (s.asked (s.parcel op pa))).2 [])
        (act (s.asked (s.parcel op pa))).2 := by
  unfold Machine.askPlace
  rw [h.1.1, h.2.1]
  simp only [Option.isNone_none, Bool.not_true, Bool.and_false, Bool.false_eq_true, if_false]
  rw [show (⟨true, op.isLoad, s.placeOf pa, s.targetNum pa⟩ : Parcel) = s.parcel op pa from rfl, exchange_arrives h.1, h.memAct]
  rfl

/-- Sound pieces are what an element lies at. -/
theorem Run.sound_ok {r : Run} {l : List (Nat × Nat)} (h : r.s.flawedAt l = false) (ad : Word) : r.sound ad l = .ok r l := by
  unfold Run.sound; rw [h]; rfl

/-- An upset writes no memory and moves nothing else. -/
theorem upsetAt_mem (s : State) (a : Nat) (bad : Bool) : (s.upsetAt a bad).mem = s.mem := rfl
theorem upsetAt_jobs (s : State) (a : Nat) (bad : Bool) : (s.upsetAt a bad).jobs = s.jobs := rfl

end Sys2Proof.Machine
end

