-- ==== Sys2Proof/Tests/Slice0.lean ====
section
/-!
SUPPORT. Tests of the model: ill-formed terms, decoding of words written out from the encoding tables, single steps, and
witnesses for the hypotheses of the statements.
-/

namespace Sys2Proof.Tests

open Sys2Proof Sys2Proof.Machine

-- One theorem after another: many that wait for the kernel at once take a thread each.
set_option Elab.async false

/-! ### Well-formedness: an ill-formed term for each check (08 R199, R206; 09 R239, R240; 10 R257 to R262) -/

theorem test_wf_refuses_core : [Instr.mfsr 1 0x006, .mtsr 1 0x000, .fcvt 1 2 0 3 3, .fcvt 1 2 0 5 7, .kld 1 64, .kst 1 511,
    .ldq 4 1 .w 0, .ldq 9 1 .w 0, .stq 3 1 .w 0, .stq 6 1 .d 0, .dqput 8 (.reg 1), .dqget 1 8, .dqpeek 1 63, .dqstat 1 8, .tksend 16,
    .tkwait 16, .tktry 1 16, .tkstat 1 63].all (fun i => !i.wf) = true := by decide +kernel

theorem test_wf_refuses_event : [(Instr.jctlKill, ({ pkg := 144 } : Args)), (.flitNackReplay, { idx := 6 }), (.planeDown, { idx := 6 }),
    (.laneFailure, { idx := 6 }), (.laneRetrain, { idx := 6 }), (.portIsolate, { idx := 6 }), (.portRetrain, { idx := 6 }),
    (.sensorSample, { idx := 14 }), (.senstatClear, { idx := 14 })].all (fun x => !x.2.wf x.1) = true := by decide +kernel

/-! ### Decoding: words built by hand from the tables of 08 R192 to R209 and the opcode table's fields -/

/-- What the decoder answers for each word of the list; the second entry is the tagged word after it. -/
def decoded (l : List (W32 × Option W32 × Instr)) : List Dec :=
  l.map (fun x => decode x.1 (match x.2.1 with
    | some v => .word true v
    | none => .outside))

/-- The instructions that it should answer. -/
def wanted (l : List (W32 × Option W32 × Instr)) : List Dec := l.map (fun x => .ok x.2.2)

def wordsSys : List (W32 × Option W32 × Instr) :=
     [(0x000D9302, none, .trap 0xd93),
      (0x02300503, none, .mfsr 35 5),
      (0x02400504, none, .mtsr 36 5),
      (0x00000001, none, .nop),
      (0x00000005, none, .eret)]

theorem test_decode_Sys : decoded wordsSys = wanted wordsSys := rfl

def wordsInt : List (W32 × Option W32 × Instr) :=
     [(0x0656B200, none, .add 37 26 (.reg 50)),
      (0x0665B101, none, .sub 38 22 (.reg 49)),
      (0x0675F342, none, .and 39 23 (.kbank 51)),
      (0x06160183, some 0xFEDC1234, .or 33 24 (.lit .zext 0xFEDC1234)),
      (0x06267104, none, .xor 34 25 (.reg 49)),
      (0x0636B305, none, .shl 35 26 (.reg 51)),
      (0x0645B246, none, .shr 36 22 (.kbank 50)),
      (0x0655C187, some 0xFEDC1234, .sar 37 23 (.lit .zext 0xFEDC1234)),
      (0x06663308, none, .slt 38 24 (.reg 51)),
      (0x06767209, none, .sltu 39 25 (.reg 50)),
      (0x0616B14A, none, .min 33 26 (.kbank 49)),
      (0x0625818B, some 0xFEDC1234, .max 34 22 (.lit .zext 0xFEDC1234)),
      (0x0635F20C, none, .minu 35 23 (.reg 50)),
      (0x0646310D, none, .maxu 36 24 (.reg 49)),
      (0x0656734E, none, .andn 37 25 (.kbank 51)),
      (0x0666818F, some 0xFEDC1234, .rotl 38 26 (.lit .zext 0xFEDC1234)),
      (0x0675B120, none, .addw 39 22 (.reg 49)),
      (0x0615F321, none, .subw 33 23 (.reg 51)),
      (0x06263265, none, .shlw 34 24 (.kbank 50)),
      (0x063641A6, some 0xFEDC1234, .shrw 35 25 (.lit .zext 0xFEDC1234)),
      (0x0646B327, none, .sarw 36 26 (.reg 51))]

theorem test_decode_Int : decoded wordsInt = wanted wordsInt := rfl

def wordsMulDiv : List (W32 × Option W32 × Instr) :=
     [(0x0A55B200, none, .mul 37 22 (.reg 50)),
      (0x0A65F141, none, .mulh 38 23 (.kbank 49)),
      (0x0A760182, some 0xFEDC1234, .mulhu 39 24 (.lit .zext 0xFEDC1234)),
      (0x0A167203, none, .div 33 25 (.reg 50)),
      (0x0A26B104, none, .divu 34 26 (.reg 49)),
      (0x0A35B345, none, .rem 35 22 (.kbank 51)),
      (0x0A45C186, some 0xFEDC1234, .remu 36 23 (.lit .zext 0xFEDC1234)),
      (0x0A563120, none, .mulw 37 24 (.reg 49)),
      (0x0A667323, none, .divw 38 25 (.reg 51)),
      (0x0A76B264, none, .divuw 39 26 (.kbank 50)),
      (0x0A1581A5, some 0xFEDC1234, .remw 33 22 (.lit .zext 0xFEDC1234)),
      (0x0A25F326, none, .remuw 34 23 (.reg 51))]

theorem test_decode_MulDiv : decoded wordsMulDiv = wanted wordsMulDiv := rfl

def wordsBits : List (W32 × Option W32 × Instr) :=
     [(0x0E360000, none, .clz 35 24),
      (0x0E464001, none, .ctz 36 25),
      (0x0E568002, none, .popc 37 26),
      (0x0E658003, none, .brev 38 22),
      (0x0E75C004, none, .bswap 39 23),
      (0x0E163345, none, .extu 33 24 (.kbank 51)),
      (0x0E264186, some 0xFEDC1234, .exts 34 25 (.lit .zext 0xFEDC1234)),
      (0x0E36B107, none, .ins 35 26 (.reg 49))]

theorem test_decode_Bits : decoded wordsBits = wanted wordsBits := rfl

def wordsImmediate : List (W32 × Option W32 × Instr) :=
     [(0x1245AD93, none, .addi 36 22 0x2d93),
      (0x1655ED93, none, .andi 37 23 0x2d93),
      (0x1A662D93, none, .ori 38 24 0x2d93),
      (0x1E766D93, none, .xori 39 25 0x2d93),
      (0x22168033, none, .shli 33 26 0x33),
      (0x26258033, none, .shri 34 22 0x33),
      (0x2A35C033, none, .sari 35 23 0x33),
      (0x2E462D93, none, .slti 36 24 0x2d93),
      (0x32566D93, none, .sltui 37 25 0x2d93),
      (0x366B4D93, none, .lhi 38 0xb4d93)]

theorem test_decode_Immediate : decoded wordsImmediate = wanted wordsImmediate := rfl

def wordsAgen : List (W32 × Option W32 × Instr) :=
     [(0x3A758181, some 0xFEDC1234, .shadd1 39 22 (.lit .zext 0xFEDC1234)),
      (0x3A15F102, none, .shadd2 33 23 (.reg 49)),
      (0x3A263303, none, .shadd3 34 24 (.reg 51)),
      (0x3A367244, none, .shadd4 35 25 (.kbank 50)),
      (0x3A468010, none, .lndiv 36 26),
      (0x3A558011, none, .lnmod 37 22)]

theorem test_decode_Agen : decoded wordsAgen = wanted wordsAgen := rfl

def wordsFp : List (W32 × Option W32 × Instr) :=
     [(0x4265F200, none, .fadd 38 23 (.reg 50)),
      (0x42763141, none, .fsub 39 24 (.kbank 49)),
      (0x42164182, some 0xFEDC1234, .fmul 33 25 (.lit .zext 0xFEDC1234)),
      (0x4226B203, none, .fdiv 34 26 (.reg 50)),
      (0x42358004, none, .fsqrt 35 22),
      (0x4245F345, none, .fmin 36 23 (.kbank 51)),
      (0x42560186, some 0xFEDC1234, .fmax 37 24 (.lit .zext 0xFEDC1234)),
      (0x42667107, none, .fmad 38 25 (.reg 49)),
      (0x4276B308, none, .fsgn 39 26 (.reg 51)),
      (0x4215B249, none, .feq 33 22 (.kbank 50)),
      (0x4225C18A, some 0xFEDC1234, .flt 34 23 (.lit .zext 0xFEDC1234)),
      (0x4236330B, none, .fle 35 24 (.reg 51)),
      (0x4246400C, none, .fclass 36 25),
      (0x4256800D, none, .fexp2 37 26),
      (0x4265800E, none, .flog2 38 22),
      (0x4275C00F, none, .frcp 39 23),
      (0x42160010, none, .frsq 33 24),
      (0x4626421E, none, .fcvt 34 25 2 3 6),
      (0x4A3B4D93, none, .fli 35 0xb4d93),
      (0x4E4B4D93, none, .faddi 36 0xb4d93),
      (0x525B4D93, none, .fmuli 37 0xb4d93)]

theorem test_decode_Fp : decoded wordsFp = wanted wordsFp := rfl

def wordsControl : List (W32 × Option W32 × Instr) :=
     [(0x6018CB93, none, .beq 24 50 0x393),
      (0x6059C793, none, .bne 25 49 0x393),
      (0x609ACF93, none, .blt 26 51 0x393),
      (0x60D6CB93, none, .bge 22 50 0x393),
      (0x6117C793, none, .bltu 23 49 0x393),
      (0x6158CF93, none, .bgeu 24 51 0x393),
      (0x676B4D93, none, .j 0x36b4d93),
      (0x6B6B4D93, none, .jal 0x36b4d93),
      (0x6C058000, none, .jr 22),
      (0x6E15C001, none, .jalr 33 23),
      (0x73000393, none, .loopb 3 0x393),
      (0x73590000, none, .lcset 3 25),
      (0x739A0000, none, .lcget 3 26)]

theorem test_decode_Control : decoded wordsControl = wanted wordsControl := rfl

def wordsLoadStore : List (W32 × Option W32 × Instr) :=
     [(0x8255A593, none, .ld 37 22 .bu 0x593),
      (0x8665C593, none, .st 38 23 .b 0x593),
      (0x8A763593, none, .ldl 39 24 .wu 0x593),
      (0x8E165593, none, .stl 33 25 .w 0x593),
      (0x92200193, none, .lds 34 0x193),
      (0x92380193, none, .sts 35 0x193),
      (0x9640003F, none, .kld 36 0x3f),
      (0x9658003F, none, .kst 37 0x3f),
      (0x98866808, none, .ldq 8 25 .hu 8),
      (0x9C568005, none, .stq 5 26 .b 5)]

theorem test_decode_LoadStore : decoded wordsLoadStore = wanted wordsLoadStore := rfl

def wordsMemx : List (W32 × Option W32 × Instr) :=
     [(0xA2158041, none, .ldacq 33 22 .d .tile),
      (0xA005F20A, none, .strel 23 50 .w .clus),
      (0xA0000093, none, .fence .sc .die),
      (0xA0064020, none, .pref 25),
      (0xA2568068, none, .ldby 37 26 .d),
      (0xA005B130, none, .stna 22 49 .w),
      (0xA0000018, none, .qmark)]

theorem test_decode_Memx : decoded wordsMemx = wanted wordsMemx := rfl

def wordsAtom : List (W32 × Option W32 × Instr) :=
     [(0xB275F30F, none, .aadd 39 23 51 .d .localTile),
      (0xB2163210, none, .aand 33 24 50 .w .globalRelaxed),
      (0xB2267129, none, .aor 34 25 49 .d (.globalScoped .tile)),
      (0xB236B332, none, .axor 35 26 51 .w (.globalScoped .clus)),
      (0xB245B24B, none, .amin 36 22 50 .d (.globalScoped .die)),
      (0xB255F154, none, .amax 37 23 49 .w (.globalScoped .pkg)),
      (0xB266336D, none, .aminu 38 24 51 .d (.globalScoped .dom)),
      (0xB2767276, none, .amaxu 39 25 50 .w .localRelaxed),
      (0xB216B18F, none, .aswap 33 26 49 .d .localTile),
      (0xB225B390, none, .acas 34 22 51 .w .globalRelaxed),
      (0xB235F2A1, none, .afadd 35 23 50 (.globalScoped .tile)),
      (0xB24631B2, none, .afmax 36 24 49 (.globalScoped .clus))]

theorem test_decode_Atom : decoded wordsAtom = wanted wordsAtom := rfl

def wordsQueue : List (W32 × Option W32 × Instr) :=
     [(0xC001C180, some 0xFEDC1234, .dqput 7 (.lit .zext 0xFEDC1234)),
      (0xC261C001, none, .dqget 38 7),
      (0xC271C002, none, .dqpeek 39 7),
      (0xC211C003, none, .dqstat 33 7),
      (0xC003C008, none, .tksend 15),
      (0xC003C009, none, .tkwait 15),
      (0xC243C00A, none, .tktry 36 15),
      (0xC253C00B, none, .tkstat 37 15)]

theorem test_decode_Queue : decoded wordsQueue = wanted wordsQueue := rfl

def wordsRing : List (W32 × Option W32 × Instr) :=
     [(0xC665F102, none, .rgclaim 38 23 49 .clus),
      (0xC676000B, none, .rgfill 39 24 .die),
      (0xC6167214, none, .rgtake 33 25 50 .pkg),
      (0xC626B11D, none, .rgtakeObs 34 26 49 .dom),
      (0xC6358021, none, .rgfree 35 22 .tile),
      (0xC645F228, none, .rginit 36 23 50),
      (0xC6563129, none, .rgstat 37 24 49),
      (0xC666732A, none, .rgreset 38 25 51),
      (0xC676B22B, none, .rgjoin 39 26 50),
      (0xC615B12C, none, .rgleave 33 22 49)]

theorem test_decode_Ring : decoded wordsRing = wanted wordsRing := rfl

def wordsTag : List (W32 × Option W32 × Instr) :=
     [(0xCA25F300, none, .tglook 34 23 (.reg 51)),
      (0xCA363241, none, .tgset 35 24 (.kbank 50)),
      (0xCA464002, none, .tginv 36 25),
      (0xC8068003, none, .tgclr 26),
      (0xCA658004, none, .tgrd 38 22)]

theorem test_decode_Tag : decoded wordsTag = wanted wordsTag := rfl

def wordsCa : List (W32 × Option W32 × Instr) :=
     [(0xCE75F100, none, .caput 39 23 49),
      (0xCE163301, none, .canode 33 24 51),
      (0xCE267202, none, .caget 34 25 50),
      (0xCE368003, none, .caref 35 26),
      (0xCE458004, none, .cadrop 36 22),
      (0xCE55F205, none, .caroot 37 23 50),
      (0xCE663106, none, .carootRef 38 24 49),
      (0xCE767307, none, .caswap 39 25 51),
      (0xCE16B208, none, .cacas 33 26 50)]

theorem test_decode_Ca : decoded wordsCa = wanted wordsCa := rfl

def wordsJob : List (W32 × Option W32 × Instr) :=
     [(0xD0058000, none, .spawn 22),
      (0xD005F301, none, .join 23 (.reg 51)),
      (0xD2403207, none, .allot 36 (.reg 50)),
      (0xD0003148, none, .shrink (.kbank 49)),
      (0xD0000189, some 0xFEDC1234, .phase (.lit .zext 0xFEDC1234)),
      (0xD0000002, none, .rend),
      (0xD0000003, none, .trigger),
      (0xD0000004, none, .waitdep),
      (0xD0000005, none, .yield),
      (0xD0000006, none, .exit),
      (0xD000000A, none, .swpt)]

theorem test_decode_Job : decoded wordsJob = wanted wordsJob := rfl

def wordsFab : List (W32 × Option W32 × Instr) :=
     [(0xD675B200, none, .copen 39 22 (.reg 50)),
      (0xD615F101, none, .cland 33 23 (.reg 49)),
      (0xD4063342, none, .chold 24 (.kbank 51)),
      (0xD4064003, none, .cclose 25),
      (0xD6468004, none, .cstat 36 26),
      (0xD405B308, none, .dmset 22 (.reg 51)),
      (0xD405C009, none, .dmready 23),
      (0xD676000A, none, .dmwait 39 24),
      (0xD616400B, none, .dmstat 33 25)]

theorem test_decode_Fab : decoded wordsFab = wanted wordsFab := rfl

def wordsPwc : List (W32 × Option W32 × Instr) :=
     [(0xD8068000, none, .pwsave 26),
      (0xD8058001, none, .pwrest 22),
      (0xDA400002, none, .pwrdy 36),
      (0xDA500003, none, .pwstat 37)]

theorem test_decode_Pwc : decoded wordsPwc = wanted wordsPwc := rfl

def wordsSystem : List (W32 × Option W32 × Instr) :=
     [(0xF0064000, none, .tlbinv 25),
      (0xF2768002, none, .tlbprb 39 26),
      (0xF6100180, some 0xFEDC1234, .perfrd 33 (.lit .zext 0xFEDC1234)),
      (0xF4003101, none, .perfclr (.reg 49)),
      (0xF8003300, none, .hostint (.reg 51)),
      (0xF8067241, none, .hostsig 25 (.kbank 50)),
      (0xF0000001, none, .tlbinvt)]

theorem test_decode_System : decoded wordsSystem = wanted wordsSystem := rfl

def wordsEngine1 : List (BitVec 48 × Instr) :=
     [(0x20AEA99A76C5, .mldb ⟨some 5, some 10, 41, 0x9A7, .link, 0x2C5⟩),
      (0x21000612393A, .mma ⟨none, none, 6, 0x123, .stop, 0x13A⟩),
      (0x22AEA99A76C5, .mmaz ⟨some 5, some 10, 41, 0x9A7, .link, 0x2C5⟩),
      (0x23000612393A, .mclr ⟨none, none, 6, 0x123, .stop, 0x13A⟩),
      (0x24AEA99A76C5, .mthr ⟨some 5, some 10, 41, 0x9A7, .link, 0x2C5⟩),
      (0x25000612393A, .mrdc ⟨none, none, 6, 0x123, .stop, 0x13A⟩),
      (0x26AEA99A76C5, .mout ⟨some 5, some 10, 41, 0x9A7, .link, 0x2C5⟩),
      (0x40000612393A, .vld ⟨none, none, 6, 0x123, .stop, 0x13A⟩),
      (0x41AEA99A76C5, .vst ⟨some 5, some 10, 41, 0x9A7, .link, 0x2C5⟩),
      (0x42000612393A, .vlda ⟨none, none, 6, 0x123, .stop, 0x13A⟩),
      (0x43AEA99A76C5, .vsta ⟨some 5, some 10, 41, 0x9A7, .link, 0x2C5⟩),
      (0x44000612393A, .vadd ⟨none, none, 6, 0x123, .stop, 0x13A⟩),
      (0x45AEA99A76C5, .vsub ⟨some 5, some 10, 41, 0x9A7, .link, 0x2C5⟩),
      (0x46000612393A, .vmul ⟨none, none, 6, 0x123, .stop, 0x13A⟩),
      (0x47AEA99A76C5, .vfma ⟨some 5, some 10, 41, 0x9A7, .link, 0x2C5⟩),
      (0x48000612393A, .vmax ⟨none, none, 6, 0x123, .stop, 0x13A⟩),
      (0x49AEA99A76C5, .vmin ⟨some 5, some 10, 41, 0x9A7, .link, 0x2C5⟩),
      (0x4A000612393A, .vexp2 ⟨none, none, 6, 0x123, .stop, 0x13A⟩),
      (0x4BAEA99A76C5, .vlog2 ⟨some 5, some 10, 41, 0x9A7, .link, 0x2C5⟩),
      (0x4C000612393A, .vrcp ⟨none, none, 6, 0x123, .stop, 0x13A⟩),
      (0x4DAEA99A76C5, .vrsq ⟨some 5, some 10, 41, 0x9A7, .link, 0x2C5⟩),
      (0x4E000612393A, .vcvt ⟨none, none, 6, 0x123, .stop, 0x13A⟩),
      (0x4FAEA99A76C5, .vqnt ⟨some 5, some 10, 41, 0x9A7, .link, 0x2C5⟩),
      (0x50000612393A, .vdq ⟨none, none, 6, 0x123, .stop, 0x13A⟩),
      (0x51AEA99A76C5, .vrsum ⟨some 5, some 10, 41, 0x9A7, .link, 0x2C5⟩)]

theorem test_decode_Engine1 : wordsEngine1.map (fun x => decodeEngine x.1) = wordsEngine1.map (fun x => .ok x.2) := rfl

def wordsEngine2 : List (BitVec 48 × Instr) :=
     [(0x52000612393A, .vrmax ⟨none, none, 6, 0x123, .stop, 0x13A⟩),
      (0x53AEA99A76C5, .vscan ⟨some 5, some 10, 41, 0x9A7, .link, 0x2C5⟩),
      (0x54000612393A, .vcmp ⟨none, none, 6, 0x123, .stop, 0x13A⟩),
      (0x55AEA99A76C5, .vsel ⟨some 5, some 10, 41, 0x9A7, .link, 0x2C5⟩),
      (0x56000612393A, .vperm ⟨none, none, 6, 0x123, .stop, 0x13A⟩),
      (0x57AEA99A76C5, .vbcst ⟨some 5, some 10, 41, 0x9A7, .link, 0x2C5⟩),
      (0x58000612393A, .vgath ⟨none, none, 6, 0x123, .stop, 0x13A⟩),
      (0x59AEA99A76C5, .vscat ⟨some 5, some 10, 41, 0x9A7, .link, 0x2C5⟩),
      (0x5A000612393A, .vsmx ⟨none, none, 6, 0x123, .stop, 0x13A⟩),
      (0x60AEA99A76C5, .txblk ⟨some 5, some 10, 41, 0x9A7, .link, 0x2C5⟩),
      (0x61000612393A, .txcvt ⟨none, none, 6, 0x123, .stop, 0x13A⟩),
      (0x62AEA99A76C5, .txgat ⟨some 5, some 10, 41, 0x9A7, .link, 0x2C5⟩),
      (0x80000612393A, .cpy ⟨none, none, 6, 0x123, .stop, 0x13A⟩),
      (0x81AEA99A76C5, .cpyred ⟨some 5, some 10, 41, 0x9A7, .link, 0x2C5⟩),
      (0x82000612393A, .cpypk ⟨none, none, 6, 0x123, .stop, 0x13A⟩),
      (0x83AEA99A76C5, .cpyck ⟨some 5, some 10, 41, 0x9A7, .link, 0x2C5⟩),
      (0x84000612393A, .cpycode ⟨none, none, 6, 0x123, .stop, 0x13A⟩),
      (0x85AEA99A76C5, .cpyout ⟨some 5, some 10, 41, 0x9A7, .link, 0x2C5⟩),
      (0xA0000612393A, .wpatch ⟨none, none, 6, 0x123, .stop, 0x13A⟩),
      (0xA1AEA99A76C5, .wloady ⟨some 5, some 10, 41, 0x9A7, .link, 0x2C5⟩),
      (0xA2000612393A, .wrun ⟨none, none, 6, 0x123, .stop, 0x13A⟩),
      (0xA3AEA99A76C5, .wsamp ⟨some 5, some 10, 41, 0x9A7, .link, 0x2C5⟩),
      (0xA4000612393A, .wsave ⟨none, none, 6, 0x123, .stop, 0x13A⟩),
      (0xA5AEA99A76C5, .wrest ⟨some 5, some 10, 41, 0x9A7, .link, 0x2C5⟩),
      (0xA6000612393A, .wdom ⟨none, none, 6, 0x123, .stop, 0x13A⟩)]

theorem test_decode_Engine2 : wordsEngine2.map (fun x => decodeEngine x.1) = wordsEngine2.map (fun x => .ok x.2) := rfl

def wordsCommon : List (BitVec 48 × Instr) :=
     [(0x00AEA9000800, .enop ⟨some 5, some 10, .stop⟩ 41),
      (0x01AE80000800, .ewait ⟨some 5, some 10, .stop⟩),
      (0x02AE81FF03FE, .eloop ⟨some 5, some 10⟩ 1 0xFF0 0x3FE),
      (0x030000FF0001, .ejmp ⟨none, none⟩ 0xFF0 true),
      (0x0400000006C5, .emark ⟨none, none, .link⟩ 0x2C5),
      (0x05AE80000800, .eswpt ⟨some 5, some 10, .stop⟩),
      (0xC0AE80000995, .swlink ⟨some 5, some 10, .stop⟩ 5 2 6),
      (0xC10000000007, .swcut ⟨none, none, .next⟩ 7)]

theorem test_decode_Common : wordsCommon.map (fun x => decodeEngine x.1) = wordsCommon.map (fun x => .ok x.2) := rfl

/-! ### Small states -/

/-- `s` with job `j` in slot 0 of tile 0 of package 0, whose stream of kind `k` acts. -/
def put (s : State) (k : Kind) (j : Job) : State := { s.setJob 0 j with focus := ⟨0, 0, 0, k⟩ }

/-- Right after reset, but for that job. -/
abbrev run (k : Kind) (j : Job) : State := put State.reset k j

/-- The lone supervisor job with registers written. -/
def job (k : Kind) (l : List (Reg × Word)) : Job :=
  l.foldl (fun j x => j.modCore k (fun c => c.setReg x.1 x.2)) (loneJob k)

/-- A package in service with every tile present. -/
def pkgOn : Package := { Package.reset with svc := 1, capt := Vector.replicate 4 (-1), boot := .full }

/-- A core TLB entry and a window that let tenant 0 reach 64 KiB of HBM. -/
def entry : TlbEntry := ⟨0, 0x1_0000, 0x2_0000, 0, 7, 0⟩
def areaOn : TenantArea := { TenantArea.reset with win := [(0, 1), (1, 0x3FFF_0007)] }

/-- A machine in service in which tenant 0 reaches page 0x1_0000. -/
def world : State :=
  { State.reset with pkgs := [(0, pkgOn)], tenants := [(0, areaOn)], tiles := [(0, { Tile.reset with tlb := [entry], tenant := some 0 })] }

/-- What makes a core of `j` ready. -/
abbrev Runs (k : Kind) (j : Job) : Prop := k.isCore = true ∧ (j.st = .running ∨ j.st = .handler) ∧ j.deferred = []

/-- Nothing of `j` is under way. -/
abbrev Rests (s : State) (j : Job) : Prop :=
  (j.a.asked = none ∧ j.x.asked = none ∧ j.a.reply = none ∧ j.x.reply = none ∧ j.wordRuns = false) ∧ s.reqs = [] ∧
    (∀ t ∈ s.tiles, ∀ r ∈ t.2.rings, r.2.waiters = []) ∧ s.circuits = []

theorem job_put (s : State) (k : Kind) (j : Job) : (put s k j).jobAt (put s k j).key = some j := by
  have e : (put s k j).key = 0 := by simp [put, State.key, slotKey]
  rw [e]
  exact setJob_jobAt_same s 0 j

theorem ready_put (s : State) (k : Kind) (j : Job) (h : Runs k j) : Ready (put s k j) j :=
  ⟨job_put s k j, h.1, Or.inl h.2⟩

theorem steady_put (s : State) (k : Kind) (j : Job) (h : Runs k j) : Steady (put s k j) j := by
  refine ⟨ready_put s k j h, fun e => ?_⟩
  rcases h.2.1 with r | r <;> simp [r] at e

theorem allowed_put (s : State) (k : Kind) (j : Job) (l : List Reg) (h : (j.core k).allot = 64) : Allowed ((put s k j).core j) l := by
  intro r _
  have e : ((put s k j).core j).allot = 64 := h
  exact Or.inl (by rw [e]; omega)

theorem quiet_put (s : State) (k : Kind) (j : Job) (h : s.reqs = []) : Quiet (put s k j) := by
  intro r hr
  have e : (put s k j).reqs = [] := h
  rw [e] at hr
  exact absurd hr (List.not_mem_nil)

theorem atRest_put (s : State) (k : Kind) (j : Job) (h : Rests s j) : AtRest (put s k j) 0 j := by
  obtain ⟨⟨h1, h2, h3, h4, h5⟩, h6, h7, h8⟩ := h
  have er : (put s k j).reqs = [] := h6
  have ec : (put s k j).circuits = [] := h8
  refine ⟨h1, h2, h3, h4, h5, fun r hr => ?_, fun t ht r hr w hw => ?_, fun c hc => ?_⟩
  · rw [er] at hr
    exact absurd hr (List.not_mem_nil)
  · rw [h7 t ht r hr] at hw
    exact absurd hw (List.not_mem_nil)
  · rw [ec] at hc
    exact absurd hc (List.not_mem_nil)

theorem translated_of {s : State} {j : Job} {va : Word} {need : Perm} {pa : Nat} (h0 : s.askOf = none) (h1 : bits va 63 56 = 0)
    (h2 : (match (s.coreTranslate j.tenant.toNat va.toNat need).2 with
      | .ok _ p => p == pa
      | _ => false) = true)
    (h3 : ((s.coreTranslate j.tenant.toNat va.toNat need).1.region pa).isMmio = false) :
    Translated s j va need (s.coreTranslate j.tenant.toNat va.toNat need).1 pa := by
  refine ⟨h0, h1, ?_, h3⟩
  split at h2
  · next e p h => exact ⟨e, by rw [← beq_iff_eq.mp h2]; exact Prod.ext rfl h⟩
  · exact absurd h2 (by simp)

/-! ### Witnesses: integer, floating point and control (hypotheses of the statements of the same names) -/

theorem test_witness_IntegerResults : ∃ s j, Ready s j ∧ Allowed (s.core j) (63 :: 63 :: opdRegs (.reg 63)) :=
  ⟨run .A (job .A []), job .A [], ready_put _ _ _ (by decide +kernel), allowed_put _ _ _ _ (by decide +kernel)⟩

theorem test_witness_WordIntegerResults : ∃ s j, Ready s j ∧ Allowed (s.core j) (1 :: 63 :: opdRegs (.lit .zext 31)) :=
  ⟨run .X (job .X []), job .X [], ready_put _ _ _ (by decide +kernel), allowed_put _ _ _ _ (by decide +kernel)⟩

theorem test_witness_MulDivResults : ∃ s j, Ready s j ∧ Allowed (s.core j) (0 :: 63 :: opdRegs (.lit .sext 0xFFFFFFFF)) ∧
    bval j (s.core j) (.lit .sext 0xFFFFFFFF) ≠ 0 ∧ (bval j (s.core j) (.lit .sext 0xFFFFFFFF)).setWidth 32 ≠ (0 : W32) :=
  ⟨run .X (job .X []), job .X [], ready_put _ _ _ (by decide +kernel), allowed_put _ _ _ _ (by decide +kernel), by decide +kernel, by decide +kernel⟩

theorem test_witness_BitResults : ∃ s j, Ready s j ∧ Allowed (s.core j) (3 :: 3 :: opdRegs (.kbank 63)) :=
  ⟨run .A (job .A [(3, -1)]), job .A [(3, -1)], ready_put _ _ _ (by decide +kernel), allowed_put _ _ _ _ (by decide +kernel)⟩

theorem test_witness_ImmediateResults : ∃ s j, Ready s j ∧ Allowed (s.core j) (0 :: 0 :: opdRegs (.lit .fp 0)) :=
  ⟨run .X (job .X []), job .X [], ready_put _ _ _ (by decide +kernel), allowed_put _ _ _ _ (by decide +kernel)⟩

theorem test_witness_FloatResults : ∃ s j, Ready s j ∧ Allowed (s.core j) (1 :: 2 :: opdRegs (.reg 3)) :=
  ⟨run .A (job .A []), job .A [], ready_put _ _ _ (by decide +kernel), allowed_put _ _ _ _ (by decide +kernel)⟩

theorem test_witness_FloatSpecials :
    (f32 0x7F800001).isNan = true ∧ ((f32 1).isNan = false ∧ (f32 1).isInf = false ∧ (f32 1).isZero = false) ∧
    ((f32 0xFF800000).isNan = false ∧ (f32 0xFF800000).isZero = false ∧ (0xFF800000 : W32).getLsbD 31 = true) := by decide +kernel

theorem test_witness_ClassAndConvert : (∃ s j, Steady s j ∧ Allowed (s.core j) [63, 62]) ∧
    [(0, 4), (0, 5), (4, 6), (1, 7), (5, 0), (6, 2), (7, 3)].all (fun x => fcvtLegal x.1 x.2) = true ∧ fcvtLegal 6 7 = false ∧
    fcvtLegal 3 3 = false ∧ [0, 1, 2, 3, 4].all (fun n => (fmtOf n).isSome) = true :=
  ⟨⟨run .A (job .A []), job .A [], steady_put _ _ _ (by decide +kernel), allowed_put _ _ _ _ (by decide +kernel)⟩, by decide +kernel⟩

/-- Each condition of a branch holds of some operands and fails of others; targets 0 and 0x3_FFFC are in range. -/
theorem test_witness_BranchResults :
    let j := job .A [(1, 1), (2, -1)]
    let j' := { j with a := { j.a with pc := 0x3_FFFC } }
    (Ready (run .A j) j ∧ Allowed ((run .A j).core j) [1, 2]) ∧ (Ready (run .A j') j' ∧ Allowed ((run .A j').core j') [0, 0]) ∧
    (let x := (j.core .A).reg 1
     let y := (j.core .A).reg 2
     x ≠ y ∧ y.toInt < x.toInt ∧ x.toNat < y.toNat) ∧
    (0 : Int) ≤ j.a.pc.toNat + 4 * (0 : BitVec 10).toInt ∧ (j'.a.pc.toNat + 4 * (0 : BitVec 10).toInt : Int) < 0x40000 :=
  ⟨⟨ready_put _ _ _ (by decide +kernel), allowed_put _ _ _ _ (by decide +kernel)⟩, ⟨ready_put _ _ _ (by decide +kernel), allowed_put _ _ _ _ (by decide +kernel)⟩, by decide +kernel⟩

/-- A jump to 0 and to 0x3_FFFC. -/
theorem test_witness_JumpResults :
    let j := job .X [(1, 0x3_FFFC)]
    (Ready (run .X j) j ∧ Allowed ((run .X j).core j) [63, 1]) ∧ j.x.pc.toNat + 4 * (0 : BitVec 26).toInt = 0 ∧
    (j.x.reg 1).toNat < 0x40000 ∧ (j.x.reg 1).toNat % 4 = 0 :=
  ⟨⟨ready_put _ _ _ (by decide +kernel), allowed_put _ _ _ _ (by decide +kernel)⟩, by decide +kernel⟩

/-- A loop counter at 0, 1 and 2; a branch back to 0. -/
theorem test_witness_LoopCounters :
    let j := { job .X [] with x := { (job .X []).x with lc := #v[0, 1, 2, 0xFFFFFFFF] } }
    (Ready (run .X j) j ∧ Allowed ((run .X j).core j) [1]) ∧ j.x.pc.toNat + 4 * (0 : BitVec 10).toInt = 0 ∧
    vget j.x.lc 0 = 0 ∧ vget j.x.lc 1 = 1 ∧ 1 < (vget j.x.lc 2).toNat :=
  ⟨⟨ready_put _ _ _ (by decide +kernel), allowed_put _ _ _ _ (by decide +kernel)⟩, by decide +kernel⟩

/-! ### Witnesses: system, traps and handlers -/

/-- An assigned number's and an unassigned number's hypotheses. -/
theorem test_witness_SystemRegisterReads :
    let j := job .A []
    Steady (run .A j) j ∧ Allowed ((run .A j).core j) [63] ∧
    (0x006 : BitVec 12).toNat ∉ [0x000, 0x001, 0x002, 0x003, 0x004, 0x005, 0x010, 0x011, 0x012, 0x013, 0x014, 0x015, 0x016, 0x020] :=
  ⟨steady_put _ _ _ (by decide +kernel), allowed_put _ _ _ _ (by decide +kernel), by decide⟩

/-- TRAPV at its largest area and handler passes the checks, the next area up does not; H = 1 and H = 0. -/
theorem test_witness_SystemRegisterWrites :
    let j := job .A [(1, 0x005F_FF00_0003_FFFD), (2, 0x0060_0000_0000_0000)]
    let h := j.modCore .A (fun c => { c with h := true })
    let v := (j.core .A).reg 1
    (Steady (run .A j) j ∧ Allowed ((run .A j).core j) [1] ∧ ((run .A j).core j).h = false) ∧ (Steady (run .A h) h ∧ ((run .A h).core h).h = true) ∧
    (v.getLsbD 1 = false ∧ v.extractLsb' 18 14 = 0 ∧ v.extractLsb' 55 9 = 0 ∧ v.extractLsb' 32 8 = 0 ∧ (v.extractLsb' 32 23).toNat = 0x5FFF00) ∧
    0x5FFF00 < (((j.core .A).reg 2).extractLsb' 32 23).toNat ∧ (0x000 : BitVec 12).toNat ∉ [0x001, 0x002, 0x003, 0x005] :=
  ⟨⟨steady_put _ _ _ (by decide +kernel), allowed_put _ _ _ _ (by decide +kernel), rfl⟩, ⟨steady_put _ _ _ (by decide +kernel), rfl⟩, by decide +kernel, by decide +kernel,
    by decide⟩

theorem test_witness_TrapAndNop : ∃ s j, Steady s j ∧ Ready s j :=
  ⟨run .X (job .X []), job .X [], steady_put _ _ _ (by decide +kernel), ready_put _ _ _ (by decide +kernel)⟩

/-- A job at rest whose TRAPV enables a handler with the highest record area. -/
def handled : Job := { job .X [] with trapv := 0x005F_FF00_0000_0029, a := { (job .X []).a with fin := true } }

theorem test_witness_HandlerEntry :
    let s := run .X handled
    let f : FaultInfo := ⟨.trap, 5, .X, 0, none⟩
    MemoryCanonical s ∧ s.jobAt 0 = some handled ∧ handled.st = .running ∧ AtRest s 0 handled ∧ (f.kind = .A → handled.x.fin = true) ∧
    handled.trapv.getLsbD 0 = true ∧ (handled.core .X).fin = false ∧ (handled.core .X).h = false :=
  ⟨rfl, rfl, rfl, atRest_put _ _ _ (by decide +kernel), by decide, by decide +kernel, rfl, rfl⟩

/-- Three ways to the supervisor: no handler enabled, a handler running, the handling core finished. -/
theorem test_witness_SupervisorDelivery :
    let j := job .X []
    let h := { handled with st := .handler, x := { handled.x with h := true } }
    let d := { handled with x := { handled.x with fin := true } }
    ((run .X j).jobAt 0 = some j ∧ AtRest (run .X j) 0 j ∧ j.st = .running ∧ j.trapv.getLsbD 0 = false) ∧
    ((run .X h).jobAt 0 = some h ∧ AtRest (run .X h) 0 h ∧ h.st = .handler ∧ (h.core .X).h = true) ∧
    ((run .X d).jobAt 0 = some d ∧ AtRest (run .X d) 0 d ∧ d.st = .running ∧ (d.core .X).fin = true) :=
  ⟨⟨rfl, atRest_put _ _ _ (by decide +kernel), rfl, rfl⟩, ⟨rfl, atRest_put _ _ _ (by decide +kernel), rfl, rfl⟩, ⟨rfl, atRest_put _ _ _ (by decide +kernel), rfl, rfl⟩⟩

theorem test_witness_HandlerReturn :
    let j := { handled with st := .handler, x := { handled.x with h := true } }
    let i := job .X []
    (Steady (run .X j) j ∧ AtRest (run .X j) (run .X j).key j ∧ ((run .X j).core j).h = true ∧ (j.core .A).h = false ∧ j.insideWord = false) ∧
    (Steady (run .X i) i ∧ ((run .X i).core i).h = false) :=
  ⟨⟨⟨ready_put _ _ _ (by decide +kernel), by decide⟩, atRest_put _ _ _ (by decide +kernel), rfl, rfl, rfl⟩, ⟨steady_put _ _ _ (by decide +kernel), rfl⟩⟩

/-! ### Witnesses: local storage, queues, tags -/

/-- A request of the A-core of job 0, at `pa`. -/
def req (op : ReqOp) (pa : Nat) : Req :=
  { id := 7, by_ := ⟨0, 0, false⟩, tenant := 0, op := op, va := 0, pa := pa, point := 0, size := 8, data := 5, noalloc := false
    seq := 0, sentAt := 0, reissues := 0, st := .sent, acc := 0, missed := false }

/-- `run .A j` with a QMARK of the core standing in its queues. -/
abbrev marked (j : Job) : State := put { State.reset with reqs := [req .qmark 0] } .A j

/-- The last aligned place of each size of the scratchpad, with a QMARK before it and without. -/
theorem test_witness_LocalStorage :
    let j := job .A [(1, 0x5F_FFF8)]
    Ready (run .A j) j ∧ Allowed ((run .A j).core j) [63, 1] ∧
    (run .A j).localFree true = true ∧ (run .A j).localFree false = true ∧ ∀ n ∈ [1, 2, 4, 8], (((run .A j).core j).reg 1 + BitVec.ofInt 64 ((8 / n : Nat) * n - n)).toNat < 0x60_0000 ∧
      (((run .A j).core j).reg 1 + BitVec.ofInt 64 ((8 / n : Nat) * n - n)).toNat % n = 0 ∧
      (run .A j).padFlawed (((run .A j).core j).reg 1 + BitVec.ofInt 64 ((8 / n : Nat) * n - n)).toNat n true = false :=
  ⟨ready_put _ _ _ (by decide +kernel), allowed_put _ _ _ _ (by decide +kernel), by decide +kernel, by decide +kernel, by decide +kernel⟩

theorem test_witness_LocalStorage_waits :
    let j := job .A [(1, 0x5F_FFF8)]
    Ready (marked j) j ∧ Allowed ((marked j).core j) [63, 1] ∧ ((marked j).core j).reg 1 = 0x5F_FFF8 ∧
    (marked j).localFree true = false ∧ (marked j).localFree false = false ∧ (marked j).padFlawed 0x5F_FFF8 8 true = false :=
  ⟨ready_put _ _ _ (by decide +kernel), allowed_put _ _ _ _ (by decide +kernel), by decide +kernel⟩

/-- A job below the supervisor with targets at and around the limit, a divisor whose low half is zero, and local addresses at the limit. -/
def faulty : Job := { job .A [(1, 0x4_0000), (2, 0x3_FFFE), (3, 0x60_0000), (4, 0x5F_FFFD), (5, 0x1_0000_0000), (6, 0x5F_FFF8)] with sup := false }

theorem faulty_steady : Steady (run .A faulty) faulty := steady_put _ _ _ (by decide +kernel)

theorem faulty_allowed (l : List Reg) : Allowed ((run .A faulty).core faulty) l := allowed_put _ _ _ l (by decide +kernel)

/-- A register just past the allotment. -/
theorem test_witness_AllotmentFaults :
    let i := { faulty with a := { faulty.a with allot := 8 } }
    Steady (run .A i) i ∧ ((run .A i).core i).allot ≤ (8 : Reg).toNat ∧ (8 : Reg) ≠ 63 :=
  ⟨steady_put _ _ _ (by decide +kernel), by decide, by decide⟩

theorem test_witness_PrivilegeFaults :
    let s := run .A faulty
    Steady s faulty ∧ faulty.sup = false ∧ Allowed (s.core faulty) (opdRegs (.lit .zext 7)) ∧ (bval faulty (s.core faulty) (.lit .zext 2)).toNat < 3 ∧
    (bval faulty (s.core faulty) (.lit .zext 6)).toNat = 6 ∧ (bval faulty (s.core faulty) (.lit .zext 7)).toNat = 7 :=
  ⟨faulty_steady, rfl, faulty_allowed _, by decide +kernel⟩

theorem test_witness_BadTargetFaults :
    let n := { faulty with a := { faulty.a with pc := 0x3_FFFC, lc := #v[2, 2, 2, 2] } }
    let m := { faulty with a := { faulty.a with pc := 2, lc := #v[2, 2, 2, 2] } }
    let u := fun (i : Job) (k : BitVec 10) => (((run .A i).core i).pc.setWidth 64 + BitVec.ofInt 64 (4 * k.toInt) : Word).toNat
    let f := fun (r : Reg) => ((run .A faulty).core faulty).reg r
    (Steady (run .A faulty) faulty ∧ Allowed ((run .A faulty).core faulty) [63, 1]) ∧
    (0x40000 ≤ (f 1).toNat ∧ (f 2).toNat < 0x40000 ∧ (f 2).toNat % 4 ≠ 0) ∧
    (Steady (run .A n) n ∧ 0x40000 ≤ (((run .A n).core n).pc.setWidth 64 + BitVec.ofInt 64 (4 * (1 : BitVec 26).toInt) : Word).toNat) ∧
    (0x40000 ≤ u n 1 ∧ Steady (run .A m) m ∧ Allowed ((run .A m).core m) [0, 1, 2] ∧ u m 0 < 0x40000 ∧ u m 0 % 4 ≠ 0) ∧
    (∀ i ∈ [n, m], let g := ((run .A i).core i).reg
      g 1 ≠ g 2 ∧ (g 2).toInt < (g 1).toInt ∧ (g 2).toNat < (g 1).toNat ∧ 1 < (vget ((run .A i).core i).lc 3).toNat) :=
  ⟨⟨faulty_steady, faulty_allowed _⟩, by decide +kernel, ⟨steady_put _ _ _ (by decide +kernel), by decide +kernel⟩,
    ⟨by decide +kernel, steady_put _ _ _ (by decide +kernel), allowed_put _ _ _ _ (by decide +kernel), by decide +kernel⟩, by decide +kernel⟩

theorem test_witness_DivideByZeroFaults :
    let b := fun (r : Reg) => bval faulty ((run .A faulty).core faulty) (.reg r)
    Steady (run .A faulty) faulty ∧ Allowed ((run .A faulty).core faulty) (1 :: 2 :: opdRegs (.reg 5)) ∧ b 0 = 0 ∧ (b 5).setWidth 32 = 0#32 ∧ b 5 ≠ 0 :=
  ⟨faulty_steady, faulty_allowed _, by decide +kernel⟩

theorem test_witness_LocalFaults :
    let f := fun (r : Reg) => ((run .A faulty).core faulty).reg r
    let u := put { State.reset with errs := [apAddr 0 0 0x5F_FFFF] } .A faulty
    (Steady (run .A faulty) faulty ∧ Allowed ((run .A faulty).core faulty) [1, 3]) ∧
    (0x60_0000 ≤ (f 3).toNat ∧ (f 4).toNat < 0x60_0000 ∧ (f 4).toNat % 4 ≠ 0) ∧
    (Steady u faulty ∧ (f 6).toNat < 0x60_0000 ∧ (f 6).toNat % 8 = 0 ∧ u.localFree true = true ∧ u.localFree false = true ∧
      u.flawed (apAddr u.fpkg u.ftile (f 6).toNat) 8 = true ∧ u.flawed (apAddr u.fpkg u.ftile ((f 6).toNat / 16 * 16)) 16 = true) :=
  ⟨⟨faulty_steady, faulty_allowed _⟩, by decide +kernel, ⟨steady_put _ _ _ (by decide +kernel), by decide +kernel⟩⟩

/-- dq0 with one free entry and with an element; dq6 unbound, bound with room, and with an element; a token queue with room, with a
token, empty with a live producer, full, and of other streams. -/
def queues (k : Kind) : Job :=
  let j := job k [(1, 1)]
  { j with
    dq := #v[List.replicate 63 (.val 7), [.val 9], [], [], [.val 5], []]
    nq := #v[⟨none, [], []⟩, ⟨some 1, [3], List.replicate 63 2⟩]
    tq := (Vector.replicate 16 ⟨none, 0⟩).set 0 ⟨some (.A, .X), 31⟩ |>.set 1 ⟨some (.X, .A), 1⟩ |>.set 2 ⟨some (.X, .A), 0⟩ |>.set 3 ⟨some (.A, .X), 32⟩ }

theorem test_witness_DataQueues :
    let j := queues .A
    let i := queues .X
    let s := put world .A j
    let u := put world .X i
    (Ready s j ∧ Allowed (s.core j) (63 :: opdRegs (.reg 1))) ∧ (Ready u i ∧ Allowed (u.core i) [1]) ∧
    ((vget j.dq 0).length < 64 ∧ ∃ x l, vget i.dq 1 = .val x :: l) ∧
    ((vget j.nq 0).link = none ∧ ((s.core j).reg 1).toNat < 4 ∧ s.neighbourPresent s.fpkg s.ftile 1 = true) ∧
    ((vget j.nq 1).link = some 1 ∧ (vget j.nq 1).outq.length < 64 ∧ (vget j.nq 1).inq = [3]) :=
  ⟨⟨ready_put _ _ _ (by decide +kernel), allowed_put _ _ _ _ (by decide +kernel)⟩, ⟨ready_put _ _ _ (by decide +kernel), allowed_put _ _ _ _ (by decide +kernel)⟩,
    ⟨by decide +kernel, 9, [], rfl⟩, by decide +kernel, by decide +kernel⟩

/-- Queues that are full, empty and unbound, with their other core running or finished; and one whose first element waits for a load. -/
theorem test_witness_DataQueues_faults :
    let q := fun (fin : Bool) (j : Job) => { j with a := { j.a with fin := fin }, x := { j.x with fin := fin } }
    let j := fun fin => { q fin (queues .A) with
      dq := #v[List.replicate 64 (.val 7), [.waiting 7], [], [], [], []], nq := #v[⟨none, [], []⟩, ⟨some 1, [], List.replicate 64 2⟩] }
    let s := fun fin => put world .A (j fin)
    let u := fun fin => put world .X (j fin)
    (∀ fin, Steady (s fin) (j fin) ∧ Allowed ((s fin).core (j fin)) (63 :: opdRegs (.reg 1))) ∧ (∀ fin, Steady (u fin) (j fin)) ∧
    (∀ fin, (j fin).finished .X = fin ∧ (j fin).finished .A = fin ∧ (vget (j fin).dq 0).length = 64 ∧ vget (j fin).dq 2 = [] ∧
      vget (j fin).dq 1 = .waiting 7 :: []) ∧
    (∀ fin, (s fin).focus.kind = .A ∧ (u fin).focus.kind = .X) ∧
    (∀ fin, (vget (j fin).nq 0).link = none ∧ (vget (j fin).nq 1).link = some 1 ∧ (vget (j fin).nq 1).inq = [] ∧
      (vget (j fin).nq 1).outq.length = 64 ∧ (s fin).neighbourPresent (s fin).fpkg (s fin).ftile 1 = true) :=
  ⟨fun fin => ⟨steady_put _ _ _ (by revert fin; decide +kernel), allowed_put _ _ _ _ (by revert fin; decide +kernel)⟩,
    fun fin => steady_put _ _ _ (by revert fin; decide +kernel), by decide +kernel, by decide +kernel, by decide +kernel⟩

theorem test_witness_Tokens :
    let j := { queues .A with x := { (queues .A).x with fin := false } }
    let s := put world .A j
    (Steady s j ∧ Allowed (s.core j) [63] ∧ Quiet s) ∧
    ((vget j.tq 0).producer = some .A ∧ (vget j.tq 0).count + s.tokensComing 0 < 32 ∧ (vget j.tq 1).consumer = some .A ∧ 0 < (vget j.tq 1).count) ∧
    ((vget j.tq 2).bind = some (.X, .A) ∧ (vget j.tq 2).count = 0 ∧ j.finished .X = false) ∧
    (let i := { j with x := { j.x with fin := true } }
     Steady (put world .A i) i ∧ (vget i.tq 2).bind = some (.X, .A) ∧ (vget i.tq 2).count = 0 ∧ i.finished .X = true) ∧
    ((vget j.tq 1).producer ≠ some .A ∧ (vget j.tq 0).consumer ≠ some .A ∧ (vget j.tq 3).producer = some .A ∧ 32 ≤ (vget j.tq 3).count + s.tokensComing 3) :=
  ⟨⟨steady_put _ _ _ (by decide +kernel), allowed_put _ _ _ _ (by decide +kernel), quiet_put _ _ _ (by decide +kernel)⟩, by decide +kernel, by decide +kernel,
    ⟨steady_put _ _ _ (by decide +kernel), by decide +kernel⟩, by decide +kernel⟩

/-- A geometry of one set and one way at the last slot, an operand of each kind, and a set that holds the key and one that does not. -/
def tags : Job := job .A [(1, 0x7FFF), (2, 0x4000_0000_0000_0190), (3, 0x7FFF), (4, 0x8000_0000_0000_0190)]

theorem geom_last : geomOf 0x7FFF = some ⟨0, 1, 0x7FFF⟩ := rfl

theorem test_witness_TagTable :
    let s := run .A tags
    let t := put (State.reset.setTag 0x7FFF 0x4000_0000_0000_0190) .A tags
    let m : Geom := ⟨0, 1, 0x7FFF⟩
    geomOf 0x7FFF = some m ∧ ((s.core tags).reg 1 = 0x7FFF ∧ Ready s tags ∧ Allowed (s.core tags) (3 :: 1 :: opdRegs (.reg 2)) ∧ Ready t tags) ∧
      (MemoryCanonical s ∧ bits ((s.core tags).reg 2) 63 62 = 1 ∧ bits ((s.core tags).reg 4) 63 62 = 2 ∧ m.lgsets ≤ 8) ∧
      (m.base ≤ ((s.core tags).reg 3).toNat ∧ ((s.core tags).reg 3).toNat < m.base + m.slots) ∧
      (∀ w < m.ways, tagMatch (s.tag (m.base + w)) 1 0x190 = false) ∧ tagMatch (t.tag m.base) 1 0x190 = true :=
  ⟨geom_last, ⟨by decide +kernel, ready_put _ _ _ (by decide +kernel), allowed_put _ _ _ _ (by decide +kernel), ready_put _ _ _ (by decide +kernel)⟩,
    ⟨show Memory.wf _ = true by decide +kernel, by decide +kernel⟩, by decide +kernel, by decide +kernel, by decide +kernel⟩

/-- The same with a QMARK before it and without; and a value of kind 0b00. -/
theorem test_witness_TagTable_waits :
    let s := run .A tags
    let u := marked tags
    (s.localFree true = true ∧ s.localFree false = true) ∧
    (Ready u tags ∧ Allowed (u.core tags) (3 :: 1 :: opdRegs (.reg 2)) ∧ (u.core tags).reg 1 = 0x7FFF ∧ (u.core tags).reg 3 = 0x7FFF ∧
      u.localFree true = false ∧ u.localFree false = false ∧ bits ((u.core tags).reg 2) 63 62 = 1) ∧ bits ((u.core tags).reg 0) 63 62 = 0 :=
  ⟨by decide +kernel, ⟨ready_put _ _ _ (by decide +kernel), allowed_put _ _ _ _ (by decide +kernel), by decide +kernel⟩, by decide +kernel⟩

/-! ### Worked examples of the spec: one instruction each -/

/-- What a core instruction leaves in g3, with g3, g4 and g5 as given; none where the job does not go on. -/
def g3 (i : Instr) (x y z : Word) : Option Word :=
  match exec i (run .X (job .X [(3, x), (4, y), (5, z)])) with
  | .next t => (t.jobAt 0).bind (fun (j : Job) => if j.st = .running then some (j.x.reg 3) else none)
  | _ => none

/-- 09, Example 1: integer results. -/
theorem test_example_integer :
    [g3 (.div 3 4 (.reg 5)) 0 0x8000000000000000 (-1), g3 (.rem 3 4 (.reg 5)) 1 0x8000000000000000 (-1),
      g3 (.divw 3 4 (.reg 5)) 0 7 0xFFFFFFFE, g3 (.remw 3 4 (.reg 5)) 0 7 0xFFFFFFFE, g3 (.div 3 4 (.reg 0)) 9 7 0,
      g3 (.addw 3 4 (.lit .sext 1)) 0 0x7FFFFFFF 0, g3 (.shrw 3 4 (.lit .sext 4)) 0 0x80000000 0,
      g3 (.sarw 3 4 (.lit .sext 4)) 0 0x80000000 0, g3 (.mulhu 3 4 (.reg 4)) 0 (-1) 0, g3 (.mulh 3 4 (.reg 4)) 5 (-1) 0,
      g3 (.exts 3 4 (.lit .sext 0x1C8)) 0 0x80FF 0, g3 (.clz 3 0) 0 0 0, g3 (.lndiv 3 4) 0 0x12434568 0, g3 (.lnmod 3 4) 0 0x12434568 0]
    = [some 0x8000000000000000, some 0, some 0xFFFFFFFFFFFFFFFD, some 1, none, some 0xFFFFFFFF80000000, some 0x08000000,
      some 0xFFFFFFFFF8000000, some 0xFFFFFFFFFFFFFFFE, some 0, some 0xFFFFFFFFFFFFFF80, some 64, some 1595825, some 168] := by decide +kernel

/-- 09, Example 2: floating-point results. -/
theorem test_example_float :
    [g3 (.fadd 3 4 (.reg 5)) 0 0x3F800000 0x33800000, g3 (.fadd 3 4 (.reg 5)) 0 0x3F800000 0x33800001,
      g3 (.fadd 3 4 (.reg 5)) 0 0xDEAD00003F800000 0x3F800000, g3 (.fmad 3 4 (.reg 5)) 0x3F800001 0x3F800001 0xBF800002,
      g3 (.fdiv 3 4 (.reg 5)) 0 0x3F800000 0x80000000, g3 (.fsqrt 3 4) 0 0x80000000 0, g3 (.fmin 3 4 (.reg 5)) 0 0x7FC01234 0x3F800000,
      g3 (.fsgn 3 4 (.reg 5)) 0 0x40000000 0x80000000, g3 (.fsgn 3 4 (.reg 0)) 0 0xFFC01234 0, g3 (.fclass 3 4) 0 1 0,
      g3 (.fcvt 3 4 1 0 5) 0 0xC0300000 0, g3 (.fcvt 3 4 0 0 5) 0 0x4F400000 0, g3 (.fcvt 3 4 0 0 3) 0 0x43FA0000 0]
    = [some 0x3F800000, some 0x3F800001, some 0x40000000, some 0x28800000, some 0xFF800000, some 0x80000000, some 0x7FC00000,
      some 0xC0000000, some 0xFFC01234, some 0x20, some 0xFFFFFFFFFFFFFFFE, some 0x7FFFFFFF, some 0x7E] := by decide +kernel

/-- 09, Example 3: a step of LOOPB at 0x104 with the count at 1 ends the loop, at 2 branches back to 0x100. -/
theorem test_step_loopb :
    let at_ := fun (n : W32) => let j := job .X []
      { j with x := { j.x with pc := 0x104, lc := #v[0, n, 0, 0] } }
    let s := fun (n : W32) => { put { State.reset with mem := writeLe [] (blockAddr 0 0 0x40_0104) 4 0x710003FF } .X (at_ n) with turns := [.stream ⟨0, 0, 0, .X⟩] }
    [(1 : W32), 2].map (fun n => match step (s n) with
      | .next t => (t.jobAt 0).map (fun (j : Job) => (j.x.pc, vget j.x.lc 1))
      | _ => none) = [some (0x108, 0), some (0x100, 1)] := by decide +kernel

/-- The word that `withFetchWord` places runs as the next step: LHI g4, #0x40490 of 09, Example 5. -/
theorem test_step_withFetchWord :
    (match step (State.reset.withFetchWord 32 0x34440490) with
      | .next t => (t.jobAt 0).map (fun (j : Job) => (j.a.reg 4, j.a.pc))
      | _ => none) = some (0x40490000, 4) := by decide +kernel

/-- 02 R54: a single-bit counter error is counted; a double one freezes the ring and queues a record of Ring-Integrity with the ring number. -/
theorem test_step_ring_error :
    let r := { Ring.reset with st := .active, lgcount := 2, slotsz := 1 }
    let s := fun (d : Bool) => { world with tiles := [(0, { Tile.reset with tenant := some 0, rings := [(3, r)] })], turns := [.ringError 0 3 d] }
    [false, true].map (fun d => match step (s d) with
      | .next t => ((t.ringAt 0 3).ecc, (t.ringAt 0 3).st, (t.tenAt 0 0).pending.length)
      | _ => (0, .idle, 0)) = [(1, .active, 0), (0, .frozen, 1)] := by decide +kernel

/-- 10 R254, R255: after an upset of the last byte of a dword, LDL of it raises Data-Error, and of the dword below does not. -/
theorem test_step_upset :
    let s := fun (a : Word) => { run .X (job .X [(4, a)]) with turns := [.upset (apAddr 0 0 0x107) true] }
    [(0x100 : Word), 0xF8].map (fun a => match step (s a) with
      | .next t => (match exec (.ldl 3 4 .d 0) t with
        | .next u => (u.jobAt 0).map (fun (j : Job) => j.st == .running)
        | _ => none)
      | _ => none) = [some false, some true] := by decide +kernel

/-- The digest of "abc", the worked example of the SM3 standard (log 65). -/
theorem test_sm3_abc :
    sm3 [0x61, 0x62, 0x63] = 0x66c7f0f462eeedd9d1f2d46bdc10e4e24167c4875cf2f7a2297da02b8f4ba8e0 := by decide +kernel

/-! ### Witnesses: tenant virtual memory -/

/-- Registers that name the first and the last dword of the page, a misaligned place, one outside the form and one with no page. -/
def reach (k : Kind) : Job := job k [(1, 0x1_0000), (2, 0x1_FFF8), (3, 0x1_0001), (4, 0x0100_0000_0000_0000), (5, 0x2_0000), (6, 3)]

theorem answers_of {s : State} {op : ReqOp} {pa n : Nat}
    (h : (s.askOf = none ∧ s.passage s.fpkg s.ftile (s.placeOf pa) = .through ∧
      (op.isLoad = false → s.targetBusy (s.targetNum pa) = false ∧
        s.keptOf (s.issuer.queue false) (s.targetNum pa) (s.askSeq (s.parcel op pa)) = none)) ∧
      s.clear op pa = true ∧ s.absent pa = false ∧ s.flawed pa n = false) : Answers s op pa n := h

/-- The state after the translation of `va` for the core of `s`. -/
abbrev seen (s : State) (va : Word) (need : Perm) : State := (s.coreTranslate 0 va.toNat need).1

theorem test_witness_DataAccessFaults :
    let s := put world .A (reach .A)
    let r := fun n => (s.core (reach .A)).reg n
    (Steady s (reach .A) ∧ Allowed (s.core (reach .A)) [6, 1] ∧ s.askOf = none) ∧ bits (r 4) 63 56 ≠ 0 ∧
    (bits (r 3) 63 56 = 0 ∧ (r 3).toNat % 2 ≠ 0) ∧
    (bits (r 5) 63 56 = 0 ∧ (r 5).toNat % 8 = 0 ∧ (s.coreTranslate 0 (r 5).toNat permR).2 = .fault .pageAbsent) :=
  ⟨⟨steady_put _ _ _ (by decide +kernel), allowed_put _ _ _ _ (by decide +kernel), by decide +kernel⟩, by decide +kernel, by decide +kernel, by decide +kernel⟩

/-- The last dword of the page with its physical address in the aperture of a tile that is absent, and over an uncorrectable error;
and a core whose load was issued three times again, the last 8 µs ago. -/
theorem test_witness_DataAccessFaults_answers :
    let at_ := fun (e : TlbEntry) (p : Package) (l : List Nat) => put { world with
      pkgs := [(0, p)], errs := l, tiles := [(0, { Tile.reset with tlb := [e], tenant := some 0 })]
      tenants := [(0, { areaOn with win := areaOn.win ++ [(2, BitVec.ofNat 64 (apAddr 0 1 1)), (3, BitVec.ofNat 64 (apAddr 0 1 0x5F_0007))] })] } .A (reach .A)
    let v := at_ { entry with pa := apAddr 0 1 0 } { pkgOn with capt := (Vector.replicate 4 (-1)).set 0 1 } []
    let w := at_ entry pkgOn [0x2_FFFF]
    let t := fun (s : State) => seen s 0x1_FFF8 permR
    let q : Asked := ⟨0x1_FFF8, 0x2_FFF8, 0, 0, 3, [], false⟩
    let j := (reach .A).modCore .A (fun c => { c with asked := some q })
    let u := put { world with wall := us 8 } .A j
    (Steady v (reach .A) ∧ Translated v (reach .A) 0x1_FFF8 permR (t v) (apAddr 0 1 0xFFF8) ∧ (t v).clear (.ldq 0 false) (apAddr 0 1 0xFFF8) = true ∧
      Arrives (t v) ((t v).parcel (.ldq 0 false) (apAddr 0 1 0xFFF8)) ∧ (t v).absent (apAddr 0 1 0xFFF8) = true) ∧
    (Steady w (reach .A) ∧ Translated w (reach .A) 0x1_FFF8 permR (t w) 0x2_FFF8 ∧ (t w).clear (.ldq 0 false) 0x2_FFF8 = true ∧
      Arrives (t w) ((t w).parcel (.ldq 0 false) 0x2_FFF8) ∧ (t w).absent 0x2_FFF8 = false ∧ (t w).flawed 0x2_FFF8 8 = true) ∧
    (Steady u j ∧ u.askOf = some q ∧ (u.region q.pa).isMmio = false ∧ u.overdue u.fpkg (u.placeOf q.pa) q.sentAt = true) :=
  ⟨⟨steady_put _ _ _ (by decide +kernel), translated_of (by decide +kernel) (by decide +kernel) (by decide +kernel) (by decide +kernel),
      by decide +kernel, ⟨by decide +kernel, by decide +kernel, by decide +kernel⟩, by decide +kernel⟩,
    ⟨steady_put _ _ _ (by decide +kernel), translated_of (by decide +kernel) (by decide +kernel) (by decide +kernel) (by decide +kernel),
      by decide +kernel, ⟨by decide +kernel, by decide +kernel, by decide +kernel⟩, by decide +kernel⟩,
    ⟨steady_put _ _ _ (by decide +kernel), by decide +kernel⟩⟩

theorem test_witness_Translation :
    (world.tlbOf 0 0 .core = [entry] ∧ entry.hits 0 0x1_FFFF = true ∧ entry.placement ≠ 0b1100 ∧ permRW &&& entry.xwr = permRW ∧
      world.windowOk 0 0 entry.pa (entry.pa + pageBytes entry.size.toNat - 1) permRW = true) ∧
    permW &&& ({ entry with xwr := 1 } : TlbEntry).xwr ≠ permW ∧
    (State.reset.tlbOf 0 0 .core = [] ∧ (State.reset.tenAt 0 0).troot.getLsbD 0 = false) := by decide +kernel

/-- The state after the translation of `va` for the core of `put world k (reach k)`. -/
abbrev reached (k : Kind) (va : Word) (need : Perm) : State := seen (put world k (reach k)) va need

theorem test_witness_GlobalLoads :
    let s := put world .X (reach .X)
    (Ready s (reach .X) ∧ Allowed (s.core (reach .X)) [63, 2]) ∧ (s.core (reach .X)).reg 2 = 0x1_FFF8 ∧
    Translated s (reach .X) 0x1_FFF8 permR (reached .X 0x1_FFF8 permR) 0x2_FFF8 ∧ Answers (reached .X 0x1_FFF8 permR) (.ldq 0 false) 0x2_FFF8 8 :=
  ⟨⟨ready_put _ _ _ (by decide +kernel), allowed_put _ _ _ _ (by decide +kernel)⟩, by decide +kernel,
    translated_of (by decide +kernel) (by decide +kernel) (by decide +kernel) (by decide +kernel), answers_of (by decide +kernel)⟩

theorem test_witness_GlobalStores :
    let s := put world .A (reach .A)
    (Ready s (reach .A) ∧ Allowed (s.core (reach .A)) [0, 2]) ∧ (s.core (reach .A)).reg 2 = 0x1_FFF8 ∧
    Translated s (reach .A) 0x1_FFF8 permW (reached .A 0x1_FFF8 permW) 0x2_FFF8 :=
  ⟨⟨ready_put _ _ _ (by decide +kernel), allowed_put _ _ _ _ (by decide +kernel)⟩, by decide +kernel,
    translated_of (by decide +kernel) (by decide +kernel) (by decide +kernel) (by decide +kernel)⟩

theorem test_witness_RequestsPerform :
    let s := fun (r : Req) => { put world .A (reach .A) with reqs := [r] }
    (∀ op ∈ [ReqOp.store, .strel .tile, .hostsig, .atomic 9 (some .die), .ldq 3 true],
      let r := req op 0x2_0000
      (s r).mayPerform r = true ∧ (s r).wayOf r = .through ∧ (s r).absent 0x2_0000 = false ∧ (s r).flawed 0x2_0000 8 = false) ∧
    ((s (req (.ldq 3 true) 0x2_0000)).jobAt 0).isSome = true ∧ (reach .A).jid = 0 := by decide +kernel

/-- An access of the local queue that nothing keeps. -/
theorem test_witness_RequestsPerform_own :
    let r := req (.own .store) (apAddr 0 0 0)
    let s := { put world .A (reach .A) with reqs := [r] }
    s.mayPerform r = true ∧ s.wayOf r = .through ∧ s.absent r.pa = false ∧ s.flawed r.pa r.size = false ∧
    ([] : List Req).any (fun a => s.bars a r) = false ∧ s.bankFree (keyPkg r.by_.key) (keyTile r.by_.key) = true ∧
    LocalOp.store.flawed s (keyPkg r.by_.key) (keyTile r.by_.key) r.va.toNat r.size = false := by decide +kernel

theorem test_witness_LocalAtomics :
    let j := job .A [(1, 0x5F_FFF8), (2, 0x5F_FFFC)]
    let s := run .A j
    (Ready s j ∧ Allowed (s.core j) [0, 1, 1] ∧ s.released .tile = true ∧ s.localFree true = true) ∧
    (((s.core j).reg 1).toNat < 0x60_0000 ∧ ((s.core j).reg 1).toNat % 8 = 0 ∧ s.padFlawed ((s.core j).reg 1).toNat 8 true = false) ∧
    (((s.core j).reg 2).toNat < 0x60_0000 ∧ ((s.core j).reg 2).toNat % 4 = 0 ∧ s.padFlawed ((s.core j).reg 2).toNat 4 true = false) ∧
    (Ready (marked j) j ∧ Allowed ((marked j).core j) [0, 1, 1] ∧ (marked j).localFree true = false) :=
  ⟨⟨ready_put _ _ _ (by decide +kernel), allowed_put _ _ _ _ (by decide +kernel), by decide +kernel⟩, by decide +kernel, by decide +kernel,
    ⟨ready_put _ _ _ (by decide +kernel), allowed_put _ _ _ _ (by decide +kernel), by decide +kernel⟩⟩

theorem test_witness_GlobalAtomics :
    let s := put world .A (reach .A)
    (Ready s (reach .A) ∧ Allowed (s.core (reach .A)) [6, 2, 1] ∧ Allowed (s.core (reach .A)) [0, 2, 1]) ∧
    ((s.core (reach .A)).reg 2 = 0x1_FFF8 ∧ (6 : Reg) ≠ 0) ∧
    Translated s (reach .A) 0x1_FFF8 permRW (reached .A 0x1_FFF8 permRW) 0x2_FFF8 ∧
    (∀ op rel, (op, rel) ∈ [((0 : BitVec 4), none), (9, some Scope.dom), (11, some .tile)] → Answers (reached .A 0x1_FFF8 permRW) (.atomic op rel) 0x2_FFF8 8) :=
  ⟨⟨ready_put _ _ _ (by decide +kernel), allowed_put _ _ _ _ (by decide +kernel),
      allowed_put _ _ _ _ (by decide +kernel)⟩, by decide +kernel,
    translated_of (by decide +kernel) (by decide +kernel) (by decide +kernel) (by decide +kernel), fun op rel h => by
      simp only [List.mem_cons, Prod.mk.injEq, List.not_mem_nil, or_false] at h
      rcases h with ⟨rfl, rfl⟩ | ⟨rfl, rfl⟩ | ⟨rfl, rfl⟩ <;> exact answers_of (by decide +kernel)⟩

/-- dq3 and the scale queue with just enough room; dq5 with an element. -/
def reachQ : Job :=
  { reach .A with dq := #v[[], [], [], List.replicate 63 (.val 1), [], [.val 6]], sq := List.replicate 248 (.byte 0) }

theorem test_witness_QueueAccesses :
    let s := put world .A reachQ
    let t := fun need => seen s 0x1_FFF8 need
    (Ready s reachQ ∧ Allowed (s.core reachQ) [2] ∧ s.focus.kind = .A) ∧ (s.core reachQ).reg 2 = 0x1_FFF8 ∧
    (Translated s reachQ 0x1_FFF8 permR (t permR) 0x2_FFF8 ∧ (vget reachQ.dq 3).length < 64 ∧ sqCount reachQ.sq + 8 ≤ 256) ∧
    (Translated s reachQ 0x1_FFF8 permW (t permW) 0x2_FFF8 ∧ vget reachQ.dq 5 = [.val 6]) :=
  ⟨⟨ready_put _ _ _ (by decide +kernel), allowed_put _ _ _ _ (by decide +kernel), by decide⟩, by decide +kernel,
    ⟨translated_of (by decide +kernel) (by decide +kernel) (by decide +kernel) (by decide +kernel), by decide +kernel⟩,
    ⟨translated_of (by decide +kernel) (by decide +kernel) (by decide +kernel) (by decide +kernel), by decide +kernel⟩⟩

/-- A core with a QMARK and one with a FENCE.rel that stand behind a store of it whose package is not reached. -/
theorem test_witness_OrderingInstructions :
    let s := put world .A (reach .A)
    let u := fun (op : ReqOp) => put { world with reqs := [req .store (2 ^ 48), req op 0] } .A (reach .A)
    (Ready s (reach .A) ∧ Allowed (s.core (reach .A)) [1, 2] ∧ Quiet s) ∧
    (∀ op ∈ [ReqOp.qmark, .fence .rel .dom], Ready (u op) (reach .A) ∧ req op 0 ∈ (u op).reqs ∧ (req op 0).by_ = (u op).issuer ∧
      (req op 0).pending = true) ∧
    Translated (u .qmark) (reach .A) 0x1_FFF8 permR (seen (u .qmark) 0x1_FFF8 permR) 0x2_FFF8 ∧
    ((0x1_FFF8 : Word).toNat < 0x60_0000 ∧ (0x1_FFF8 : Word).toNat % 8 = 0) ∧
    (∀ op ∈ [ReqOp.qmark, .fence .rel .dom], (u op).padFlawed 0x1_FFF8 8 true = false) :=
  ⟨⟨ready_put _ _ _ (by decide +kernel), allowed_put _ _ _ _ (by decide +kernel), quiet_put _ _ _ (by decide +kernel)⟩,
    fun op h => ⟨ready_put _ _ _ (by decide +kernel), by revert op; decide +kernel⟩,
    translated_of (by decide +kernel) (by decide +kernel) (by decide +kernel) (by decide +kernel), by decide +kernel, by decide +kernel⟩

theorem test_witness_SystemInstructions :
    let j := reach .A
    let s := put world .A j
    let u := put State.reset .A j
    let w := put { world with reqs := [req .store 0x2_0000] } .A j
    (Ready s j ∧ Allowed (s.core j) (6 :: 1 :: opdRegs (.lit .zext 15)) ∧ j.sup = true ∧ s.translatedGone s.fpkg 0 = true ∧ s.released .dom = true) ∧
    (Ready w j ∧ w.translatedGone w.fpkg 0 = false ∧ w.released .dom = false) ∧
    (bits ((s.core j).reg 1) 63 56 = 0 ∧ bits ((s.core j).reg 4) 63 56 ≠ 0 ∧ (s.tileAt s.tkey).tlb = [entry] ∧ entry.hits 0 0x1_0000 = true ∧
      s.windowOk s.fpkg 0 entry.pa (entry.pa + pageBytes entry.size.toNat - 1) 0 = true) ∧
    (Ready u j ∧ (u.tileAt u.tkey).tlb = [] ∧ ((u.countMiss 0 0x1_0000).walk u.fpkg (dieOf u.ftile) 0 0x1_0000 0).2 = .fault .pageAbsent) ∧
    ((∀ n ∈ [3, 4, 5, 6], bval j (s.core j) (.lit .zext (BitVec.ofNat 32 n)) = BitVec.ofNat 64 n) ∧ (bval j (s.core j) (.lit .zext 7)).toNat ≤ 7 ∧
      (bval j (s.core j) (.lit .zext 15)).toNat ≤ 15) ∧
    (∀ x, (s.tileAt s.tkey).before = some x → x.1 ≠ s.wall) ∧
    (let y := put { world with tiles := [(0, { Tile.reset with tenant := some 0, before := some (0, Vector.replicate 5 9) })] } .A j
     Ready y j ∧ (y.tileAt y.tkey).before = some (y.wall, Vector.replicate 5 9)) ∧
    ((s.core j).reg 2 = 0x1_FFF8 ∧ Translated s j 0x1_FFF8 permW (reached .A 0x1_FFF8 permW) 0x2_FFF8) :=
  ⟨⟨ready_put _ _ _ (by decide +kernel), allowed_put _ _ _ _ (by decide +kernel), by decide +kernel⟩, ⟨ready_put _ _ _ (by decide +kernel), by decide +kernel⟩,
    by decide +kernel, ⟨ready_put _ _ _ (by decide +kernel), by decide +kernel⟩, by decide +kernel, (by intro x h; cases h),
    ⟨ready_put _ _ _ (by decide +kernel), by decide +kernel⟩, ⟨by decide +kernel, translated_of (by decide +kernel) (by decide +kernel) (by decide +kernel) (by decide +kernel)⟩⟩

/-! ### Witnesses: rings and content-addressed memory -/

/-- An active ring of four slots that job 0 produces to and consumes from. -/
def ring : Ring := { Ring.reset with st := .active, lgcount := 2, slotsz := 1, prods := [0], cons := [0] }

/-- The ring in use: claimed and filled to 2, taken to 1, its open ranges those of job 0. -/
def ringUsed : Ring :=
  { ring with head := 0, taken := 1, tail := 2, claimed := 4, claims := [⟨0, 2, 2⟩], takes := [⟨0, 0, 1⟩] }

def answers (o : RingOut) : Bool := (match o.done with
  | [(i, _)] => i == ⟨0, 0, false⟩
  | _ => false) && !o.froze

/-- A ring of the own tile, and ring 63 of tile 1, which a window grants and a message reaches. -/
theorem test_witness_RingOperations :
    let j := job .A [(1, 63), (2, 0x5F_FFE0), (3, 3), (4, 0x1BF)]
    let s := put { world with tenants := [(0, { areaOn with win := [(0, BitVec.ofNat 64 (apAddr 0 1 1)), (1, BitVec.ofNat 64 (apAddr 0 1 0x5F_0007))] })] } .A j
    let i : Issuer := ⟨0, 0, false⟩
    let p : Parcel := ⟨true, false, tilePlace 1, (tilePlace 1).ringTarget⟩
    Sound s ∧ (Ready s j ∧ Allowed (s.core j) [1, 1, 2] ∧ s.askOf = none ∧ s.issuer = i ∧ s.outgoing 0 = false ∧ s.released .dom = true) ∧
    (((s.core j).reg 1).toNat < 64 ∧ ((s.core j).reg 2).toNat + 32 ≤ 0x60_0000 ∧ ((s.core j).reg 2).toNat % 16 = 0 ∧ ((s.core j).reg 3).toNat < 4 ∧ j.sup = true) ∧
    (((s.core j).reg 4).toNat = 2 ^ 16 * 0 + 2 ^ 8 * 1 + 2 ^ 7 + 63 ∧ (s.pkgAt 0).d = 1 ∧ s.tilePresent 0 1 = true ∧
      s.windowOk 0 0 (apAddr 0 1 0) (apAddr 0 1 0xFFFF) permRW = true ∧ s.outgoing (tileKey 0 1) = false) ∧ Arrives s p ∧
    [ring.claim i 4, ringUsed.fill i, { ring with tail := 4, claimed := 4 }.take i 4, { ring with tail := 4, claimed := 4 }.observe i 4, ringUsed.free i,
      Ring.reset.init i 0, ring.join i true true, ring.leave i true true, ring.resetOp i 0 0 0].all answers = true :=
  ⟨rfl, ⟨ready_put _ _ _ (by decide +kernel), allowed_put _ _ _ _ (by decide +kernel), by decide +kernel⟩, by decide +kernel, by decide +kernel,
    ⟨by decide +kernel, by decide +kernel, by decide +kernel⟩, by decide +kernel⟩

/-- The ring filled by its producer. -/
def ringFull : Ring := { ring with tail := 4, claimed := 4 }

theorem test_witness_RingGrants :
    (∀ r ∈ [ring, ringFull, ringUsed], r.st = .active ∧ r.waiters = [] ∧ r.voidRanges = [] ∧ r.freeRanges = [] ∧ r.slotsz ≠ 0 ∧
      ringInv r.slots r.head r.taken r.tail r.claimed = true ∧ r.lgcount < 16 ∧ 0 ∈ r.prods ∧ 0 ∈ r.cons) ∧
    (4 ≤ ring.slots ∧ rangeOf ring.claims 0 = none ∧ Machine.dist ring.head ring.claimed + 4 ≤ ring.slots) ∧
    (rangeOf ringFull.takes 0 = none ∧ 4 ≤ Machine.dist ringFull.taken ringFull.tail) ∧
    (rangeOf ringUsed.claims 0 = some (⟨0, ringUsed.tail, 2⟩ : RingRange) ∧ Machine.dist ringUsed.head ringUsed.tail + 2 ≤ Machine.dist ringUsed.head ringUsed.claimed) ∧
    (rangeOf ringUsed.takes 0 = some (⟨0, ringUsed.head, 1⟩ : RingRange) ∧ 1 ≤ Machine.dist ringUsed.head ringUsed.taken) := by decide +kernel

/-- The ring with an open claim and an open take of job 0, at tail and head and beyond them; with members only others; full of
members; full of claims; and with a void range to be taken. -/
def ringOpen : Ring := { ring with taken := 1, tail := 1, claimed := 3, claims := [⟨0, 1, 2⟩], takes := [⟨0, 0, 1⟩] }
def ringLate : Ring := { ring with taken := 2, tail := 2, claimed := 4, claims := [⟨0, 3, 1⟩], takes := [⟨0, 1, 1⟩] }
def ringOthers : Ring := { ring with prods := [1], cons := [1] }
def ringCrowd : Ring := { ring with prods := List.replicate 255 1, cons := List.replicate 255 1 }
def ringVoid : Ring := { ring with tail := 2, claimed := 2, voidRanges := [⟨1, 0, 2⟩], voids := 1 }

theorem test_witness_RingMembers :
    (bits (1 : Word) 3 0 ≠ 0 ∧ Ring.reset.st = .idle ∧ ring.st ≠ .idle) ∧
    (Ring.reset.st ≠ .frozen ∧ 0 ∉ Ring.reset.prods ∧ Ring.reset.prods.length < 255 ∧ 0 ∉ Ring.reset.cons ∧ Ring.reset.cons.length < 255) ∧
    (ringCrowd.st ≠ .frozen ∧ 0 ∉ ringCrowd.prods ∧ 255 ≤ ringCrowd.prods.length ∧ 0 ∉ ringCrowd.cons ∧ 255 ≤ ringCrowd.cons.length) ∧
    (∀ r ∈ [ring, ringOpen, ringLate, ringFull, ringVoid], 0 ∈ r.prods ∧ 0 ∈ r.cons ∧ r.freeRanges = [] ∧ r.lgcount < 16 ∧
      ringInv r.slots r.head r.taken r.tail r.claimed = true) ∧
    (∀ r ∈ [ring, ringOpen, ringLate, ringFull, ringOthers], r.st = .active ∧ r.waiters = [] ∧ r.freeRanges = [] ∧ r.voidRanges = []) ∧
    (0 ∉ ringOthers.prods ∧ 0 ∉ ringOthers.cons ∧ rangeOf ring.claims 0 = none ∧ rangeOf ring.takes 0 = none) ∧
    (rangeOf ringOpen.claims 0 = some (⟨0, ringOpen.tail, 2⟩ : RingRange) ∧ ringOpen.voids < 8 ∧ ringOpen.slotsz ≠ 0 ∧
      Machine.dist ringOpen.head ringOpen.tail + 2 ≤ Machine.dist ringOpen.head ringOpen.claimed) ∧
    (rangeOf ringOpen.takes 0 = some (⟨0, ringOpen.head, 1⟩ : RingRange) ∧ 1 ≤ Machine.dist ringOpen.head ringOpen.taken) ∧
    (rangeOf ringLate.claims 0 = some (⟨0, 3, 1⟩ : RingRange) ∧ ringLate.tail ≠ 3 ∧ rangeOf ringLate.takes 0 = some (⟨0, 1, 1⟩ : RingRange) ∧
      ringLate.head ≠ 1 ∧ 8 ≤ { ringLate with voids := 8 }.voids) ∧
    (rangeOf ringFull.claims 0 = none ∧ ringFull.slots < Machine.dist ringFull.head ringFull.claimed + 1 ∧ rangeOf ring.takes 0 = none ∧
      Machine.dist ring.taken ring.tail < 1 ∧ 1 ≤ ring.slots) ∧
    (ringVoid.st = .active ∧ ringVoid.waiters = [] ∧ ringVoid.voidRanges = [⟨1, ringVoid.taken, 2⟩] ∧
      2 ≤ Machine.dist ringVoid.taken ringVoid.tail ∧ 2 ≤ ringVoid.slots ∧ rangeOf ringVoid.takes 0 = none) ∧
    (ringInv ring.slots 0 1 0 0 = false ∧ ringInv ring.slots 0 1 2 3 = true ∧ ring.freeRanges = [] ∧ ring.voidRanges = []) :=
  ⟨by decide +kernel, by decide +kernel, by decide +kernel, by decide +kernel, by decide +kernel, by decide +kernel,
    by decide +kernel, by decide +kernel, by decide +kernel, by decide +kernel, by decide +kernel, by decide +kernel⟩

/-- A domain that serves three lines: of count 2, saturated, and of count 1. -/
def lines : CaDomain :=
  { CaDomain.reset with st := .ready, up := true, lines := [⟨0x100, false, 2, 0x1000, false, false⟩, ⟨0x200, true, 0xFFFFFFFF, 0x10C0, false, false⟩, ⟨0x300, false, 1, 0x1180, false, false⟩] }

/-- Tenant 0 with that region, its root frame at 0x10_0000; the last root slot holds name 0x100, and the scratchpad names at 0x1000. -/
def region : State :=
  { world with
    pkgs := [(0, { pkgOn with ca := [(0, lines)] })]
    tenants := [(0, { areaOn with caten := 0x10_0001 })]
    mem := writeLe (writeLe (writeLe (writeLe (writeLe [] 0x10_FFF0 16 0x100) (apAddr 0 0 0x1000) 16 0x100) (apAddr 0 0 0x1010) 16 0x200)
      (apAddr 0 0 0x1020) 16 0x300) (apAddr 0 0 0x1030) 16 0x900 }

/-- Registers: places of names 0x100, 0x200, 0x300; the last place of a name and of a line; one past it; a name that is no name; 4095. -/
def names : Job := job .A [(1, 0x1000), (2, 0x1010), (3, 0x1020), (4, 0x5F_FFF0), (5, 0x5F_FF40), (6, 0x60_0000), (7, 0x0FF0), (8, 4095)]

theorem test_witness_CaChecks :
    let s := put region .A names
    let u := put { world with mem := writeLe [] (apAddr 0 0 0x0FF0) 16 1 } .A names
    (Steady s names ∧ Sound s ∧ s.askOf = none ∧ Allowed (s.core names) [1, 2, 3] ∧ s.localFree true = true) ∧
    (Steady u names ∧ Sound u ∧ u.askOf = none ∧ u.caRegion u.fpkg 0 = none ∧ bits (u.localName 0x0FF0) 7 0 ≠ 0 ∧ bits (u.localName 0x5F_FFF0) 7 0 = 0) ∧
    (0x60_0000 < ((s.core names).reg 6).toNat + 16 ∧ ((s.core names).reg 4).toNat + 16 ≤ 0x60_0000 ∧
      s.localName ((s.core names).reg 4).toNat = 0 ∧ (s.caRegion s.fpkg 0).isSome = true) :=
  ⟨⟨steady_put _ _ _ (by decide +kernel), rfl, by decide +kernel, allowed_put _ _ _ _ (by decide +kernel), by decide +kernel⟩,
    ⟨steady_put _ _ _ (by decide +kernel), rfl, by decide +kernel⟩, by decide +kernel⟩

/-- Which of its four answers the home gives the core of `s` for the node line at `l`: match 0, new 1, dead child 4, full 3. -/
def looked (s : State) (l : Nat) : Nat :=
  let content := readBytes s.mem (apAddr s.fpkg s.ftile l) 192
  match ((s.caGone (nameTarget 0 (caDigest (s.caAt 0 0) true content / 2 ^ 110)) content).lookupOrAllocate 0 0 true content).2 with
  | .match_ _ _ => 0
  | .new _ => 1
  | .deadChild => 4
  | .full => 3
  | .collision => 2

/-- The node line of zeros is new; it is there once a line of its name holds it; a node that names 0x400 names no live line; and where
every line of the range is live, the pool is full. -/
theorem test_witness_CaOperations_lookups :
    let s := put region .A names
    let zeros : CaLine := ⟨0x074704dcb37f5864a122fc29f5e10000, true, 2, 0x2000, false, false⟩
    let there := put { region with pkgs := [(0, { pkgOn with ca := [(0, { lines with lines := [zeros] })] })] } .A names
    let dead := put { region with mem := writeLe region.mem (apAddr 0 0 0x5F_FF40) 16 0x400 } .A names
    let tight := put { region with pkgs := [(0, { pkgOn with ca := [(0, { lines with first := 0x1_0000, last := 0 })] })] } .A names
    [s, there, dead, tight].map (fun s => looked s 0x5F_FF40) = [1, 0, 4, 3] := by decide +kernel

theorem test_witness_CaOperations :
    let s := put region .A names
    let n := fun r => s.localName ((s.core names).reg r).toNat
    (Ready s names ∧ Allowed (s.core names) [1, 2, 5] ∧ Sound s ∧ s.localFree true = true ∧ s.caRegion s.fpkg 0 = some (0, 0) ∧
      (s.caAt 0 0).serving = true ∧ (s.caAt 0 0).held = []) ∧
    (n 1 = 0x100 ∧ n 2 = 0x200 ∧ n 3 = 0x300 ∧ ((s.core names).reg 5).toNat + 192 ≤ 0x60_0000 ∧ ((s.core names).reg 5).toNat % 16 = 0) ∧
    (((s.caAt 0 0).find 0x100).map CaLine.count = some 2 ∧ ((s.caAt 0 0).find 0x200).map CaLine.count = some 0xFFFFFFFF ∧
      ((s.caAt 0 0).find 0x300).map CaLine.count = some 1 ∧ ((s.pkgAt 0).deadAt (nameDie 0x300)).length < 4096) ∧
    s.CaArrives (nameTarget 0 (nameDie 0x100)) (leBytes 16 0x100) ∧
    (bits (s.localName 0x1030) 7 0 = 0 ∧ s.localName 0x1030 = 0x900 ∧ (s.caAt 0 0).find 0x900 = none ∧ 0x1030 % 16 = 0 ∧ names.st ≠ .freezing) ∧
    s.CaArrives (nameTarget 0 (nameDie 0x900)) (leBytes 16 0x900) ∧
    (∀ i < 12, bits (s.localName (0x5F_FF40 + 16 * i)) 7 0 = 0) ∧
    s.CaArrives (nameTarget 0 (caDigest (s.caAt 0 0) true (readBytes s.mem (apAddr 0 0 0x5F_FF40) 192) / 2 ^ 110))
      (readBytes s.mem (apAddr 0 0 0x5F_FF40) 192) :=
  ⟨⟨ready_put _ _ _ (by decide +kernel), allowed_put _ _ _ _ (by decide +kernel), rfl, by decide +kernel⟩,
    by decide +kernel, by decide +kernel, ⟨by decide +kernel, by decide +kernel, by decide +kernel⟩, by decide +kernel,
    ⟨by decide +kernel, by decide +kernel, by decide +kernel⟩, by decide +kernel, ⟨by decide +kernel, by decide +kernel, by decide +kernel⟩⟩

theorem slot_target (s : State) (slot : Nat) : s.slotTarget slot ∈ [(s.placeOf slot).target, (s.placeOf slot).target + 1] := by
  unfold State.slotTarget
  cases Config.homeSlice (lineBase slot) <;> simp

/-- Whichever of the two slices of its die is the home of the slot. -/
theorem test_witness_RootSlots :
    let s := put region .A names
    let slot := 0x10_0000 + 16 * 4095
    let n := (s.placeOf slot).target
    (Ready s names ∧ Allowed (s.core names) [1, 8, 2] ∧ Sound s ∧ s.localFree true = true ∧ s.released .dom = true ∧ s.caRegion s.fpkg 0 = some (0, 0)) ∧
    (bits (s.tenAt s.fpkg 0).caten 55 16 * 0x1_0000 = 0x10_0000 ∧ ((s.core names).reg 8).toNat = 4095 ∧
      (s.caAt 0 0).serving = true ∧ (s.caAt 0 0).held = [] ∧ ((s.core names).reg 4).toNat + 16 ≤ 0x60_0000) ∧
    (nameAt s.mem slot = 0x100 ∧ ((s.caAt 0 0).find 0x100).isSome = true ∧ (s.caAt 0 0).find 0 = none ∧ nameAt s.mem 0x10_0000 = 0) ∧
    (bits (s.localName 0x1010) 7 0 = 0 ∧ ((s.caAt 0 0).find (s.localName 0x1010)).isSome = true) ∧
    (0x1000 + 32 ≤ 0x60_0000 ∧ s.localName 0x1000 = 0x100 ∧ s.localName 0x1010 ≠ 0x100 ∧ bits (s.localName 0x1020) 7 0 = 0) ∧
    s.slotTarget slot ∈ [n, n + 1] ∧
    ∀ h ∈ [n, n + 1], (placeOfNum (h / 4)).pkg = 0 ∧ s.CaArrives h (leBytes 8 slot ++ []) ∧ s.CaArrives h (leBytes 8 slot ++ leBytes 16 0x200) ∧
      s.CaArrives h (leBytes 8 slot ++ (leBytes 16 0x100 ++ leBytes 16 0x200)) := by
  refine ⟨⟨ready_put _ _ _ (by decide +kernel), allowed_put _ _ _ _ (by decide +kernel), rfl, by decide +kernel⟩,
    by decide +kernel, by decide +kernel, by decide +kernel, by decide +kernel, slot_target _ _, fun h hh => ?_⟩
  unfold State.CaArrives Arrives
  revert h
  decide +kernel

/-! ### Witnesses: jobs -/

/-- A record that names a dependency on launch 5. -/
def depRec : Dw8 := (Vector.replicate 8 0).set 5 0x1005

/-- Launch 5 of tenant 0, not complete, with a dependant job only. -/
def launch5 : Launch := ⟨5, Vector.replicate 8 0, false, [], loneKernel .A, 0, false, none, false⟩

theorem test_witness_JobOperations :
    let j := { job .A [(1, 0x5F_FFC0), (2, 0x1_FFC0), (3, 255)] with
      sched := [⟨0, 0, BitVec.ofNat 192 (2 ^ 23 + 0x3_FFFC)⟩] }
    let i := { job .A [] with qrec := ⟨depRec, none, none, 0, false, none⟩ }
    let s := put world .A j
    let u := put { world with tenants := [(0, { areaOn with launches := [launch5] })] } .A i
    let w := put { world with reqs := [req .store 0x2_0000] } .A j
    let t := seen s 0x1_FFC0 permRW
    (Ready s j ∧ Allowed (s.core j) (1 :: opdRegs (.reg 3)) ∧ s.released .dom = true) ∧
    (((s.core j).reg 1).toNat + 64 ≤ 0x60_0000 ∧ ((s.core j).reg 1).toNat % 64 = 0 ∧ s.localFree false = true ∧
      s.padFlawed 0x5F_FFC0 64 false = false ∧ (s.tenAt s.fpkg 0).hasRoom 0 = true ∧
      (s.tenAt s.fpkg 0).refuses (spawned (dw8 (readDwords s.mem (apAddr 0 0 0x5F_FFC0) 8)) j.tenant j.cls j.sup) = false ∧
      (vget (s.tenAt s.fpkg 0).queues 0).length < 64 ∧ ∀ r ∈ vget (s.tenAt s.fpkg 0).queues 0, r.slot = none) ∧
    ((s.core j).reg 2 = 0x1_FFC0 ∧ Translated s j 0x1_FFC0 permRW t 0x2_FFC0 ∧ Answers t (.atomic 0 (some .dom)) 0x2_FFC0 8 ∧ 0x1_FFC0 % 64 = 0) ∧
    (Ready w j ∧ w.released .dom = false) ∧
    (recDv j.qrec.dw = false ∧ Ready u i ∧ recDv i.qrec.dw = true ∧ u.depMet u.fpkg 0 (recPlaunch i.qrec.dw) = false) ∧
    ((s.core j).h = false ∧ j.st ≠ .freezing ∧ (bval j (s.core j) (.reg 3)).toNat ≤ 255) ∧
    ((i.sched.find? (fun e => e.kind == 0 && e.point == 0)) = none ∧
      (j.sched.find? (fun e => e.kind == s.focus.kind.code && e.point == (s.core j).pc.toNat)).isSome = true ∧
      (BitVec.ofNat 192 (2 ^ 23 + 0x3_FFFC)).getLsbD 23 = true ∧ (s.pkgAt s.fpkg).granted = 0) :=
  ⟨⟨ready_put _ _ _ (by decide +kernel), allowed_put _ _ _ _ (by decide +kernel), by decide +kernel⟩, by decide +kernel,
    ⟨by decide +kernel, translated_of (by decide +kernel) (by decide +kernel) (by decide +kernel) (by decide +kernel), answers_of (by decide +kernel), by decide⟩,
    ⟨ready_put _ _ _ (by decide +kernel), by decide +kernel⟩,
    ⟨by decide +kernel, ready_put _ _ _ (by decide +kernel), by decide +kernel⟩, by decide +kernel, by decide +kernel⟩

/-- A job of 8 registers alone on its tile; one of 8 beside three of 64, whose file has 56 registers left. -/
theorem test_witness_AllotmentAndExit :
    let j := { job .A [] with a := { (job .A []).a with allot := 8 } }
    let s := run .A j
    let full := put (((State.reset.setJob 1 (loneJob .A)).setJob 2 (loneJob .A)).setJob 3 (loneJob .A)) .A j
    (Steady s j ∧ Allowed (s.core j) (7 :: opdRegs (.lit .zext 64)) ∧ AtRest s s.key j) ∧
    ((s.core j).allot < 64 ∧ Ready full j ∧ ((List.range 4).map (fun sl =>
      ((full.jobAt (slotKey full.fpkg full.ftile sl)).map (fun i => (full.core i).allot)).getD 0)).sum = 200 ∧ 64 - (full.core j).allot ≤ 256 - 200) ∧
    (12 % 8 ≠ 0 ∧ 0 < 8 ∧ 64 < 72) :=
  ⟨⟨steady_put _ _ _ (by decide +kernel), fun r h => by
      have : r = 7 := by simpa [opdRegs] using h
      subst this
      exact Or.inl (by decide +kernel), atRest_put _ _ _ (by decide +kernel)⟩,
    ⟨by decide +kernel, ready_put _ _ _ (by decide +kernel), by decide +kernel⟩, by decide⟩

/-- A core file without room: the fourth job asks for more than is left. -/
theorem test_witness_AllotmentAndExit_full :
    let j := { job .A [] with a := { (job .A []).a with allot := 56 } }
    let k := { job .A [] with a := { (job .A []).a with allot := 64 } }
    let full := put (((State.reset.setJob 1 k).setJob 2 k).setJob 3 { k with a := { k.a with allot := 72 } }) .A j
    Ready full j ∧ (full.core j).allot < 64 ∧ 256 - ((List.range 4).map (fun sl =>
      ((full.jobAt (slotKey full.fpkg full.ftile sl)).map (fun i => (full.core i).allot)).getD 0)).sum < 64 - (full.core j).allot :=
  ⟨ready_put _ _ _ (by decide +kernel), by decide +kernel⟩

/-! ### Witnesses: circuits, collectives and Pinwheel from a core -/

/-- A tile pair: the job on tile 0 with two places for a destination, and the landing job on tile 1. The dwords at 0x1000 name tile 1,
local address 0x100, and landing handle 0x8000; those at 0x1010 name tile 2, which runs no job. -/
def senderMem : Memory :=
  writeDwords (writeDwords [] (apAddr 0 0 0x1000) [0x0080_0100, 0x8000]) (apAddr 0 0 0x1010) [0x0100_0100, 0x8000]
def openRec : SendRec := ⟨0, .opened, 9, 0, none⟩
def circ9 : Circuit :=
  { id := 9, src := 0, srcJid := 0, srcRec := 1, flow := none, dst := 4, dstJid := 0, dstRec := 0, cls := 0, links := [], leaseEnd := 5000, next := 0x100
    stop := 0x110, dstPkg := 0, dstTile := 1, words := [], sent := 0, delivered := 0, first := 0, alive := true, endedAt := 0, signal := none, notice := none }
def sender : Job :=
  let j := job .A [(1, 0x1000), (2, 0x1010), (3, 0x5F_FFFC), (4, 0x0800), (5, 0x8000), (6, 0x9000), (7, 0x1000)]
  { j with send := j.send.set 1 openRec |>.set 2 { openRec with st := .broken }
           land := j.land.set 0 ⟨0, .opened, 0x100, 4, none, 0, 0⟩ }
def lander : Job := { loneJob .A with land := (loneJob .A).land.set 0 ⟨0, .opened, 0x100, 4, none, 0, 0⟩ }
/-- Tenant 0 with windows onto the scratchpads of tiles 0, 1 and 2. -/
def circArea : TenantArea :=
  { areaOn with win := [0, 1, 2].flatMap (fun t => [(2 * t, BitVec.ofNat 64 (apAddr 0 t 1)), (2 * t + 1, BitVec.ofNat 64 (apAddr 0 t 0x5F_0007))]) }
def circuits : State :=
  { world with mem := senderMem, jobs := [(4, lander)], circuits := [circ9], tenants := [(0, circArea)] }

/-- All records in use: busy. -/
def full : Job :=
  { sender with send := Vector.replicate 16 openRec, land := Vector.replicate 16 ⟨0, .opened, 0, 0, none, 0, 0⟩ }

theorem test_witness_CircuitRecords :
    let s := put circuits .A sender
    let c := s.core sender
    (Ready s sender ∧ Allowed c (8 :: 1 :: opdRegs (.lit .zext 1)) ∧ s.askOf = none) ∧
    ((bval sender c (.lit .zext 1)).toNat = 1 ∧ (c.reg 3).toNat + 4 * 1 ≤ 0x60_0000 ∧ (c.reg 3).toNat % 4 = 0) ∧
    ((vget sender.land 1).st = .free ∧ (∀ k < 1, (vget sender.land k).st ≠ .free) ∧ (vget sender.send 0).st = .free) ∧
    (sender.findSend (c.reg 4) = some 1 ∧ (s.sendCirc sender 1).isSome = true ∧ s.expired circ9 = false ∧ (c.reg 4).getLsbD 15 = false ∧
      s.expired { circ9 with leaseEnd := 0 } = true) ∧
    (sender.findSend (c.reg 3) = none ∧ sender.findLand 0 (c.reg 3) = none ∧ (c.reg 5).getLsbD 15 = true ∧ sender.findLand 0 (c.reg 5) = some 0 ∧
      (vget sender.land 0).circ = none) ∧
    (sender.findSend (c.reg 7) = some 2 ∧ (c.reg 7).getLsbD 15 = false ∧ s.circ (vget ({ sender with send := sender.send.set 2 { openRec with circ := 8 } } : Job).send 2).circ = none) ∧
    (∀ k < 16, (vget full.send k).st ≠ .free ∧ (vget full.land k).st ≠ .free) ∧
    ((vget sender.send 1).st = .opened ∧ (vget sender.send 1).circ = circ9.id ∧ s.circ circ9.id = some circ9 ∧ circ9.alive = true ∧
      circ9.flow = none ∧ circ9.words = [] ∧ (vget sender.send 2).st ≠ .opened ∧ sender.st ≠ .freezing) ∧
    (s.keyOfJob circ9.dstJid = some 0 ∧ circ9.dstRec < 16) :=
  ⟨⟨ready_put _ _ _ (by decide +kernel), allowed_put _ _ _ _ (by decide +kernel), by decide +kernel⟩, by decide +kernel, by decide +kernel, by decide +kernel,
    by decide +kernel, by decide +kernel, by decide +kernel, by decide +kernel, by decide +kernel⟩

/-- A landing handle of a record that an open circuit holds, at the receiver; and a job elsewhere whose record that circuit lands at. -/
theorem test_witness_CircuitRecords_ends :
    let c := { circ9 with dstJid := 1 }
    let l : Job := { lander with jid := 1, land := lander.land.set 0 ⟨0, .opened, 0x100, 4, some 9, 0, 0⟩ }
    let r : Job := { sender with land := sender.land.set 0 ⟨0, .opened, 0x100, 4, some 9, 0, 0⟩ }
    let s := put { circuits with circuits := [c], jobs := [(4, l)] } .A r
    (Ready s r ∧ Allowed (s.core r) (8 :: 5 :: opdRegs (.lit .zext 1)) ∧ s.askOf = none) ∧
    (r.findLand 0 ((s.core r).reg 5) = some 0 ∧ ((s.core r).reg 5).getLsbD 15 = true ∧ (vget r.land 0).circ = some c.id ∧ s.circ c.id = some c ∧
      c.alive = true ∧ c.flow = none ∧ s.expired c = false) ∧
    (s.keyOfJob c.dstJid = some 4 ∧ s.jobAt 4 = some l ∧ c.dstRec < 16 ∧ (vget l.land c.dstRec).circ = some c.id ∧ (vget l.land c.dstRec).st ≠ .free) :=
  ⟨⟨ready_put _ _ _ (by decide +kernel), allowed_put _ _ _ _ (by decide +kernel), by decide +kernel⟩, by decide +kernel, by decide +kernel⟩

/-- The operands of a COPEN that no landing meets: tile 2 runs no job. -/
theorem test_witness_CircuitRecords_open :
    let s := put circuits .A sender
    let d0 := BitVec.ofNat 64 (s.readL 0x1010 8)
    let d1 := BitVec.ofNat 64 (s.readL 0x1018 8)
    (bits d0 63 39 = 0 ∧ bits d1 63 16 = 0 ∧ bits d0 38 31 = 0 ∧ bits d0 30 23 = 2 ∧ 0 < (s.pkgAt s.fpkg).d ∧ s.tilePresent 0 2 = true ∧
      s.windowOk s.fpkg 0 (apAddr 0 2 0) (apAddr 0 2 0xFFFF) permRW = true ∧ s.localFree false = true) ∧ Sound s ∧
    ((s.pkgAt s.fpkg).svc ≠ 0 ∧ s.landing sender.tenant 0 2 (bits d0 22 0) d1 = none) ∧
    Arrives s ⟨false, false, .tile 0 2, (Place.tile 0 2).unitTarget⟩ ∧ ((put { circuits with pkgs := [(0, { pkgOn with svc := 0 })] } .A sender).pkgAt 0).svc = 0 :=
  ⟨by decide +kernel, rfl, by decide +kernel, ⟨by decide +kernel, by decide +kernel, by decide +kernel⟩, by decide +kernel⟩

/-- A landing and a path. -/
theorem test_witness_CircuitOpens :
    let s := put circuits .A sender
    let d0 := BitVec.ofNat 64 (s.readL 0x1000 8)
    let d1 := BitVec.ofNat 64 (s.readL 0x1008 8)
    let q : Parcel := ⟨false, false, .tile 0 1, (Place.tile 0 1).unitTarget⟩
    let r := (s.asked q).probe s.fpkg s.ftile 0 1 sender.cls
    (Sound s ∧ Ready s sender ∧ Allowed (s.core sender) (8 :: 1 :: opdRegs (.lit .zext 1)) ∧ Arrives s q) ∧
    (s.localFree false = true ∧ (s.pkgAt s.fpkg).svc ≠ 0 ∧ bits d0 63 39 = 0 ∧ bits d1 63 16 = 0 ∧ bits d0 38 31 = 0 ∧ bits d0 30 23 = 1 ∧
      s.tilePresent 0 1 = true ∧ s.windowOk s.fpkg 0 (apAddr 0 1 0) (apAddr 0 1 0xFFFF) permRW = true ∧ (vget sender.send 0).st = .free) ∧
    s.landing sender.tenant 0 1 (bits d0 22 0) d1 = some (4, 0, 0) ∧ s.jobAt 4 = some lander ∧ r.2.isSome = true ∧
    r.1.jobs = s.jobs ∧ r.1.mem = s.mem ∧ r.1.wall = s.wall ∧ r.1.pkgs = s.pkgs ∧ r.1.focus = s.focus :=
  ⟨⟨rfl, ready_put _ _ _ (by decide +kernel), allowed_put _ _ _ _ (by decide +kernel), ⟨by decide +kernel, by decide +kernel, by decide +kernel⟩⟩,
    by decide +kernel, by decide +kernel, by decide +kernel, by decide +kernel, by decide +kernel, by decide +kernel, by decide +kernel,
    by decide +kernel, by decide +kernel⟩

/-- A domino entry: tile 0 of package 0 broadcasts one word from 0x1000 to 0x2000 of tile 1. -/
def entryDw : Vector Word 4 := #v[0xE000_8000_8080_1000, 0x0000_0000_0000_2000, 1, 0]
def domino : Domino := { Domino.reset with dw := entryDw }

/-- The tenant with entries: 0 valid and idle, 1 in flight, 2 with tile 0's ready held, 3 with a done count of 5. -/
def dominoes : State :=
  { world with
    mem := writeDwords [] (apAddr 0 0 0x3000) entryDw.toList
    tenants := [(0, { areaOn with domino := [(0, domino), (1, { domino with inflight := true }), (2, { domino with readies := [0] }), (3, { domino with done := 5 })] })] }

theorem test_witness_Collectives :
    let j := job .A [(1, 1), (2, 2), (3, 0x3000), (4, 0x0000_0005_0000_0003), (5, 0x0000_0006_0000_0003)]
    let s := put dominoes .A j
    let c := s.core j
    (Ready s j ∧ s.askOf = none ∧ s.released .dom = true ∧ Allowed c (6 :: 1 :: opdRegs (.reg 3))) ∧
    (bits (c.reg 0) 63 10 = 0 ∧ (c.reg 3).toNat + 32 ≤ 0x60_0000 ∧ (c.reg 3).toNat % 16 = 0 ∧ domino.v = true ∧ domino.malformed (s.pkgAt s.fpkg).d = false ∧
      s.localFree false = true ∧ s.padFlawed (c.reg 3).toNat 32 false = false) ∧
    ((s.domAt 0 0 0).inflight = false ∧ (s.domAt 0 0 1).inflight = true ∧ domino.names (s.pkgAt s.fpkg).d s.fpkg s.ftile = true ∧
      s.tkey ∉ (s.domAt 0 0 0).readies ∧ s.tkey ∈ (s.domAt 0 0 2).readies) ∧
    Arrives s ⟨false, false, .hdie domino.rpkg, (Place.hdie domino.rpkg).unitTarget⟩ ∧
    (bits (c.reg 4) 31 10 = 0 ∧ ((s.domAt 0 0 3).done - (c.reg 4).extractLsb' 32 32).toNat = 0 ∧ (s.domAt 0 0 5).v = false ∧
      2 ^ 31 ≤ ((s.domAt 0 0 3).done - (c.reg 5).extractLsb' 32 32).toNat) :=
  ⟨⟨ready_put _ _ _ (by decide +kernel), by decide +kernel, by decide +kernel, allowed_put _ _ _ _ (by decide +kernel)⟩, by decide +kernel, by decide +kernel,
    ⟨by decide +kernel, by decide +kernel, by decide +kernel⟩, by decide +kernel⟩

theorem test_witness_PinwheelOperations :
    let j := job .A [(1, 0x5F_CF00)]
    let i := { j with w := { j.w with fin := false, pos := some { WordPos.first with active := true } } }
    let s := run .A j
    (Ready s j ∧ Allowed (s.core j) [1, 2] ∧ Ready (run .A i) i ∧ i.wRest = false) ∧
    (((s.core j).reg 1).toNat + 12544 = 0x60_0000 ∧ ((s.core j).reg 1).toNat % 256 = 0 ∧ (s.tileAt s.tkey).pwHolder = none ∧ j.wRest = true ∧
      s.localFree true = true ∧ s.localFree false = true ∧ s.padFlawed ((s.core j).reg 1).toNat 12544 false = false) ∧
    imageBad (fun _ => 0) (fun _ => 0) = none :=
  ⟨⟨ready_put _ _ _ (by decide +kernel), allowed_put _ _ _ _ (by decide +kernel), ready_put _ _ _ (by decide +kernel), by decide +kernel⟩,
    by decide +kernel, by decide +kernel⟩

/-! ### Witnesses: engine words -/

theorem engine_put (s : State) (k : Kind) (j : Job) (own : Option Kind) (h : Hold) (pop : Option (BitVec 4)) (e : own = none ∨ own = some k)
    (f : k.isCore = false ∧ (j.eng k).pos = none ∧ (j.eng k).asked = none ∧ (put s k j).engineTaken = false ∧
      (put s k j).bankFree (put s k j).fpkg (put s k j).ftile = true ∧ (put s k j).drooping = false ∧ popCheck j k pop = .ok ∧
      h.free ((put s k j).tileAt (put s k j).tkey) j.jid = true) : EngineReady (put s k j) j own h pop := by
  refine ⟨job_put s k j, f.1, fun x hx => ?_, f.2⟩
  rcases e with e | e <;> simp_all [put]

/-- A lone job whose token queue 0 is bound to its stream and holds one token, queue 1 is another's, 2 is empty with a live producer, 3 is
full and its own to push. -/
def engineJob (k : Kind) : Job :=
  let j := loneJob k
  { j with kern := { j.kern with acccount := 4 }
           tq := (Vector.replicate 16 ⟨none, 0⟩).set 0 ⟨some (.A, k), 1⟩ |>.set 1 ⟨some (.A, .X), 1⟩ |>.set 2 ⟨some (k, k), 0⟩ |>.set 3 ⟨some (k, .A), 32⟩
             |>.set 4 ⟨some (.A, k), 0⟩ |>.set 5 ⟨some (k, .A), 31⟩ }

/-- Descriptors from index 0 of slot 0 in memory `m`. -/
def withDesc (l : List Word) (m : Memory) : State := { world with mem := writeDwords m (dmemAddr 0 0 0) l }

theorem test_witness_WordCompletion :
    let j := engineJob .V
    let s := put world .V j
    (s.jobAt s.key = some j ∧ s.focus.kind.isCore = false) ∧
    ((j.eng .V).threshold = none ∧ (j.eng .V).ending = false ∧ (vget j.tq 5).producer = some .V ∧ (vget j.tq 5).count < 32 ∧
      (vget j.tq 3).producer = some .V ∧ 32 ≤ (vget j.tq 3).count ∧ (vget j.tq 0).producer ≠ some .V) :=
  ⟨⟨job_put _ _ _, by decide +kernel⟩, by decide +kernel⟩

/-- A word of another class; one whose engine runs a word of another slot; one under a droop window, inside and about to start; one whose
unit another job holds; pops that wait and that fail. -/
theorem test_witness_WordStarts :
    let j := engineJob .V
    let m := engineJob .M
    let inside := { engineJob .V with v := { (engineJob .V).v with pos := some { WordPos.first with active := true } } }
    let s := put world .V j
    let o := put { world with jobs := [(1, inside)] } .V j
    let d := put { world with pkgs := [(0, { pkgOn with droop := 2 })] } .V j
    let e := put { world with pkgs := [(0, { pkgOn with droop := 2 })] } .V inside
    let h := put { world with tiles := [(0, { Tile.reset with mHolder := some 7 })] } .M m
    (s.jobAt s.key = some j ∧ s.focus.kind.isCore = false ∧ s.focus.kind ≠ .M ∧ o.engineTaken = true ∧ d.drooping = true ∧ d.engineTaken = false) ∧
    (e.jobAt e.key = some inside ∧ e.drooping = true ∧ e.engineTaken = false ∧ (inside.eng .V).pos.isSome = true ∧ (inside.eng .V).suspect < 8) ∧
    (let l := { engineJob .V with v := { (inside.eng .V) with suspect := 8 } }
     let q := put world .V l
     q.jobAt q.key = some l ∧ q.engineTaken = false ∧ q.bankFree q.fpkg q.ftile = true ∧ (l.eng .V).pos.isSome = true ∧ 8 ≤ (l.eng .V).suspect) ∧
    (h.jobAt h.key = some m ∧ Hold.matrix.free (h.tileAt h.tkey) m.jid = false ∧ popCheck m .M (some 0) = .ok) ∧
    (s.engineTaken = false ∧ s.bankFree s.fpkg s.ftile = true ∧ s.drooping = false ∧ (j.eng .V).pos = none ∧ popCheck j .V none = .ok) ∧
    ((vget j.tq 2).bind = some (.V, .V) ∧ (vget j.tq 2).count = 0 ∧ j.finished .V = false) ∧
    ((vget j.tq 1).consumer ≠ some .V ∧ (vget j.tq 4).count = 0 ∧ (vget j.tq 4).producer = some .A ∧ j.finished .A = true) :=
  ⟨⟨job_put _ _ _, by decide +kernel⟩, ⟨job_put _ _ _, by decide +kernel⟩, ⟨job_put _ _ _, by decide +kernel⟩, ⟨job_put _ _ _, by decide +kernel⟩,
    by decide +kernel, by decide +kernel, by decide +kernel⟩

theorem test_witness_CommonWords :
    let j := { engineJob .V with sched := [⟨3, 0, BitVec.ofNat 192 (2 ^ 23 + 0x3FFF)⟩]
                                 sw := (engineJob .V).sw.set 1 ⟨some (.V, .T), []⟩ }
    let s := put world .V j
    EngineReady s j none .none (some 0) ∧ EngineReady s (j) none .none none ∧
    ((j.sched.find? (fun x => x.kind == Kind.V.code && x.point == 0)).isSome = true ∧ (j.sched.find? (fun x => x.kind == Kind.V.code && x.point == 1)) = none) ∧
    (kindOf 2 = some .M ∧ kindOf 6 = some .W ∧ Kind.M.isCore = false ∧ (vget j.sw 0).bind = none ∧ (vget j.sw 1).bind = some (.V, .T) ∧ (vget j.sw 1).q = []) :=
  ⟨engine_put _ _ _ _ _ _ (.inl rfl) (by decide +kernel), engine_put _ _ _ _ _ _ (.inl rfl) (by decide +kernel), by decide +kernel, by decide +kernel⟩

/-- A pattern of one dword in global space at the last dword of the page, and one of a page that is absent. -/
def globalPat (base : Nat) : Pat := ⟨0, false, 8, base, 1, 1, 1, 16, 0, 0, 1, 1, 0⟩

theorem party_of {s t : State} (h : t.focus = s.focus) (g : t.jobAt t.key = s.jobAt s.key) : t.party = s.party := by
  unfold State.party State.fpkg State.ftile
  rw [h, g]

theorem test_witness_ElementAccess :
    let s := put { world with tiles := [(0, { Tile.reset with tlbC := [entry] })] } .C (engineJob .C)
    let r : Run := ⟨s, { WordPos.first with active := true }⟩
    let u : Use := { step := 0, reps := 1, src := true, need := permR }
    let t := (r.s.pieces r.s.party u.need 8 0x1_FFF8 8).1
    ((globalPat 0x1_FFF8).addr u.step 0 0 = 0x1_FFF8 ∧ (match (r.s.pieces r.s.party u.need 8 0x1_FFF8 8).2 with
      | .ok l => l == [(0x2_FFF8, 8)]
      | _ => false) = true) ∧
    ((match (r.s.pieces r.s.party u.need 8 0x2_0000 8).2 with
      | .fault c _ => c == .pageAbsent
      | _ => false) = true) ∧
    t.party = r.s.party ∧ (r.s.engAsked = none ∧ t.engAsked = none ∧ t.flawed 0x2_FFF8 8 = false ∧ t.absent 0x2_FFF8 = false ∧
       t.passageAll r.s.party [(0x2_FFF8, 8)] = .through) ∧
    (r.w.held.length < 4 ∧ r.w.ended 7 = false ∧ r.s.beats 7 = [] ∧ (r.s.jobAt r.s.key).isSome = true ∧ (r.s.beats 7).length < 8) :=
  ⟨by decide +kernel, by decide +kernel, party_of (by decide +kernel) (by decide +kernel), by decide +kernel, by decide +kernel⟩

/-- Channels with a beat, a mark and a full queue. -/
theorem test_witness_ElementAccess_channels :
    let j := { engineJob .V with sw := #v[⟨none, [.beat [1], .mark]⟩, ⟨none, [.mark]⟩, ⟨none, List.replicate 8 .mark⟩, ⟨none, []⟩, ⟨none, []⟩, ⟨none, []⟩, ⟨none, []⟩, ⟨none, []⟩] }
    let s := put world .V j
    s.beats 0 = [.beat [1], .mark] ∧ s.beats 1 = [.mark] ∧ 8 ≤ (s.beats 2).length := by decide +kernel

/-- V-descriptor dword 0: operands d, a, b and c, and other bits. -/
def vdesc (d a b c x : Nat) : Word := BitVec.ofNat 64 (d * 2 ^ 58 + a * 2 ^ 52 + b * 2 ^ 46 + c * 2 ^ 40 + x)

theorem test_witness_VectorResults :
    let s := fun (v : Word) => put (withDesc [v, 0, 0, 0] []) .V (engineJob .V)
    let ok := fun (u : VUses) (v : Word) => (parseV u ((s v).desc 0)).all (fun x => x.od == some 31 && (x.oa.all (fun c => c < 32 || c == 40)))
      && (parseV u ((s v).desc 0)).isSome
    EngineReady (s 0) (engineJob .V) (some .V) .none (some 0) ∧
    (ok { ob := true } (vdesc 31 1 31 0 0) ∧ ok { ob := true, oc := true } (vdesc 31 31 2 3 (5 * 2 ^ 35 + 2 ^ 34)) ∧ ok {} (vdesc 31 0 0 0 0) ∧
      ok { rm := true, fmt := true } (vdesc 31 1 0 0 (2 ^ 22)) ∧ ok { ob := true, cond := true } (vdesc 31 1 2 0 (2 * 2 ^ 18)) ∧
      ok { k := true } (vdesc 31 1 0 0 (255 * 2 ^ 8)) ∧ ok { mask := false, nt := true, rm := true } (vdesc 31 1 0 0 (2 * 2 ^ 20)) ∧
      ok { ob := true, oc := true, mask := false, hdr := true } (vdesc 31 1 2 3 (7 * 2 ^ 35))) :=
  ⟨engine_put _ _ _ _ _ _ (.inr rfl) (by decide +kernel), by decide +kernel⟩

/-- A channel to a channel: a beat and its mark wait on channel 0, channel 7 has room for two. -/
theorem test_witness_VectorChannels :
    let j := { engineJob .V with sw := #v[⟨some (.M, .V), [.beat (List.replicate 1024 0), .mark]⟩, ⟨none, []⟩, ⟨none, []⟩, ⟨none, []⟩, ⟨none, []⟩, ⟨none, []⟩, ⟨none, []⟩,
      ⟨some (.V, .T), List.replicate 6 .mark⟩] }
    let s := put (withDesc [vdesc 39 32 1 0 0, 0, 0, 0] []) .V j
    EngineReady s j (some .V) .none none ∧ (parseV { ob := true } (s.desc 0)).map (fun v => (v.od, v.oa, v.ob)) = some (some 39, some 32, some 1) ∧
    (List.replicate 1024 (0 : Byte)).length = 1024 ∧ (vget j.sw 7).q.length ≤ 6 :=
  ⟨engine_put _ _ _ _ _ _ (.inr rfl) (by decide +kernel), by decide +kernel⟩

/-- Every element of a pattern has its place. -/
def localB (s : State) (p : Pat) (step : BitVec 12) (reps : Nat) : Bool :=
  (List.range reps).all (fun r => (List.range p.n).all (fun k => !p.inB k || (s.localPlace p (p.addr step r k)).isSome))

theorem local_of {s : State} {p : Pat} {step : BitVec 12} {reps : Nat} (h : localB s p step reps = true) : LocalPattern s p step reps := by
  intro r k hr hk hb
  have h1 := List.all_eq_true.mp (List.all_eq_true.mp h r (List.mem_range.mpr hr)) k (List.mem_range.mpr hk)
  simpa [hb] using h1

/-- Pattern descriptor: space, size code, base; extents; strides 0; aux. -/
def pdesc (space code base e0 e1 e2 aux : Nat) : List Word :=
  [BitVec.ofNat 64 (space * 2 ^ 61 + code * 2 ^ 57 + base), BitVec.ofNat 64 (e0 * 2 ^ 48 + e1 * 2 ^ 32 + e2 * 2 ^ 16), 0, BitVec.ofNat 64 aux]

/-- The pattern it holds. -/
def pat (space esize base e0 e1 e2 aux : Nat) : Pat := ⟨space, false, esize, base, e0, e1, e2, 16, 0, 0, e0, e1, BitVec.ofNat 32 aux⟩

theorem test_witness_VectorMoves :
    let s := put (withDesc (pdesc 1 3 0x5F_FFF8 2 1 1 31) []) .V (engineJob .V)
    let a := put (withDesc (pdesc 2 3 (4 * 8192 - 8) 2 1 1 31) []) .V (engineJob .V)
    let g := put (withDesc [vdesc 31 0 40 0 0, 0, BitVec.ofNat 64 (2 ^ 61 + 3 * 2 ^ 57 + 0x5F_FFFC), 0] []) .V (engineJob .V)
    let t := put (withDesc [vdesc 0 31 40 0 0, 0, BitVec.ofNat 64 (2 ^ 61 + 3 * 2 ^ 57 + 0x5F_FFFC), 0] []) .V (engineJob .V)
    (Sound s ∧ Sound a ∧ Sound g ∧ Sound t) ∧ EngineReady s (engineJob .V) (some .V) .none none ∧
    ((parseMove false (s.desc 0)).map VMove.p = some (pat 1 4 0x5F_FFF8 2 1 1 31) ∧ LocalPattern s (pat 1 4 0x5F_FFF8 2 1 1 31) 0 1) ∧
    ((parseMove true (a.desc 0)).map VMove.p = some (pat 2 4 (4 * 8192 - 8) 2 1 1 31) ∧ LocalPattern a (pat 2 4 (4 * 8192 - 8) 2 1 1 31) 0 1) ∧
    ((parseGather (g.desc 0)).map (fun p => (p.space, p.base)) = some (1, 0x5F_FFFC) ∧ 0x5F_FFFC + 4 * 0 + 4 ≤ 0x60_0000 ∧
      (parseV { od := true, oa := false, ob := true, mem := true } (g.desc 0)).map VDesc.od = some (some 31) ∧
      (parseV { od := false, oa := true, ob := true, mem := true } (t.desc 0)).isSome = true) :=
  ⟨⟨rfl, rfl, rfl, rfl⟩, engine_put _ _ _ _ _ _ (.inr rfl) (by decide +kernel), ⟨by decide +kernel, local_of (by decide +kernel)⟩,
    ⟨by decide +kernel, local_of (by decide +kernel)⟩, by decide +kernel⟩

/-- Source and destination of a copy, at the ends of the scratchpad and of the accumulator window. -/
theorem test_witness_LocalCopies :
    let pair := fun (k : Kind) (a b : List Word) => put (withDesc (a ++ b) []) k (engineJob k)
    let s := pair .C (pdesc 1 3 0x5F_FFF8 2 1 1 0) (pdesc 2 3 (4 * 8192 - 8) 2 1 1 0)
    let r := pair .C (pdesc 2 3 0 2 1 1 0) (pdesc 1 3 0x5F_FFF8 2 1 1 4)
    let c := pair .T (pdesc 1 3 0x1000 2 1 1 8) (pdesc 1 2 0x5F_FFFC 2 1 1 0)
    let b := pair .T (pdesc 1 3 0 32 32 1 0) (pdesc 1 3 0x5F_F000 32 32 1 0)
    let g := pair .T (pdesc 1 3 0 4 4 1 0) (pdesc 1 3 0x100 4 2 1 0x5F_FFFC)
    (Sound s ∧ Sound r ∧ Sound c ∧ Sound b ∧ Sound g) ∧ (EngineReady s (engineJob .C) (some .C) .none none ∧ EngineReady c (engineJob .T) (some .T) .none none) ∧
    (parsePat (s.desc 0) [0, 1, 2, 3] = some (pat 1 4 0x5F_FFF8 2 1 1 0) ∧ parsePat (s.desc 1) [0, 1, 2, 3] = some (pat 2 4 (4 * 8192 - 8) 2 1 1 0) ∧
      LocalPattern s (pat 1 4 0x5F_FFF8 2 1 1 0) 0 1 ∧ LocalPattern s (pat 2 4 (4 * 8192 - 8) 2 1 1 0) 0 1) ∧
    (parsePat (r.desc 1) [0, 1, 2, 3] = some (pat 1 4 0x5F_FFF8 2 1 1 4) ∧ bits (pat 1 4 0x5F_FFF8 2 1 1 4).aux 2 0 ≤ 4) ∧
    (parsePat (c.desc 0) [0, 1, 3] = some (pat 1 4 0x1000 2 1 1 8) ∧ parsePat (c.desc 1) [0, 1, 3] = some (pat 1 2 0x5F_FFFC 2 1 1 0) ∧ fcvtLegal 0 1 = true ∧
      fmtBytes 0 = 4 ∧ fmtBytes 1 = 2) ∧
    (parsePat (b.desc 1) [0, 1, 3] = some (pat 1 4 0x5F_F000 32 32 1 0) ∧ LocalPattern b (pat 1 4 0x5F_F000 32 32 1 0) 0 1) ∧
    (parsePat (g.desc 1) [0, 1, 3] = some (pat 1 4 0x100 4 2 1 0x5F_FFFC) ∧ 0x5F_FFFC + 2 * (pat 1 4 0x100 4 2 1 0x5F_FFFC).e1 = 0x60_0000) :=
  ⟨⟨rfl, rfl, rfl, rfl, rfl⟩, ⟨engine_put _ _ _ _ _ _ (.inr rfl) (by decide +kernel), engine_put _ _ _ _ _ _ (.inr rfl) (by decide +kernel)⟩,
    ⟨by decide +kernel, by decide +kernel, local_of (by decide +kernel), local_of (by decide +kernel)⟩, by decide +kernel, by decide +kernel,
    ⟨by decide +kernel, local_of (by decide +kernel)⟩, by decide +kernel⟩

/-- Tenant 0 may write the scratchpad of tile 1, and its copy engine reaches the page of `entry`. -/
def remote (s : State) : State :=
  { s with tenants := circuits.tenants ++ s.tenants.drop 1, tiles := [(0, { Tile.reset with tlbC := [entry], tenant := some 0 })] }

/-- The remote tile in a destination base: package 0, tile 1; and an open circuit. -/
theorem test_witness_CopyUnits :
    let s := put (remote (withDesc (pdesc 1 3 0x1000 2 1 1 0 ++ pdesc 4 3 (0x80_0000 + 0x5F_FFF8) 2 1 1 0) [])) .C (engineJob .C)
    let j := { engineJob .C with send := (engineJob .C).send.set 0 openRec }
    let c := put { withDesc (pdesc 1 3 0x5F_FFFC 1 1 1 0 ++ pdesc 5 3 0 1 1 1 0x5F_FFF8) [] with circuits := [circ9] } .C j
    (Sound s ∧ EngineReady s (engineJob .C) (some .C) .none none ∧ LocalPattern s (pat 1 4 0x1000 2 1 1 0) 0 1) ∧
    (parsePat (s.desc 0) [0, 1, 2] = some (pat 1 4 0x1000 2 1 1 0) ∧ parsePat (s.desc 1) [4] = some (pat 4 4 (0x80_0000 + 0x5F_FFF8) 2 1 1 0) ∧
      0 < (s.pkgAt s.fpkg).d ∧ s.tilePresent 0 1 = true ∧ s.windowOk s.fpkg 0 (apAddr 0 1 0) (apAddr 0 1 0xFFFF) permW = true ∧
      s.passage s.fpkg s.ftile (.tile 0 1) = .through ∧ s.pkFlow (pat 4 4 (0x80_0000 + 0x5F_FFF8) 2 1 1 0) = none) ∧
    (Sound c ∧ EngineReady c j (some .C) .none none ∧ parsePat (c.desc 0) [1] = some (pat 1 4 0x5F_FFFC 1 1 1 0) ∧
      parsePat (c.desc 1) [5] = some (pat 5 4 0 1 1 1 0x5F_FFF8) ∧ j.findSend 0 = some 0 ∧ (vget j.send 0).st = .opened ∧ c.circ 9 = some circ9 ∧
      circ9.alive = true ∧ c.expired circ9 = false ∧ MemoryCanonical c ∧ LocalPattern c (pat 1 4 0x5F_FFFC 1 1 1 0) 0 1) :=
  ⟨⟨rfl, engine_put _ _ _ _ _ _ (.inr rfl) (by decide +kernel), local_of (by decide +kernel)⟩, by decide +kernel,
    ⟨rfl, engine_put _ _ _ _ _ _ (.inr rfl) (by decide +kernel), by decide +kernel, by decide +kernel, by decide +kernel, by decide +kernel, by decide +kernel,
      by decide +kernel, by decide +kernel, show Memory.wf _ = true by decide +kernel, local_of (by decide +kernel)⟩⟩

/-- An image of one IMEM word at the page; and names in the place of a root: none, and a node whose first field names a leaf. -/
theorem test_witness_CopyUnits_loads :
    let k := put { withDesc [0x1_0000, 0, 0, 0] (writeDwords [] 0x2_0000 [0x1_4E58_4531, 0x1_0000_0000]) with
      tiles := [(0, { Tile.reset with tlbC := [entry], tenant := some 0 })] } .C (engineJob .C)
    let two := { lines with lines := [⟨0x100, true, 1, 0x1000, false, false⟩, ⟨0x200, false, 1, 0x10C0, false, false⟩] }
    let tree := writeDwords [] (dmemAddr 0 0 0) [BitVec.ofNat 64 (2 ^ 61 + 0x5F_FFF0), BitVec.ofNat 64 (2 ^ 32 + 1), 0x1_0000, 0]
    let o := fun (m : Memory) => put { region with mem := m, pkgs := [(0, { pkgOn with ca := [(0, two)] })]
                                                   tiles := [(0, { Tile.reset with tlbC := [entry], tenant := some 0 })] } .C (engineJob .C)
    let z := o tree
    let n := o (writeLe (writeLe tree 0x1000 16 0x200) (apAddr 0 0 0x5F_FFF0) 16 0x100)
    let span := fun (s : State) => match s.pieces s.party permW 192 0x1_0000 192 with
      | (t, .ok l) => l.all (fun x => !t.absent x.1) && t.passageAll s.party l == .through
      | _ => false
    let brought := fun (s u : State) (n : BitVec 128) (at_ : Nat) =>
      ((u.countReq s.fpkg s.ftile (.die 0 (nameDie n))).takeSeq (requester s.key .C false) (Place.die 0 (nameDie n)).target).2.carry
        (wayBack s.fpkg (dieOf s.ftile) (.die 0 (nameDie n))) at_ (readBytes s.mem at_ 192)
    (Sound k ∧ EngineReady k (engineJob .C) (some .C) .none none ∧ bits (nth (k.desc 0) 0 (0 : Word)) 63 61 = 0 ∧
      (match (k.begun (engineJob .C) .none none).loadImage 0 0 0 0 0x1_0000 true with
        | (_, .ok _) => true
        | _ => false) = true) ∧
    (Sound z ∧ EngineReady z (engineJob .C) (some .C) .none none ∧ (parseTree (z.desc 0)).map (fun t => (t.root, t.n, t.h)) = some (0x5F_FFF0, 1, 1) ∧
      z.caRegion z.fpkg 0 = some (0, 0) ∧ z.localName 0x5F_FFF0 = 0 ∧
      span (z.begun (engineJob .C) .none none) = true) ∧
    (n.localName 0x5F_FFF0 = 0x100 ∧ (n.caAt 0 0).serving = true ∧ (n.caAt 0 0).find 0x100 = some ⟨0x100, true, 1, 0x1000, false, false⟩ ∧
      nameAt n.mem 0x1000 = 0x200 ∧ (n.caAt 0 0).find 0x200 = some ⟨0x200, false, 1, 0x10C0, false, false⟩ ∧
      n.passage n.fpkg n.ftile (.die 0 (nameDie 0x100)) = .through ∧ n.passage n.fpkg n.ftile (.die 0 (nameDie 0x200)) = .through ∧
      span (brought n (brought n (n.begun (engineJob .C) .none none) 0x100 0x1000) 0x200 0x10C0) = true) :=
  ⟨⟨rfl, engine_put _ _ _ _ _ _ (.inr rfl) (by decide +kernel), by decide +kernel, by decide +kernel⟩,
    ⟨rfl, engine_put _ _ _ _ _ _ (.inr rfl) (by decide +kernel), by decide +kernel⟩, by decide +kernel⟩

/-- A resident B of one block and one column. -/
def oneB : ResidentB := ⟨1, 0, false, false, 32, 1, [[⟨true, 0, 0, List.replicate 32 0⟩]]⟩

theorem test_witness_MatrixWords :
    let s := fun (l : List Word) => put (withDesc l []) .M { engineJob .M with resB := some oneB }
    let j := { engineJob .M with resB := some oneB }
    let b : List Word := [BitVec.ofNat 64 (2 ^ 61 + 2 ^ 59 + 0x5F_FFE0), BitVec.ofNat 64 (32 * 2 ^ 48 + 2 ^ 32), 0, 0]
    let a : List Word := [BitVec.ofNat 64 (2 ^ 61 + 2 ^ 59 + 0x5F_FFE0), BitVec.ofNat 64 (32 * 2 ^ 48), BitVec.ofNat 64 (3 * 2 ^ 55), 0]
    (∀ l, Sound (s l)) ∧ EngineReady (s b) j (some .M) .matrix (some 0) ∧
    ((parseMldb false ((s b).desc 0)).any (fun m => match m.columns (s b) with
      | .ok _ => true
      | .error _ => false) = true ∧ ((s b).pkgAt 0).svc ≠ 0) ∧
    ((parseMma false (some oneB) ((s a).desc 0)).map (fun m => (m.arow, m.base, m.kb, m.ascl)) = some (3, 0x5F_FFE0, 32, false) ∧ (s a).window.2 = 4) ∧
    (parsePat ((s (pdesc 2 3 (4 * 8192 - 4) 1 1 1 0)).desc 0) [2] = some (pat 2 4 (4 * 8192 - 4) 1 1 1 0) ∧
      LocalPattern (s []) (pat 2 4 (4 * 8192 - 4) 1 1 1 0) 0 1) ∧
    (bits (nth ((s [0, 0, 0xFFFF_FFFF, 1]).desc 0) 2 (0 : Word)) 63 32 = 0 ∧ bits (nth ((s [0, 0, 0xFFFF_FFFF, 1]).desc 0) 3 (0 : Word)) 63 1 = 0) ∧
    (parsePat [BitVec.ofNat 64 (2 ^ 61 + 3 * 2 ^ 57 + 0x5F_FFE8), 0, 0, 0] [1] = some { pat 1 4 0x5F_FFE8 0 0 0 0 with e0 := 0 } ∧ 0x5F_FFE8 + 4 * 5 + 4 = 0x60_0000) ∧
    (parsePat ((s (pdesc 1 2 0x5F_FFFC 2 1 1 (2 ^ 20 + 2046 * 2 ^ 9 + 3))).desc 0) [1, 3] = some (pat 1 2 0x5F_FFFC 2 1 1 (2 ^ 20 + 2046 * 2 ^ 9 + 3)) ∧
      (moutFmt (bits (pat 1 2 0x5F_FFFC 2 1 1 (2 ^ 20 + 2046 * 2 ^ 9 + 3)).aux 21 20)).map Prod.snd = some 2) :=
  ⟨fun _ => rfl, engine_put _ _ _ _ _ _ (.inr rfl) (by decide +kernel), by decide +kernel, by decide +kernel, ⟨by decide +kernel, local_of (by decide +kernel)⟩,
    by decide +kernel, by decide +kernel, by decide +kernel⟩

theorem test_witness_PinwheelWords :
    let s := fun (l : List Word) => put (withDesc l []) .W (engineJob .W)
    let p := pat 1 8 0x5F_FFF0 2 1 1 510
    let x : Word := BitVec.ofNat 64 (2 ^ 26 + 2 * 2 ^ 24 + 7 * 2 ^ 21 + 2 ^ 20 + 2 ^ 16)
    let c := put (withDesc [x, 0, 0, 0] []) .W { engineJob .W with
      sw := (engineJob .W).sw.set 0 ⟨some (.V, .W), [.beat (List.replicate 1024 0), .mark]⟩ |>.set 7 ⟨some (.W, .V), List.replicate 6 .mark⟩ }
    EngineReady (s []) (engineJob .W) (some .W) .pinwheel (some 0) ∧
    (parsePat ((s (pdesc 1 4 0x5F_FFF0 2 1 1 510)).desc 0) [0, 1] = some p ∧ LocalPattern (s []) p 0 1 ∧ bits p.aux 8 0 + 1 * p.n = 512 ∧ patchBad 0 = false) ∧
    (parsePat ((s (pdesc 1 3 0x5F_FFF8 2 1 1 510)).desc 0) [0, 1, 3] = some (pat 1 4 0x5F_FFF8 2 1 1 510)) ∧
    (bits (nth ((s [0, 0, 0xFFFFFF, 0]).desc 0) 2 (0 : Word)) 63 24 = 0) ∧
    (bits (0xFFFF : Word) 63 36 = 0 ∧ (match Pinwheel.reset.cycle with
      | .ok _ => true
      | .error _ => false) = true) ∧
    (nth (c.desc 0) 0 (0 : Word) = x ∧ bits x 63 36 = 0 ∧ bits x 25 24 = 2 ∧ x.getLsbD 16 = true ∧ x.getLsbD 20 = true ∧
       bits x 19 17 = 0 ∧ bits x 23 21 = 7 ∧ bits x 15 0 = 0 ∧
       c.beats 0 = [.beat (List.replicate 1024 0), .mark] ∧ (c.beats 7).length ≤ 6 ∧ lanesOk (List.replicate 1024 0) = true ∧
       (match c.pwAt.lanes (List.replicate 1024 0) with
        | .ok p => (match p.cycle with
          | .ok _ => true
          | .error _ => false)
        | .error _ => false) = true) ∧
    (bits (BitVec.ofNat 64 (2 * 8 + 511 * 64) : Word) 63 23 = 0 ∧ bits (BitVec.ofNat 64 (2 * 8 + 511 * 64) : Word) 14 6 + 1 = 512) :=
  ⟨engine_put _ _ _ _ _ _ (.inr rfl) (by decide +kernel), ⟨by decide +kernel, local_of (by decide +kernel), by decide +kernel, by decide +kernel⟩,
    by decide +kernel, by decide +kernel, by decide +kernel, by decide +kernel, by decide +kernel⟩

/-! ### Witnesses: events -/

/-- The world with package 0 changed, and an event's operands. -/
def pkgBut (f : Package → Package) (a : Args) : State := { world with pkgs := [(0, f pkgOn)], arg := a, wall := us 5000 }
/-- The world with tenant 0's area changed, and an event's operands. -/
def tenBut (f : TenantArea → TenantArea) (a : Args) : State := { world with tenants := [(0, f areaOn)], arg := a }

theorem test_witness_BringUpEvents :
    let s := fun (b : Boot) (q : Nat) => pkgBut (fun k => { k with boot := b, quiesce := BitVec.ofNat 2 q, cfgOk := true, rollback := 2, deadline := 1 })
      { data := List.replicate 32 7, idx := 7, img := ⟨2, 0, 0, []⟩ }
    let p := fun (s : State) => s.pkgAt s.evPkg
    let z := fun (b : Bool) => pkgBut (fun k => { k with boot := .pilot, cfgOk := true, svc := 0 })
      { grant := ⟨Vector.replicate 4 (-1), 15, 63, List.replicate 4 ⟨0, 0, 0, []⟩, [], [], b⟩ }
    ((p (z true)).boot = .pilot ∧ (p (z true)).cfgOk = true ∧ (p (z true)).svc = 0 ∧ (z true).arg.grant.trained = true ∧
      (z true).arg.grant.lanes = [] ∧ (z false).arg.grant.trained = false) ∧
    ((p (s .pilot 0)).boot = .pilot ∧ (s .pilot 0).arg.data.length = 32 ∧ 3 ≤ (s .pilot 0).arg.idx ∧ (s .pilot 0).arg.idx ≤ 7) ∧
    ((p (s .full 0)).boot ≠ .pilot ∧ (p (s .full 0)).quiesce = 0) ∧
    ((p (s .full 1)).quiesce = 1 ∧ us (100 * (p (s .full 1)).deadline) ≤ (s .full 1).wall - (p (s .full 1)).stopAt) ∧
    (p (s .full 2)).quiesce = 2 ∧ (p (s .full 3)).quiesce = 3 := by decide +kernel

/-- A die that comes into service, where the signature of its control store, which an opaque constant of the model judges, is accepted:
a tile of it passes, one does not, with no spare left. -/
theorem test_witness_BringUpEvents_dies (h : Config.sm2Verify (sm3 []) 0#512 = true) :
    let g : ServiceGrant := ⟨#v[1, 0, 0, 0], 1, 63, [⟨0#32, sm3 [], 0#512, []⟩], [], [], true⟩
    let k := { pkgOn with spares := #v[0, 8, 8, 8], capt := #v[0, 0, 0, 0] }
    (k.soundDies g).getLsbD 0 = true ∧ (k.dies.getLsbD 0 = false ∧ (vget g.capt 0).getLsbD 0 = true ∧ g.columns = [] ∧ k.columns = [] ∧
      (vget g.capt 0).getLsbD 1 = false ∧ vget k.spares 0 = 0 ∧ (vget k.capt 0).getLsbD 1 = false) := by
  have e : imageSound ⟨0#32, sm3 [], 0#512, []⟩ = true := by
    unfold imageSound
    rw [h, Bool.and_true]
    exact beq_self_eq_true _
  refine ⟨?_, by decide +kernel⟩
  simp [Package.soundDies, storeOk, e, Package.lanesOk, pkgOn, Package.reset, List.range_succ, List.filter]

theorem test_witness_PowerEvents :
    let s := pkgBut (fun k => { k with ceiling := 8 }) { idx := 13, tile := 255 }
    let k := s.pkgAt s.evPkg
    let u := fun (n : Nat) (ok : Bool) => { s with
      pkgs := [(0, { pkgOn with spares := #v[n, n, n, n] })], tiles := [(0, { Tile.reset with testing := true })], arg := { yes := ok } }
    (us k.pcwinNow / 8 ≤ s.wall - k.lastEval ∧ k.ceilingNow < k.ceiling ∧ s.arg.idx < 14 ∧ mget k.lastSample s.arg.idx = none) ∧
    ((s.tileAt s.evTKey).testing = false ∧ s.mayTest s.evPkg s.evTile = true) ∧
    (((u 1 false).tileAt (u 1 false).evTKey).testing = true ∧ (u 1 false).arg.yes = false ∧ (u 1 true).arg.yes = true ∧
      0 < vget ((u 1 false).pkgAt 0).spares (dieOf (u 1 false).evTile) ∧ vget ((u 0 false).pkgAt 0).spares (dieOf (u 0 false).evTile) = 0) := by decide +kernel

/-- The bits of an engine word. -/
def wordOf (i : Instr) : Nat := match encode i with
  | some (.engine w) => w.toNat
  | _ => 0

/-- A matrix stream inside an MMA that began in a droop window of its rail, which is over; one that has
waited for scales since phase 0; an event of a port; and a request on the way from die 0 to the H-die. -/
theorem test_witness_LinkEvents :
    let mem := writeLe [] (blockAddr 0 0 0x44_0000) 8 (wordOf (.mma ⟨none, none, 0, 0, .next, 0⟩))
    let j := { engineJob .M with m := { (engineJob .M).m with pos := some { WordPos.first with suspect := true } } }
    let s := fun (b : Bool) => { put { world with mem := mem, wall := us 5000, pkgs := [(0, { pkgOn with droop := 15 })] } .M j with
      arg := { yes := b, idx := 3, idx2 := railOf .M } }
    let m := { engineJob .M with m := { (engineJob .M).m with starved := some 0 } }
    let w := put { world with mem := mem, wall := us 5000 } .M m
    let r := req .store (mmioBase + 8)
    let l := { run .A (loneJob .A) with reqs := [r], arg := { idx := 4 } }
    ((s true).arg.yes = true ∧ (s true).jobAt (s true).key = some j ∧ ((s true).nextWord (s true).key .M).isSome = true ∧
      j.mayAct .M = true ∧ j.m.pos.isSome = true) ∧
    ((s false).arg.yes = false ∧ (s false).arg.idx2 < 4 ∧ ((s false).pkgAt 0).droop.getLsbD (railOf .M) = true ∧
      engineCycles 64 ≤ (s false).since 0 (vget ((s false).pkgAt 0).droopAt (railOf .M)) ∧
      (s false).suspects 0 (railOf .M) = [⟨0, 0, 0, .M⟩] ∧ w.suspects 0 (railOf .M) = []) ∧
    (w.jobAt w.key = some m ∧ m.m.starved = some 0 ∧ (w.nextWord w.key .M).isSome = true ∧ m.mayAct .M = true ∧ m.sq = [] ∧
      engineCycles 4096 ≤ w.since w.fpkg 0) ∧
    (l.jobAt l.evKey = some (loneJob .A) ∧ (loneJob .A).mayAct .A = true ∧ r.st = .sent ∧ (0, 4) ∈ wayTo 0 (dieOf 0) (l.placeOf r.pa)) := by
  decide +kernel

/-- Tables of tenant 0: page 0 has a read-write leaf that may migrate, page 1 none. -/
def tables : Memory :=
  write64 (write64 (write64 (write64 [] 0x10_0000 0x10_2001) 0x10_2000 0x10_4001) 0x10_4000 0x10_6001) 0x10_6000 0x2_1073
def areaTab : TenantArea := { areaOn with troot := 0x10_0001 }
def areaRunning : TenantArea := { areaTab with tctl := setTstate 1 1 }
def tabled : State := { world with mem := tables, tenants := [(0, areaTab)] }

/-- A migration of page `va` to `frame` with a placement. -/
def mig (va frame pl : Nat) : Vector Word 4 := #v[BitVec.ofNat 64 (va + pl * 2 ^ 8), BitVec.ofNat 64 frame, 0, 0]

theorem test_witness_TranslationEvents :
    let s := { tenBut id { idx := 31, val := 0x20, tenant := 0 } with pkgs := [(0, pkgOn)] }
    let l := { s with pkgs := [(0, { pkgOn with hbmLocked := true })] }
    let w := { tabled with arg := { val := 0, walker := .core 255 } }
    let b := { s with reqs := [req .store 0x2_0000] }
    (s.translatedGone 0 0 = true ∧ b.translatedGone 0 0 = false ∧ s.arg.val ≠ 0 ∧ s.arg.idx < 32 ∧ (s.pkgAt s.evPkg).hbmLocked = false ∧
      bits s.arg.val 5 0 ≤ 32) ∧
    ((l.pkgAt l.evPkg).hbmLocked = true ∧ 32 < bits (33 : Word) 5 0) ∧
    (w.arg.walker = .core 255 ∧ (match (w.translate 0 255 .core 0 0 0).2 with
      | .ok _ p => p == 0x2_0000
      | _ => false) = true) := by decide +kernel

/-- A request that queues, a malformed one, one whose leaf is absent, one that starts, one that completes, one whose page is in use still
and one whose leaf has changed. -/
theorem test_witness_MigrationEvents :
    let m : Migration := ⟨0, mig 0 0x3_0000 0, false, 0, none, false, none⟩
    let n : Migration := { m with dw := mig 0x1_0000 0x3_0000 0 }
    let c : Migration := { m with leaf := some (0x2_1073, 0x10_6000) }
    let d : Migration := { m with leaf := some (0x2_1077, 0x10_6000) }
    let s := fun (q : List Migration) => { tabled with wall := us 1, pkgs := [(0, { pkgOn with migQueue := q, linkUp := true })] }
    let b := { s [c] with reqs := [req .store 0x2_0000] }
    (areaRunning.isOff = false ∧ ((s []).pkgAt 0).linkUp = true ∧ ((s []).pkgAt 0).held = []) ∧
    (migFormOk (mig 0 0x3_0000 0) = true ∧ paPkg (migFrame (mig 0 0x3_0000 0)) = 0 ∧ migPlacement (mig 0 0x3_0000 0) / 4 ≠ 3 ∧
      (tabled.pkgAt 0).pinned = [] ∧ migFormOk (mig 1 0 0) = false) ∧
    (((s [n]).migWalk 0 0 (migVa n.dw)).leafOf 0 0 (migVa n.dw) = none ∧ n.leaf = none ∧ n.ended = none ∧ n.arrived < (s [n]).cycle 0) ∧
    (((s [m]).migWalk 0 0 (migVa m.dw)).leafOf 0 0 (migVa m.dw) = some (0x2_1073, 0x10_6000, 0) ∧ bits (0x2_1073 : Word) 12 12 = 1 ∧
      bits (0x2_1073 : Word) 3 2 ≠ 2 ∧ bits (0x2_1073 : Word) 11 10 ≠ 3 ∧ paPkg (leafFrame 0x2_1073) = 0 ∧
      ((s [m]).migWalk 0 0 (migVa m.dw)).frameOk 0 (migFrame m.dw) 0 0 = true) ∧
    (c.ended = none ∧ bits (0x2_1073 : Word) 3 2 = 0 ∧ (s [c]).oldFrameQuiet 0 0 (leafFrame 0x2_1073) (pageBytes 0) = true ∧
      b.oldFrameQuiet 0 0 (leafFrame 0x2_1073) (pageBytes 0) = false) ∧
    (read64 (s [{ c with inplace := true }]).mem 0x10_6000 = 0x2_1073 ∧ (s [d]).oldFrameQuiet 0 0 (leafFrame 0x2_1077) (pageBytes 1) = true ∧
      read64 (s [d]).mem 0x10_6000 ≠ 0x2_1077) := by decide +kernel

/-- BAR windows of tenant 0: window 0 writable, onto page 0; window 1 read only, onto page 1. -/
def bars : Vector Word 16 := (Vector.replicate 16 0).set 0 1 |>.set 1 3 |>.set 2 0x1_0001 |>.set 3 0x1_0001
def barred : State :=
  { tabled with
    pkgs := [(0, { pkgOn with linkUp := true, held := [⟨0, false, false, false, 0, 0, 8, [], 0⟩, ⟨0, false, true, true, 0x1_0000, 0x1_0000, 8, [1], 0⟩] })]
    tenants := [(0, { areaTab with tctl := setTstate 1 1, txctl := 0x100, hostFaults := [5], hwin := bars })]
    wall := us 1000 }

def served (r : HostRes) : Bool := match r with
  | .done _ _ => true
  | _ => false
def isAbsent (r : HostRes) : Bool := match r with
  | .absent _ => true
  | _ => false

theorem test_witness_HostEvents :
    let a := barred.tenAt 0 0
    let free : State := { barred with pkgs := [(0, { pkgOn with linkUp := true })] }
    let waits := fun (r : HostRes) => match r with
      | .wait _ => true
      | _ => false
    let busy : State := { barred with pkgs := [(0, { pkgOn with linkUp := true, busyPages := [(0, 0)], held := [⟨0, true, true, false, 0x28, 1, 8, [], 0⟩] })] }
    a.hostFaults = [5] ∧ (tabled.tenAt 0 0).hostFaults = [] ∧ (barred.pkgAt 0).linkUp = true ∧ a.tstate ≠ 0 ∧ bits a.txctl 8 8 = 1 ∧
    a.hostWindow 0xFFFF = some (0, 1, 3) ∧ a.hostWindow 0x1_0000 = some (1, 0x1_0001, 0x1_0001) ∧ a.hostWindow 0x2_0000 = none ∧
    (0x1_0001 : Word).getLsbD 1 = false ∧ ((barred.pkgAt 0).held.any (fun h => !h.mmio && h.tenant.toNat == 0) = true ∧ (free.pkgAt 0).held.any (fun h => !h.mmio && h.tenant.toNat == 0) = false) ∧
    served (free.hostPerform 0 0 true 0xFFF8 8 [1]) = true ∧ waits (busy.hostPerform 0 0 false 0 8 []) = true ∧
    isAbsent (free.hostPerform 0 0 true 0x1_0000 8 [1]) = true ∧ served (barred.hostPerform 0 0 false 0 8 []) = true ∧
    isAbsent (barred.hostPerform 0 0 true 0x1_0000 8 [1]) = true ∧
    ((barred.pkgAt 0).held.map HeldAccess.absent = [false, true] ∧
      ({ pkgOn with held := [⟨0, false, true, false, 0x1_0000, 0x1_0000, 8, [1], 0⟩] } : Package).heldTurn 0 = true) ∧
    (barred.pkgAt 0).heldTurn 0 = true ∧ (barred.pkgAt 0).heldTurn 1 = false ∧ (busy.pkgAt 0).heldTurn 0 = true ∧
    us 1000 ≤ barred.wall - 0 ∧ barred.wall - barred.wall < us 1000 := by decide +kernel

theorem test_witness_RegionEvents :
    let node := fun (freed : Bool) => (⟨0x300, true, 0, 0x1180, true, freed⟩ : CaLine)
    let d := { lines with first := 0x20_0001, last := 0x30_0000, lines := [⟨0x200, false, 2, 0x1000, false, false⟩, node false] }
    let s := fun (c : CaDomain) (l : List (Nat × BitVec 128)) (m : Memory) => { region with
      mem := m, pkgs := [(0, { pkgOn with ca := [(0, c)], reclaim := l })], tenants := [(0, areaOn)], arg := { val := 0 } }
    let off := { d with st := .off }
    let waits := { d with held := [⟨slotGroup 0x20_0000, .op ⟨0, 0, false⟩, false⟩] }
    let last : CaDomain := { d with lines := [⟨0x100, false, 1, 0x1000, false, false⟩] }
    let one := writeLe [] 0x1180 16 0x200
    let taken := s { d with lines := [⟨0x200, false, 2, 0x1000, false, false⟩, node true] } [] one
    ((s off [] []).caEnableOk 0 off = true ∧ off.pool = 0 ∧ (s { off with first := 0 } [] []).caEnableOk 0 { off with first := 0 } = false ∧ d.st ≠ .off ∧
      ({ (s off [] []) with pkgs := [(0, { pkgOn with svc := 0, ca := [(0, off)] })] } : State).caEnableOk 0 off = true) ∧
    (d.serves = false ∧ waits.serves = true) ∧
    (((s d [(0, 0x300)] one).pkgAt 0).deadAt 0 = [(0, 0x300)] ∧ ((s d [(1, 0x300)] one).pkgAt 0).deadAt 0 = [(1, 0x300)] ∧
      (d.lines.find? (fun y => y.name == 0x300)).isSome = true ∧ ((s d [(0, 0x300)] one).pkgAt 0).owed = [] ∧ d.held = [] ∧
      nodeFields (readBytes [] 0x1180 192) = [] ∧ nodeFields (readBytes one 0x1180 192) = [0x200] ∧ (taken.caDec 0 0 0x200).isSome = true ∧
      (((taken.flushOwed 0 0).caAt 0 0).lines.find? (fun y => y.freed && nameDie y.name == 0 &&
        !((taken.flushOwed 0 0).pkgAt 0).owed.any (fun o => o.dom == 0 && o.node == y.name))) = some (node true)) ∧
    (bits (0x30_0001 : Word) 63 56 = 0 ∧ bits (0x30_0001 : Word) 7 1 = 0 ∧ catenE 0x30_0001 = true ∧ catenE 0x30_0000 = false ∧ d.first.getLsbD 0 = true ∧
      d.lo ≤ catenRoots 0x30_0001 ∧ catenRoots 0x30_0001 + 0x1_0000 ≤ d.hi ∧ d.hi < catenRoots 0x31_0001 + 0x1_0000 ∧ catenRoots 0x1F_0001 < d.lo ∧
      d.displaced (catenRoots 0x30_0001) = [] ∧ bits (2 : Word) 7 1 ≠ 0) ∧
    (((s d [] []).caDropAll 0 0 (rootNames [] (catenRoots 0x20_0001))).isSome = true ∧
      (s last (List.replicate 4096 (0, 0x300)) []).caDropAll 0 0 [0x100] = none ∧ d.slotBusy (catenRoots 0x20_0001) = false ∧
      waits.slotBusy (catenRoots 0x20_0001) = true) :=
  ⟨by decide +kernel, by decide +kernel, by decide +kernel, by decide +kernel, by decide +kernel⟩

theorem calm_none {s : State} {k : Nat} (h : s.jobAt k = none) : Calm s k := fun j e => by rw [h] at e; exact absurd e (by simp)

theorem test_witness_RequestEvents :
    let h := req .store 0x2_0000
    let a := { req .store (apAddr 0 1 0) with reissues := 2 }
    let o := { req (.ldq 3 true) 0x2_0000 with reissues := 3 }
    let w := { req .store 0x2_0000 with reissues := 2, st := .unanswered }
    let s := fun (r : Req) => { world with reqs := [r], arg := { id := 7 }, wall := us 8 }
    let j := { reach .A with st := .frozen }
    let f := fun (c : RespCause) (r : Req) => { put world .A j with
      reqs := [r], arg := { id := 7, cause := c }, wall := us 8, pkgs := [(0, { pkgOn with capt := (Vector.replicate 4 (-1)).set 0 1 })] }
    let again := ((s w).modReq w.id (fun q => { q with sentAt := us 8, reissues := 3, st := .unanswered })).countTile 0
      (fun t => { t with reissue := t.reissue + 1 })
    (((s h).reqAt (s h).arg.id = some h ∧ ((s h).placeOf h.pa).isTile = false) ∧ Calm ((s h).performReq h) 0) ∧
    (((s a).reqAt (s a).arg.id = some a ∧ ((s a).placeOf a.pa).isTile = true ∧ (s a).timedOut a = true ∧ a.reissues < 3) ∧ Calm ((s a).performReq a) 0) ∧
    ((s w).reqAt 7 = some w ∧ (s w).timedOut w = true ∧ again.wayOf w = .through ∧ (world.timedOut h = false)) ∧
    ((f .dataError o).reqAt 7 = some o ∧ (f .dataError o).jobAt o.by_.key = some j ∧ j.jid = o.by_.jid ∧ o.st = .sent ∧
      (∀ a ∈ (f .dataError o).reqs, a.op.isOwn = false ∧ (a.by_ = o.by_ → a.st ≠ .waiting ∧ a.st ≠ .again)) ∧ o.op ≠ .pref ∧
      (f .dataError o).timedOut o = true ∧ o.reissues = 3 ∧ (f .dataError o).mayPerform o = true) ∧
    ((f .protection a).mayPerform a = true ∧ (f .protection a).absent a.pa = true ∧ a.st = .sent) :=
  ⟨⟨by decide +kernel, calm_none (by decide +kernel)⟩, ⟨by decide +kernel, calm_none (by decide +kernel)⟩, by decide +kernel, by decide +kernel,
    by decide +kernel⟩

theorem test_witness_RingEvents :
    let w : Ring := { ring with waiters := [⟨.claim 4, ⟨0, 0, false⟩⟩] }
    let o : Ring := { ring with prods := [], waiters := [⟨.take 1, ⟨0, 0, false⟩⟩] }
    let v : Ring := { ring with claimed := 4, voidRanges := [⟨0, 0, 4⟩] }
    let f : Ring := { ring with taken := 4, tail := 4, claimed := 4, freeRanges := [⟨0, 0, 4⟩] }
    let q := fun (l : BitVec 2) (o i : List Word) => { loneJob .A with nq := #v[⟨some l, i, o⟩, ⟨none, [], []⟩] }
    let s := { world with jobs := [(0, q 1 [5] []), (4, q 3 [] (List.replicate 63 0))] }
    (w.pump1.isSome = true ∧ o.pump1.isSome = true ∧ o.dry = true) ∧
    (∀ r ∈ [v, f], r.st = .active ∧ r.waiters = [] ∧ r.slotsz ≠ 0 ∧ r.lgcount < 16) ∧
    (v.freeRanges = [] ∧ (4 : Nat) ≤ v.slots ∧ ringInv v.slots v.head v.taken (v.tail + BitVec.ofNat 32 4) v.claimed = true) ∧
    (f.voidRanges = [] ∧ ringInv f.slots (f.head + BitVec.ofNat 32 4) f.taken f.tail f.claimed = true) ∧
    (neighbour 0 1 = some 1 ∧ s.tilePresent 0 1 = true ∧ s.nbRoom 4 ((1 : BitVec 2).toNat ^^^ 2) 0 = some 0 ∧ State.reset.tilePresent 0 1 = false) := by
  decide +kernel

/-- A launch record of tag 5, kernel 0, class 2, with two arguments at address 0x800 and its slot at 0x900. -/
def launchDw : Dw8 := #v[BitVec.ofNat 64 (2 * 2 ^ 38 + 5), 0, 0x800, 2, 0x900, 0, 0, 0]
/-- Descriptor 0 at address 0: stream mask A only, bindings zero. -/
def withKernel : Memory := write64 tables 0x2_0008 (BitVec.ofNat 64 (2 ^ 22))
/-- Tenant 0 on, one kernel in its table. -/
def areaRun : TenantArea := { areaTab with tctl := setTstate 1 1, ktlen := 1, ktbase := 0 }
/-- Its launch in flight. -/
def flying : Launch := ⟨5, launchDw, false, [], { loneKernel .A with levels := [] }, 0, false, none, false⟩
/-- A record of kernel 0, tenant 0, class 2. -/
def waiting : QRec := ⟨launchRecord flying 0 [], none, none, 0, true, none⟩

def kernelOk (s : State) : Bool := match s.kernel 0 0 0 with
  | .ok (some _) => true
  | _ => false

/-- A submit into the last place of its queue, into a full one, from the host and to a tenant that is off; a launch that is taken, one
whose descriptor's page is busy, one whose arguments cannot be read, a malformed one and one whose tag is in flight; an expansion. -/
theorem test_witness_LaunchEvents :
    let a := { areaRun with queueJ := List.replicate 31 launchDw, queueS := List.replicate 32 launchDw }
    let up := { pkgOn with linkUp := true }
    let t := fun (dw : Dw8) (k : Word) => { tabled with mem := withKernel, tenants := [(0, { areaRun with queueJ := [dw], ktlen := k })] }
    let s := t launchDw 1
    let busy := { s with pkgs := [(0, { pkgOn with busyPages := [(0, 0)] })] }
    let bad := launchDw.set 6 1
    let far := launchDw.set 2 0x1_0000
    let e := { tabled with tenants := [(0, { areaRun with launches := [flying] })], arg := { idx := 5 } }
    let full := { e with tenants := [(0, { areaRun with launches := [flying], queues := (Vector.replicate 4 []).set 2 (List.replicate 64 waiting) })] }
    (a.tstate = 1 ∧ a.queueJ.length < 32 ∧ 32 ≤ a.queueS.length ∧ up.linkUp = true ∧ up.held = [] ∧ areaOn.isOff = true ∧ areaOn.tstate = 0) ∧
    ((s.tenAt 0 0).nextLaunch = some (false, launchDw) ∧ (s.pkgAt 0).quiesce = 0 ∧ s.statusWaits 0 0 launchDw = false ∧ busy.statusWaits 0 0 launchDw = true ∧
      (s.tenAt 0 0).launch (launchTag launchDw) = none ∧ launchFormOk launchDw = true ∧ launchKernel launchDw < 1 ∧ kernelOk s = true) ∧
    ((match s.peekDwords 0 0 0x800 2 with
      | .ok l => l == [0, 0]
      | _ => false) = true ∧ launchFormOk far = true ∧ (match s.peekDwords 0 0 0x1_0000 2 with
      | .fault _ _ => true
      | _ => false) = true ∧ (match busy.peekDwords 0 0 0x800 2 with
      | .wait => true
      | _ => false) = true ∧ (match busy.kernel 0 0 0 with
      | .wait => true
      | _ => false) = true) ∧
    (launchFormOk bad = false ∧ bits ((t launchDw 0).tenAt 0 0).ktlen 15 0 ≤ launchKernel launchDw ∧
      (({ areaRun with launches := [flying] } : TenantArea).launch (launchTag launchDw)).isSome = true) ∧
    ((e.tenAt 0 0).launch e.arg.idx = some flying ∧ flying.expanded = false ∧ flying.made < flying.kern.records ∧ flying.made + 1 = flying.kern.records ∧
      (e.homeOf 0 flying.kern.levels (iterations flying.kern.levels 0)).isSome = true ∧ (e.tenAt 0 0).hasRoom (launchClass flying.dw) = true ∧
      (full.tenAt 0 0).hasRoom (launchClass flying.dw) = false) ∧
    (let two := { flying with kern := { loneKernel .A with levels := [BitVec.ofNat 64 (2 ^ 62 + 2)] } }
     two.made + 1 < two.kern.records ∧ (e.homeOf 0 two.kern.levels (iterations two.kern.levels two.made)).isSome = true) := by
  decide +kernel

/-- Tenant 1 with a checkpointed job of tile 0, so that the tile is saved before tenant 0 has it. -/
def parkedArea : TenantArea := { areaTab with cktile := 1, frames := [⟨0, loneJob .A, 0, 0, none, 0⟩] }

/-- The record starts, the dispatcher of die 0 having it as its choice; and it waits, where the page of the tile's save is under migration. -/
theorem test_witness_JobEvents_start :
    let a := { areaRun with queues := (Vector.replicate 4 []).set 2 [waiting] }
    let s := { tabled with mem := withKernel, wall := us 1, tiles := [], tenants := [(0, a)] }
    let b := { s with tiles := [(0, { Tile.reset with tenant := some 1 })], tenants := [(0, a), (1, parkedArea)]
                      pkgs := [(0, { pkgOn with busyPages := [(1, 0)], capt := #v[1, 0, 0, 0], c0mask := Vector.replicate 4 0 })] }
    let takes := fun (s : State) => match (s.considered 0 0).choose 0 0 with
      | some (tl, c, k) => c.frame == none && (((s.considered 0 0).setPkg 0 k).takeTenant 0 tl c.u).isSome
      | none => false
    let waits := fun (s : State) => match (s.considered 0 0).choose 0 0 with
      | some (tl, c, k) => c.frame == none && (((s.considered 0 0).setPkg 0 k).takeTenant 0 tl c.u).isNone
      | none => false
    ((s.pkgAt 0).quiesce = 0 ∧ s.arg.idx < 4 ∧ takes s = true) ∧ (b.pkgAt 0).quiesce = 0 ∧ waits b = true := by
  decide +kernel

theorem test_witness_JobEvents :
    let j := { loneJob .A with a := { (loneJob .A).a with fin := true } }
    let d := fun (rs : Word) => { loneJob .A with drain := some 0, qrec := { (loneJob .A).qrec with dw := (Vector.replicate 8 0).set 0 rs } }
    let met := { flying with expanded := true, tag := 0 }
    let s := put { tabled with tenants := [(0, { areaRun with launches := [met] })] } .A { loneJob .A with triggered := true }
    let w := { tabled with tenants := [(0, areaRun)] }
    let e := fun (rs : Word) (n : Nat) => put { tabled with tenants := [(0, { areaRun with ckbase := 1, cktile := 1, ckcount := n })], wall := us 9000 } .A (d rs)
    let q := { loneJob .A with a := { (loneJob .A).a with asked := some ⟨0, 0, 0, 0, 0, [], false⟩ } }
    let past := fun (s : State) => decide (engineCycles (256 * (s.pkgAt 0).drbudget) ≤ s.since 0 0)
    ((run .A j).jobAt 0 = some j ∧ j.allFinished = true ∧ j.st = .running ∧ j.deferred = [] ∧ recJoin j.qrec.dw = 0 ∧ (run .A j).reqs = []) ∧
    AtRest (run .A j) 0 j ∧ ((run .A q).jobAt 0 = some q ∧ q.a.asked.isSome = true ∧ (run .A q).mayWithdraw ⟨0, q.jid, false⟩ = false ∧ q.a.reply = none ∧ q.x.reply = none) ∧
    (let x := { w with tenants := [(0, { areaRun with tctl := setTstate 1 2 })] }
     (x.tenAt 0 0).tstate = 2 ∧ (x.tenAt 0 0).launches = [] ∧ (x.tenAt 0 0).statuses = [] ∧ x.jobsOf 0 0 = []) ∧
    ((run .A j).jobAt 0 = some j ∧ j.drain = none) ∧
    ((s.tenAt 0 0).phases = [] ∧ (s.tenAt 0 0).statuses = [] ∧ met.final = none ∧ s.producersGone 0 0 met = true ∧ (s.jobsOfTag 0 0 0).isEmpty = false) ∧
    ((State.reset.tenAt 0 0).tstate = 0 ∧ (w.tenAt 0 0).tstate = 1 ∧ (w.tenAt 0 0).launches = [] ∧ (w.tenAt 0 0).frames = [] ∧ (w.tenAt 0 0).queueJ = [] ∧
      (w.tenAt 0 0).queueS = [] ∧ (w.tenAt 0 0).statuses = [] ∧ w.jobsOf 0 0 = []) ∧
    (((e 0 1).jobAt 0 = some (d 0) ∧ (d 0).drain = some 0 ∧ (d 0).st = .running ∧ past (e 0 1) = true ∧ ((e 0 1).freeFrame 0 0).isSome = true ∧
      (e 0 1).holdsWrite 0 (d 0) = false ∧ (e 0 0).freeFrame 0 0 = none ∧ recRs (d (2 ^ 32)).qrec.dw = true ∧ recRs (d 0).qrec.dw = false) ∧
      past { e 0 1 with wall := 0 } = false) ∧ AtRest (e 0 1) 0 (d 0) ∧ AtRest (e (2 ^ 32) 0) 0 (d (2 ^ 32)) :=
  ⟨by decide +kernel, atRest_put _ _ _ (by decide +kernel), by decide +kernel, by decide +kernel, by decide +kernel, by decide +kernel, by decide +kernel,
    by decide +kernel, atRest_put _ _ _ (by decide +kernel), atRest_put _ _ _ (by decide +kernel)⟩

/-- Four jobs of class 3 fill the one tile that is present; a class-2 record has waited since time 0, and the last estimate is short. -/
theorem test_witness_JobEvents_preempt :
    let k : Kernel := { loneKernel .A with est := 1 }
    let j := { loneJob .A with cls := 3, kern := k }
    let s : State := { tabled with
      mem := withKernel, jobs := [(0, j), (1, j), (2, j), (3, { j with start := 1 })], wall := us 5000
      pkgs := [(0, { pkgOn with capt := #v[1, 0, 0, 0], c0mask := Vector.replicate 4 0 })]
      tenants := [(0, { areaRun with ptok := 1, queues := (Vector.replicate 4 []).set 2 [waiting] })] }
    s.pressing 0 0 = some (0, waiting) ∧ (s.tenAt 0 0).ptok ≠ 0 ∧
      (match s.preChoice 0 0 (s.preCands 0 0 waiting) with
        | some (d, [(e, .drain)]) => d == e.1 && e.1 == 3
        | _ => false) = true := by decide +kernel

/-- Tables of tenant 0 with one page of 1 GiB, onto itself. -/
def tabled1G : State :=
  { world with
    mem := write64 (write64 (write64 [] 0x10_0000 0x10_2001) 0x10_2000 0x10_4001) 0x10_4000 0x7B
    tenants := [(0, { areaTab with fqbase := 0x200_0001, fqctl := 4, ckbase := 0x300_0001, ckcount := 2, cktile := 1 })] }

def spanOk {α : Type} (r : State × SpanRes α) : Bool := match r.2 with
  | .ok _ => true
  | _ => false

theorem test_witness_FaultEvents_records :
    let r : PendingRec := ⟨Vector.replicate 32 1, none, true⟩
    let a := { (tabled1G.tenAt 0 0) with pending := [r] }
    let s := { tabled1G with tenants := [(0, a)] }
    let sp := { a with fqctl := 0x1_0004 }
    let f := { tabled1G with tenants := [(0, { a with fqbase := 0x8000_0001 })] }
    let q := { a with fqspawn := some (Vector.replicate 8 0, none), queues := (Vector.replicate 4 []).set 0 (List.replicate 64 waiting) }
    (a.pending = [r] ∧ a.fqspawn = none ∧ a.fqopen = true ∧ a.fqctl.getLsbD 16 = false ∧ sp.fqctl.getLsbD 16 = true ∧ sp.fqopen = true ∧
      bits a.fqbase 55 8 * 256 = 0x200_0000 ∧ spanOk (s.spanWrite (agent 0 0) 0x200_0000 (dwordBytes [1]) .store) = true) ∧
    (spanOk (f.spanWrite (agent 0 0) 0x8000_0000 (dwordBytes [1]) .store) = false ∧ (State.reset.tenAt 0 0).fqopen = false ∧
      (State.reset.tenAt 0 0).fqspawn = none) ∧ q.hasRoom (recClass (Vector.replicate 8 0)) = false := by decide +kernel

theorem test_witness_FaultEvents_jobs :
    let f : FaultInfo := ⟨.trap, 5, .A, 0, none⟩
    let j := { loneJob .A with st := .freezing, freeze := some f }
    let x := { loneJob .X with st := .freezing, freeze := some f, astop := some 0 }
    let z := { loneJob .A with st := .frozen, freeze := some f }
    let s := put { State.reset with wall := us 5000 } .X x
    ((run .A j).jobAt 0 = some j ∧ j.freeze = some f ∧ j.astop = none) ∧ AtRest (run .A j) 0 j ∧
    (s.jobAt 0 = some x ∧ x.x.stopped = false ∧ s.xTimeUp 0 x = true) ∧
    ((run .A z).jobAt 0 = some z ∧ z.deferred = [] ∧ z.insideWord = false ∧ z.a.h = false ∧ z.x.h = false) ∧ AtRest (run .A z) 0 z :=
  ⟨by decide +kernel, atRest_put _ _ _ (by decide +kernel), by decide +kernel, by decide +kernel, atRest_put _ _ _ (by decide +kernel)⟩

/-- A checkpoint into frame 0, and the frame of a checkpointed job laid back into slot 0. -/
theorem test_witness_FaultEvents_checkpoint :
    let j := { loneJob .A with st := .checkpointing }
    let s := put tabled1G .A j
    let f : Frame := ⟨1, loneJob .A, 0, 0, none, 0⟩
    let r := { tabled1G with tenants := [(0, { tabled1G.tenAt 0 0 with tctl := setTstate 1 1, frames := [f] })], arg := { id := 1 } }
    let back := fun (s : State) => match (s.considered 0 0).choose 0 0 with
      | some (tl, c, k) => c.u == 0 && c.frame == some 1 && (((s.considered 0 0).setPkg 0 k).tenAt 0 0).frames == [f] &&
        (match ((s.considered 0 0).setPkg 0 k).takeTenant 0 tl 0 with
          | some s => spanOk (s.getArea (agent 0 0) ((s.tenAt 0 0).frameAt 1) (framePages f.job))
          | none => false)
      | none => false
    let b := s.tenAt 0 0
    (s.jobAt 0 = some j ∧ s.circuits = [] ∧ (List.range b.ckcount).find? (fun i => !(b.frames.map Frame.idx).contains i) = some 0 ∧
      spanOk ((s.setJob 0 j).take.2.putArea (agent 0 0) (b.frameAt 0) (framePages j) ((s.setJob 0 j).frameOf 0 j none)) = true) ∧ AtRest s 0 j ∧
    ((r.tenAt 0 0).frames.find? (fun f => f.idx == r.arg.id) = some f ∧ (r.pkgAt 0).quiesce = 0 ∧ back r = true) ∧
    (let o := { r with tenants := [(0, { tabled1G.tenAt 0 0 with tctl := setTstate 1 1, frames := [{ f with idx := 0 }, f] })] }
     (o.tenAt 0 0).frames.find? (fun f => f.idx == o.arg.id) = some f ∧ (match (o.considered 0 0).choose 0 0 with
      | some (_, c, _) => c.frame != some 1
      | none => false) = true) :=
  ⟨by decide +kernel, atRest_put _ _ _ (by decide +kernel), by decide +kernel, by decide +kernel⟩

/-- A word of zeros, a program counter past the end, and an engine word of no encoding. -/
theorem test_witness_FaultEvents_words :
    let j := { loneJob .A with a := { (loneJob .A).a with pc := 0x4_0000 } }
    let e := { loneJob .V with v := { (loneJob .V).v with pc := 16384 } }
    Steady (run .A (loneJob .A)) (loneJob .A) ∧ Steady (run .A j) j ∧
    ((match (run .A (loneJob .A)).fetchHere (loneJob .A) with
      | .fail .illegal none => true
      | _ => false) = true ∧
     (match (run .A j).fetchHere j with
      | .fail .localRange (some v) => v == 0x4_0000
      | _ => false) = true ∧
     (match (run .V e).engineFetch 0 0 (e.eng .V) with
      | .fail .localRange _ => true
      | _ => false) = true) :=
  ⟨steady_put _ _ _ (by decide +kernel), steady_put _ _ _ (by decide +kernel), by decide +kernel⟩

theorem test_witness_CircuitEvents :
    let c := { circ9 with words := [[(0, 5)]], next := 0x10C }
    let g := { c with flow := some 4 }
    let d := { c with next := 0x110 }
    let l := { circ9 with leaseEnd := 0 }
    let n := { circ9 with signal := some 3, notice := some (1, 8), sent := 8, delivered := 8 }
    let s := fun (c : Circuit) (b : Bool) => { circuits with circuits := [c], arg := { id := 9, yes := b } }
    ((s c true).circ 9 = some c ∧ c.alive = true ∧ c.flow = none ∧ c.next + 4 * 1 ≤ c.stop ∧ d.stop < d.next + 4 ∧ g.flow.isSome = true) ∧
    (c.words ≠ [] ∧ (s c false).arg.yes = false ∧ (s c false).expired c = false) ∧ (l.words = [] ∧ (s l true).expired l = true) ∧
    (n.signal = some 3 ∧ n.notice = some (1, 8) ∧ (s n true).reaches n.dstPkg (keyPkg n.src) = true ∧ (s n true).inFrame n.srcJid = false ∧
      ({ (s n true) with pkgs := [(0, pkgOn), (1, { pkgOn with boot := .poweredOff })] } : State).reaches 0 1 = false ∧ n.sent = n.delivered ∧ n.flow = none) ∧
    ({ n with flow := some 4, sent := 9 } : Circuit).sent ≠ n.delivered := by decide +kernel

/-- Flows between two tiles of the package; tenant 0's entry with both participants ready, and one in flight. -/
theorem test_witness_FlowEvents :
    let f : Flow := ⟨4, 0, 0, 0, 9, 0, 0x10_0000, 1, ⟨0, 0, false⟩, 0, true, .metered⟩
    let s := fun (st : FlowState) (w : Nat) => { world with flows := [{ f with st := st }], arg := { id := 4 }, wall := w }
    let c := flowCirc 8 f []
    let p := { s .probing 0 with circuits := [c] }
    let cut := { s .metered 0 with tiles := [], pkgs := [(0, pkgOn)], circuits := (List.range 32).map (fun i =>
      { circ9 with id := i, links := [⟨0, 0, 0, i⟩, ⟨0, 0, 1, i⟩, ⟨0, 0, 2, i⟩, ⟨0, 0, 3, i⟩, ⟨0, 0, 4, i⟩, ⟨0, 0, 5, i⟩] }) }
    let dom := fun (e : Domino) => { dominoes with tenants := [(0, { circArea with domino := [(0, e)] })] }
    ((s .metered 0).windowOver 0 0 = false ∧ (s .metered (us 5000)).windowOver 0 0 = true) ∧
    ((s .metered 0).flowAt 4 = some f ∧ (s .metered 0).mayProbe f = true ∧ ((s .metered 0).probe 0 0 0 9 1).2.isSome = true ∧
      (cut.probe 0 0 0 9 1).2 = none) ∧
    (p.circuits.find? (fun c => c.flow == some 4 && c.alive) = some c) ∧
    ((0 : Nat) ≤ (s (.holdoff 0) 0).phase 0 ∧ ({ f with st := .promoted 8 } : Flow).circuited = true ∧
      (s (.promoted 8) (us 5000)).passed 0 f.lastSent ((s .probing 0).pkgAt 0).fmidle = true ∧ c.flow = some 4 ∧ c.unsettled = false ∧
      ({ c with alive := false, sent := 1, delivered := 0 } : Circuit).unsettled = true) ∧
    (let e := { domino with readies := [0, 1] }
     (dom e).domAt 0 0 0 = e ∧ e.v = true ∧ e.malformed ((dom e).pkgAt 0).d = false ∧ e.rpkg = 0 ∧ e.inflight = false ∧
      (∀ k ∈ e.participants ((dom e).pkgAt 0).d, k ∈ e.readies) ∧ e.op = 6 ∧ e.peers ((dom e).pkgAt 0).d = [0] ∧ e.count = 1 ∧
      (let t := (dom { e with inflight := true, readies := [], failing := false })
       t.copyFault 0 0 0 = none ∧ t.reaches 0 0 = true ∧
        t.seqFault 0 0 e.rtile e.sbase 4 permR = none ∧ t.seqFault 0 0 e.ptile e.dbase 4 permW = none ∧
        (t.generation 0 0 e).2 = none)) ∧
    ({ domino with inflight := true } : Domino).rpkg = 0 := by decide +kernel

theorem test_witness_HostLinkEvents :
    let a := { areaRun with sqbase := 64, sqtail := 15, signals := [(0x40, 7, 0)], vpend := 0x8000, heldMsgs := [(3, 0)] }
    let f := { a with sqtail := 16 }
    let up := { pkgOn with linkUp := true }
    let s := { world with pkgs := [(0, up)], tenants := [(0, a)], arg := { idx := 15 } }
    let h : HeldAccess := ⟨0, false, true, true, 0, 0, 8, [1], 0⟩
    let b := { s with pkgs := [(0, { up with held := [h] })] }
    let d := { world with pkgs := [(0, { pkgOn with linkUp := false, linkDownAt := 0 })], wall := us 1000, tenants := [(0, a)] }
    ((s.pkgAt 0).linkUp = true ∧ (s.tenAt 0 0).signals = [(0x40, 7, 0)] ∧ a.sqctl.getLsbD 8 = false ∧ bits a.sqbase 63 6 * 64 ≠ 0 ∧
      (a.sqtail - a.sqhead).toNat ≠ 2 ^ a.sqcap ∧ (f.sqtail - f.sqhead).toNat = 2 ^ f.sqcap) ∧
    ((d.pkgAt 0).linkUp = false ∧ decide (d.wall - 0 < us 1000) = false) ∧
    (areaOn.isOff = true ∧ a.isOff = false ∧ s.arg.idx < 16 ∧ a.msixMask.getLsbD 15 = true ∧ a.vpend.getLsbD 15 = true ∧ (s.pkgAt 0).held = [] ∧
      (∀ i < 16, mget a.vraise i = none)) ∧
    (h ∈ (b.pkgAt 0).held ∧ h.write = true ∧ h.tenant.toNat = 0) := by decide +kernel

def isOkMmio (r : MmioRes) : Bool := match r with
  | .ok _ _ => true
  | _ => false

theorem test_witness_MmioEvents :
    let r := mmioBase + 0x300_0000 + 255 * 0x1000
    let j := { loneJob .A with st := .frozen }
    let s := run .A j
    (Level.sup.geb .sup = true ∧ Level.job.geb .sup = false ∧ MemoryCanonical s) ∧
    (s.jobAt 0 = some j ∧ (run .A (loneJob .A)).jobAt 0 = some (loneJob .A) ∧ trapvOk 0x005F_FF00_0003_FFFD = true) ∧
    (r % 8 = 0 ∧ isOkMmio (world.mmioWrite r 8 0x1234_5678 .sup) = true ∧ world.region r = .hmmio (0x300_0000 + 255 * 0x1000) ∧
      hreg (0x300_0000 + 255 * 0x1000) = .ktbase 255 ∧ hreg (0x300_0000 + 255 * 0x1000 + 40) = .tquant 255 ∧
      (hreg (0x300_0000 + 255 * 0x1000)).access.mayWrite .job = false) :=
  ⟨⟨by decide +kernel, by decide +kernel, show Memory.wf _ = true by decide +kernel⟩, by decide +kernel, by decide +kernel⟩

/-! ### Witnesses: the whole machine -/

/-- A NOP at slot 0's program counter 0, moved by the turn list and by what is left of a round; an engine word; an event; time alone. -/
theorem test_witness_StepRuns :
    let p := State.reset.withFetchWord 32 1
    let at_ := fun (r : List Turn) (t : List Turn) => { p with round := r, turns := t }
    let e := put { State.reset with mem := writeLe [] (blockAddr 0 0 0x44_0000) 8 (wordOf (.vst ⟨none, none, 0, 0, .next, 0⟩)) } .V (loneJob .V)
    let id : StreamId := ⟨0, 0, 0, .A⟩
    (∃ j, p.jobAt 0 = some j ∧ j.mayAct .A = true ∧ (j.core .A).pc = 0 ∧ p.litTag 0 0 0 = false ∧ decode (p.imem 0 0 0) (.word (p.litTag 0 0 4) (p.imem 0 0 4)) = .ok .nop) ∧
    (((at_ [] [.stream id]).nextMove.1 = .stream id ∧ (Turn.stream id).ends = true) ∧ ((at_ [.streamIn id] []).nextMove.1 = .streamIn id ∧ (Turn.streamIn id).ends = false)) ∧
    ((at_ [] [.event .flitNackReplay {}]).nextMove.1 = .event .flitNackReplay {} ∧ (at_ [.eventIn .flitNackReplay {}] []).nextMove.1 = .eventIn .flitNackReplay {} ∧
      (at_ [] [.elapse 3]).nextMove.1 = .elapse 3) ∧
    ((loneJob .V).mayAct .V = true ∧ ((loneJob .V).eng .V).load = none ∧ ((loneJob .V).eng .V).pos = none ∧
      (decodeEngine (BitVec.ofNat 48 (readLe e.mem (blockAddr 0 0 0x44_0000) 8))).toOption.isSome = true) ∧
    (encode .flitNackReplay = none ∧ Args.wf .flitNackReplay {} = true) := by
  refine ⟨⟨loneJob .A, by decide +kernel⟩, by decide +kernel, by decide +kernel, by decide +kernel, by decide +kernel⟩

theorem test_witness_CodecRoundTrip :
    Instr.wf (.addi 63 63 (-1)) = true ∧ decode 0x1030FFFF .outside = .ok (.addi 3 3 (-1)) ∧
    (∃ x, decode 0xF4400180 (.word true x) = .ok (.perfrd 4 (.lit .zext x))) ∧ ∃ i, decodeEngine 0x41AD01001803 = .ok i :=
  ⟨by decide +kernel, rfl, ⟨1, rfl⟩, _, rfl⟩

theorem test_witness_CanonicalMemoryKept :
    let s := State.reset.withFetchWord 32 1
    MemoryCanonical s ∧ (match step s with
      | .next t => t.wall != s.wall
      | _ => false) = true :=
  ⟨show Memory.wf _ = true by decide +kernel, by decide +kernel⟩

/-- The store's last place, and an allowed result register. -/
theorem test_witness_Frames :
    let j := job .A [(1, 0x5F_FFF8)]
    Sound (run .A j) ∧ (run .A j).jobAt (run .A j).key = some j ∧ Ready (run .A j) j ∧ Allowed ((run .A j).core j) (63 :: 1 :: 2 :: opdRegs (.reg 3)) ∧
      (((run .A j).core j).reg 1 + BitVec.ofInt 64 ((0 : BitVec 11).toInt * storeBytes .d)).toNat = 0x5F_FFF8 :=
  ⟨rfl, job_put _ _ _, ready_put _ _ _ (by decide +kernel), allowed_put _ _ _ _ (by decide +kernel), by decide +kernel⟩

end Sys2Proof.Tests
end

section
/-!
SUPPORT. One step of the machine runs what its bytes name (00 R6; 08 R196, R202, R209; 11 R280): an equation per kind of move,
the fetch of a core and of an engine stream, and O56.
-/

namespace Sys2Proof.Machine

/-! ### Which move comes next (log 2) -/

/-- The move at the end of a cycle is the same whether it is named as such or taken out of a cycle and put back. -/
theorem Turn.last_within {m : Turn} (h : m.ends = true) : m.within.last = m := by
  cases m with
  | stream | event | elapse => rfl
  | _ => cases h

theorem cycleOf_ends {m : Turn} (h : m.ends = true) (l : List Turn) : cycleOf (m :: l) = ([m], l) := by
  simp [cycleOf, h]

theorem orderCycle_single (s : State) {m : Turn} (h : m.ends = true) : s.orderCycle [m] = [m] := by
  simp [State.orderCycle, sortBy, insertBy, h, Turn.last_within h]

theorem nextMove_round {s : State} {m : Turn} {l : List Turn} (h : s.round = m :: l) :
    s.nextMove = (m, { s with round := l }) := by
  simp [State.nextMove, h]

theorem nextMove_turns {s : State} {m : Turn} {rest : List Turn} (hr : s.round = []) (ht : s.turns = m :: rest)
    (he : m.ends = true) : s.nextMove = (m, { s with turns := rest }) := by
  simp [State.nextMove, hr, ht, cycleOf_ends he, orderCycle_single _ he, State.beginCycle]

theorem step_of_nextMove {s base : State} {m : Turn} (h : s.nextMove = (m, base)) : step s = base.move m := by
  simp [step, h]

/-! ### What a move runs -/

/-- A move that leaves the state `t` leaves it one core cycle later where the move ends its cycle. -/
theorem ticked_next (ends : Bool) (p : Nat) (t : State) :
    ticked ends p (.next t) = .next (if ends then { t with wall := t.wall + t.corePer p } else t) := rfl

theorem ticked_false (p : Nat) (o : Host.Outcome State Fault Refusal) : ticked false p o = o := by
  cases o <;> rfl

theorem move_streamTurn {s : State} {m : Turn} {id : StreamId} (h : m = if m.ends then .stream id else .streamIn id) :
    s.move m = ticked m.ends id.pkg.toNat ({ s with focus := id }).streamMove := by
  cases he : m.ends with
  | true => rw [he, if_pos rfl] at h; rw [h]; rfl
  | false => rw [he, if_neg Bool.false_ne_true] at h; rw [h, ticked_false]; rfl

theorem move_eventTurn {s : State} {m : Turn} {i : Instr} {a : Args} (h : m = if m.ends then .event i a else .eventIn i a) :
    s.move m = ticked m.ends a.pkg.toNat (s.eventMove i a) := by
  cases he : m.ends with
  | true => rw [he, if_pos rfl] at h; rw [h]; rfl
  | false => rw [he, if_neg Bool.false_ne_true] at h; rw [h, ticked_false]; rfl

theorem eventMove_fits {s : State} {i : Instr} {a : Args} (he : Instr.isEvent i = true) (hw : a.wf i = true) :
    s.eventMove i a = exec i { s with arg := a } := by
  simp [State.eventMove, he, hw]

theorem isEvent_iff (i : Instr) :
    Instr.isEvent i = true ↔ encode i = none ∧ i ≠ .illegalInstruction ∧ i ≠ .engineDecodeFailure := by
  simp [Instr.isEvent, and_assoc]

/-! ### What a stream fetches -/

theorem coreFetch_run {s : State} {p t pc : Nat} {i : Instr} (hpc : pc < 0x4_0000) (hl : s.litTag p t pc = false)
    (hd : decode (s.imem p t pc) (s.litAfter p t pc) = .ok i) : s.coreFetch p t pc = .run i := by
  simp [State.coreFetch, Nat.not_le.mpr hpc, hl, hd]

theorem engineFetch_run {s : State} {p t : Nat} {e : Engine} {i : Instr} (hpos : e.pos = none) (hpc : e.pc < 16384)
    (hd : decodeEngine (s.emem p t e.pc) = .ok i) : s.engineFetch p t e = .run i := by
  simp [State.engineFetch, hpos, Nat.not_le.mpr hpc, hd]

theorem streamMove_core {s : State} {j : Job} {i : Instr} (hj : s.jobAt s.key = some j) (hm : j.mayAct s.focus.kind = true)
    (hc : s.focus.kind.isCore = true) (hf : s.fetchHere j = .run i) : s.streamMove = exec i s := by
  simp [State.streamMove, hj, hm, hc, State.coreTurn, hf]

theorem settles_none {e : Engine} (hp : e.push = none) (he : e.ending = false) (ht : e.threshold = none) : e.settles = false := by
  simp [Engine.settles, hp, he, ht]

/-- An engine stream with no load under way and nothing to settle runs the word it fetches. -/
theorem engineTurn_word {s : State} {j : Job} {i : Instr} (hl : (j.eng s.focus.kind).load = none)
    (hs : (j.eng s.focus.kind).settles = false) (hf : s.engineFetch s.fpkg s.ftile (j.eng s.focus.kind) = .run i) :
    s.engineTurn j = exec i s := by
  simp [State.engineTurn, hl, hs, hf]

theorem streamMove_engine {s : State} {j : Job} (hj : s.jobAt s.key = some j) (hm : j.mayAct s.focus.kind = true)
    (hc : s.focus.kind.isCore = false) : s.streamMove = unfrozen s.key (s.engineTurn j) := by
  simp [State.streamMove, hj, hm, hc]

/-! ### The obligation -/

/-- Settles O56: the move in hand is a stream's, an event's or time passing, and each has its equation. -/
theorem stepRuns : Obligations.StepRuns := by
  unfold Obligations.StepRuns
  intro s
  refine ⟨fun m l => nextMove_round, fun m rest => nextMove_turns, fun m base hnext => ?_⟩
  have hstep : step s = base.move m := step_of_nextMove hnext
  refine ⟨fun id j hm hj hact => ⟨?core, ?engine⟩, ?event, ?elapse⟩
  case core =>
    intro i hc _ _ hpc hl hd t ht
    have hf : State.fetchHere { base with focus := id } j = .run i := coreFetch_run hpc hl hd
    rw [hstep, move_streamTurn hm, streamMove_core hj hact hc hf, ht, ticked_next]
  case engine =>
    intro i hc _ hload hpush hend hthr hpos hpc hd t1 hexec t ht
    have hword : State.engineTurn { base with focus := id } j = exec i { base with focus := id } :=
      engineTurn_word hload (settles_none hpush hend hthr) (engineFetch_run hpos hpc hd)
    rw [hstep, move_streamTurn hm, streamMove_engine hj hact hc, hword, hexec]
    cases ht
    exact ticked_next _ _ _
  case event =>
    intro i a hm hevent hwf t ht
    rw [hstep, move_eventTurn hm, eventMove_fits ((isEvent_iff i).mpr hevent) hwf, ht, ticked_next]
  case elapse =>
    rintro n rfl
    exact hstep

end Sys2Proof.Machine
end

section
/-!
SUPPORT. What reset leaves, and O54.
-/

namespace Sys2Proof.Machine

theorem reset_jobAt (k : Nat) : State.reset.jobAt k = none := rfl
theorem reset_tileAt (k : Nat) : State.reset.tileAt k = Tile.reset := rfl
theorem reset_tenAt (p u : Nat) : State.reset.tenAt p u = TenantArea.resetFor u := rfl
theorem reset_pkgAt (p : Nat) : State.reset.pkgAt p = Package.reset := rfl
theorem reset_ringAt (k i : Nat) : State.reset.ringAt k i = Ring.reset := rfl
theorem reset_caAt (p d : Nat) : State.reset.caAt p d = CaDomain.reset := rfl

theorem reset_cycle (p : Nat) : State.reset.cycle p = 0 := by
  have hphase : State.reset.phase p = 0 := rfl
  rw [State.cycle, hphase, Nat.zero_div]

theorem resetFor_tstate (u : Nat) : (TenantArea.resetFor u).tstate = 0 := by
  have htctl : (TenantArea.resetFor u).tctl = 0 := rfl
  rw [TenantArea.tstate, htctl]
  decide

/-- Every C-die has its 8 spare tiles (20 R434). -/
theorem reset_spares (d : Nat) : vget Package.reset.spares d = 8 := by
  have hspares : Package.reset.spares = Vector.replicate 4 8 := rfl
  rw [hspares, vget, Vector.getElem_replicate]

/-- Settles O54: no part of the state is listed, so each reads as its reset value, which the rule or the log gives. -/
theorem resetState : Obligations.ResetState := by
  unfold Obligations.ResetState
  refine ⟨rfl, rfl, reset_jobAt, rfl, rfl, rfl, rfl, rfl, fun k i => ?ring, fun k => ?tile, fun p u => ?tenant, fun p => ?package⟩
  case ring => exact reset_ringAt k i ▸ ⟨rfl, rfl, rfl, rfl⟩
  case tile => exact reset_tileAt k ▸ ⟨rfl, rfl, rfl, rfl⟩
  case tenant => exact reset_tenAt p u ▸ ⟨rfl, rfl, rfl, resetFor_tstate u, rfl, rfl, rfl, rfl, rfl, rfl, rfl⟩
  case package =>
    have hca : ∀ d, (State.reset.caAt p d).st = .off := fun d => by rw [reset_caAt]; rfl
    rw [reset_pkgAt]
    exact ⟨reset_cycle p, rfl, rfl, rfl, rfl, rfl, rfl, rfl, rfl, rfl, rfl, rfl, rfl, rfl, rfl, rfl, rfl, rfl, rfl,
      fun d _ => reset_spares d, hca⟩

end Sys2Proof.Machine
end

section
/-!
SUPPORT. Conditional branches (09 R235; 01 R20), and O7.
-/

namespace Sys2Proof.Machine

theorem toNat_relTarget {c : Core} {k t : Int} (ht : c.pc.toNat + 4 * k = t) (h0 : 0 ≤ t) (h1 : t < 0x40000) :
    (relTarget c k).toNat = t.toNat := by
  have hpc := c.pc.isLt
  simp only [relTarget, BitVec.toNat_add, BitVec.toNat_setWidth, BitVec.toNat_ofInt]
  omega

theorem badTarget_none {t : Word} (h0 : t.toNat < 0x40000) (h1 : t.toNat % 4 = 0) : badTarget t = none := by
  simp [badTarget, Nat.not_le.mpr h0, h1]

theorem transfer_ok {s s' : State} {t : Word} (h0 : t.toNat < 0x40000) (h1 : t.toNat % 4 = 0) : transfer s s' t = .goto s' t := by
  simp [transfer, badTarget_none h0 h1]

section
variable {s : State} {j : Job} {a b : Reg} {i : BitVec 10} {cond : Word → Word → Bool}

theorem branch_taken {t : Int} (h : Ready s j) (ha : Allowed (s.core j) [a, b])
    (hc : cond ((s.core j).reg a) ((s.core j).reg b) = true)
    (ht : (s.core j).pc.toNat + 4 * i.toInt = t) (h0 : 0 ≤ t) (h1 : t < 0x40000) (h2 : t % 4 = 0) :
    branch cond a b i s = .next (s.jumped t.toNat) := by
  have he : (relTarget (s.core j) i.toInt).toNat = t.toNat := toNat_relTarget ht h0 h1
  rw [← he]
  refine coreExec_goto h (by simp) ha ?_ rfl h.calm
  rw [if_pos hc]
  exact transfer_ok (by omega) (by omega)

theorem branch_not_taken (h : Ready s j) (ha : Allowed (s.core j) [a, b])
    (hc : cond ((s.core j).reg a) ((s.core j).reg b) = false) : branch cond a b i s = .next (s.retired 4) :=
  coreExec_next h (by simp) ha (if_neg (by simp [hc])) rfl h.calm

end

/-- Settles O7: the six branches are one form with a condition each, taken or not taken. -/
theorem branchResults : Obligations.BranchResults := by
  unfold Obligations.BranchResults
  intro s j a b i hr ha x y t ok go
  have key : ∀ (c : Prop) (cond : Word → Word → Bool), (cond x y = true ↔ c) → go c (branch cond a b i s) := fun c cond hc =>
    ⟨fun h ⟨h0, h1, h2⟩ => branch_taken hr ha (hc.mpr h) rfl h0 h1 h2,
      fun h => branch_not_taken hr ha (Bool.eq_false_iff.mpr (mt hc.mp h))⟩
  exact ⟨key _ (fun x y => x == y) beq_iff_eq, key _ (fun x y => x != y) bne_iff_ne, key _ slt64 (by simp [slt64]),
    key _ (fun x y => !slt64 x y) (by simp [slt64]), key _ ult64 (by simp [ult64]), key _ (fun x y => !ult64 x y) (by simp [ult64])⟩

end Sys2Proof.Machine
end

section
/-!
SUPPORT. What a walk and a translation move (03 R73 to R79); the checks of a data access and the errors that its place
answers (01 R14, R24; 02 R66; 10 R254; 15 R384), and O18.
-/

namespace Sys2Proof.Machine

/-! ### What a translation moves -/

/-- `t` differs from `s` in its packages and its tiles at most. -/
def MovesUnits (s t : State) : Prop := ∃ pkgs tiles, t = { s with pkgs := pkgs, tiles := tiles }

theorem MovesUnits.refl (s : State) : MovesUnits s s := ⟨s.pkgs, s.tiles, rfl⟩
theorem MovesUnits.trans {s t u : State} (h1 : MovesUnits s t) (h2 : MovesUnits t u) : MovesUnits s u := by
  obtain ⟨_, _, rfl⟩ := h1
  obtain ⟨k, l, rfl⟩ := h2
  exact ⟨k, l, rfl⟩

section
variable {s t : State} (h : MovesUnits s t)
include h
theorem MovesUnits.mem : t.mem = s.mem := by obtain ⟨_, _, rfl⟩ := h; rfl
theorem MovesUnits.jobs : t.jobs = s.jobs := by obtain ⟨_, _, rfl⟩ := h; rfl
theorem MovesUnits.wall : t.wall = s.wall := by obtain ⟨_, _, rfl⟩ := h; rfl
theorem MovesUnits.focus : t.focus = s.focus := by obtain ⟨_, _, rfl⟩ := h; rfl
end

theorem movesUnits_foldl {α : Type} {f : State → α → State} (h : ∀ s x, MovesUnits s (f s x)) (l : List α) (s : State) :
    MovesUnits s (l.foldl f s) := by
  induction l generalizing s with
  | nil => exact .refl s
  | cons x l ih => exact (h s x).trans (ih _)

theorem movesUnits_modPkg (s : State) (p : Nat) (f : Package → Package) : MovesUnits s (s.modPkg p f) := ⟨_, _, rfl⟩
theorem movesUnits_modTile (s : State) (k : Nat) (f : Tile → Tile) : MovesUnits s (s.modTile k f) := ⟨_, _, rfl⟩

theorem movesUnits_touchHome (s : State) (pa n : Nat) (h : Hint) : MovesUnits s (s.touchHome pa n h) := by
  unfold State.touchHome
  split
  · split
    · exact .refl s
    · exact movesUnits_modPkg _ _ _
  · exact .refl s

theorem movesUnits_setTlb (s : State) (p t : Nat) (sel : TlbSel) (l : List TlbEntry) : MovesUnits s (s.setTlb p t sel l) := by
  cases sel with
  | core => exact ⟨_, _, rfl⟩
  | stream k => cases k <;> exact ⟨_, _, rfl⟩
  | host => exact ⟨_, _, rfl⟩

/-- The state after a walk's read of the table entry at `at_`: where its home answers, a normal load there (03 R77). -/
def State.entryRead (s : State) (p at_ : Nat) : State :=
  if s.lineTaken at_ || !s.reaches p (paPkg at_) then s else s.touchHome at_ 8 .load

theorem movesUnits_entryRead (s : State) (p at_ : Nat) : MovesUnits s (s.entryRead p at_) := by
  unfold State.entryRead
  split
  · exact .refl s
  · exact movesUnits_touchHome _ _ _ _

section
variable {p w u va table : Nat} {need : Perm} {s : State}

theorem walkFrom_zero_state : (walkFrom p w u va need 0 table s).1 = s.entryRead p (table + 8 * vaIndex va 0) := by
  unfold walkFrom
  extract_lets at_ v taken t
  show _ = t
  split_ifs <;> rfl

/-- A walk above the lowest level ends at the entry it reads, or goes on from the table that this entry names, which its walker
has cached (03 R73, R77): what holds of both holds of the state it leaves. -/
theorem walkFrom_succ_state {l : Nat} {P : State → Prop} (hread : P (s.entryRead p (table + 8 * vaIndex va (l + 1))))
    (hnext : ∀ next e, P (walkFrom p w u va need l next
      ((s.entryRead p (table + 8 * vaIndex va (l + 1))).modPkg p (fun k => k.cacheTable w e))).1) :
    P (walkFrom p w u va need (l + 1) table s).1 := by
  unfold walkFrom
  dsimp -zeta only
  extract_lets at_ v taken t next
  replace hread : P t := hread
  replace hnext : ∀ next e, P (walkFrom p w u va need l next (t.modPkg p (fun k => k.cacheTable w e))).1 := hnext
  split_ifs
  any_goals exact hread
  exact hnext _ _
end

theorem movesUnits_walkFrom (p w u va : Nat) (need : Perm) (level table : Nat) (s : State) :
    MovesUnits s (walkFrom p w u va need level table s).1 := by
  induction level generalizing table s with
  | zero => exact walkFrom_zero_state ▸ movesUnits_entryRead _ _ _
  | succ l ih =>
    exact walkFrom_succ_state (movesUnits_entryRead _ _ _) fun next e =>
      ((movesUnits_entryRead _ _ _).trans (movesUnits_modPkg _ _ _)).trans (ih _ _)

theorem movesUnits_walk (s : State) (p w u va : Nat) (need : Perm) : MovesUnits s (s.walk p w u va need).1 := by
  unfold State.walk
  simp only
  split
  · exact .refl s
  · split
    · exact .refl s
    · split <;> exact movesUnits_walkFrom _ _ _ _ _ _ _ _

theorem movesUnits_translate (s : State) (p t : Nat) (sel : TlbSel) (u va : Nat) (need : Perm) :
    MovesUnits s (s.translate p t sel u va need).1 := by
  have hwalk := movesUnits_walk s p (sel.walker t) u va need
  unfold State.translate
  simp only
  split
  · exact movesUnits_setTlb _ _ _ _ _
  · split
    · next hres => exact (hres ▸ hwalk : MovesUnits s (_, WalkRes.fault _).1)
    · next hres => exact (hres ▸ hwalk : MovesUnits s (_, WalkRes.busy).1)
    · next e at_ hres =>
      have hleaf : MovesUnits s (_, WalkRes.leaf e at_).1 := hres ▸ hwalk
      exact hleaf.trans (movesUnits_setTlb _ _ _ _ _)

theorem countMiss_focus (s : State) (u va : Nat) : (s.countMiss u va).focus = s.focus := by
  unfold State.countMiss
  simp only
  split
  · rfl
  · rw [modCore_focus]; rfl

/-- A translation for the core that acts leaves the stream in focus. -/
theorem coreTranslate_focus {s s1 : State} {u va : Nat} {need : Perm} {r : TrRes} (h : s.coreTranslate u va need = (s1, r)) :
    s1.focus = s.focus := by
  have hfocus : (s.coreTranslate u va need).1.focus = s.focus :=
    (movesUnits_translate _ _ _ _ _ _ _).focus.trans (countMiss_focus s u va)
  rwa [h] at hfocus

/-! ### What the check of a data address comes to -/

section
variable {s s1 : State} {j : Job} {va : Word} {al pa : Nat} {need : Perm} {mmio mem : State → Nat → Res}

theorem dataAccess_addressForm (h0 : s.askOf = none) (h1 : bits va 63 56 ≠ 0) :
    dataAccess s j va al need mmio mem = .raise s .addressForm va := by
  simp [dataAccess, h0, vaOk, h1]

theorem dataAccess_misaligned (h0 : s.askOf = none) (h1 : bits va 63 56 = 0) (h2 : va.toNat % al ≠ 0) :
    dataAccess s j va al need mmio mem = .raise s .misaligned va := by
  simp [dataAccess, h0, vaOk, h1, h2]

theorem dataAccess_fault {c : Cause} (h0 : s.askOf = none) (h1 : bits va 63 56 = 0) (h2 : va.toNat % al = 0)
    (h3 : s.coreTranslate j.tenant.toNat va.toNat need = (s1, .fault c)) :
    dataAccess s j va al need mmio mem = .raise s1 c va := by
  simp [dataAccess, h0, vaOk, h1, h2, h3]

theorem dataAccess_translated (h : Translated s j va need s1 pa) (h2 : va.toNat % al = 0) :
    dataAccess s j va al need mmio mem = mem s1 pa := by
  obtain ⟨h0, h1, ⟨e, h3⟩, h4⟩ := h
  simp [dataAccess, h0, vaOk, h1, h2, h3, h4]

/-- A core that waits for an answer goes on with the address that it sent to. -/
theorem dataAccess_asked {q : Asked} (h0 : s.askOf = some q) (h4 : (s.region q.pa).isMmio = false) :
    dataAccess s j va al need mmio mem = mem s q.pa := by
  simp [dataAccess, h0, h4]

theorem Translated.focus (h : Translated s j va need s1 pa) : s1.focus = s.focus := by
  obtain ⟨-, -, ⟨e, h3⟩, -⟩ := h
  exact coreTranslate_focus h3

end

/-! ### What a place answers -/

section
variable {s : State} {va : Word} {pa n : Nat} {op : ReqOp} {act : State → State × Word} {k : State → Word → Res}

theorem memAct_absent (h : s.absent pa = true) : memAct va pa n act s = .err s .protection va := by
  simp [memAct, h]

theorem memAct_flawed (ha : s.absent pa = false) (h : s.flawed pa n = true) : memAct va pa n act s = .err s .dataError va := by
  simp [memAct, ha, h]

/-- An error with which the place answers a request that arrives is raised, once the request has been sent. -/
theorem askPlace_err {c : Cause} (h : Arrives s (s.parcel op pa)) (hc : s.clear op pa = true)
    (herr : memAct va pa n act (s.asked (s.parcel op pa)) = .err (s.asked (s.parcel op pa)) c va) :
    askPlace op va (memAct va pa n act) k s pa = .raise (s.asked (s.parcel op pa)) c va := by
  unfold askPlace
  rw [hc, Bool.not_true, Bool.and_false, if_neg Bool.false_ne_true]
  rw [show (⟨true, op.isLoad, s.placeOf pa, s.targetNum pa⟩ : Parcel) = s.parcel op pa from rfl, exchange_arrives h, herr]
  rfl

/-- A request without an answer after its third reissue ends in Request-Timeout (02 R66). -/
theorem askPlace_timeout {f : State → Answer} {q : Asked} (hq : s.askOf = some q) (hheld : q.held = false)
    (h3 : q.reissues = 3) (ho : s.overdue s.fpkg (s.placeOf pa) q.sentAt = true) :
    askPlace op va f k s pa = .raise s .requestTimeout va := by
  simp [askPlace, exchange, await, hq, hheld, h3, ho]

end

/-- A body that raises a cause after it has moved what leaves the stream in focus. -/
theorem coreExec_faulted_at {s s1 : State} {j : Job} {len : Nat} {regs : List Reg} {body : Job → Core → State → Res} {c : Cause}
    {eva : Word} (h : Steady s j) (ha : Allowed (s.core j) regs) (hf : s1.focus = s.focus)
    (hb : body j (s.core j) s = .raise s1 c eva) : coreExec len false regs body s = .next (s1.faulted j c eva) := by
  have hk : s1.key = s.key := by rw [State.key, State.key, hf]
  rw [coreExec_raise h (by simp) ha hb hk, State.faulted, hk, State.coreFault, State.coreFault, State.core, State.core, hf]

/-! ### The obligation -/

section
variable {s s1 : State} {j : Job} {d a : Reg} {z : LoadSize} {y : StoreSize} {i : BitVec 11} {c : Cause} {va : Word}

theorem ld_faulted (h : Steady s j) (ha : Allowed (s.core j) [d, a]) (hf : s1.focus = s.focus)
    (hb : loadBody d (loadBytes z) (loadSigned z) .load (effAddr ((s.core j).reg a) i (loadBytes z)) j s = .raise s1 c va) :
    exec (.ld d a z i) s = .next (s1.faulted j c va) :=
  coreExec_faulted_at h ha hf hb

theorem st_faulted (h : Steady s j) (ha : Allowed (s.core j) [d, a]) (hf : s1.focus = s.focus)
    (hb : storeBody (storeBytes y) false (effAddr ((s.core j).reg a) i (storeBytes y)) ((s.core j).reg d) j (s.core j) s =
      .raise s1 c va) :
    exec (.st d a y i) s = .next (s1.faulted j c va) :=
  coreExec_faulted_at h ha hf hb

end

/-- Settles O18: each check of the address, in its order, raises its cause at the core; then the place answers with an error,
or never. -/
theorem dataAccessFaults : Obligations.DataAccessFaults := by
  unfold Obligations.DataAccessFaults
  intro s j d a z y i h ha l t form
  refine ⟨?load, ?store, ?place, ?timeout⟩
  case load =>
    exact fun h0 => ⟨fun h1 => ld_faulted h ha rfl (dataAccess_addressForm h0 h1),
      fun h1 h2 => ld_faulted h ha rfl (dataAccess_misaligned h0 h1 h2),
      fun s1 c h1 h2 h3 => ld_faulted h ha (coreTranslate_focus h3) (dataAccess_fault h0 h1 h2 h3)⟩
  case store =>
    exact fun h0 => ⟨fun h1 => st_faulted h ha rfl (dataAccess_addressForm h0 h1),
      fun h1 h2 => st_faulted h ha rfl (dataAccess_misaligned h0 h1 h2),
      fun s1 c h1 h2 h3 => st_faulted h ha (coreTranslate_focus h3) (dataAccess_fault h0 h1 h2 h3)⟩
  case place =>
    intro s1 pa ht hal hclear p harr
    have hf : (s1.asked p).focus = s.focus := (asked_focus s1 p).trans ht.focus
    refine ⟨fun habs => ld_faulted h ha hf ?_, fun habs hflaw => ld_faulted h ha hf ?_⟩
    · exact (dataAccess_translated ht hal).trans (askPlace_err harr hclear (memAct_absent ((asked_absent s1 p pa).trans habs)))
    · exact (dataAccess_translated ht hal).trans (askPlace_err harr hclear
        (memAct_flawed ((asked_absent s1 p pa).trans habs) ((asked_flawed s1 p pa _).trans hflaw)))
  case timeout =>
    intro q hq hheld h3 hmmio ho
    exact ld_faulted h ha rfl ((dataAccess_asked hq hmmio).trans (askPlace_timeout hq hheld h3 ho))

end Sys2Proof.Machine
end

section
/-!
SUPPORT. Invalidation, the registers that translate (01 R27, R31; 03 R73, R74, R78), and migration (03 R84 to R88).
-/

namespace Sys2Proof.Machine

/-! ### An invalidation (01 R31; 03 R74, R78) -/

section
variable (s : State) (p u : Nat) (f : TlbEntry → Bool)

theorem invalidateNow_tiles : (s.invalidateNow p u f).tiles =
    s.tiles.map (fun e => if e.1 / 256 = p then (e.1, e.2.dropTlb u f) else e) := rfl

/-- Of the package it leaves all but the tenant's entries in the host TLB and in the walk caches. -/
theorem invalidateNow_pkgAt : (s.invalidateNow p u f).pkgAt p =
    { s.pkgAt p with hostTlb := dropEntries u f (s.pkgAt p).hostTlb
                     walk := (s.pkgAt p).walk.map (fun l => l.filter (fun e => e.tenant.toNat != u)) } := by
  have hreqs : (s.invalidateNow p u f).pkgAt p = (s.invalidate p u f).pkgAt p := rfl
  rw [hreqs, State.invalidate, modPkg_pkgAt_same]
  rfl

end

theorem mem_dropEntries {u : Nat} {f : TlbEntry → Bool} {l : List TlbEntry} {e : TlbEntry} (h : e ∈ dropEntries u f l) :
    (e.tenant.toNat == u && f e) = false :=
  (Bool.not_eq_true' _).mp (List.mem_filter.mp h).2

/-- No entry that an invalidation selects is left in a TLB of a tile of the package. -/
theorem invalidateNow_tileEntry {s : State} {p u : Nat} {f : TlbEntry → Bool} {x : Nat × Tile} {e : TlbEntry}
    (hx : x ∈ (s.invalidateNow p u f).tiles) (hp : x.1 / 256 = p)
    (he : e ∈ x.2.tlb ++ x.2.tlbC ++ x.2.tlbT ++ x.2.tlbV ++ x.2.tlbW) : (e.tenant.toNat == u && f e) = false := by
  rw [invalidateNow_tiles] at hx
  obtain ⟨y, -, rfl⟩ := List.mem_map.mp hx
  by_cases hy : y.1 / 256 = p
  · simp only [if_pos hy, List.mem_append] at he
    rcases he with (((he | he) | he) | he) | he <;> exact mem_dropEntries he
  · rw [if_neg hy] at hp
    exact absurd hp hy

/-- Nor in its host TLB. -/
theorem invalidateNow_hostEntry {s : State} {p u : Nat} {f : TlbEntry → Bool} {e : TlbEntry}
    (he : e ∈ ((s.invalidateNow p u f).pkgAt p).hostTlb) : (e.tenant.toNat == u && f e) = false := by
  rw [invalidateNow_pkgAt] at he
  exact mem_dropEntries he

/-! ### Windows, translation roots and HBMSPLIT (01 R27, R31; 03 R74) -/

/-- No TLB of package `p` holds a translation of tenant `u`. -/
def NoTranslation (p u : Nat) (t : State) : Prop :=
  (∀ x ∈ t.tiles, x.1 / 256 = p → ∀ e ∈ x.2.tlb ++ x.2.tlbC ++ x.2.tlbT ++ x.2.tlbV ++ x.2.tlbW, e.tenant.toNat ≠ u) ∧
  (∀ e ∈ (t.pkgAt p).hostTlb, e.tenant.toNat ≠ u)

theorem noTranslation_invalidateNow (s : State) (p u : Nat) : NoTranslation p u (s.invalidateNow p u (fun _ => true)) :=
  ⟨fun _ hx hp _ he => by simpa using invalidateNow_tileEntry hx hp he, fun _ he => by simpa using invalidateNow_hostEntry he⟩

/-- What a write of a tenant window or of TROOT leaves: `f` of the tenant's area, and no translation of the tenant. -/
def State.rerooted (s : State) (p u : Nat) (f : TenantArea → TenantArea) : State :=
  (s.modTen p u f).invalidateNow p u (fun _ => true)

theorem rerooted_tenAt (s : State) (p u : Nat) (f : TenantArea → TenantArea) : (s.rerooted p u f).tenAt p u = f (s.tenAt p u) :=
  modTen_tenAt_same s p u f

theorem writeWindow_waits {s : State} {p u : Nat} (h : s.translatedGone p u = false) (i : Nat) (v : Word) :
    s.writeWindow p u i v = none := by simp [State.writeWindow, h]

theorem writeTroot_waits {s : State} {p u : Nat} (h : s.translatedGone p u = false) (v : Word) : s.writeTroot p u v = none := by
  simp [State.writeTroot, h]

theorem writeWindow_writes {s : State} {p u i : Nat} {v : Word} (h : s.translatedGone p u = true) (hv : v ≠ 0) (hi : i < 32) :
    s.writeWindow p u i v = some (s.rerooted p u (fun a => { a with win := mput a.win i v })) := by
  simp only [State.writeWindow, h, Bool.not_true, Bool.false_eq_true, if_false, if_neg hv, Nat.mod_eq_of_lt hi]
  rfl

theorem writeTroot_writes {s : State} {p u : Nat} (h : s.translatedGone p u = true) (v : Word) :
    s.writeTroot p u v = some (s.rerooted p u (fun a => { a with troot := keepBits v 55 13 ||| keepBits v 0 0 })) := by
  simp [State.writeTroot, State.rerooted, h]

theorem exec_tenantWindowWrite {s : State} {o : Option State} (h : s.writeWindow s.evPkg s.evTen s.arg.idx s.arg.val = o) :
    exec .tenantWindowWrite s = .next (o.getD s) := by
  subst h
  rfl

theorem exec_trootWrite {s : State} {o : Option State} (h : s.writeTroot s.evPkg s.evTen s.arg.val = o) :
    exec .trootWrite s = .next (o.getD s) := by
  subst h
  rfl

/-- An update of a package depends on what it makes of that package alone. -/
theorem modPkg_congr {s : State} {p : Nat} {f g : Package → Package} (h : f (s.pkgAt p) = g (s.pkgAt p)) :
    s.modPkg p f = s.modPkg p g := by
  rw [State.modPkg, State.modPkg, h]

theorem writeHbmsplit_writes {s : State} {p : Nat} {v : Word} (hl : (s.pkgAt p).hbmLocked = false) (hv : bits v 5 0 ≤ 32) :
    s.writeHbmsplit p v = s.modPkg p (fun k => { k with hbmsplit := bits v 5 0 }) := by
  unfold State.writeHbmsplit
  exact modPkg_congr (if_neg (by simp [hl, hv]))

theorem writeHbmsplit_refused {s : State} {p : Nat} {v : Word} (h : (s.pkgAt p).hbmLocked = true ∨ 32 < bits v 5 0) :
    (s.writeHbmsplit p v).pkgAt p = s.pkgAt p := by
  unfold State.writeHbmsplit
  rw [modPkg_pkgAt_same, if_pos (by simpa using h)]

theorem exec_pageWalk_core {s : State} {t : TileNo} (h : s.arg.walker = .core t) :
    exec .pageWalk s = .next (s.translate s.evPkg t.toNat .core s.evTen (s.arg.val.toNat % 2 ^ 56) 0).1 := by
  show execPageWalk s = _
  simp only [execPageWalk, h]

/-! ### Requests for a migration (03 R84 to R86) -/

/-- The request that the four dwords staged at a port make. -/
def State.stagedMigration (s : State) (p u : Nat) (host : Bool) : Migration :=
  { tenant := BitVec.ofNat 8 u, dw := if host then (s.tenAt p u).migH else (s.tenAt p u).mig, host := host, arrived := s.cycle p
    leaf := none, inplace := false, ended := none }

theorem submitMigration_malformed {s : State} {p u : Nat} {host : Bool} (h : migFormOk (s.stagedMigration p u host).dw = false) :
    s.submitMigration p u host = s.migEnd p (s.stagedMigration p u host) .malformed 0 := by
  simp only [State.stagedMigration] at h
  simp [State.submitMigration, State.stagedMigration, h]

/-- One that is well formed and that nothing conflicts with joins the queue. -/
theorem submitMigration_joins {s : State} {p u : Nat} {host : Bool} (hform : migFormOk (s.stagedMigration p u host).dw = true)
    (hpkg : paPkg (migFrame (s.stagedMigration p u host).dw) = p) (hplace : migPlacement (s.stagedMigration p u host).dw / 4 ≠ 3)
    (hsame : ∀ x ∈ (s.pkgAt p).migQueue, s.samePage p x (s.stagedMigration p u host) = false) (hpin : (s.pkgAt p).pinned = [])
    (hroom : (s.pkgAt p).migQueue.length < 64) :
    s.submitMigration p u host = s.modPkg p (fun k => { k with migQueue := k.migQueue ++ [s.stagedMigration p u host] }) := by
  have hnone : (s.pkgAt p).migQueue.find? (fun x => s.samePage p x (s.stagedMigration p u host) && x.ended.isNone) = none := by
    simpa using fun x hx h => absurd h (by simp [hsame x hx])
  have hpinned : s.pinnedNow p (s.stagedMigration p u host) = false := by simp [State.pinnedNow, hpin, mget]
  have hfew : ¬ 64 ≤ ((s.pkgAt p).migQueue.filter (fun x => x.leaf.isNone && x.ended.isNone)).length :=
    Nat.not_le.mpr (lt_of_le_of_lt (List.length_filter_le _ _) hroom)
  unfold State.submitMigration
  extract_lets a dw m q
  replace hform : migFormOk dw = true := hform
  replace hpkg : paPkg (migFrame dw) = p := hpkg
  replace hplace : migPlacement dw / 4 ≠ 3 := hplace
  replace hnone : q.find? (fun x => s.samePage p x m && x.ended.isNone) = none := hnone
  replace hpinned : s.pinnedNow p m = false := hpinned
  rw [hform, hpkg, if_neg (by simp), if_neg hplace, hnone]
  simp only
  rw [hpinned, if_neg Bool.false_ne_true, if_neg hfew]
  rfl

/-- The last dword of the host-side port of a function that holds nothing (05 R144). -/
theorem hostMmio_migH {s : State} {p u : Nat} (hlink : (s.pkgAt p).linkUp = true) (hon : (s.tenAt p u).isOff = false)
    (hheld : (s.pkgAt p).held = []) (v : Word) : s.hostMmio p u 0x4018 8 v =
      { (s.modTen p u (fun a => { a with migH := vset a.migH 3 v })).submitMigration p u true with answer := ansOk [] } := by
  simp only [State.hostMmio, hlink, hon, hheld]
  rfl

/-! ### The start of a migration (03 R87) -/

/-- A request touches the home's cache of its line at most. -/
theorem touchHome_pkgAt (s : State) (pa n : Nat) (h : Hint) (p : Nat) :
    ∃ c, (s.touchHome pa n h).pkgAt p = { s.pkgAt p with cache := c } := by
  unfold State.touchHome
  split
  · next q d _ =>
    split
    · exact ⟨_, rfl⟩
    · by_cases hq : p = q
      · subst hq
        exact ⟨_, modPkg_pkgAt_same _ _ _⟩
      · exact ⟨_, setPkg_pkgAt_ne _ _ _ _ hq⟩
  · exact ⟨_, rfl⟩

theorem touchHome_busyPages (s : State) (pa n : Nat) (h : Hint) (p : Nat) :
    ((s.touchHome pa n h).pkgAt p).busyPages = (s.pkgAt p).busyPages := by
  obtain ⟨c, hc⟩ := touchHome_pkgAt s pa n h p
  rw [hc]

theorem touchHomes_busyPages (l : List Nat) (n : Nat) (h : Hint) (p : Nat) (s : State) :
    ((l.foldl (fun s a => s.touchHome a n h) s).pkgAt p).busyPages = (s.pkgAt p).busyPages := by
  induction l generalizing s with
  | nil => rfl
  | cons a l ih => exact (ih _).trans (touchHome_busyPages s a n h p)

theorem movesUnits_migWalk (s : State) (p u va : Nat) : MovesUnits s (s.migWalk p u va) := by
  unfold State.migWalk
  extract_lets root
  split_ifs
  · exact .refl s
  · exact movesUnits_foldl (fun s a => movesUnits_touchHome s a 8 .load) _ s

theorem migWalk_busyPages (s : State) (p u va : Nat) : ((s.migWalk p u va).pkgAt p).busyPages = (s.pkgAt p).busyPages := by
  unfold State.migWalk
  extract_lets root
  split_ifs
  · rfl
  · exact touchHomes_busyPages _ _ _ p s

/-- The start of request `m`, once the state `w` after the walk has its leaf, if there is one: steps 1 to 3. -/
def State.startMigration (w : State) (p : Nat) (m : Migration) : State :=
  match w.leafOf p m.tenant.toNat (migVa m.dw) with
  | none => (w.dropMig p m).migEnd p m .notMigratable 0
  | some (v, at_, _) =>
    if bits v 12 12 = 0 ∨ bits v 3 2 = 2 ∨ bits v 11 10 = 3 then (w.dropMig p m).migEnd p m .notMigratable 0
    else if paPkg (leafFrame v) ≠ p ∨ !w.frameOk p (migFrame m.dw) (bits v 3 2) (migPlacement m.dw) then
      (w.dropMig p m).migEnd p m .malformed 0
    else
      let base := leafBase v (migVa m.dw)
      (w.invalidateNow p m.tenant.toNat (fun e => e.meets m.tenant.toNat base (pageBytes (bits v 3 2)))).modPkg p (fun k =>
        { k with busyPages := k.busyPages ++ [(m.tenant.toNat, base)]
                 migQueue := k.migQueue.map (fun x => if x == m then
                   { m with leaf := some (v, at_), inplace := w.sameTier (leafFrame v) (migFrame m.dw) } else x) })

/-- The request at the head of the queue starts where it may. -/
theorem runMigration_head {s : State} {p : Nat} {m : Migration} {l : List Migration} (hq : (s.pkgAt p).migQueue = m :: l)
    (hleaf : m.leaf = none) (hended : m.ended = none) (harr : m.arrived < s.cycle p)
    (hfew : ((s.pkgAt p).migQueue.filter (fun x => x.leaf.isSome)).length < 4) :
    s.runMigration p = (s.migWalk p m.tenant.toNat (migVa m.dw)).startMigration p m := by
  have hfind : (s.pkgAt p).migQueue.find? (fun x => x.leaf.isNone && x.ended.isNone && decide (x.arrived < s.cycle p)) = some m := by
    simp [hq, hleaf, hended, harr]
  unfold State.runMigration
  extract_lets q
  rw [if_neg (Nat.not_le.mpr hfew), hfind]
  rfl

/-- An entry that translates part of a page belongs to its tenant. -/
theorem meets_tenant (e : TlbEntry) (u va n : Nat) : (e.tenant.toNat == u && e.meets u va n) = e.meets u va n := by
  simp only [TlbEntry.meets, Bool.and_assoc, Bool.and_self_left]

section
variable {w : State} {p : Nat} {m : Migration}

theorem startMigration_noLeaf (h : w.leafOf p m.tenant.toNat (migVa m.dw) = none) :
    w.startMigration p m = (w.dropMig p m).migEnd p m .notMigratable 0 := by
  simp [State.startMigration, h]

variable {v : Word} {at_ lv : Nat} (h : w.leafOf p m.tenant.toNat (migVa m.dw) = some (v, at_, lv))
include h

theorem startMigration_notMigratable (hv : bits v 12 12 = 0 ∨ bits v 3 2 = 2 ∨ bits v 11 10 = 3) :
    w.startMigration p m = (w.dropMig p m).migEnd p m .notMigratable 0 := by
  simp [State.startMigration, h, hv]

/-- One that starts: its page is busy and has no translation left, and neither memory nor a job has changed. -/
theorem startMigration_starts (hm : bits v 12 12 = 1) (hs : bits v 3 2 ≠ 2) (hp : bits v 11 10 ≠ 3) (hf : paPkg (leafFrame v) = p)
    (hok : w.frameOk p (migFrame m.dw) (bits v 3 2) (migPlacement m.dw) = true) :
    let base := leafBase v (migVa m.dw)
    let gone := fun (e : TlbEntry) => e.meets m.tenant.toNat base (pageBytes (bits v 3 2)) = false
    ∃ t, w.startMigration p m = t ∧ (t.pkgAt p).busyPages = (w.pkgAt p).busyPages ++ [(m.tenant.toNat, base)] ∧
      t.mem = w.mem ∧ t.jobs = w.jobs ∧ (∀ e ∈ (t.pkgAt p).hostTlb, gone e) ∧
      ∀ x ∈ t.tiles, x.1 / 256 = p → ∀ e ∈ x.2.tlb ++ x.2.tlbC ++ x.2.tlbT ++ x.2.tlbV ++ x.2.tlbW, gone e := by
  have hgo : ¬ (bits v 12 12 = 0 ∨ bits v 3 2 = 2 ∨ bits v 11 10 = 3) := by simp [hm, hs, hp]
  have hsound : ¬ (paPkg (leafFrame v) ≠ p ∨ (!w.frameOk p (migFrame m.dw) (bits v 3 2) (migPlacement m.dw)) = true) := by
    simp [hf, hok]
  intro base gone
  simp only [State.startMigration, h]
  rw [if_neg hgo, if_neg hsound]
  refine ⟨_, rfl, ?_, rfl, rfl, fun e he => ?_, fun x hx hpkg e he => ?_⟩
  · rw [modPkg_pkgAt_same, invalidateNow_pkgAt]
  · rw [modPkg_pkgAt_same] at he
    exact (meets_tenant e _ _ _).symm.trans (invalidateNow_hostEntry he)
  · exact (meets_tenant e _ _ _).symm.trans (invalidateNow_tileEntry hx hpkg he)

end

/-! ### The end of a migration (03 R87, R88) -/

theorem movesUnits_touchSpan (s : State) (pa n : Nat) (h : Hint) : MovesUnits s (s.touchSpan pa n h) := by
  refine movesUnits_foldl (fun s i => ?_) _ s
  extract_lets b lo hi
  split_ifs
  · exact movesUnits_touchHome _ _ _ _
  · exact .refl s

theorem copyTouches_wall (s : State) (src dst n : Nat) : (s.copyTouches src dst n).wall = s.wall :=
  ((movesUnits_touchSpan s src n .load).trans (movesUnits_touchSpan _ dst n .store)).wall

/-- The copy of a page lets no time pass. -/
theorem copyPage_wall (s : State) (m : Migration) (v : Word) : (s.copyPage m v).wall = s.wall := by
  unfold State.copyPage
  extract_lets n
  split_ifs
  · rfl
  · exact copyTouches_wall s _ _ n

theorem copyPage_mem (s : State) (m : Migration) (v : Word) : (s.copyPage m v).mem =
    if m.inplace = true then s.mem else copyBytes s.mem (leafFrame v) (migFrame m.dw) (pageBytes (bits v 3 2)) := by
  unfold State.copyPage
  extract_lets n
  split_ifs <;> rfl

/-- Memory after the rewriting of the leaf's group: each entry that still holds `v` gets the new leaf (log 31). -/
def rewriteLeaf (mem : Memory) (v : Word) (at_ : Nat) (m : Migration) : Memory :=
  (leafGroup v at_).foldl (fun mem a => if read64 mem a = v then write64 mem a (newLeaf v m) else mem) mem

/-- The state in which migration `m` of the leaf `v` at `at_` leaves the queue: its page is busy no more, and the
completed migrations are `pinned` of those before. -/
def State.endMigration (t : State) (p : Nat) (m : Migration) (v : Word) (at_ : Nat) (pinned : List (Nat × Nat) → List (Nat × Nat)) :
    State :=
  ((t.touchHome at_ 8 .store).dropMig p m).modPkg p (fun k =>
    { k with busyPages := k.busyPages.erase (m.tenant.toNat, leafBase v (migVa m.dw)), pinned := pinned k.pinned })

section
variable {s : State} {p i at_ : Nat} {m : Migration} {v : Word} (hq : (s.pkgAt p).migQueue[i]? = some m) (hended : m.ended = none)
  (hleaf : m.leaf = some (v, at_))
include hq hended hleaf

theorem completeMigration_waits (h : s.oldFrameQuiet p m.tenant.toNat (leafFrame v) (pageBytes (bits v 3 2)) = false) :
    s.completeMigration p i = s := by
  simp [State.completeMigration, hq, hended, hleaf, h]

theorem completeMigration_moved (h : s.oldFrameQuiet p m.tenant.toNat (leafFrame v) (pageBytes (bits v 3 2)) = true)
    (hsame : read64 (s.copyPage m v).mem at_ = v) :
    s.completeMigration p i =
      (({ s.copyPage m v with mem := rewriteLeaf (s.copyPage m v).mem v at_ m } : State).endMigration p m v at_
        (fun l => mput l (pinKey m.tenant.toNat (leafBase v (migVa m.dw))) s.wall)).migEnd p m
        (if m.inplace then .inPlace else .done) (leafFrame v) := by
  simp only [State.completeMigration, hq, hended, hleaf, h, hsame, beq_self_eq_true, Bool.not_true, Bool.false_eq_true, if_false,
    if_true, beq_iff_eq, (movesUnits_touchHome _ _ _ _).wall, copyPage_wall]
  rfl

theorem completeMigration_changed (h : s.oldFrameQuiet p m.tenant.toNat (leafFrame v) (pageBytes (bits v 3 2)) = true)
    (hchanged : read64 (s.copyPage m v).mem at_ ≠ v) :
    s.completeMigration p i = ((s.copyPage m v).endMigration p m v at_ id).migEnd p m .changed (leafFrame v) := by
  have hne : (read64 (s.copyPage m v).mem at_ == v) = false := beq_eq_false_iff_ne.mpr hchanged
  simp only [State.completeMigration, hq, hended, hleaf, h, hne, Bool.not_true, Bool.not_false, Bool.false_eq_true, if_false,
    if_true]
  rfl

end

theorem endMigration_mem (t : State) (p : Nat) (m : Migration) (v : Word) (at_ : Nat) (f : List (Nat × Nat) → List (Nat × Nat)) :
    (t.endMigration p m v at_ f).mem = t.mem :=
  (movesUnits_touchHome t at_ 8 .store).mem

/-- The leaf of a 64 KiB page, unchanged until then, is the new one (03 R87, step 5). -/
theorem read64_rewriteLeaf {mem : Memory} {v : Word} {at_ : Nat} (hw : mem.wf = true) (hv : bits v 3 2 = 0) (h : read64 mem at_ = v)
    (m : Migration) : read64 (rewriteLeaf mem v at_ m) at_ = newLeaf v m := by
  have hgroup : leafGroup v at_ = [at_] := by simp [leafGroup, hv]
  rw [rewriteLeaf, hgroup, List.foldl_cons, List.foldl_nil, if_pos h, read64_write64 hw]

/-- The status of a copy that is done, or of one in place, as written in the completion dword (03 R85). -/
theorem code_endStatus (b : Bool) : (if b then MigStatus.inPlace else .done).code = if b then 6 else 0 := by
  cases b <;> rfl

theorem migEnd_written {t t' : State} {p : Nat} {m : Migration} {st : MigStatus} {old : Nat}
    (h : t.migWrite p m.tenant.toNat (vget m.dw 2).toNat st.code old = some t') : t.migEnd p m st old = t' := by
  simp [State.migEnd, h]

end Sys2Proof.Machine
end

section
/-!
SUPPORT. Accesses of the host (03 R91 to R93; 05 R144), and O48.
-/

namespace Sys2Proof.Machine

/-! ### Accesses of the host (03 R91 to R93; 05 R144) -/

/-- The virtual address at which the window of the dwords `d0` and `d1` serves offset `o` of BAR 2 (03 R91). -/
def windowVa (d0 d1 : Word) (o : Nat) : Nat := bits d1 55 16 * 0x1_0000 + (o - bits d0 39 16 * 0x1_0000)

theorem popHostFault_oldest {s : State} {p u : Nat} {r : Word} {l : List Word} (h : (s.tenAt p u).hostFaults = r :: l) :
    s.popHostFault p u = (r, s.modTen p u (fun a => { a with hostFaults := l })) := by
  simp [State.popHostFault, h]

theorem popHostFault_none {s : State} {p u : Nat} (h : (s.tenAt p u).hostFaults = []) : s.popHostFault p u = (0, s) := by
  simp [State.popHostFault, h]

section
variable {s : State} {p u o n : Nat} {w : Bool} {data : List Byte} (hlink : (s.pkgAt p).linkUp = true)
include hlink

theorem hostAccess_outside (h : (s.tenAt p u).tstate = 0 ∨ bits (s.tenAt p u).txctl 8 8 = 0 ∨ (s.tenAt p u).hostWindow o = none) :
    s.hostAccess p u w o n data = { s with answer := ansUnsupported } := by
  rcases h with h | h | h <;> simp [State.hostAccess, hlink, h]

variable {i : Nat} {d0 d1 : Word} (hten : (s.tenAt p u).tstate ≠ 0) (hon : bits (s.tenAt p u).txctl 8 8 = 1)
  (hwin : (s.tenAt p u).hostWindow o = some (i, d0, d1))
include hten hon hwin

theorem hostAccess_notGranted (h : d1.getLsbD (if w then 1 else 0) = false) :
    s.hostAccess p u w o n data = { s with answer := ansUnsupported } := by
  simp [State.hostAccess, hlink, hten, hon, hwin, h]

variable (hgrant : d1.getLsbD (if w then 1 else 0) = true)
include hgrant

theorem hostAccess_behind (h : (s.pkgAt p).held.any (fun h => !h.mmio && h.tenant.toNat == u) = true) :
    s.hostAccess p u w o n data = s.hold p u w false o (windowVa d0 d1 o) n data := by
  rw [windowVa]
  simp [State.hostAccess, hlink, hten, hon, hwin, hgrant, h]

variable (hfree : (s.pkgAt p).held.any (fun h => !h.mmio && h.tenant.toNat == u) = false)
include hfree

theorem hostAccess_done {t : State} {ans : List Byte} (h : s.hostPerform p u w (windowVa d0 d1 o) n data = .done t ans) :
    s.hostAccess p u w o n data = { t with answer := ans } := by
  rw [windowVa] at h
  simp [State.hostAccess, hlink, hten, hon, hwin, hgrant, hfree, h]

theorem hostAccess_wait {t : State} (h : s.hostPerform p u w (windowVa d0 d1 o) n data = .wait t) :
    s.hostAccess p u w o n data = t.hold p u w false o (windowVa d0 d1 o) n data := by
  rw [windowVa] at h ⊢
  simp [State.hostAccess, hlink, hten, hon, hwin, hgrant, hfree, h]

theorem hostAccess_absent {t : State} (h : s.hostPerform p u w (windowVa d0 d1 o) n data = .absent t) :
    s.hostAccess p u w o n data = (t.hostFault p u i (windowVa d0 d1 o) w).hold p u w true o (windowVa d0 d1 o) n data := by
  rw [windowVa] at h ⊢
  simp [State.hostAccess, hlink, hten, hon, hwin, hgrant, hfree, h]

end

section
variable {s t : State} {p i : Nat} {h : HeldAccess} (hi : (s.pkgAt p).held[i]? = some h)
include hi

theorem retryHeld_notTurn (hturn : (s.pkgAt p).heldTurn i = false) : s.retryHeld p i = s := by
  simp [State.retryHeld, hi, hturn]

theorem retryHeld_mmio (hturn : (s.pkgAt p).heldTurn i = true) (hm : h.mmio = true) : s.retryHeld p i =
    { (s.modPkg p (fun k => { k with held := k.held.eraseIdx i })).bar0Write p h.tenant.toNat h.off h.len h.va with
      answer := ansOk [] } := by
  simp [State.retryHeld, hi, hturn, hm]

theorem retryHeld_access (hturn : (s.pkgAt p).heldTurn i = true) (hm : h.mmio = false) : s.retryHeld p i = s.retryAccess p i h := by
  simp [State.retryHeld, hi, hturn, hm]

theorem expireHeld_due (hab : h.absent = true) (hdue : us 1000 ≤ s.wall - h.since)
    (hp : s.hostPerform p h.tenant.toNat h.write h.va.toNat h.len h.data = .absent t) : s.expireHeld p i =
      { (t.modPkg p (fun k => { k with held := k.held.eraseIdx i })).modTen p h.tenant.toNat
          (fun a => { a with txctl := expireCount a.txctl }) with answer := ansAbort } := by
  simp [State.expireHeld, hi, hab, Nat.not_lt.mpr hdue, hp]

theorem expireHeld_early (hdue : s.wall - h.since < us 1000) : s.expireHeld p i = s := by
  simp [State.expireHeld, hi, hdue]

end

section
variable {s t : State} {p i : Nat} {h : HeldAccess}

theorem retryAccess_done {ans : List Byte} (hp : s.hostPerform p h.tenant.toNat h.write h.va.toNat h.len h.data = .done t ans) :
    s.retryAccess p i h = { t.modPkg p (fun k => { k with held := k.held.eraseIdx i }) with answer := ans } := by
  simp [State.retryAccess, hp]

theorem retryAccess_stillAbsent (hp : s.hostPerform p h.tenant.toNat h.write h.va.toNat h.len h.data = .absent t)
    (hab : h.absent = true) : s.retryAccess p i h = t := by
  simp [State.retryAccess, hp, hab]

theorem retryAccess_absent (hp : s.hostPerform p h.tenant.toNat h.write h.va.toNat h.len h.data = .absent t)
    (hab : h.absent = false) : ∃ w, s.retryAccess p i h = (t.hostFault p h.tenant.toNat w h.va.toNat h.write).modPkg p
      (fun k => k.modHeld i (fun h => { h with absent := true, since := t.wall })) := by
  simp only [State.retryAccess, hp, hab, Bool.false_eq_true, if_false]
  exact ⟨_, rfl⟩

end

/-! ### The obligation -/

/-- Settles O48, in its three parts: the registers that translate, migration, and the host's accesses. -/
theorem translationAndHostEvents : Obligations.TranslationAndHostEvents := by
  unfold Obligations.TranslationAndHostEvents
  refine ⟨fun s => ?registers, fun s => ?migration, fun s => ?host⟩
  case registers =>
    intro p u v k n clean
    refine ⟨fun h => ?waits, fun h => ⟨fun hv hi => ?window, ?troot⟩, fun hl hv => ?split, fun hl => ?splitRefused, rfl,
      fun t0 hwk => ?walk⟩
    case waits =>
      exact ⟨exec_tenantWindowWrite (writeWindow_waits h _ _), exec_trootWrite (writeTroot_waits h _)⟩
    case window =>
      refine ⟨_, exec_tenantWindowWrite (writeWindow_writes h hv hi), noTranslation_invalidateNow _ p u, ?_, rfl⟩
      rw [Option.getD_some, rerooted_tenAt]
      exact mget_mput_same _ _ _
    case troot =>
      refine ⟨_, exec_trootWrite (writeTroot_writes h v), noTranslation_invalidateNow _ p u, rfl, ?_⟩
      rw [Option.getD_some, rerooted_tenAt]
    case split => exact congrArg n (writeHbmsplit_writes hl hv)
    case splitRefused => exact ⟨_, rfl, writeHbmsplit_refused hl⟩
    case walk =>
      have hmoves := movesUnits_translate s p t0.toNat .core u (v.toNat % 2 ^ 56) 0
      exact ⟨exec_pageWalk_core hwk, hmoves.mem, hmoves.jobs⟩
  case migration =>
    intro p u n q
    refine ⟨fun host => ?submit, fun m l hq hleaf hended harr hfew => ?run, fun m v at_ hq hended hleaf => ?complete⟩
    case submit =>
      intro t dw m r ok hhost
      have hr : r = ok (t.submitMigration p u host) := by
        cases host with
        | false => rfl
        | true =>
          obtain ⟨hlink, hon, hheld⟩ := hhost rfl
          exact congrArg n (hostMmio_migH hlink hon hheld s.arg.val)
      refine ⟨fun hform hpkg hplace hsame hpin hroom => hr.trans (congrArg ok ?_), fun hform => hr.trans (congrArg ok ?_)⟩
      · exact submitMigration_joins hform hpkg hplace hsame hpin hroom
      · exact submitMigration_malformed hform
    case run =>
      intro w
      have hrun : exec .migrationRun s = n (w.startMigration p m) := congrArg n (runMigration_head hq hleaf hended harr hfew)
      rw [hrun]
      refine ⟨fun h => congrArg n (startMigration_noLeaf h), fun v at_ lv h => ?_⟩
      intro base
      refine ⟨fun hv => congrArg n (startMigration_notMigratable h hv), fun hm hs hp hf hok => ?_⟩
      obtain ⟨t, hstart, hbusy, hmem, hjobs, hhost, htiles⟩ := startMigration_starts h hm hs hp hf hok
      have hmoves : MovesUnits s w := movesUnits_migWalk s p _ _
      rw [migWalk_busyPages] at hbusy
      exact ⟨t, congrArg n hstart, hbusy, hmem.trans hmoves.mem, hjobs.trans hmoves.jobs, hhost, htiles⟩
    case complete =>
      intro quiet c key rest free
      refine ⟨fun h => congrArg n (completeMigration_waits hq hended hleaf h),
        fun h => ⟨copyPage_mem s m v, fun hsame => ?_, fun hch => ?_⟩⟩
      · refine ⟨congrArg n (completeMigration_moved hq hended hleaf h hsame), fun hcan hv => ?_, fun t' ht => migEnd_written ?_⟩
        · have hmem := endMigration_mem { c with mem := rewriteLeaf c.mem v at_ m } p m v at_ (fun l => mput l key s.wall)
          exact (congrArg (fun mem => read64 mem at_) hmem).trans (read64_rewriteLeaf hcan hv hsame m)
        · rw [code_endStatus]
          exact ht
      · exact congrArg n (completeMigration_changed hq hended hleaf h hch)
  case host =>
    intro p u a o n
    refine ⟨fun r l h => ?pop, fun h => ?popNone, fun w => ?access, fun h hi => ?held⟩
    case pop => exact congrArg (fun x => n (dwordAnswer x)) (popHostFault_oldest h)
    case popNone => exact congrArg (fun x => n (dwordAnswer x)) (popHostFault_none h)
    case access =>
      intro x len data hlink
      have hx : exec x s = n (s.hostAccess p u w o len data) := by cases w <;> rfl
      rw [hx]
      refine ⟨fun h => congrArg n (hostAccess_outside hlink h), fun i d0 d1 hten hon hwin => ?_⟩
      intro va
      refine ⟨fun h => congrArg n (hostAccess_notGranted hlink hten hon hwin h), fun hgrant => ⟨fun h => ?_, fun hfree => ?_⟩⟩
      · exact congrArg n (hostAccess_behind hlink hten hon hwin hgrant h)
      · exact ⟨fun t ans h => congrArg n (hostAccess_done hlink hten hon hwin hgrant hfree h),
          fun t h => congrArg n (hostAccess_wait hlink hten hon hwin hgrant hfree h),
          fun t h => congrArg n (hostAccess_absent hlink hten hon hwin hgrant hfree h)⟩
    case held =>
      intro gone
      refine ⟨fun hturn => congrArg n (retryHeld_notTurn hi hturn), fun hturn => ⟨fun hm => ?_, fun hm => ?_⟩,
        fun t hp => ⟨fun hab hdue => ?_, fun hdue => ?_⟩⟩
      · exact congrArg n (retryHeld_mmio hi hturn hm)
      · have hretry : exec .hostHeldComplete s = n (s.retryAccess p s.arg.id h) := congrArg n (retryHeld_access hi hturn hm)
        rw [hretry]
        refine ⟨fun t ans hp => congrArg n (retryAccess_done hp), fun t hp => ⟨fun hab => ?_, fun hab => ?_⟩⟩
        · exact congrArg n (retryAccess_stillAbsent hp hab)
        · obtain ⟨i, hfirst⟩ := retryAccess_absent hp hab
          exact ⟨i, congrArg n hfirst⟩
      · exact congrArg n (expireHeld_due hi hab hdue hp)
      · exact congrArg n (expireHeld_early hi hdue)

end Sys2Proof.Machine
end

section
/-!
SUPPORT. The ring counter unit (02 R53 to R61): its counters modulo 2^32, the updates that an operation makes, and O29.
-/

namespace Sys2Proof.Machine

/-! ### Counters modulo 2^32 (R54) -/

theorem dist_add_right {a b : W32} {n : Nat} (h : dist a b + n < 2 ^ 32) : dist a (b + cnt n) = dist a b + n := by
  simp only [dist, cnt, BitVec.toNat_sub, BitVec.toNat_add, BitVec.toNat_ofNat] at *
  omega

theorem dist_add_left {a b : W32} {n : Nat} (h : n ≤ dist a b) : dist (a + cnt n) b = dist a b - n := by
  simp only [dist, cnt, BitVec.toNat_sub, BitVec.toNat_add, BitVec.toNat_ofNat] at *
  omega

/-- The way from `a` to `c` by `b`, where `b` lies before `c`. -/
theorem dist_between {a b c : W32} (h : dist a b ≤ dist a c) : dist b c = dist a c - dist a b := by
  simp only [dist, BitVec.toNat_sub] at *
  omega

/-- A counter that has advanced by less than half the circle is not where it was. -/
theorem ne_add_cnt {a : W32} {n : Nat} (h0 : 0 < n) (h1 : n < 2 ^ 32) : a ≠ a + cnt n := by
  intro h
  have hn := congrArg BitVec.toNat h
  simp only [cnt, BitVec.toNat_add, BitVec.toNat_ofNat] at hn
  omega

theorem dist_self (a : W32) : dist a a = 0 := by simp [dist]

theorem ringInv_iff {slots : Nat} {head taken tail claimed : W32} : ringInv slots head taken tail claimed = true ↔
    dist head taken ≤ dist head tail ∧ dist head tail ≤ dist head claimed ∧ dist head claimed ≤ slots := by
  simp [ringInv, and_assoc]

theorem slots_lt {r : Ring} (h : r.lgcount < 16) : r.slots < 2 ^ 16 := Nat.pow_lt_pow_right (by decide) h

section
variable {slots n : Nat} {head taken tail claimed : W32} (hinv : ringInv slots head taken tail claimed = true)
  (hs : slots < 2 ^ 16)
include hinv hs

theorem ringInv_claim (h : dist head claimed + n ≤ slots) : ringInv slots head taken tail (claimed + cnt n) = true := by
  rw [ringInv_iff] at hinv ⊢
  rw [dist_add_right (by omega)]
  omega

theorem ringInv_fill (h : dist head tail + n ≤ dist head claimed) :
    ringInv slots head taken (tail + cnt n) claimed = true := by
  rw [ringInv_iff] at hinv ⊢
  rw [dist_add_right (by omega)]
  omega

theorem ringInv_take (h : n ≤ dist taken tail) : ringInv slots head (taken + cnt n) tail claimed = true := by
  rw [ringInv_iff] at hinv ⊢
  rw [dist_between hinv.1] at h
  rw [dist_add_right (by omega)]
  omega

omit hs in
theorem ringInv_free (h : n ≤ dist head taken) : ringInv slots (head + cnt n) taken tail claimed = true := by
  rw [ringInv_iff] at hinv ⊢
  rw [dist_add_left h, dist_add_left (by omega), dist_add_left (by omega)]
  omega
end

/-! ### An update of the counters (R54, R57) -/

/-- The ring with other counters. -/
def Ring.withCounters (r : Ring) (head taken tail claimed : W32) : Ring :=
  { r with head := head, taken := taken, tail := tail, claimed := claimed }

theorem update_kept {r : Ring} {head taken tail claimed : W32} (h : ringInv r.slots head taken tail claimed = true)
    (f : Ring → Ring) (l : List Done) :
    r.update head taken tail claimed f l = ⟨f (r.withCounters head taken tail claimed), l, false⟩ := if_pos h

/-- On a ring of data head and taken stay where tail advances (R57). -/
theorem advance_data {r : Ring} {n : Nat} (h : r.slotsz ≠ 0) (f : Ring → Ring) (l : List Done) :
    r.advance n f l = r.update r.head r.taken (r.tail + cnt n) r.claimed f l := by
  simp [Ring.advance, h]

/-! ### What an update leaves to be done (R57 to R60) -/

@[simp] theorem firstOf_nil {α : Type} : firstOf ([] : List (Option α)) = none := rfl
@[simp] theorem firstOf_none_cons {α : Type} (l : List (Option α)) : firstOf (none :: l) = firstOf l := rfl

@[simp] theorem firstOf_singleton {α : Type} (x : Option α) : firstOf [x] = x := by cases x <;> rfl

@[simp] theorem firstOf_cons_none {α : Type} (x : Option α) (l : List (Option α)) :
    firstOf (x :: none :: l) = firstOf (x :: l) := by cases x <;> rfl

theorem firstOf_none {α : Type} {l : List (Option α)} (h : ∀ x ∈ l, x = none) : firstOf l = none := by
  induction l with
  | nil => rfl
  | cons x l ih =>
    obtain rfl := h x (by simp)
    exact ih fun y hy => h y (by simp [hy])

/-- No void range of the ring is to be filled now. -/
def Ring.VoidsWait (r : Ring) : Prop := ∀ v ∈ r.voidRanges, v.start = r.tail → v.len = 0

theorem Ring.VoidsWait.of_nil {r : Ring} (h : r.voidRanges = []) : r.VoidsWait := by simp [Ring.VoidsWait, h]

theorem Ring.VoidsWait.tryVoid {r : Ring} (h : r.VoidsWait) : firstOf (r.voidRanges.map r.tryVoid) = none := by
  refine firstOf_none fun x hx => ?_
  obtain ⟨v, hv, rfl⟩ := List.mem_map.mp hx
  exact if_neg fun hc => hc.2 (h v hv hc.1)

/-- What the unit does for one waiter of an active ring. -/
def Ring.attempt (r : Ring) (w : Waiter) : Option RingOut :=
  match w.op with
  | .fill => r.tryFill w
  | .free => r.tryFree w
  | .claim n => r.tryClaim w n
  | .take n => r.tryTake w n
  | .obs k => r.tryObs w k
  | .held _ _ _ => none

theorem pump1_inactive {r : Ring} (h : r.st ≠ .active) : r.pump1 = none := if_pos h

/-- With no waiter the unit has void ranges to fill and departed takes to free alone. -/
theorem pump1_noWaiters {r : Ring} (h : r.waiters = []) : r.pump1 = if r.st ≠ .active then none else
    firstOf [firstOf (r.voidRanges.map r.tryVoid), firstOf (r.freeRanges.map r.tryDeparted)] := by
  unfold Ring.pump1
  rw [h]
  cases firstOf (r.voidRanges.map r.tryVoid) <;> simp [firstOf]

theorem pump1_rest {r : Ring} (hw : r.waiters = []) (hf : r.freeRanges = []) (hv : r.VoidsWait) : r.pump1 = none := by
  rw [pump1_noWaiters hw, hf, hv.tryVoid]
  exact ite_self _

/-- With one waiter and no range to be moved, the unit tries that waiter alone. -/
theorem pump1_waiter {r : Ring} {w : Waiter} (ha : r.st = .active) (hw : r.waiters = [w]) (hf : r.freeRanges = [])
    (hv : r.VoidsWait) : r.pump1 = r.attempt w := by
  unfold Ring.pump1
  rw [hw, hf, hv.tryVoid, if_neg (not_not_intro ha)]
  obtain ⟨op, b⟩ := w
  unfold Ring.attempt
  cases op <;> simp only [List.map, List.find?, RingWait.isClaim, RingWait.isTake, firstOf_nil, firstOf_none_cons,
    firstOf_singleton, firstOf_cons_none]

/-- The unit fills the void range at tail (R60). -/
theorem pump1_void {r : Ring} {v : RingRange} (ha : r.st = .active) (hw : r.waiters = []) (hv : r.voidRanges = [v])
    (hz : r.slotsz ≠ 0) (hstart : v.start = r.tail) (hlen : 0 < v.len)
    (hinv : ringInv r.slots r.head r.taken (r.tail + cnt v.len) r.claimed = true) :
    r.pump1 = some ⟨{ r with tail := r.tail + cnt v.len }, [], false⟩ := by
  have htry : r.tryVoid v = some ⟨{ r with tail := r.tail + cnt v.len }, [], false⟩ := by
    rw [Ring.tryVoid, if_pos ⟨hstart, Nat.ne_of_gt hlen⟩, advance_data hz, update_kept hinv]
    exact congrArg (fun q => some (RingOut.mk q [] false)) (if_neg hz)
  have hfirst : firstOf (r.voidRanges.map r.tryVoid) = r.tryVoid v := by simp [hv]
  rw [pump1_noWaiters hw, if_neg (not_not_intro ha), hfirst, htry]
  rfl

/-- The unit frees the departed take at head (R60). -/
theorem pump1_departed {r : Ring} {f : RingRange} (ha : r.st = .active) (hw : r.waiters = []) (hv : r.VoidsWait)
    (hf : r.freeRanges = [f]) (hstart : f.start = r.head)
    (hinv : ringInv r.slots (r.head + cnt f.len) r.taken r.tail r.claimed = true) :
    r.pump1 = some ⟨{ r with head := r.head + cnt f.len, freeRanges := [] }, [], false⟩ := by
  have htry : r.tryDeparted f = some ⟨{ r with head := r.head + cnt f.len, freeRanges := [] }, [], false⟩ := by
    rw [Ring.tryDeparted, if_pos hstart, update_kept hinv]
    simp [Ring.withCounters, hf]
  rw [pump1_noWaiters hw, if_neg (not_not_intro ha), hf, hv.tryVoid, List.map_singleton, htry]
  rfl

/-- A departed take that is not at head stays. -/
theorem pump1_departedWaits {r : Ring} {f : RingRange} (hw : r.waiters = []) (hv : r.VoidsWait) (hf : r.freeRanges = [f])
    (hstart : f.start ≠ r.head) : r.pump1 = none := by
  have htry : r.tryDeparted f = none := if_neg hstart
  rw [pump1_noWaiters hw, hf, hv.tryVoid, List.map_singleton, htry]
  exact ite_self _

theorem pump_rest {o : RingOut} (h : o.ring.pump1 = none) : o.pump = o := by
  simp only [RingOut.pump, pumpFor, h]

theorem pump_once {o p : RingOut} (h : o.ring.pump1 = some p) (hp : p.ring.pump1 = none) :
    o.pump = ⟨p.ring, o.done ++ p.done, o.froze || p.froze⟩ := by
  simp only [RingOut.pump, pumpFor, h]
  generalize List.length _ + _ + _ = n
  cases n with
  | zero => rfl
  | succ n => simp only [pumpFor, hp]


/-! ### An operation that waits at its ring (R57, R58) -/

/-- The ring with one more waiter. -/
def Ring.addWaiter (r : Ring) (w : Waiter) : Ring := { r with waiters := r.waiters ++ [w] }

theorem dropWaiter_addWaiter {r : Ring} (h : r.waiters = []) (w : Waiter) : (r.addWaiter w).dropWaiter w = r := by
  cases r
  cases h
  simp [Ring.addWaiter, Ring.dropWaiter]

theorem queue_inactive {r : Ring} (h : r.st ≠ .active) (b : Issuer) (op : RingWait) :
    r.queue b op = ⟨r.addWaiter ⟨op, b⟩, [], false⟩ := pump_rest (pump1_inactive h)

/-- An active ring at which nothing waits and which owes no range. -/
structure Ring.Rests (r : Ring) : Prop where
  active : r.st = .active
  waiters : r.waiters = []
  frees : r.freeRanges = []
  voids : r.VoidsWait

theorem Ring.Rests.pump1 {r : Ring} (h : r.Rests) : r.pump1 = none := pump1_rest h.waiters h.frees h.voids

section
variable {r : Ring} (hr : r.Rests) {b : Issuer} {op : RingWait}
include hr

theorem pump1_addWaiter (w : Waiter) : (r.addWaiter w).pump1 = (r.addWaiter w).attempt w :=
  pump1_waiter hr.active (congrArg (· ++ [w]) hr.waiters) hr.frees hr.voids

theorem queue_waits (h : (r.addWaiter ⟨op, b⟩).attempt ⟨op, b⟩ = none) :
    r.queue b op = ⟨r.addWaiter ⟨op, b⟩, [], false⟩ :=
  pump_rest ((pump1_addWaiter hr _).trans h)

/-- One update answers the waiter, and nothing is left to do. -/
theorem queue_once {p : RingOut} (h : (r.addWaiter ⟨op, b⟩).attempt ⟨op, b⟩ = some p) (hp : p.ring.pump1 = none) :
    r.queue b op = p :=
  pump_once ((pump1_addWaiter hr _).trans h) hp

theorem queue_answers {st : RingStatus} (h : (r.addWaiter ⟨op, b⟩).attempt ⟨op, b⟩ =
    some ⟨(r.addWaiter ⟨op, b⟩).dropWaiter ⟨op, b⟩, [(b, ringResult r st 0 0)], false⟩) : r.queue b op = r.answer b st := by
  rw [dropWaiter_addWaiter hr.waiters] at h
  exact queue_once hr h hr.pump1

/-- An update of the counters that takes the waiter with it. -/
theorem queue_updates {head taken tail claimed : W32} {f : Ring → Ring} {l : List Done}
    (h : (r.addWaiter ⟨op, b⟩).attempt ⟨op, b⟩ =
      some ((r.addWaiter ⟨op, b⟩).update head taken tail claimed (fun q => f (q.dropWaiter ⟨op, b⟩)) l))
    (hinv : ringInv r.slots head taken tail claimed = true)
    (hp : (f (r.withCounters head taken tail claimed)).pump1 = none) :
    r.queue b op = ⟨f (r.withCounters head taken tail claimed), l, false⟩ := by
  have hwaiters : (r.withCounters head taken tail claimed).waiters = [] := hr.waiters
  have hupdate : (r.addWaiter ⟨op, b⟩).update head taken tail claimed (fun q => f (q.dropWaiter ⟨op, b⟩)) l =
      ⟨f (((r.withCounters head taken tail claimed).addWaiter ⟨op, b⟩).dropWaiter ⟨op, b⟩), l, false⟩ :=
    update_kept (r := r.addWaiter _) hinv _ l
  rw [hupdate, dropWaiter_addWaiter hwaiters] at h
  exact queue_once hr h hp
end

/-! ### Which operations reach the waiters (R55, R56, R61) -/

section
variable {r : Ring} {b : Issuer} {n : Nat} (ha : r.st = .active)
include ha

theorem claim_queues (hm : b.jid ∈ r.prods) (ho : rangeOf r.claims b.jid = none) (h0 : 0 < n) (hn : n ≤ r.slots) :
    r.claim b n = r.queue b (.claim n) := by
  simp [Ring.claim, ha, hm, ho, Nat.ne_of_gt h0, Nat.not_lt.mpr hn]

theorem claim_openRange {c : RingRange} (hm : b.jid ∈ r.prods) (ho : rangeOf r.claims b.jid = some c) :
    r.claim b n = r.answer b .openRange := by
  simp [Ring.claim, ha, hm, ho]

theorem fill_queues (hm : b.jid ∈ r.prods) : r.fill b = r.queue b .fill := by simp [Ring.fill, ha, hm]

theorem take_queues (hm : b.jid ∈ r.cons) (ho : rangeOf r.takes b.jid = none) (h0 : 0 < n) (hn : n ≤ r.slots) :
    r.take b n = r.queue b (.take n) := by
  simp [Ring.take, ha, hm, ho, Nat.ne_of_gt h0, Nat.not_lt.mpr hn]

theorem take_openRange {c : RingRange} (hm : b.jid ∈ r.cons) (ho : rangeOf r.takes b.jid = some c) :
    r.take b n = r.answer b .openRange := by
  simp [Ring.take, ha, hm, ho]

theorem observe_queues (hm : b.jid ∈ r.cons) (k : W32) : r.observe b k = r.queue b (.obs k) := by simp [Ring.observe, ha, hm]

theorem free_queues (hm : b.jid ∈ r.cons) : r.free b = r.queue b .free := by simp [Ring.free, ha, hm]
end

section
variable {r : Ring} {b : Issuer} (hf : r.st ≠ .frozen)
include hf

theorem notProducer (h : r.st = .idle ∨ b.jid ∉ r.prods) (n : Nat) :
    r.claim b n = r.answer b .notJoined ∧ r.fill b = r.answer b .notJoined := by
  simp [Ring.claim, Ring.fill, hf, h]

theorem notConsumer (h : r.st = .idle ∨ b.jid ∉ r.cons) (n : Nat) (k : W32) :
    r.take b n = r.answer b .notJoined ∧ r.observe b k = r.answer b .notJoined ∧ r.free b = r.answer b .notJoined := by
  simp [Ring.take, Ring.observe, Ring.free, hf, h]
end

/-! ### Claims and fills (R57 to R59) -/

section
variable {r : Ring} {b : Issuer} {n : Nat} (hr : r.Rests) (hm : b.jid ∈ r.prods)
include hr hm

theorem claim_granted (ho : rangeOf r.claims b.jid = none) (h0 : 0 < n) (hn : n ≤ r.slots) (hs : r.slots < 2 ^ 16)
    (hinv : ringInv r.slots r.head r.taken r.tail r.claimed = true) (hroom : dist r.head r.claimed + n ≤ r.slots) :
    r.claim b n = ⟨{ r with claimed := r.claimed + cnt n, claims := r.claims ++ [⟨b.jid, r.claimed, n⟩] },
      [(b, ringResult r .ok n r.claimed)], false⟩ := by
  have hnone : (rangeOf (r.addWaiter ⟨.claim n, b⟩).claims b.jid).isSome = false := congrArg Option.isSome ho
  rw [claim_queues hr.active hm ho h0 hn]
  refine queue_updates hr (f := fun q => { q with claims := q.claims ++ [⟨b.jid, r.claimed, n⟩] }) ?_
    (ringInv_claim hinv hs hroom) (pump1_rest hr.waiters hr.frees hr.voids)
  exact (if_neg (by simp [hnone])).trans (if_pos hroom)

/-- A claim without room waits for it, unless no consumer is left to make any (R59). -/
theorem claim_noRoom (ho : rangeOf r.claims b.jid = none) (h0 : 0 < n) (hn : n ≤ r.slots)
    (hroom : r.slots < dist r.head r.claimed + n) :
    r.claim b n = if r.slotsz ≠ 0 ∧ r.cons = [] ∧ r.taken = r.head then r.answer b .orphaned
      else ⟨r.addWaiter ⟨.claim n, b⟩, [], false⟩ := by
  have hnone : (rangeOf (r.addWaiter ⟨.claim n, b⟩).claims b.jid).isSome = false := congrArg Option.isSome ho
  have htry : (r.addWaiter ⟨.claim n, b⟩).attempt ⟨.claim n, b⟩ = if r.slotsz ≠ 0 ∧ r.cons = [] ∧ r.taken = r.head then
      some ⟨(r.addWaiter ⟨.claim n, b⟩).dropWaiter ⟨.claim n, b⟩, [(b, ringResult r .orphaned 0 0)], false⟩ else none :=
    (if_neg (by simp [hnone])).trans (if_neg (Nat.not_le.mpr hroom))
  rw [claim_queues hr.active hm ho h0 hn]
  split
  · next h => exact queue_answers hr (htry.trans (if_pos h))
  · next h => exact queue_waits hr (htry.trans (if_neg h))

theorem fill_advances (hv : r.voidRanges = []) (hz : r.slotsz ≠ 0) (hs : r.slots < 2 ^ 16)
    (ho : rangeOf r.claims b.jid = some ⟨b.jid, r.tail, n⟩)
    (hinv : ringInv r.slots r.head r.taken r.tail r.claimed = true) (hn : dist r.head r.tail + n ≤ dist r.head r.claimed) :
    r.fill b = ⟨{ r with tail := r.tail + cnt n, claims := dropRange r.claims b.jid }, [(b, ringResult r .ok n r.tail)], false⟩ := by
  rw [fill_queues hr.active hm]
  refine queue_updates hr (head := r.head) (taken := r.taken) (f := fun q => { q with claims := dropRange q.claims b.jid }) ?_
    (ringInv_fill hinv hs hn) (pump1_rest hr.waiters hr.frees (.of_nil hv))
  have hopen : rangeOf (r.addWaiter ⟨.fill, b⟩).claims b.jid = some ⟨b.jid, r.tail, n⟩ := ho
  simp only [Ring.attempt, Ring.tryFill, hopen]
  exact (if_pos rfl).trans (congrArg some (advance_data (r := r.addWaiter _) hz _ _))

theorem fill_early {c : RingRange} (ho : rangeOf r.claims b.jid = some c) (hc : c.start ≠ r.tail) :
    r.fill b = ⟨r.addWaiter ⟨.fill, b⟩, [], false⟩ := by
  have hopen : rangeOf (r.addWaiter ⟨.fill, b⟩).claims b.jid = some c := ho
  rw [fill_queues hr.active hm]
  refine queue_waits hr ?_
  simp only [Ring.attempt, Ring.tryFill, hopen]
  exact if_neg hc
end

/-! ### Takes, frees and observations (R57 to R60; 10 R269) -/

theorem available_noVoid {r : Ring} (h : r.voidRanges = []) (n : Nat) :
    r.available n = if n ≤ dist r.taken r.tail then some (.ok, n, none) else none := by
  simp [Ring.available, Ring.nextVoid, h]

/-- A void range at taken is what a take is granted, as far as it goes (R60). -/
theorem available_void {r : Ring} {v : RingRange} {n : Nat} (h : r.voidRanges = [v]) (h0 : 0 < n) (hstart : v.start = r.taken)
    (hfilled : r.filled v = true) : r.available n = some (.void, min n v.len, some v) := by
  simp [Ring.available, Ring.nextVoid, h, hstart, dist_self, h0, hfilled]

section
variable (r : Ring) (v : RingRange) (k : Nat)

@[simp] theorem takeVoid_waiters : (r.takeVoid v k).waiters = r.waiters := by unfold Ring.takeVoid; split <;> rfl
@[simp] theorem takeVoid_freeRanges : (r.takeVoid v k).freeRanges = r.freeRanges := by unfold Ring.takeVoid; split <;> rfl
@[simp] theorem takeVoid_head : (r.takeVoid v k).head = r.head := by unfold Ring.takeVoid; split <;> rfl
@[simp] theorem takeVoid_taken : (r.takeVoid v k).taken = r.taken := by unfold Ring.takeVoid; split <;> rfl
@[simp] theorem takeVoid_tail : (r.takeVoid v k).tail = r.tail := by unfold Ring.takeVoid; split <;> rfl
end

/-- A void range that the unit has filled is not filled again. -/
theorem voidsWait_filled {r : Ring} {v : RingRange} (hv : r.voidRanges = [v]) (hlen : v.len ≤ dist v.start r.tail) :
    r.VoidsWait := by
  intro x hx hstart
  obtain rfl : x = v := by simpa [hv] using hx
  rw [hstart, dist_self] at hlen
  omega

/-- Nor is what a take leaves of it. -/
theorem voidsWait_takeVoid {r : Ring} {v : RingRange} {k : Nat} (hv : r.voidRanges = [v]) (hlen : v.len ≤ dist v.start r.tail) :
    (r.takeVoid v k).VoidsWait := by
  by_cases hk : k < v.len
  · have hleft : (r.takeVoid v k).voidRanges = [{ v with start := v.start + cnt k, len := v.len - k }] := by
      simp [Ring.takeVoid, hk, hv]
    refine voidsWait_filled hleft ?_
    rw [takeVoid_tail]
    show v.len - k ≤ dist (v.start + cnt k) r.tail
    rw [dist_add_left (by omega)]
    omega
  · refine .of_nil ?_
    simp [Ring.takeVoid, hk, hv]

section
variable {r : Ring} {b : Issuer} {n : Nat} (hr : r.Rests) (hm : b.jid ∈ r.cons)
include hr hm

section
variable (ho : rangeOf r.takes b.jid = none) (h0 : 0 < n) (hn : n ≤ r.slots)
include ho h0 hn

theorem take_granted (hv : r.voidRanges = []) (hs : r.slots < 2 ^ 16)
    (hinv : ringInv r.slots r.head r.taken r.tail r.claimed = true) (htok : n ≤ dist r.taken r.tail) :
    r.take b n = ⟨{ r with taken := r.taken + cnt n, takes := r.takes ++ [⟨b.jid, r.taken, n⟩] },
      [(b, ringResult r .ok n r.taken)], false⟩ := by
  have hnone : (rangeOf (r.addWaiter ⟨.take n, b⟩).takes b.jid).isSome = false := congrArg Option.isSome ho
  have havail : (r.addWaiter ⟨.take n, b⟩).available n = some (.ok, n, none) :=
    (available_noVoid (r := r.addWaiter _) hv n).trans (if_pos htok)
  rw [take_queues hr.active hm ho h0 hn]
  refine queue_updates hr (f := fun q => { q with takes := q.takes ++ [⟨b.jid, r.taken, n⟩] }) ?_
    (ringInv_take hinv hs htok) (pump1_rest hr.waiters hr.frees hr.voids)
  simp only [Ring.attempt, Ring.tryTake, hnone, havail, Bool.false_eq_true, if_false]
  rfl

/-- A take without tokens waits for them, unless nothing more is ever filled (R59). -/
theorem take_noTokens (hv : r.voidRanges = []) (htok : dist r.taken r.tail < n) :
    r.take b n = if r.dry then r.answer b .orphaned else ⟨r.addWaiter ⟨.take n, b⟩, [], false⟩ := by
  have hnone : (rangeOf (r.addWaiter ⟨.take n, b⟩).takes b.jid).isSome = false := congrArg Option.isSome ho
  have havail : (r.addWaiter ⟨.take n, b⟩).available n = none :=
    (available_noVoid (r := r.addWaiter _) hv n).trans (if_neg (Nat.not_le.mpr htok))
  have htry : (r.addWaiter ⟨.take n, b⟩).attempt ⟨.take n, b⟩ = if r.dry then
      some ⟨(r.addWaiter ⟨.take n, b⟩).dropWaiter ⟨.take n, b⟩, [(b, ringResult r .orphaned 0 0)], false⟩ else none := by
    simp only [Ring.attempt, Ring.tryTake, hnone, havail, Bool.false_eq_true, if_false]
    rfl
  rw [take_queues hr.active hm ho h0 hn]
  split
  · next h => exact queue_answers hr (htry.trans (if_pos h))
  · next h => exact queue_waits hr (htry.trans (if_neg h))

/-- A take at a void range is granted what it asks of it (R60). -/
theorem take_void {v : RingRange} (hv : r.voidRanges = [v]) (hs : r.slots < 2 ^ 16)
    (hinv : ringInv r.slots r.head r.taken r.tail r.claimed = true) (hstart : v.start = r.taken) (hlen : 0 < v.len)
    (hfill : v.len ≤ dist r.taken r.tail) :
    r.take b n = ⟨Ring.takeVoid { r with taken := r.taken + cnt (min n v.len), takes := r.takes ++ [⟨b.jid, r.taken, min n v.len⟩] }
        v (min n v.len), [(b, ringResult r .void (min n v.len) r.taken)], false⟩ := by
  have hnone : (rangeOf (r.addWaiter ⟨.take n, b⟩).takes b.jid).isSome = false := congrArg Option.isSome ho
  obtain ⟨h1, h2, h3⟩ := ringInv_iff.mp hinv
  have hfilled : r.filled v = true := by
    have hd := dist_between h1
    simp only [Ring.filled, hstart, Bool.and_eq_true, decide_eq_true_eq]
    omega
  have havail : (r.addWaiter ⟨.take n, b⟩).available n = some (.void, min n v.len, some v) :=
    available_void (r := r.addWaiter _) hv h0 hstart hfilled
  rw [take_queues hr.active hm ho h0 hn]
  refine queue_updates hr (f := fun q => Ring.takeVoid { q with takes := q.takes ++ [⟨b.jid, r.taken, min n v.len⟩] } v (min n v.len)) ?_
    (ringInv_take hinv hs (le_trans (min_le_right _ _) hfill)) (pump1_rest ?_ ?_ ?_)
  · simp only [Ring.attempt, Ring.tryTake, hnone, havail, Bool.false_eq_true, if_false]
    rfl
  · exact (takeVoid_waiters _ _ _).trans hr.waiters
  · exact (takeVoid_freeRanges _ _ _).trans hr.frees
  · exact voidsWait_takeVoid hv (by rw [hstart]; exact hfill)
end

theorem free_advances (ho : rangeOf r.takes b.jid = some ⟨b.jid, r.head, n⟩)
    (hinv : ringInv r.slots r.head r.taken r.tail r.claimed = true) (hn : n ≤ dist r.head r.taken) :
    r.free b = ⟨{ r with head := r.head + cnt n, takes := dropRange r.takes b.jid }, [(b, ringResult r .ok n r.head)], false⟩ := by
  rw [free_queues hr.active hm]
  refine queue_updates hr (f := fun q => { q with takes := dropRange q.takes b.jid }) ?_
    (ringInv_free hinv hn) (pump1_rest hr.waiters hr.frees hr.voids)
  have hopen : rangeOf (r.addWaiter ⟨.free, b⟩).takes b.jid = some ⟨b.jid, r.head, n⟩ := ho
  simp only [Ring.attempt, Ring.tryFree, hopen]
  exact if_pos rfl

theorem free_early {c : RingRange} (ho : rangeOf r.takes b.jid = some c) (hc : c.start ≠ r.head) :
    r.free b = ⟨r.addWaiter ⟨.free, b⟩, [], false⟩ := by
  have hopen : rangeOf (r.addWaiter ⟨.free, b⟩).takes b.jid = some c := ho
  rw [free_queues hr.active hm]
  refine queue_waits hr ?_
  simp only [Ring.attempt, Ring.tryFree, hopen]
  exact if_neg hc

/-- An observation waits for its count, unless nothing more is ever filled (10 R269). -/
theorem observe_answer (k : W32) : r.observe b k = if r.reached k then r.answer b .ok else
    if r.dry then r.answer b .orphaned else ⟨r.addWaiter ⟨.obs k, b⟩, [], false⟩ := by
  rw [observe_queues hr.active hm]
  split
  · next h => exact queue_answers hr (if_pos h)
  · next h =>
    split
    · next hd => exact queue_answers hr ((if_neg h).trans (if_pos hd))
    · next hd => exact queue_waits hr ((if_neg h).trans (if_neg hd))
end

/-! ### Members that leave (R56, R60) -/

/-- The ring without the producer `jid`, and without the consumer. -/
def Ring.withoutProd (r : Ring) (jid : Nat) : Ring := { r with prods := r.prods.erase jid, claims := dropRange r.claims jid }
def Ring.withoutCons (r : Ring) (jid : Nat) : Ring := { r with cons := r.cons.erase jid, takes := dropRange r.takes jid }

/-- The ring without the producer `jid`, whose open claim `c` is its one void range (R60). -/
def Ring.withVoid (r : Ring) (jid : Nat) (c : RingRange) : Ring :=
  { r.withoutProd jid with voidRanges := [c], voids := r.voids + 1 }

theorem expel_nobody {o : RingOut} (h : o.ring.waiters = []) (jid : Nat) (f : RingWait → Bool) : Ring.expel o jid f = o := by
  obtain ⟨r, done, froze⟩ := o
  cases r
  cases h
  simp [Ring.expel]

section
variable {r : Ring} {b : Issuer}

theorem leave_prod {q : Ring} {froze : Bool} (hf : r.st ≠ .frozen)
    (h : (RingOut.leaveProd ⟨r, [], false⟩ b.jid).pump = ⟨q, [], froze⟩) :
    r.leave b true false = ⟨q, [(b, ringResult r .ok 0 0)], froze⟩ := by
  simp [Ring.leave, Ring.leaveRoles, hf, h]

theorem leave_cons {q : Ring} {froze : Bool} (hf : r.st ≠ .frozen)
    (h : (RingOut.leaveCons ⟨r, [], false⟩ b.jid).pump = ⟨q, [], froze⟩) :
    r.leave b false true = ⟨q, [(b, ringResult r .ok 0 0)], froze⟩ := by
  simp [Ring.leave, Ring.leaveRoles, hf, h]

section
variable {jid : Nat} {c : RingRange} (hw : r.waiters = []) (hm : jid ∈ r.prods)
include hw hm

theorem leaveProd_closed (ho : rangeOf r.claims jid = none) :
    RingOut.leaveProd ⟨r, [], false⟩ jid = ⟨r.withoutProd jid, [], false⟩ := by
  simp [RingOut.leaveProd, expel_nobody (o := ⟨r, [], false⟩) hw, hm, ho, Ring.withoutProd]

theorem leaveProd_ninth (ho : rangeOf r.claims jid = some c) (h8 : 8 ≤ r.voids) :
    RingOut.leaveProd ⟨r, [], false⟩ jid = ⟨{ r.withoutProd jid with st := .frozen }, [], true⟩ := by
  simp [RingOut.leaveProd, expel_nobody (o := ⟨r, [], false⟩) hw, hm, ho, Ring.withoutProd, h8]

theorem leaveProd_void (hv : r.voidRanges = []) (ho : rangeOf r.claims jid = some c) (h8 : r.voids < 8) :
    RingOut.leaveProd ⟨r, [], false⟩ jid = ⟨r.withVoid jid c, [], false⟩ := by
  simp [RingOut.leaveProd, hv, expel_nobody (o := ⟨r, [], false⟩) hw, hm, ho, Ring.withoutProd, Ring.withVoid, Nat.not_le.mpr h8]
end

section
variable {jid : Nat} {c : RingRange} (hw : r.waiters = []) (hm : jid ∈ r.cons)
include hw hm

theorem leaveCons_closed (ho : rangeOf r.takes jid = none) :
    RingOut.leaveCons ⟨r, [], false⟩ jid = ⟨r.withoutCons jid, [], false⟩ := by
  simp [RingOut.leaveCons, expel_nobody (o := ⟨r, [], false⟩) hw, hm, ho, Ring.withoutCons]

theorem leaveCons_open (hd : r.freeRanges = []) (ho : rangeOf r.takes jid = some c) :
    RingOut.leaveCons ⟨r, [], false⟩ jid = ⟨{ r.withoutCons jid with freeRanges := [c] }, [], false⟩ := by
  simp [RingOut.leaveCons, hd, expel_nobody (o := ⟨r, [], false⟩) hw, hm, ho, Ring.withoutCons]
end

theorem leave_stranger (hr : r.Rests) (hp : b.jid ∉ r.prods) (hc : b.jid ∉ r.cons) :
    r.leave b true true = r.answer b .ok := by
  have hpump : RingOut.pump ⟨r, [], false⟩ = ⟨r, [], false⟩ := pump_rest hr.pump1
  simp [Ring.leave, Ring.leaveRoles, RingOut.leaveProd, RingOut.leaveCons, hr.active, hp, hc, hpump, Ring.answer]

section
variable {jid : Nat} {c : RingRange} (hr : r.Rests)
include hr

/-- The void range of a producer that leaves stands until tail reaches it, or is filled at once. -/
theorem leaveProd_void_waits (hm : jid ∈ r.prods) (hv : r.voidRanges = []) (ho : rangeOf r.claims jid = some c) (h8 : r.voids < 8)
    (hc : c.start ≠ r.tail) : (RingOut.leaveProd ⟨r, [], false⟩ jid).pump =
      ⟨r.withVoid jid c, [], false⟩ := by
  rw [leaveProd_void hr.waiters hm hv ho h8]
  refine pump_rest (pump1_rest hr.waiters hr.frees fun v hmem hstart => ?_)
  obtain rfl : v = c := List.mem_singleton.mp hmem
  exact absurd hstart hc

theorem leaveProd_void_filled (hm : jid ∈ r.prods) (hv : r.voidRanges = []) (ho : rangeOf r.claims jid = some c) (h8 : r.voids < 8)
    (hc : c.start = r.tail) (hz : r.slotsz ≠ 0) (h0 : 0 < c.len) (h1 : c.len < 2 ^ 31)
    (hinv : ringInv r.slots r.head r.taken (r.tail + cnt c.len) r.claimed = true) :
    (RingOut.leaveProd ⟨r, [], false⟩ jid).pump =
      ⟨{ r.withVoid jid c with tail := r.tail + cnt c.len }, [], false⟩ := by
  rw [leaveProd_void hr.waiters hm hv ho h8]
  have hpassed : Ring.VoidsWait { r.withVoid jid c with tail := r.tail + cnt c.len } := fun v hmem hstart => by
    obtain rfl : v = c := List.mem_singleton.mp hmem
    exact absurd (hc.symm.trans hstart) (ne_add_cnt h0 (by omega))
  have hfilled := pump1_void (r := r.withVoid jid c) hr.active hr.waiters rfl hz hc h0 hinv
  exact pump_once (p := ⟨{ r.withVoid jid c with tail := r.tail + cnt c.len }, [], false⟩) hfilled
    (pump1_rest hr.waiters hr.frees hpassed)

/-- The open take of a consumer that leaves is freed in its turn. -/
theorem leaveCons_open_waits (hm : jid ∈ r.cons) (hv : r.voidRanges = []) (ho : rangeOf r.takes jid = some c)
    (hc : c.start ≠ r.head) : (RingOut.leaveCons ⟨r, [], false⟩ jid).pump =
      ⟨{ r.withoutCons jid with freeRanges := [c] }, [], false⟩ := by
  rw [leaveCons_open hr.waiters hm hr.frees ho]
  exact pump_rest (pump1_departedWaits hr.waiters (.of_nil hv) rfl hc)

theorem leaveCons_open_freed (hm : jid ∈ r.cons) (hv : r.voidRanges = []) (ho : rangeOf r.takes jid = some c)
    (hc : c.start = r.head) (hinv : ringInv r.slots (r.head + cnt c.len) r.taken r.tail r.claimed = true) :
    (RingOut.leaveCons ⟨r, [], false⟩ jid).pump = ⟨{ r.withoutCons jid with head := r.head + cnt c.len }, [], false⟩ := by
  rw [leaveCons_open hr.waiters hm hr.frees ho]
  have hfreed := pump1_departed (r := { r.withoutCons jid with freeRanges := [c] }) hr.active hr.waiters (.of_nil hv) rfl hc hinv
  refine (pump_once hfreed (pump1_rest hr.waiters rfl (.of_nil hv))).trans ?_
  simp [Ring.withoutCons, hr.frees]
end
end

/-! ### Starts, joins and resets (R53, R56, R61) -/

section
variable {r : Ring} {b : Issuer}

theorem init_malformed {img : Word} (h : bits img 61 56 ≠ 0 ∨ bits img 23 23 ≠ 0 ∨ bits img 3 0 ≠ 0) :
    r.init b img = r.answer b .malformed := if_pos h

theorem init_busy {img : Word} (h : ¬(bits img 61 56 ≠ 0 ∨ bits img 23 23 ≠ 0 ∨ bits img 3 0 ≠ 0)) (hst : r.st ≠ .idle) :
    r.init b img = r.answer b .busy := (if_neg h).trans (if_pos hst)

theorem init_starts {img : Word} (h : ¬(bits img 61 56 ≠ 0 ∨ bits img 23 23 ≠ 0 ∨ bits img 3 0 ≠ 0)) (hst : r.st = .idle) :
    r.init b img =
      { Ring.reset with st := .active, lgcount := bits img 55 52, slotsz := bits img 51 40, base := bits img 22 0 }.answer b .ok :=
  (if_neg h).trans (if_neg (not_not_intro hst))

section
variable (hf : r.st ≠ .frozen)
include hf

theorem join_prod (hm : b.jid ∉ r.prods) (hn : r.prods.length < 255) :
    r.join b true false = { r with prods := r.prods ++ [b.jid] }.answer b .ok := by
  simp [Ring.join, hf, hm, Nat.not_le.mpr hn]

theorem join_cons (hm : b.jid ∉ r.cons) (hn : r.cons.length < 255) :
    r.join b false true = { r with cons := r.cons ++ [b.jid] }.answer b .ok := by
  simp [Ring.join, hf, hm, Nat.not_le.mpr hn]

theorem join_prodFull (hm : b.jid ∉ r.prods) (hn : 255 ≤ r.prods.length) : r.join b true false = r.answer b .busy := by
  simp [Ring.join, hf, hm, hn]

theorem join_consFull (hm : b.jid ∉ r.cons) (hn : 255 ≤ r.cons.length) : r.join b false true = r.answer b .busy := by
  simp [Ring.join, hf, hm, hn]

theorem join_again (hp : b.jid ∈ r.prods) (hc : b.jid ∈ r.cons) : r.join b true true = r.answer b .ok := by
  simp [Ring.join, hf, hp, hc]
end

/-- The counters of a reset image, as its words hold them. -/
theorem ofNat_bits_low (d : Word) : BitVec.ofNat 32 (bits d 31 0) = d.setWidth 32 := by
  apply BitVec.eq_of_toNat_eq
  simp [bits]

theorem ofNat_bits_high (d : Word) : BitVec.ofNat 32 (bits d 63 32) = (d >>> 32).setWidth 32 := by
  apply BitVec.eq_of_toNat_eq
  simp [bits, Nat.shiftRight_eq_div_pow]

theorem resetOp_idle (h : r.st = .idle) (d1 d2 d3 : Word) :
    r.resetOp b d1 d2 d3 = { r with prods := [], cons := [] }.answer b .ok := if_pos h

section
variable {d1 d2 : Word} (h : r.st ≠ .idle) (d3 : Word)
include h

theorem resetOp_malformed (hinv : ringInv r.slots (d1.setWidth 32) ((d1 >>> 32).setWidth 32) (d2.setWidth 32)
    ((d2 >>> 32).setWidth 32) = false) : r.resetOp b d1 d2 d3 = r.answer b .malformed := by
  simp only [Ring.resetOp, if_neg h, ofNat_bits_low, ofNat_bits_high, hinv]
  rfl

theorem resetOp_loads (hinv : ringInv r.slots (d1.setWidth 32) ((d1 >>> 32).setWidth 32) (d2.setWidth 32)
    ((d2 >>> 32).setWidth 32) = true) (hd : r.freeRanges = []) (hv : r.voidRanges = []) :
    r.resetOp b d1 d2 d3 =
      ⟨{ r with st := .active, head := d1.setWidth 32, taken := (d1 >>> 32).setWidth 32, tail := d2.setWidth 32
                claimed := (d2 >>> 32).setWidth 32, voids := (d3 >>> 8).toNat % 256, waiters := [] },
        r.waiters.map (fun w => (w.by_, ringResult r .reset 0 0)) ++ [(b, ringResult r .ok 0 0)], false⟩ := by
  have hvoids : bits d3 15 8 = (d3 >>> 8).toNat % 256 := by simp [bits, Nat.shiftRight_eq_div_pow]
  simp only [Ring.resetOp, if_neg h, ofNat_bits_low, ofNat_bits_high, hinv, hvoids]
  exact pump_rest (pump1_rest rfl hd (.of_nil hv))
end
end

/-! ### The obligation -/

/-- Settles O29: an operation stands at its ring as a waiter, for which the unit makes one update or none, and each update that R57
gives keeps the order of the counters. -/
theorem ringGrants : Obligations.RingGrants := by
  unfold Obligations.RingGrants
  refine ⟨?grants, fun r b => ?_⟩
  case grants =>
    intro r b n ha hw hv hf hz hinv hlg h0 hn
    have hr : r.Rests := ⟨ha, hw, hf, .of_nil hv⟩
    have hs := slots_lt hlg
    refine ⟨fun hm ho hroom => ?_, fun hm ho htok => ?_, fun hm ho hfill => ?_, fun hm ho hfree => ?_⟩
    · rw [claim_granted hr hm ho h0 hn hs hinv hroom]
      exact ⟨rfl, rfl, rfl⟩
    · rw [take_granted hr hm ho h0 hn hv hs hinv htok]
      exact ⟨rfl, rfl, rfl⟩
    · rw [fill_advances hr hm hv hz hs ho hinv hfill]
      exact ⟨rfl, rfl, rfl⟩
    · rw [free_advances hr hm ho hinv hfree]
      exact ⟨rfl, rfl, rfl⟩
  intro ok still waits
  refine ⟨fun img => ⟨?malformed, ?wellFormed⟩, fun hst => ?members, fun hst p c n k => ?frozen, fun ha hw hf hv => ?active,
    fun ha hw hf v n hv hstart hfill hlen h0 hn hlg hinv hm ho => ?void, fun d1 d2 d3 => ?reset⟩
  case malformed => exact init_malformed
  case wellFormed =>
    intro h1 h2 h3
    have hform : ¬(bits img 61 56 ≠ 0 ∨ bits img 23 23 ≠ 0 ∨ bits img 3 0 ≠ 0) := by simp [h1, h2, h3]
    refine ⟨init_busy hform, fun hst => ?_⟩
    rw [init_starts hform hst]
    exact ⟨rfl, rfl, rfl, rfl, rfl, rfl, rfl, rfl, rfl, rfl, rfl, rfl, rfl⟩
  case members =>
    refine ⟨join_prod hst, join_cons hst, join_prodFull hst, join_consFull hst, join_again hst, fun n k hp => ?_⟩
    obtain ⟨hclaim, hfill⟩ := notProducer hst hp n
    exact ⟨hclaim, hfill, fun hc => notConsumer hst hc n k⟩
  case frozen =>
    have hqueue : ∀ op, r.queue b op = ⟨r.addWaiter ⟨op, b⟩, [], false⟩ := queue_inactive (by simp [hst]) b
    exact ⟨(if_pos hst).trans (hqueue _), (if_pos hst).trans (hqueue _), (if_pos hst).trans (hqueue _),
      (if_pos hst).trans (hqueue _), (if_pos hst).trans (hqueue _), (if_pos hst).trans (hqueue _), (if_pos hst).trans (hqueue _)⟩
  case active =>
    intro out gone
    have hr : r.Rests := ⟨ha, hw, hf, .of_nil hv⟩
    have hst : r.st ≠ .frozen := by simp [ha]
    refine ⟨fun hp hc => ?_, fun hm ho => ?_, fun hm ho => ?_, fun c hm ho => ⟨fun h8 => ?_, fun h8 hc => ?_, fun h8 hc hz hl hl' hlg hinv hfill => ?_⟩,
      fun c hm ho => ⟨fun hc => ?_, fun hc hlg hinv hfree => ?_⟩, fun k hm => ?_, fun n h0 hn => ⟨fun hm ho hroom => ?_, fun hm ho htok => ?_⟩,
      fun c hm ho => ⟨fun n => ?_, fun hc => ?_⟩, fun c hm ho => ⟨fun n => ?_, fun hc => ?_⟩⟩
    · exact leave_stranger hr hp hc
    · exact leave_prod hst (by rw [leaveProd_closed hw hm ho]; exact pump_rest (pump1_rest hw hf (.of_nil hv)))
    · exact leave_cons hst (by rw [leaveCons_closed hw hm ho]; exact pump_rest (pump1_rest hw hf (.of_nil hv)))
    · exact leave_prod hst (by rw [leaveProd_ninth hw hm ho h8]; exact pump_rest (pump1_inactive (by simp)))
    · exact leave_prod hst (leaveProd_void_waits hr hm hv ho h8 hc)
    · exact leave_prod hst (leaveProd_void_filled hr hm hv ho h8 hc hz hl hl' (ringInv_fill hinv (slots_lt hlg) hfill))
    · exact leave_cons hst (leaveCons_open_waits hr hm hv ho hc)
    · exact leave_cons hst (leaveCons_open_freed hr hm hv ho hc (ringInv_free hinv hfree))
    · have hobs := observe_answer hr hm k
      split_ifs with h1 h2
      · exact hobs.trans (if_pos h1)
      · exact hobs.trans ((if_neg h1).trans (if_pos h2))
      · exact hobs.trans ((if_neg h1).trans (if_neg h2))
    · have hclaim := claim_noRoom hr hm ho h0 hn hroom
      split_ifs with h1
      · exact hclaim.trans (if_pos h1)
      · exact hclaim.trans (if_neg h1)
    · have htake := take_noTokens hr hm ho h0 hn hv htok
      split_ifs with h1
      · exact htake.trans (if_pos h1)
      · exact htake.trans (if_neg h1)
    · exact claim_openRange ha hm ho
    · exact fill_early hr hm ho hc
    · exact take_openRange ha hm ho
    · exact free_early hr hm ho hc
  case void =>
    intro o
    have hr : r.Rests := ⟨ha, hw, hf, voidsWait_filled hv (by rw [hstart]; exact hfill)⟩
    have ho : o = _ := take_void hr hm ho h0 hn hv (slots_lt hlg) hinv hstart hlen hfill
    rw [ho]
    refine ⟨rfl, rfl, takeVoid_taken _ _ _, takeVoid_head _ _ _, takeVoid_tail _ _ _, fun hle => ?_⟩
    simp [Ring.takeVoid, Nat.not_lt.mpr (le_min hle le_rfl), hv]
  case reset =>
    exact ⟨fun h => resetOp_idle h d1 d2 d3, fun h => resetOp_malformed h d3, fun h hinv hd hv => resetOp_loads h d3 hinv hd hv⟩

end Sys2Proof.Machine
end

section
/-!
SUPPORT. The local queue of a core: the place of its tile's storage, what keeps an access without a result, and what such an access
comes to (05 R119, R125, R127 to R130; log 5).
-/

namespace Sys2Proof.Machine

/-! ### The place of a tile's own storage (01 R22, R32; 05 R120) -/

/-- What a scratchpad's base and a tag entry are named where the DDR-5 does not reach so far. -/
theorem regionOf_pad {ddr t : Nat} (ht : t < 256) (h : ddrBase + ddr * 16 * gib ≤ apBase + t * 0x80_0000) :
    regionOf ddr (apBase + t * 0x80_0000) = .aperture t 0 := by
  have hsub : apBase + t * 0x80_0000 - apBase = t * 0x80_0000 := Nat.add_sub_cancel_left ..
  have hpad : t * 0x80_0000 % 0x80_0000 < padSize := (Nat.mul_mod_left t _).symm ▸ (by decide)
  unfold regionOf
  rw [if_neg (by simp only [apBase, hbmTop]; omega), if_neg (by simp only [apBase, ddrBase]; omega), if_neg (by omega),
    if_neg (by omega), if_pos (by omega), hsub]
  dsimp only
  rw [if_pos hpad, Nat.mul_mod_left, Nat.mul_div_left _ (by decide)]

theorem regionOf_tag {ddr t o : Nat} (ht : t < 256) (ho : o < 0x100_0000)
    (h : ddrBase + ddr * 16 * gib ≤ tileBlockBase + t * 0x100_0000 + o) :
    regionOf ddr (tileBlockBase + t * 0x100_0000 + o) = .tmmio t o := by
  have hsub : tileBlockBase + t * 0x100_0000 + o - tileBlockBase = t * 0x100_0000 + o := by omega
  have hdiv : (t * 0x100_0000 + o) / 0x100_0000 = t := by omega
  have hmod : (t * 0x100_0000 + o) % 0x100_0000 = o := by omega
  unfold regionOf
  rw [if_neg (by simp only [tileBlockBase, hbmTop]; omega), if_neg (by simp only [tileBlockBase, ddrBase]; omega), if_neg (by omega),
    if_neg (by simp only [tileBlockBase, apBase]; omega), if_neg (by simp only [tileBlockBase, apBase]; omega),
    if_neg (by simp only [tileBlockBase, mmioBase]; omega), if_neg (by simp only [tileBlockBase, mmioBase]; omega),
    if_neg (by simp only [tileBlockBase, mmioBase]; omega), if_neg (by omega), if_pos (by omega), hsub,
    hdiv, hmod]

theorem regionOf_ddr {ddr off : Nat} (h : off < ddrBase + ddr * 16 * gib) (h0 : ddrBase ≤ off) : regionOf ddr off = .ddr := by
  unfold regionOf
  rw [if_neg (by simp only [ddrBase, hbmTop] at *; omega), if_neg (by omega), if_pos h]

theorem paPkg_offset {p off : Nat} (h : off < 2 ^ 48) : paPkg (p * 2 ^ 48 + off) = p := by
  rw [paPkg]
  omega

theorem region_offset {s : State} {p off : Nat} (h : off < 2 ^ 48) : s.region (p * 2 ^ 48 + off) = regionOf (s.pkgAt p).ddr off := by
  have hoff : paOff (p * 2 ^ 48 + off) = off := by simp only [paOff]; omega
  rw [State.region, paPkg_offset h, hoff]

theorem placeOf_tile {s : State} {pa t o : Nat} (h : s.region pa = .tmmio t o) : s.placeOf pa = .tile (paPkg pa) t := by
  simp [State.placeOf, h]

theorem placeOf_ddr {s : State} {pa : Nat} (h : s.region pa = .ddr) : s.placeOf pa = .hdie (paPkg pa) := by
  simp [State.placeOf, h]

/-- A tile lies within every scope of its own (05 R127). -/
theorem inScope_ownTile (sc : Scope) (p t : Nat) : inScope sc p t (.tile p t) = true := by cases sc <;> simp [inScope, Place.pkg]

/-- A scope that reaches the H-die of a package reaches all of the package. -/
theorem inScope_hdie {sc : Scope} {p t : Nat} (h : inScope sc p t (.hdie p) = true) (pl : Place) (hp : pl.pkg = p) :
    inScope sc p t pl = true := by
  cases sc <;> simp_all [inScope, Place.pkg]

/-- A scope that reaches a tile's scratchpad reaches its tag table, however far the DDR-5 reaches. -/
theorem inScope_tagAddr {s : State} {sc : Scope} {p t slot : Nat} (ht : t < 256) (hslot : slot < 32768)
    (h : inScope sc p t (s.placeOf (apAddr p t 0)) = true) : inScope sc p t (s.placeOf (tagAddr p t slot)) = true := by
  have htag : tagAddr p t slot = p * 2 ^ 48 + (tileBlockBase + t * 0x100_0000 + (0x50_0000 + 8 * slot)) := by
    rw [tagAddr, blockAddr]; omega
  have hpad : apAddr p t 0 = p * 2 ^ 48 + (apBase + t * 0x80_0000) := by rw [apAddr]; omega
  have htagOff : tileBlockBase + t * 0x100_0000 + (0x50_0000 + 8 * slot) < 2 ^ 48 := by simp only [tileBlockBase]; omega
  have hpadOff : apBase + t * 0x80_0000 < 2 ^ 48 := by simp only [apBase]; omega
  have hslotOff : 0x50_0000 + 8 * slot < 0x100_0000 := by omega
  rw [hpad] at h
  rw [htag]
  by_cases hnear : ddrBase + (s.pkgAt p).ddr * 16 * gib ≤ tileBlockBase + t * 0x100_0000 + (0x50_0000 + 8 * slot)
  · have hregion := (region_offset (s := s) htagOff).trans (regionOf_tag ht hslotOff hnear)
    have hplace := placeOf_tile hregion
    rw [paPkg_offset htagOff] at hplace
    rw [hplace]
    exact inScope_ownTile sc p t
  · have hfar : apBase + t * 0x80_0000 < ddrBase + (s.pkgAt p).ddr * 16 * gib := by
      simp only [apBase, tileBlockBase] at *
      omega
    have hpadPlace := placeOf_ddr ((region_offset (s := s) hpadOff).trans (regionOf_ddr hfar (by simp only [apBase, ddrBase]; omega)))
    have htagPlace := placeOf_ddr ((region_offset (s := s) htagOff).trans
      (regionOf_ddr (Nat.not_le.mp hnear) (by simp only [tileBlockBase, ddrBase]; omega)))
    rw [paPkg_offset hpadOff] at hpadPlace
    rw [paPkg_offset htagOff] at htagPlace
    rwa [htagPlace, ← hpadPlace]

/-! ### The local queue (05 R119, R125, R128 to R130; log 5) -/

section
variable {s : State}

theorem key_pkg (s : State) : keyPkg s.key = s.fpkg := by
  have ht := s.focus.tile.isLt
  have hs := s.focus.slot.isLt
  simp only [keyPkg, State.key, slotKey, State.fpkg]
  omega

theorem key_tile (s : State) : keyTile s.key = s.ftile := by
  have ht := s.focus.tile.isLt
  have hs := s.focus.slot.isLt
  simp only [keyTile, State.key, slotKey, State.ftile]
  omega

/-- What bars a store of the tile bars any other access without a result of its context that writes the tile's own storage, where the
instances that contain the store's place contain that of the access. -/
theorem bars_ownWrite {a r q : Req} {o1 o2 : LocalOp} (h1 : r.op = .own o1) (h2 : q.op = .own o2) (hw1 : o1.writes = true)
    (hw2 : o2.writes = true) (hr1 : r.op.release = none) (hr2 : q.op.release = none) (hby : r.by_ = q.by_)
    (hscope : ∀ sc, s.inInstance sc r = true → s.inInstance sc q = true) (h : s.bars a r = true) : s.bars a q = true := by
  have hctx : a.sameCtx q = a.sameCtx r := by rw [Req.sameCtx, Req.sameCtx, hby]
  have hwrite : ∀ {o : LocalOp}, o.writes = true → (ReqOp.own o).isWrite = true := fun {o} ho => by
    cases o with
    | load => cases ho
    | _ => rfl
  rw [h1] at hr1
  rw [h2] at hr2
  unfold State.bars at h ⊢
  rw [hctx, h2, hr2]
  rw [h1, hr1] at h
  cases ha : a.op with
  | fence k sc =>
    rw [ha, hwrite hw1] at h
    rw [hwrite hw2]
    simp only [Bool.and_eq_true] at h ⊢
    obtain ⟨hpending, -, hfence⟩ := h
    refine ⟨hpending, rfl, ?_⟩
    split_ifs at hfence ⊢
    · rfl
    · exact hscope sc hfence
  | _ => rw [ha] at h; exact h

/-- Whether the scope of an entry of the core that acts reaches its own tile. -/
theorem inInstance_own {r : Req} (h : r.by_ = s.issuer) (sc : Scope) :
    s.inInstance sc r = inScope sc s.fpkg s.ftile (s.placeOf r.pa) := by
  have hkey : r.by_.key = s.key := congrArg Issuer.key h
  rw [State.inInstance, hkey, key_pkg, key_tile]

theorem inInstance_newReq (op : ReqOp) (pa : Nat) (sc : Scope) :
    s.inInstance sc (s.newReq op pa) = inScope sc s.fpkg s.ftile (s.placeOf pa) := inInstance_own rfl sc

/-- What bars an entry depends on the packages alone, beside the two entries. -/
theorem bars_pkgs {t : State} (h : s.pkgs = t.pkgs) (a r : Req) : s.bars a r = t.bars a r := by
  have hplace : s.placeOf = t.placeOf := funext (placeOf_pkgs h)
  simp only [State.bars, State.inInstance, hplace]

/-- A bank that keeps an access is no freer with more entries. -/
theorem bankFree_more {t : State} {p k : Nat} (hp : s.pkgs = t.pkgs) (hreqs : ∀ a ∈ s.reqs, a ∈ t.reqs)
    (h : s.bankFree p k = false) : t.bankFree p k = false := by
  obtain ⟨a, ha, hkept⟩ := List.all_eq_false.mp h
  exact List.all_eq_false.mpr ⟨a, hreqs a ha, by rwa [← placeOf_pkgs hp]⟩

/-- An access of the local queue stays in it behind an older one that keeps it, or one that its bank has accepted (05 R125). -/
theorem letGo_blocked {older : List Req} {r : Req} {op : LocalOp} (hop : r.op = .own op)
    (h : (∃ a ∈ older, s.bars a r = true) ∨ s.bankFree (keyPkg r.by_.key) (keyTile r.by_.key) = false) :
    s.letGo older r = s := by
  unfold State.letGo
  split
  · rfl
  · next hbars =>
    have hbank := h.resolve_left fun ⟨a, ha, hb⟩ => hbars (List.any_eq_true.mpr ⟨a, ha, hb⟩)
    simp [hop, State.performOwn, hbank]

theorem localFree_false (h : s.localFree true = false) :
    (∃ a ∈ s.reqs, s.bars a (s.newReq (.own .store) (apAddr s.fpkg s.ftile 0)) = true) ∨ s.bankFree s.fpkg s.ftile = false := by
  simpa [State.localFree, or_iff_not_imp_left] using h

/-- An access without a result that the local queue cannot take yet stands in it, and nothing else moves. -/
theorem queueUp_blocked {op : LocalOp} {u : Tenant} {va v : Word} {pa point n : Nat} {noalloc : Bool} (hfree : s.localFree true = false)
    (hw : op.writes = true) (hr : (ReqOp.own op).release = none)
    (hscope : ∀ sc, inScope sc s.fpkg s.ftile (s.placeOf (apAddr s.fpkg s.ftile 0)) = true →
      inScope sc s.fpkg s.ftile (s.placeOf pa) = true) :
    ∃ r, (s.queueUp s.issuer u (.own op) va pa point n v noalloc).2 = { s with fresh := s.fresh + 1, reqs := s.reqs ++ [r] } := by
  refine ⟨_, letGo_blocked rfl ?_⟩
  rw [show keyPkg s.issuer.key = s.fpkg from key_pkg s, show keyTile s.issuer.key = s.ftile from key_tile s]
  refine (localFree_false hfree).imp (fun ⟨a, ha, hb⟩ => ⟨a, ha, ?bars⟩) fun hb => ?bank
  case bars =>
    refine (bars_pkgs (t := s) ?_ a _).trans ?_
    · rfl
    refine bars_ownWrite (r := s.newReq (.own .store) (apAddr s.fpkg s.ftile 0)) rfl rfl rfl hw rfl hr rfl (fun sc hs => ?_) hb
    rw [inInstance_newReq] at hs
    rw [inInstance_own rfl]
    exact hscope sc hs
  case bank =>
    refine bankFree_more (s := s) ?_ (fun a ha => ?_) hb
    · rfl
    · exact List.mem_append_left _ ha
end

/-! ### Accesses without a result (05 R119; 10 R271) -/

section
variable {s : State} {j : Job} {op : LocalOp} {a n : Nat} {v : Word} (hw : op.writes = true) (hr : (ReqOp.own op).release = none)
include hw

include hr in
theorem postLocal_performs (hfree : s.localFree true = true) (c : Core) :
    postLocal s j c op a n v = .next { s with mem := op.act s.mem s.fpkg s.ftile a n v } :=
  if_pos (by simp [State.ownFree, hw, hr, hfree])

theorem postLocal_queues (hfree : s.localFree true = false) (c : Core) : postLocal s j c op a n v =
    .next (s.queueUp s.issuer j.tenant (.own op) (BitVec.ofNat 64 a) (op.at_ s.fpkg s.ftile a) c.pc.toNat n v false).2 :=
  if_neg (by simp [State.ownFree, hw, hfree])

variable {len : Nat} {regs : List Reg} {body : Job → Core → State → Res} (h : Ready s j) (ha : Allowed (s.core j) regs)
  (hb : body j (s.core j) s = postLocal s j (s.core j) op a n v)
include hr h ha hb

theorem coreExec_performs (hfree : s.localFree true = true) :
    coreExec len false regs body s = .next (({ s with mem := op.act s.mem s.fpkg s.ftile a n v } : State).retired len) :=
  coreExec_next h (by simp) ha (hb.trans (postLocal_performs hw hr hfree _)) rfl (h.calm.of_jobAt rfl)

theorem coreExec_queues (hfree : s.localFree true = false)
    (hscope : ∀ sc, inScope sc s.fpkg s.ftile (s.placeOf (apAddr s.fpkg s.ftile 0)) = true →
      inScope sc s.fpkg s.ftile (s.placeOf (op.at_ s.fpkg s.ftile a)) = true) :
    coreExec len false regs body s = .next ((s.queueUp s.issuer j.tenant (.own op) (BitVec.ofNat 64 a)
      (op.at_ s.fpkg s.ftile a) (s.core j).pc.toNat n v false).2.retired len) := by
  obtain ⟨r, hqueued⟩ := queueUp_blocked (u := j.tenant) (va := BitVec.ofNat 64 a) (v := v) (point := (s.core j).pc.toNat) (n := n)
    (noalloc := false) hfree hw hr hscope
  refine coreExec_next h (by simp) ha (hb.trans (postLocal_queues hw hfree _)) ?_ ?_
  · rw [hqueued]
    rfl
  · rw [hqueued]
    exact h.calm.of_jobAt rfl
end

end Sys2Proof.Machine
end

section
/-!
SUPPORT. The tag table (02 R46 to R48): where its entries lie, what a look-up and an ageing leave of a set, and O17.
-/

namespace Sys2Proof.Machine

/-! ### Dwords apart -/

theorem readByte_write64_out (m : Memory) {a n : Nat} (v : Word) (h : n < a ∨ a + 8 ≤ n) :
    readByte (write64 m a v) n = readByte m n := readByte_writeLe_out m a 8 v.toNat n h

theorem read64_write64_apart (m : Memory) {a b : Nat} (v : Word) (h : b + 8 ≤ a ∨ a + 8 ≤ b) :
    read64 (write64 m a v) b = read64 m b :=
  read64_congr fun i hi => readByte_write64_out m v (by omega)

theorem read64_blank {m : Memory} {a : Nat} (h : ∀ i, i < 8 → readByte m (a + i) = blank) : read64 m a = 0 := by
  have hbytes : readBytes m a 8 = List.replicate 8 blank := by
    rw [readBytes, List.map_congr_left fun i hi => h i (List.mem_range.mp hi)]
    rfl
  rw [read64, readLe, hbytes]
  rfl

/-! ### Entries and their ages (R46, R48) -/

theorem tagAddr_lt {p t k l : Nat} (h : k < l) : tagAddr p t k + 8 ≤ tagAddr p t l := by
  simp only [tagAddr, blockAddr]
  omega

theorem tagAddr_apart {p t k l : Nat} (h : k ≠ l) : tagAddr p t k + 8 ≤ tagAddr p t l ∨ tagAddr p t l + 8 ≤ tagAddr p t k :=
  (Nat.lt_or_gt_of_ne h).imp tagAddr_lt tagAddr_lt

theorem tagAddr_add (p t k n : Nat) : tagAddr p t (k + n) = tagAddr p t k + 8 * n := by
  simp only [tagAddr, blockAddr]
  omega

theorem and_shiftLeft (e k : Word) (n : Nat) : e &&& (k <<< n) = ((e >>> n) &&& k) <<< n := by
  ext i hi
  by_cases hn : i < n
  · simp [hn]
  · have hni : n + (i - n) = i := by omega
    simp [hn, hni, BitVec.getLsbD_eq_getElem hi]

theorem andn_add_and (e k : Word) : (e &&& ~~~k) + (e &&& k) = e := by
  rw [BitVec.add_eq_or_of_and_eq_zero] <;> ext i <;> simp <;> grind

/-- An entry of age 0 is the entry without its age field. -/
theorem setAge_zero (e : Word) : setAge e 0 = e &&& ~~~((7 : Word) <<< 54) := by
  have hmod : e.toNat / 2 ^ 54 &&& (7 : Word).toNat = e.toNat / 2 ^ 54 % 2 ^ 3 := Nat.and_two_pow_sub_one_eq_mod _ 3
  have hage : (e &&& ((7 : Word) <<< 54)).toNat = bits e 56 54 * 2 ^ 54 := by
    rw [and_shiftLeft, BitVec.toNat_shiftLeft, BitVec.toNat_and, BitVec.toNat_ushiftRight, Nat.shiftLeft_eq,
      Nat.shiftRight_eq_div_pow, hmod, bits]
    omega
  have hsum := congrArg BitVec.toNat (andn_add_and e ((7 : Word) <<< 54))
  rw [BitVec.toNat_add, hage] at hsum
  apply BitVec.eq_of_toNat_eq
  rw [setAge, setBits, BitVec.toNat_ofNat]
  have he := e.isLt
  have hrest : (e &&& ~~~((7 : Word) <<< 54)).toNat ≤ e.toNat := by rw [BitVec.toNat_and]; exact Nat.and_le_left
  have hfield : bits e 56 54 < 2 ^ 3 := Nat.mod_lt _ (by decide)
  omega

/-- The entry that ageing leaves at slot `k` where slot `w` was hit at age `old` (R48). -/
def agedEntry (w old k : Nat) (e : Word) : Word :=
  if k = w then setAge e 0 else if tagValid e = true ∧ tagAge e < old then setAge e (tagAge e + 1) else e

/-- Ageing at one slot. -/
def ageSlot (p t w old : Nat) (m : Memory) (k : Nat) : Memory :=
  let at_ := tagAddr p t k
  let e := read64 m at_
  if k = w then write64 m at_ (setAge e 0)
  else if tagValid e && decide (tagAge e < old) then write64 m at_ (setAge e (tagAge e + 1))
  else m

theorem ageTags_cons (m : Memory) (p t k w old : Nat) (l : List Nat) :
    ageTags m p t (k :: l) w old = ageTags (ageSlot p t w old m k) p t l w old := rfl

section
variable {m : Memory} {p t w old k : Nat}

theorem readByte_ageSlot_out {n : Nat} (h : n < tagAddr p t k ∨ tagAddr p t k + 8 ≤ n) :
    readByte (ageSlot p t w old m k) n = readByte m n := by
  unfold ageSlot
  dsimp only
  split_ifs
  · exact readByte_write64_out m _ h
  · exact readByte_write64_out m _ h
  · rfl

theorem ageSlot_wf (h : m.wf = true) : (ageSlot p t w old m k).wf = true := by
  unfold ageSlot
  dsimp only
  split_ifs
  · exact write64_wf h _ _
  · exact write64_wf h _ _
  · exact h

theorem read64_ageSlot_same (h : m.wf = true) :
    read64 (ageSlot p t w old m k) (tagAddr p t k) = agedEntry w old k (read64 m (tagAddr p t k)) := by
  unfold ageSlot agedEntry
  simp only [Bool.and_eq_true, decide_eq_true_eq]
  split_ifs
  · exact read64_write64 h _ _
  · exact read64_write64 h _ _
  · rfl

theorem read64_ageSlot_ne {l : Nat} (h : l ≠ k) : read64 (ageSlot p t w old m k) (tagAddr p t l) = read64 m (tagAddr p t l) :=
  read64_congr fun i hi => readByte_ageSlot_out (by have := tagAddr_apart (p := p) (t := t) h; omega)

theorem readByte_ageTags_out {n : Nat} {l : List Nat} (h : ∀ k ∈ l, n < tagAddr p t k ∨ tagAddr p t k + 8 ≤ n) :
    readByte (ageTags m p t l w old) n = readByte m n := by
  induction l generalizing m with
  | nil => rfl
  | cons k l ih =>
    rw [ageTags_cons, ih fun x hx => h x (List.mem_cons_of_mem _ hx), readByte_ageSlot_out (h k (List.mem_cons_self ..))]

theorem read64_ageTags_notMem {l : List Nat} (h : k ∉ l) :
    read64 (ageTags m p t l w old) (tagAddr p t k) = read64 m (tagAddr p t k) :=
  read64_congr fun i hi => readByte_ageTags_out fun x hx => by
    have := tagAddr_apart (p := p) (t := t) (k := k) (l := x) (fun e => h (e ▸ hx))
    omega

/-- Each slot of a set ages once. -/
theorem read64_ageTags {l : List Nat} (hw : m.wf = true) (hl : l.Nodup) (hk : k ∈ l) :
    read64 (ageTags m p t l w old) (tagAddr p t k) = agedEntry w old k (read64 m (tagAddr p t k)) := by
  induction l generalizing m with
  | nil => cases hk
  | cons x l ih =>
    obtain ⟨hx, hl⟩ := List.nodup_cons.mp hl
    rw [ageTags_cons]
    by_cases hkx : k = x
    · subst hkx
      rw [read64_ageTags_notMem hx, read64_ageSlot_same hw]
    · rw [ih (ageSlot_wf hw) hl (List.mem_of_ne_of_mem hkx hk), read64_ageSlot_ne hkx]
end

/-! ### Geometries (R47) -/

theorem geomOf_bounds {g : Word} {m : Geom} (h : geomOf g = some m) : 0 < m.ways ∧ m.ways ≤ 16 ∧ m.base + m.slots ≤ 32768 := by
  unfold geomOf at h
  dsimp only at h
  split at h
  · cases h
  · next hc =>
    obtain rfl := Option.some.inj h
    simp only [not_or, not_lt] at hc
    exact ⟨Nat.succ_pos _, hc.2.1, hc.2.2⟩

theorem geom_slots_pos {g : Word} {m : Geom} (h : geomOf g = some m) : 0 < m.slots :=
  Nat.mul_pos (Nat.two_pow_pos _) (geomOf_bounds h).1

theorem mem_setSlots {m : Geom} {i k : Nat} : k ∈ m.setSlots i ↔ ∃ w, w < m.ways ∧ m.base + i * m.ways + w = k := by
  simp [Geom.setSlots]

theorem nodup_setSlots (m : Geom) (i : Nat) : (m.setSlots i).Nodup :=
  List.Nodup.map (fun _ _ h => Nat.add_left_cancel h) List.nodup_range

/-- A slot of the geometry lies in the set that its distance from the base gives. -/
theorem slot_mem_set {m : Geom} {k : Nat} (hw : 0 < m.ways) (hb : m.base ≤ k) : k ∈ m.setSlots ((k - m.base) / m.ways) :=
  mem_setSlots.mpr ⟨(k - m.base) % m.ways, Nat.mod_lt _ hw, by
    have := Nat.div_add_mod' (k - m.base) m.ways
    omega⟩

/-- The slots of a set lie in the table. -/
theorem setSlots_lt {g : Word} {m : Geom} {i k : Nat} (h : geomOf g = some m) (hi : i < 2 ^ m.lgsets) (hk : k ∈ m.setSlots i) :
    k < 32768 := by
  obtain ⟨-, -, hend⟩ := geomOf_bounds h
  obtain ⟨w, hw, rfl⟩ := mem_setSlots.mp hk
  have hset : (i + 1) * m.ways ≤ m.slots := Nat.mul_le_mul_right _ hi
  rw [Nat.succ_mul] at hset
  omega

/-! ### A look-up (R48; 10 R271) -/

/-- The code of a result whose fields are in range stands in its two highest bits. -/
theorem lookResult_code {code dirty way slot : Nat} (hc : code < 4) (hd : dirty < 16) (hk : way ≤ slot) (hs : slot < 32768) :
    bits (lookResult code dirty way slot) 63 62 = code := by
  rw [lookResult, bits, BitVec.toNat_ofNat]
  omega

theorem tagDirty_lt (e : Word) : tagDirty e < 16 := Nat.mod_lt _ (by decide)

theorem oldestWay_mem {s : State} {l : List Nat} {best : Option Nat} {k : Nat} (h : oldestWay s l best = some k) :
    k ∈ l ∨ best = some k := by
  induction l generalizing best with
  | nil => exact .inr h
  | cons x l ih =>
    have hstep : ∃ b, oldestWay s l b = some k ∧ (b = some x ∨ b = best) := by
      unfold oldestWay at h
      split at h
      · exact ⟨best, h, .inr rfl⟩
      · split at h
        · exact ⟨some x, h, .inl rfl⟩
        · refine ⟨_, h, ?_⟩
          split
          · exact .inl rfl
          · exact .inr rfl
    obtain ⟨b, hb, hbest⟩ := hstep
    rcases ih hb with hmem | rfl
    · exact .inl (List.mem_cons_of_mem _ hmem)
    · rcases hbest with heq | rfl
      · exact .inl (Option.some.inj heq ▸ List.mem_cons_self ..)
      · exact .inr rfl

section
variable {s : State} {slots : List Nat} {kind key : Nat}

/-- What a look-up that finds its key comes to: a match that is pending, or one that is hit. -/
theorem tagLook_match (h : ∃ k ∈ slots, tagMatch (s.tag k) kind key = true) : ∃ k ∈ slots,
    tagLook s slots kind key = (s, lookResult 1 (tagDirty (s.tag k)) (k - slots.headD 0) k) ∨
    tagLook s slots kind key =
      (s.ageSet slots k (tagAge (s.tag k)), lookResult 0 (tagDirty (s.tag k)) (k - slots.headD 0) k) := by
  obtain ⟨x, hx, hmatch⟩ := h
  cases hf : slots.find? (fun k => tagMatch (s.tag k) kind key) with
  | none => exact absurd hmatch (List.find?_eq_none.mp hf x hx)
  | some k =>
    refine ⟨k, List.mem_of_find?_eq_some hf, ?_⟩
    unfold tagLook
    simp only [hf]
    split
    · exact .inl rfl
    · exact .inr rfl

/-- One that does not: a way to fill, or none. -/
theorem tagLook_noMatch (h : ∀ k ∈ slots, tagMatch (s.tag k) kind key = false) :
    tagLook s slots kind key = (s, lookResult 3 0 0 0) ∨ ∃ k ∈ slots,
      tagLook s slots kind key = (s, lookResult 2 (tagDirty (s.tag k)) (k - slots.headD 0) k) := by
  have hnone : slots.find? (fun k => tagMatch (s.tag k) kind key) = none := List.find?_eq_none.mpr fun k hk => by simp [h k hk]
  unfold tagLook
  simp only [hnone]
  split
  · next k hf => exact .inr ⟨k, List.mem_of_find?_eq_some hf, rfl⟩
  · split
    · next k ho => exact .inr ⟨k, (oldestWay_mem ho).resolve_right nofun, rfl⟩
    · exact .inl rfl

section
variable (hs : ∀ k ∈ slots, k < 32768)
include hs

theorem tagLook_match_code (h : ∃ k ∈ slots, tagMatch (s.tag k) kind key = true) :
    bits (tagLook s slots kind key).2 63 62 = 0 ∨ bits (tagLook s slots kind key).2 63 62 = 1 := by
  obtain ⟨k, hk, he | he⟩ := tagLook_match h <;> rw [he]
  · exact .inr (lookResult_code (by decide) (tagDirty_lt _) (Nat.sub_le ..) (hs k hk))
  · exact .inl (lookResult_code (by decide) (tagDirty_lt _) (Nat.sub_le ..) (hs k hk))

theorem tagLook_noMatch_code (h : ∀ k ∈ slots, tagMatch (s.tag k) kind key = false) :
    (bits (tagLook s slots kind key).2 63 62 = 2 ∨ bits (tagLook s slots kind key).2 63 62 = 3) ∧
      (tagLook s slots kind key).1 = s := by
  obtain he | ⟨k, hk, he⟩ := tagLook_noMatch h <;> rw [he]
  · exact ⟨.inr (lookResult_code (by decide) (by decide) le_rfl (by decide)), rfl⟩
  · exact ⟨.inl (lookResult_code (by decide) (tagDirty_lt _) (Nat.sub_le ..) (hs k hk)), rfl⟩
end

/-- A look-up writes ages of its set at most. -/
theorem tagLook_state (s : State) (slots : List Nat) (kind key : Nat) :
    ∃ m, (tagLook s slots kind key).1 = { s with mem := m } ∧
      ∀ n, (∀ k ∈ slots, n < tagAddr s.fpkg s.ftile k ∨ tagAddr s.fpkg s.ftile k + 8 ≤ n) → readByte m n = readByte s.mem n := by
  by_cases h : ∃ k ∈ slots, tagMatch (s.tag k) kind key = true
  · obtain ⟨k, -, he | he⟩ := tagLook_match h
    · exact ⟨s.mem, congrArg Prod.fst he, fun _ _ => rfl⟩
    · exact ⟨_, congrArg Prod.fst he, fun n hn => readByte_ageTags_out hn⟩
  · have hno : ∀ k ∈ slots, tagMatch (s.tag k) kind key = false := by simpa using h
    rcases tagLook_noMatch hno with he | ⟨k, -, he⟩ <;> exact ⟨s.mem, congrArg Prod.fst he, fun _ _ => rfl⟩
end

/-! ### The five instructions (10 R270, R271) -/

theorem withGeom_some {s : State} {g : Word} {m : Geom} (h : geomOf g = some m) (body : Geom → Res) :
    withGeom s g body = body m := by simp [withGeom, h]

theorem withSlot_ok {s : State} {m : Geom} {slot : Word} (h0 : m.base ≤ slot.toNat) (h1 : slot.toNat < m.base + m.slots)
    (body : Nat → Res) : withSlot s m slot body = body slot.toNat := if_pos ⟨h0, h1⟩

section
variable {s : State} {j : Job} {d a : Reg} {b : Opd} {m : Geom} (h : Ready s j) (hg : geomOf ((s.core j).reg a) = some m)
include h hg

/-- The set in which TGLOOK looks for the key of `v`. -/
def lookSet (m : Geom) (v : Word) : Nat := (if bits v 63 62 = 1 then bits v 53 0 else bits v 61 54) % 2 ^ m.lgsets

section
variable (ha : Allowed (s.core j) (d :: a :: opdRegs b)) {v : Word} (hv : bval j (s.core j) b = v)
  (hkind : bits v 63 62 = 1 ∨ (bits v 63 62 = 2 ∧ m.lgsets ≤ 8))
include ha hv hkind

theorem tglook_performs (hfree : s.localFree true = true) {look : State × Word}
    (hlook : tagLook s (m.setSlots (lookSet m v)) (bits v 63 62) (bits v 53 0) = look) :
    exec (.tglook d a b) s = .next (look.1.wrote d look.2 (opdLen b)) := by
  obtain ⟨t, r⟩ := look
  obtain ⟨mem, hstate, -⟩ := tagLook_state s (m.setSlots (lookSet m v)) (bits v 63 62) (bits v 53 0)
  rw [hlook] at hstate
  obtain rfl : t = { s with mem := mem } := hstate
  have h0 : ¬ (bits v 63 62 = 0 ∨ bits v 63 62 = 3) := by omega
  have h1 : ¬ (bits v 63 62 = 2 ∧ 8 < m.lgsets) := by omega
  have hcalm : Calm { s with mem := mem } s.key := h.calm.of_jobAt rfl
  refine coreExec_next h (by simp) ha ?_ (setReg_key _ _ _) (hcalm.setReg d r)
  simp only [hv, withGeom_some hg, if_neg h0, if_neg h1, inLocalQueue, hfree, if_true]
  unfold lookSet at hlook
  rw [hlook]

theorem tglook_waits (hfree : s.localFree true = false) : exec (.tglook d a b) s = .next s.stalled := by
  have h0 : ¬ (bits v 63 62 = 0 ∨ bits v 63 62 = 3) := by omega
  have h1 : ¬ (bits v 63 62 = 2 ∧ 8 < m.lgsets) := by omega
  refine coreExec_wait h (by simp) ha ?_ rfl h.calm
  simp only [hv, withGeom_some hg, if_neg h0, if_neg h1, inLocalQueue, hfree]
  rfl
end

section
variable (h0 : m.base ≤ ((s.core j).reg d).toNat) (h1 : ((s.core j).reg d).toNat < m.base + m.slots)
include h0 h1

theorem tginv_performs (ha : Allowed (s.core j) [d, a]) (hfree : s.localFree true = true) :
    exec (.tginv d a) s = .next ((s.setTag ((s.core j).reg d).toNat 0).retired 4) :=
  coreExec_performs (op := .tginv) rfl rfl h ha (by rw [withGeom_some hg, withSlot_ok h0 h1]) hfree

theorem tginv_queues (ha : Allowed (s.core j) [d, a]) (hfree : s.localFree true = false) : exec (.tginv d a) s =
    .next ((s.queueUp s.issuer j.tenant (.own .tginv) (BitVec.ofNat 64 ((s.core j).reg d).toNat)
      (tagAddr s.fpkg s.ftile ((s.core j).reg d).toNat) (s.core j).pc.toNat 0 0 false).2.retired 4) :=
  coreExec_queues (op := .tginv) rfl rfl h ha (by rw [withGeom_some hg, withSlot_ok h0 h1]) hfree
    fun _ => inScope_tagAddr s.focus.tile.isLt (by have := geomOf_bounds hg; omega)

variable (ha : Allowed (s.core j) (d :: a :: opdRegs b)) {v : Word} (hv : bval j (s.core j) b = v) (h3 : bits v 63 62 ≠ 3)
include ha hv h3

theorem tgset_performs (hfree : s.localFree true = true) {k i : Nat} (hk : ((s.core j).reg d).toNat = k) (hi : (k - m.base) / m.ways = i) :
    exec (.tgset d a b) s =
      .next (({ s with mem := setEntry s.mem s.fpkg s.ftile (m.setSlots i) k v } : State).retired (opdLen b)) := by
  subst hk hi
  exact coreExec_performs (op := .tgset _ _) rfl rfl h ha (by rw [withGeom_some hg, withSlot_ok h0 h1, hv, if_neg h3]) hfree

theorem tgset_queues (hfree : s.localFree true = false) {k : Nat} (hk : ((s.core j).reg d).toNat = k) : exec (.tgset d a b) s =
    .next ((s.queueUp s.issuer j.tenant (.own (.tgset (m.base + (k - m.base) / m.ways * m.ways) m.ways)) (BitVec.ofNat 64 k)
      (tagAddr s.fpkg s.ftile k) (s.core j).pc.toNat 0 v false).2.retired (opdLen b)) := by
  subst hk
  exact coreExec_queues (op := .tgset _ _) rfl rfl h ha (by rw [withGeom_some hg, withSlot_ok h0 h1, hv, if_neg h3]) hfree
    fun _ => inScope_tagAddr s.focus.tile.isLt (by have := geomOf_bounds hg; omega)
end

theorem tgclr_performs (ha : Allowed (s.core j) [a]) (hfree : s.localFree true = true) : exec (.tgclr a) s =
    .next (({ s with mem := clearRange s.mem (tagAddr s.fpkg s.ftile m.base) (tagAddr s.fpkg s.ftile m.base + 8 * m.slots) } :
      State).retired 4) :=
  coreExec_performs (op := .tgclr m.slots) rfl rfl h ha (by rw [withGeom_some hg]) hfree

theorem tgclr_queues (ha : Allowed (s.core j) [a]) (hfree : s.localFree true = false) : exec (.tgclr a) s =
    .next ((s.queueUp s.issuer j.tenant (.own (.tgclr m.slots)) (BitVec.ofNat 64 m.base) (tagAddr s.fpkg s.ftile m.base)
      (s.core j).pc.toNat 0 0 false).2.retired 4) :=
  coreExec_queues (op := .tgclr m.slots) rfl rfl h ha (by rw [withGeom_some hg]) hfree
    fun _ => inScope_tagAddr s.focus.tile.isLt (by have := geomOf_bounds hg; have := geom_slots_pos hg; omega)

theorem tgrd_result (ha : Allowed (s.core j) [d, a]) :
    exec (.tgrd d a) s = if s.localFree false = true then .next (s.wrote d (s.tag m.base) 4) else .next s.stalled := by
  split
  · next hfree =>
    exact coreExec_next h (by simp) ha ((withGeom_some hg _).trans (if_pos hfree)) (setReg_key _ _ _) (h.calm.setReg _ _)
  · next hfree => exact coreExec_wait h (by simp) ha ((withGeom_some hg _).trans (if_neg hfree)) rfl h.calm
end

/-! ### The obligation -/

section
variable {mem : Memory} {p t : Nat} {v : Word} {slots : List Nat} {k : Nat} (hw : mem.wf = true) (hl : slots.Nodup)
include hw hl

/-- TGSET writes the entry without its age. -/
theorem read64_setEntry_same (hk : k ∈ slots) : read64 (setEntry mem p t slots k v) (tagAddr p t k) =
    if bits v 63 62 = 0 then (0 : Word) else v &&& ~~~((7 : Word) <<< 54) := by
  have hentry : read64 (setEntry mem p t slots k v) (tagAddr p t k) = setAge (if bits v 63 62 = 0 then 0 else v) 0 := by
    rw [setEntry, read64_ageTags (write64_wf hw _ _) hl hk, read64_write64 hw]
    exact if_pos rfl
  rw [hentry, setAge_zero]
  split
  · rfl
  · rfl

/-- It ages the rest of its set as a hit of the slot does. -/
theorem read64_setEntry_ne {w : Nat} (hk : k ∈ slots) (hne : k ≠ w) : read64 (setEntry mem p t slots w v) (tagAddr p t k) =
    if tagValid (read64 mem (tagAddr p t k)) = true ∧ tagAge (read64 mem (tagAddr p t k)) < tagAge (read64 mem (tagAddr p t w))
    then setAge (read64 mem (tagAddr p t k)) (tagAge (read64 mem (tagAddr p t k)) + 1) else read64 mem (tagAddr p t k) := by
  rw [setEntry, read64_ageTags (write64_wf hw _ _) hl hk, read64_write64_apart _ _ (tagAddr_apart hne), agedEntry, if_neg hne]
end

/-- Settles O17: each form is an access of the local queue, which performs or stands in it; a look-up moves ages of its set alone, and
each slot of a set ages once. -/
theorem tagTable : Obligations.TagTable := by
  unfold Obligations.TagTable
  intro s j d a b m h ha c v slot queued hg
  obtain ⟨hways, -, hend⟩ := geomOf_bounds hg
  have had : Allowed (s.core j) [d, a] := fun r hr => ha r (by simp only [List.mem_cons] at hr ⊢; tauto)
  have ha1 : Allowed (s.core j) [a] := fun r hr => had r (List.mem_cons_of_mem _ hr)
  refine ⟨fun hkind => ?look, fun h0 h1 => ⟨fun hfree => ?slot, fun hfree => ?slotQueued⟩, fun hfree => ?clear, tgclr_queues h hg ha1,
    tgrd_result h hg had⟩
  case look =>
    intro set lo
    refine ⟨fun hfree => ?_, tglook_waits h hg ha rfl hkind⟩
    have hslots : ∀ k ∈ m.setSlots set, k < 32768 := fun k hk => setSlots_lt hg (Nat.mod_lt _ (Nat.two_pow_pos _)) hk
    obtain ⟨mem, hstate, hout⟩ := tagLook_state s (m.setSlots set) (bits v 63 62) (bits v 53 0)
    let look := tagLook s (m.setSlots set) (bits v 63 62) (bits v 53 0)
    refine ⟨look.1, look.2, tglook_performs h hg ha rfl hkind hfree rfl, fun ⟨w, hw, hmatch⟩ => ?_, fun hno => ?_, fun n hn => ?_⟩
    · exact tagLook_match_code hslots ⟨_, mem_setSlots.mpr ⟨w, hw, rfl⟩, hmatch⟩
    · refine tagLook_noMatch_code hslots fun k hk => ?_
      obtain ⟨w, hw, rfl⟩ := mem_setSlots.mp hk
      exact hno w hw
    · refine (congrArg (fun t => readByte t.mem n) hstate).trans (hout n fun k hk => ?_)
      obtain ⟨w, hw, rfl⟩ := mem_setSlots.mp hk
      have hslot := tagAddr_add s.fpkg s.ftile (m.base + set * m.ways) w
      omega
  case slot =>
    refine ⟨tginv_performs h hg h0 h1 had hfree, fun h3 => ⟨_, tgset_performs h hg h0 h1 ha rfl h3 hfree rfl rfl, rfl, fun hcan => ?_⟩⟩
    have hmem : slot ∈ m.setSlots ((slot - m.base) / m.ways) := slot_mem_set hways h0
    exact ⟨read64_setEntry_same hcan (nodup_setSlots _ _) hmem, fun k hk hne => read64_setEntry_ne hcan (nodup_setSlots _ _) hk hne⟩
  case slotQueued =>
    exact ⟨tginv_queues h hg h0 h1 had hfree, fun h3 => tgset_queues h hg h0 h1 ha rfl h3 hfree rfl⟩
  case clear =>
    refine ⟨_, tgclr_performs h hg ha1 hfree, rfl, fun k h0 h1 => read64_blank fun i hi => ?_, fun n hn => ?_⟩
    · obtain ⟨o, rfl⟩ := Nat.exists_eq_add_of_le h0
      have hslot := tagAddr_add s.fpkg s.ftile m.base o
      show readByte (clearRange s.mem _ _) (tagAddr s.fpkg s.ftile (m.base + o) + i) = blank
      exact (readByte_clearRange _ _ _ _).trans (if_pos (by omega))
    · exact (readByte_clearRange _ _ _ _).trans (if_neg (by omega))

end Sys2Proof.Machine
end

section
/-!
SUPPORT. A ring operation as its core sees it (10 R253, R268, R269): the reference, the ring message, the answer of the unit, and O28.
-/

namespace Sys2Proof.Machine

/-! ### Updates of the core that acts, one after another -/

theorem setCore_jid (j : Job) (k : Kind) (c : Core) : (j.setCore k c).jid = j.jid := by cases k <;> rfl
theorem modCore_jid (j : Job) (k : Kind) (f : Core → Core) : (j.modCore k f).jid = j.jid := setCore_jid j k _

theorem modCore_some {s : State} {j : Job} (h : s.jobAt s.key = some j) (f : Core → Core) :
    s.modCore f = s.setJob s.key (j.modCore s.focus.kind f) := modCur_some h _

theorem modCore_modCore (s : State) (f g : Core → Core) : (s.modCore f).modCore g = s.modCore (fun c => g (f c)) := by
  cases hj : s.jobAt s.key with
  | none => simp [State.modCore, State.modCur, State.modJob, hj]
  | some j =>
    have hf := modCore_some hj f
    have hjob : (s.modCore f).jobAt (s.modCore f).key = some (j.modCore s.focus.kind f) := by rw [modCore_key, modCore_jobAt, hj]; rfl
    rw [modCore_some hjob, hf, modCore_some hj]
    simp [Job.modCore]

/-- Two updates that leave the same of the core that acts leave the same state. -/
theorem modCore_congr {s : State} {j : Job} {f g : Core → Core} (h : s.jobAt s.key = some j) (hfg : f (s.core j) = g (s.core j)) :
    s.modCore f = s.modCore g := by
  rw [modCore_some h, modCore_some h, Job.modCore, Job.modCore]
  exact congrArg _ (congrArg _ hfg)

theorem modCore_issuer (s : State) (f : Core → Core) : (s.modCore f).issuer = s.issuer := by
  have hjid : ((s.modCore f).jobAt s.key).map Job.jid = (s.jobAt s.key).map Job.jid := by
    rw [modCore_jobAt, Option.map_map]
    exact congrArg (Option.map · _) (funext fun j => modCore_jid j _ f)
  rw [State.issuer, State.issuer, modCore_key, modCore_focus, hjid]

/-- What waits for an answer in a core. -/
def Core.answered (c : Core) : Core := { c with asked := none, reply := none }

/-- The result of an instruction that retires is the same where its core had sent nothing and where its answer has been taken. -/
theorem wrote_answered {s : State} {j : Job} (h : s.jobAt s.key = some j) (ha : (s.core j).asked = none) (d : Reg) (v : Word) (n : Nat) :
    (s.modCore Core.answered).wrote d v n = s.wrote d v n := by
  simp only [State.wrote, State.retired, State.setReg, modCore_modCore]
  refine modCore_congr h ?_
  generalize s.core j = c at ha ⊢
  unfold Core.setReg
  split <;> simp [Core.answered, Core.goto, Core.retire, ha]

theorem Calm.modCore_at {s : State} {k : Nat} (h : Calm s k) (hk : s.key = k) {f : Core → Core} : Calm (s.modCore f) k := by
  subst hk
  exact h.modCore f

theorem Calm.setReg_at {s : State} {k : Nat} (h : Calm s k) (hk : s.key = k) {d : Reg} {v : Word} : Calm (s.setReg d v) k :=
  h.modCore_at hk

/-! ### What the unit does (10 R253) -/

theorem issuer_of {s : State} {j : Job} (h : s.jobAt s.key = some j) : s.issuer = ⟨s.key, j.jid, s.focus.kind == .X⟩ := by
  simp [State.issuer, h]

/-- A result reaches the core that acts, which waits for it. -/
theorem reply_asked {s : State} {j : Job} (h : s.jobAt s.key = some j) (hk : s.focus.kind.isCore = true)
    (hask : (s.core j).asked.isSome = true) (v : Word) :
    s.reply (s.issuer, v) = s.modCore (fun c => { c with reply := some v }) := by
  have hkind : (if s.focus.kind == .X then Kind.X else .A) = s.focus.kind := by
    cases hf : s.focus.kind <;> simp [hf, Kind.isCore] at hk ⊢
  have hjob : s.issuerJob s.issuer = some j := by simp [State.issuerJob, issuer_of h, h]
  rw [modCore_some h, State.reply, State.modIssuer, hjob]
  simp only [issuer_of h, hkind]
  congr 1
  rw [Job.modCore, Job.modCore]
  exact congrArg _ (if_pos hask)

/-- An update of a part of the state other than its jobs and the stream in focus goes with an update of the core that acts. -/
theorem modCore_commutes {U : State → State} (hkey : ∀ s, (U s).key = s.key) (hfocus : ∀ s, (U s).focus = s.focus)
    (hjob : ∀ s k, (U s).jobAt k = s.jobAt k) (hset : ∀ s k j, U (s.setJob k j) = (U s).setJob k j) (s : State) (f : Core → Core) :
    U (s.modCore f) = (U s).modCore f := by
  cases hj : s.jobAt s.key with
  | none =>
    have hu : (U s).jobAt (U s).key = none := by rw [hjob, hkey, hj]
    rw [State.modCore, State.modCur, modJob_none hj, State.modCore, State.modCur, modJob_none hu]
  | some j =>
    have hu : (U s).jobAt (U s).key = some j := by rw [hjob, hkey, hj]
    rw [modCore_some hj, modCore_some hu, hset, hkey, hfocus]

theorem setRing_modCore (s : State) (k n : Nat) (q : Ring) (f : Core → Core) :
    (s.modCore f).setRing k n q = (s.setRing k n q).modCore f :=
  modCore_commutes (U := fun s => s.setRing k n q) (fun _ => rfl) (fun _ => rfl) (fun _ _ => rfl) (fun _ _ _ => rfl) s f

theorem putRing_one {o : RingOut} {d : Done} (hdone : o.done = [d]) (hfroze : o.froze = false) (s : State) (k n : Nat) :
    s.putRing k n o = (s.setRing k n o.ring).reply d := by
  simp [State.putRing, hdone, hfroze]

theorem modCore_ringAt (s : State) (f : Core → Core) (k n : Nat) : (s.modCore f).ringAt k n = s.ringAt k n := by
  simp [State.ringAt, State.tileAt]

/-- A core that has asked its unit and has been answered is as before, but for the ring. -/
theorem putRing_answered {s : State} {j : Job} (h : s.jobAt s.key = some j) (hk : s.focus.kind.isCore = true) {f : Core → Core}
    (hf : ∀ c, (f c).asked.isSome = true) {k n : Nat} {o : RingOut} {v : Word} (hdone : o.done = [(s.issuer, v)])
    (hfroze : o.froze = false) :
    (s.modCore f).putRing k n o = (s.setRing k n o.ring).modCore (fun c => { f c with reply := some v }) := by
  let x := s.setRing k n o.ring
  have hx : (x.modCore f).jobAt (x.modCore f).key = some (j.modCore s.focus.kind f) := by
    rw [modCore_key, modCore_jobAt, show x.jobAt x.key = some j from h]
    rfl
  have hfocus : (x.modCore f).focus = s.focus := modCore_focus _ _
  have hissuer : s.issuer = (x.modCore f).issuer := (modCore_issuer x f).symm
  have hasked : ((x.modCore f).core (j.modCore s.focus.kind f)).asked.isSome = true := by
    rw [State.core, hfocus, modCore_core]
    exact hf _
  rw [putRing_one hdone hfroze, setRing_modCore, hissuer, reply_asked hx (by rw [hfocus]; exact hk) hasked, modCore_modCore]

/-- A ring operation that its unit answers at once. -/
theorem ringAct_answers {s : State} {j : Job} (h : s.jobAt s.key = some j) (hk : s.focus.kind.isCore = true) (hask : s.askOf = none)
    {r : RingRef} (hout : s.outgoing r.tile = false) {op : List Byte → Ring → Issuer → RingOut} {data : List Byte} {o : RingOut} {v : Word}
    (hop : op data (s.ringAt r.tile r.ring) s.issuer = o) (hdone : o.done = [(s.issuer, v)]) (hfroze : o.froze = false) :
    ringAct r op data s = .ok ((s.setRing r.tile r.ring o.ring).modCore Core.answered) v [] := by
  let x := s.setRing r.tile r.ring o.ring
  have hx : x.jobAt x.key = some j := h
  unfold ringAct
  simp only [hout, hask, modCore_ringAt, modCore_issuer, hop, Bool.false_eq_true, if_false]
  rw [putRing_answered h hk (fun _ => rfl) hdone hfroze, modCore_key, modCore_jobAt, modCore_focus, modCore_modCore, hx]
  simp only [Option.map_some, Option.bind_some, modCore_core]
  rfl

/-! ### The way to the unit and back (R36, R65 to R67, R268) -/

/-- What travels to the ring unit of the tile with key `k`. -/
def ringParcel (k : Nat) : Parcel := ⟨true, false, tilePlace k, (tilePlace k).ringTarget⟩

/-- The core that acts has sent an operation to the unit of `r`: a message where the ring is remote. -/
def RingRef.sent (r : RingRef) (s : State) : State := if r.remote then s.asked (ringParcel r.tile) else s

/-- The answer of the unit of `r`, whose state is `x`, to an operation sent from `s`: the result of a message is kept. -/
def RingRef.back (r : RingRef) (s x : State) (v : Word) (l : List Byte) : State :=
  if r.remote then x.keep (ringParcel r.tile) (s.askSeq (ringParcel r.tile)) v l else x

/-- The message of a remote ring arrives and is answered. -/
def RingRef.Reached (r : RingRef) (s : State) : Prop := r.remote = true → Arrives s (ringParcel r.tile)

theorem ringSend_answers {s t : State} {r : RingRef} (harr : r.Reached s) {act : List Byte → State → Answer} {data x : List Byte}
    {v : Word} (hact : act data (r.sent s) = .ok t v x) (ref : Word) (k : State → Word → List Byte → Res) :
    ringSend s r ref data act k = k (r.back s t v x) v x := by
  unfold ringSend RingRef.sent at *
  dsimp only
  cases hr : r.remote with
  | false =>
    simp only [hr, Bool.false_eq_true, if_false] at hact ⊢
    simp [hact, RingRef.back, hr]
  | true =>
    simp only [hr, if_true] at hact ⊢
    rw [show (⟨true, false, tilePlace r.tile, (tilePlace r.tile).ringTarget⟩ : Parcel) = ringParcel r.tile from rfl,
      exchange_arrives (harr hr), hact]
    simp [answeredAs, RingRef.back, hr]

/-! ### What the message leaves as it was -/

/-- The part of a tile that a ring operation reads. -/
def Tile.ringPart (t : Tile) : Map Ring × Map Nat × Option Tenant := (t.rings, t.former, t.tenant)

theorem modTile_ringPart {f : Tile → Tile} (hf : ∀ t, (f t).ringPart = t.ringPart) (s : State) (k n : Nat) :
    ((s.modTile k f).tileAt n).ringPart = (s.tileAt n).ringPart := by
  by_cases h : n = k
  · subst h
    rw [modTile_tileAt_same, hf]
  · exact congrArg Tile.ringPart (setTile_tileAt_ne s k n _ h)

/-- A request that is counted moves counters of its tile alone (01 R36). -/
theorem countReq_ringPart (s : State) (p t : Nat) (pl : Place) (k : Nat) :
    ((s.countReq p t pl).tileAt k).ringPart = (s.tileAt k).ringPart := by
  have hbefore : ∀ u, (Tile.keepCounters s.wall u).ringPart = u.ringPart := fun u => by
    unfold Tile.keepCounters
    split
    · rfl
    · rfl
  refine modTile_ringPart (fun u => ?_) s _ k
  dsimp only
  split_ifs
  · exact hbefore u
  · exact hbefore u
  · exact hbefore u

theorem asked_ringPart (s : State) (p : Parcel) (k : Nat) : ((s.asked p).tileAt k).ringPart = (s.tileAt k).ringPart := by
  unfold State.asked
  split
  · exact countReq_ringPart s _ _ _ k
  · rfl

section
variable (s : State) (r : RingRef)

theorem sent_jobs : (r.sent s).jobs = s.jobs := by unfold RingRef.sent; split; exacts [asked_jobs _ _, rfl]
theorem sent_mem : (r.sent s).mem = s.mem := by unfold RingRef.sent; split; exacts [asked_mem _ _, rfl]
theorem sent_focus : (r.sent s).focus = s.focus := by unfold RingRef.sent; split; exacts [asked_focus _ _, rfl]
theorem sent_issuer : (r.sent s).issuer = s.issuer := by unfold RingRef.sent; split; exacts [asked_issuer _ _, rfl]
theorem sent_ringPart (k : Nat) : ((r.sent s).tileAt k).ringPart = (s.tileAt k).ringPart := by
  unfold RingRef.sent
  split
  · exact asked_ringPart s _ k
  · rfl

theorem sent_jobAt (k : Nat) : (r.sent s).jobAt k = s.jobAt k := congrArg (mget · k) (sent_jobs s r)
theorem sent_key : (r.sent s).key = s.key := by rw [State.key, State.key, sent_focus]
theorem sent_askOf : (r.sent s).askOf = s.askOf := by rw [State.askOf, State.askOf, sent_key, sent_jobAt, sent_focus]

theorem sent_ringAt (k n : Nat) : (r.sent s).ringAt k n = s.ringAt k n :=
  congrArg (fun u : Map Ring × Map Nat × Option Tenant => (mget u.1 n).getD Ring.reset) (sent_ringPart s r k)

/-- Whether a tile clears the job's tenant is seen alike. -/
theorem outgoing_ringPart {s t : State} {k : Nat} (hj : s.jobAt s.key = t.jobAt t.key)
    (ht : (s.tileAt k).ringPart = (t.tileAt k).ringPart) : s.outgoing k = t.outgoing k := by
  obtain ⟨-, hrest⟩ := Prod.mk.inj ht
  obtain ⟨hformer, htenant⟩ := Prod.mk.inj hrest
  unfold State.outgoing
  rw [hj, hformer, htenant]

theorem sent_outgoing (k : Nat) : (r.sent s).outgoing k = s.outgoing k :=
  outgoing_ringPart (by rw [sent_key, sent_jobAt]) (sent_ringPart s r k)

variable (x : State) (v : Word) (l : List Byte)

theorem back_jobs : (r.back s x v l).jobs = x.jobs := by unfold RingRef.back State.keep; split; exacts [rfl, rfl]
theorem back_mem : (r.back s x v l).mem = x.mem := by unfold RingRef.back State.keep; split; exacts [rfl, rfl]
theorem back_focus : (r.back s x v l).focus = x.focus := by unfold RingRef.back State.keep; split; exacts [rfl, rfl]
end

theorem back_modCore (s x : State) (r : RingRef) (v : Word) (l : List Byte) (f : Core → Core) :
    r.back s (x.modCore f) v l = (r.back s x v l).modCore f := by
  unfold RingRef.back State.keep
  split
  · rw [modCore_issuer, modCore_kept]
    exact modCore_commutes (U := fun y => { y with kept := keepResult x.kept _ }) (fun _ => rfl) (fun _ => rfl) (fun _ _ => rfl)
      (fun _ _ _ => rfl) x f
  · rfl

/-! ### A ring instruction (10 R269) -/

theorem ringExec_sends {s t : State} {j : Job} {sup : Bool} {d a : Reg} {b : Option Reg} {check : State → Word → Option (Cause × Word)}
    {rel : Option Scope} {carry : State → Word → List Byte} {act : Word → RingRef → List Byte → State → Answer}
    {k : Word → State → Word → List Byte → Res} {r : RingRef} {v : Word}
    (h : Ready s j) (hsup : sup = true → j.sup = true) (ha : Allowed (s.core j) (d :: a :: b.toList)) (hask : s.askOf = none)
    (href : ringRef s j.tenant.toNat ((s.core j).reg a) = .ok r) (hv : (b.map (s.core j).reg).getD 0 = v)
    (hcheck : check s v = none) (hrel : ∀ sc, rel = some sc → s.released sc = true)
    (hsend : ringSend s r ((s.core j).reg a) (carry s v) (act v r) (k v) = .next t) (hkey : t.key = s.key) (hcalm : Calm t s.key) :
    ringExec sup d a b check rel carry act k s = .next (t.retired 4) := by
  have hasked : (s.core j).asked = none := by simpa [State.askOf, h.1, State.core] using hask
  refine coreExec_next h hsup ha ?_ hkey hcalm
  simp only [hasked, href, hv, hcheck]
  cases hr : rel with
  | none => exact hsend
  | some sc => exact (afterRelease_ok (hrel sc hr) _).trans hsend

section
variable {s : State} {j : Job} {sup : Bool} {d a : Reg} {b : Option Reg} {check : State → Word → Option (Cause × Word)}
  {rel : Option Scope} {r : RingRef} (h : Ready s j) (hsup : sup = true → j.sup = true)
  (ha : Allowed (s.core j) (d :: a :: b.toList)) (hask : s.askOf = none)
  (href : ringRef s j.tenant.toNat ((s.core j).reg a) = .ok r) (harr : r.Reached s) (hout : s.outgoing r.tile = false)
  {v w : Word} (hv : (b.map (s.core j).reg).getD 0 = v) (hcheck : check s v = none) (hrel : ∀ sc, rel = some sc → s.released sc = true)
include h hsup ha hask href harr hout hv hcheck hrel

/-- A ring instruction whose unit answers at once writes the result and leaves the ring as the unit leaves it. -/
theorem ringExec_answers {carry : State → Word → List Byte} {op : Word → List Byte → Ring → Issuer → RingOut} {o : RingOut}
    (hop : op v (carry s v) (s.ringAt r.tile r.ring) s.issuer = o) (hdone : o.done = [(s.issuer, w)]) (hfroze : o.froze = false) :
    ringExec sup d a b check rel carry (fun v r => ringAct r (op v)) (ringDone d) s =
      .next ((r.back s ((r.sent s).setRing r.tile r.ring o.ring) w []).wrote d w 4) := by
  let y := r.back s ((r.sent s).setRing r.tile r.ring o.ring) w []
  have hfocus : y.focus = s.focus := (back_focus _ _ _ _ _).trans (sent_focus s r)
  have hkey : y.key = s.key := by rw [State.key, State.key, hfocus]
  have hjobs : y.jobs = s.jobs := (back_jobs _ _ _ _ _).trans (sent_jobs s r)
  have hjob : y.jobAt y.key = some j := by rw [hkey, State.jobAt, hjobs]; exact h.1
  have hasked : (s.core j).asked = none := by simpa [State.askOf, h.1, State.core] using hask
  have hact : ringAct r (op v) (carry s v) (r.sent s) =
      .ok (((r.sent s).setRing r.tile r.ring o.ring).modCore Core.answered) w [] := by
    refine ringAct_answers (j := j) ?_ ?_ ((sent_askOf s r).trans hask) ((sent_outgoing s r _).trans hout) ?_ ?_ hfroze
    · rw [sent_key, sent_jobAt]; exact h.1
    · rw [sent_focus]; exact h.2.1
    · rw [sent_ringAt, sent_issuer]; exact hop
    · rw [sent_issuer]; exact hdone
  have hcalm : Calm y s.key := h.calm.of_jobAt (congrArg (mget · s.key) hjobs)
  have hsend : ringSend s r ((s.core j).reg a) (carry s v) (ringAct r (op v)) (ringDone d v) =
      .next ((y.modCore Core.answered).setReg d w) := by
    rw [ringSend_answers harr hact, back_modCore]
    rfl
  refine (ringExec_sends (carry := carry) (act := fun v r => ringAct r (op v)) (k := ringDone d) h hsup ha hask href hv hcheck hrel
    hsend (by rw [setReg_key, modCore_key, hkey]) ((hcalm.modCore_at hkey).setReg_at ((modCore_key _ _).trans hkey))).trans ?_
  exact congrArg Host.Outcome.next (wrote_answered hjob (by rw [State.core, hfocus]; exact hasked) d w 4)
end

/-! ### What RGRESET takes along (R269) -/

/-- Dword `k` at the address that g[b] gives. -/
def State.dwordAt (s : State) (v : Word) (k : Nat) : Word := BitVec.ofNat 64 (readLe s.mem (apAddr s.fpkg s.ftile (v.toNat + 8 * k)) 8)

/-- Dword `k` of what RGRESET takes along. -/
def dwordOf (l : List Byte) (k : Nat) : Word := BitVec.ofNat 64 (leNat ((l.drop (8 * k)).take 8))

theorem readBytes_part (m : Memory) (a : Nat) {n o k : Nat} (h : o + k ≤ n) :
    ((readBytes m a n).drop o).take k = readBytes m (a + o) k := by
  apply List.ext_getElem
  · simp [readBytes]
    omega
  · intro i h1 h2
    simp [readBytes, Nat.add_assoc]

/-- A dword that RGRESET takes along is the one in the scratchpad. -/
theorem carried_dword (s : State) (v : Word) {n k : Nat} (h : 8 * k + 8 ≤ n) :
    dwordOf (readBytes s.mem (apAddr s.fpkg s.ftile (v.toNat + 8)) n) k = s.dwordAt v (k + 1) := by
  have haddr : apAddr s.fpkg s.ftile (v.toNat + 8) + 8 * k = apAddr s.fpkg s.ftile (v.toNat + 8 * (k + 1)) := by
    simp only [apAddr]
    omega
  rw [dwordOf, State.dwordAt, readLe, readBytes_part s.mem _ h, haddr]

/-! The operations with no data beside g[b], the releases, which take no operand, and RGSTAT. -/

section
variable {s : State} {j : Job} {d a b : Reg} {r : RingRef} (h : Ready s j) (ha : Allowed (s.core j) [d, a, b]) (hask : s.askOf = none)
  (href : ringRef s j.tenant.toNat ((s.core j).reg a) = .ok r) (harr : r.Reached s) (hout : s.outgoing r.tile = false)
  {v w : Word} {o : RingOut}
include h ha hask href harr hout

theorem ringPlain_answers (hv : (s.core j).reg b = v) {check : State → Word → Option (Cause × Word)} (hcheck : check s v = none)
    {op : Word → Ring → Issuer → RingOut}
    (hop : op v (s.ringAt r.tile r.ring) s.issuer = o ∧ o.done = [(s.issuer, w)] ∧ o.froze = false) :
    ringPlain false d a (some b) check none op s = .next ((r.back s ((r.sent s).setRing r.tile r.ring o.ring) w []).wrote d w 4) :=
  ringExec_answers (b := some b) (carry := fun _ _ => []) (op := fun v _ => op v) h (by simp) ha hask href harr hout hv hcheck (by simp)
    hop.1 hop.2.1 hop.2.2

theorem ringRelease_answers {sc : Scope} (hrel : s.released sc = true) {op : Ring → Issuer → RingOut}
    (hop : op (s.ringAt r.tile r.ring) s.issuer = o ∧ o.done = [(s.issuer, w)] ∧ o.froze = false) :
    ringPlain false d a none noCheck (some sc) (fun _ => op) s =
      .next ((r.back s ((r.sent s).setRing r.tile r.ring o.ring) w []).wrote d w 4) :=
  ringExec_answers (carry := fun _ _ => []) (op := fun _ _ => op) h (by simp)
    (fun x hx => ha x (by simp only [Option.toList, List.mem_cons] at hx ⊢; tauto)) hask href harr hout rfl rfl (by simp [hrel])
    hop.1 hop.2.1 hop.2.2

/-- RGRESET carries the three counter dwords behind the first dword of its image. -/
theorem rgreset_answers (hsup : j.sup = true) (hv : (s.core j).reg b = v) (hcheck : areaCheck s v = none)
    (hop : (s.ringAt r.tile r.ring).resetOp s.issuer (s.dwordAt v 1) (s.dwordAt v 2) (s.dwordAt v 3) = o ∧
      o.done = [(s.issuer, w)] ∧ o.froze = false) :
    execRgreset d a b s = .next ((r.back s ((r.sent s).setRing r.tile r.ring o.ring) w []).wrote d w 4) := by
  obtain ⟨hring, hdone, hfroze⟩ := hop
  unfold execRgreset
  refine ringExec_answers (b := some b) (carry := fun s v => readBytes s.mem (apAddr s.fpkg s.ftile (v.toNat + 8)) 24)
    (op := fun _ l q i => q.resetOp i (dwordOf l 0) (dwordOf l 1) (dwordOf l 2)) h (fun _ => hsup) ha hask href harr hout hv hcheck
    (by simp) ?_ hdone hfroze
  rw [carried_dword s v (by decide), carried_dword s v (by decide), carried_dword s v (by decide)]
  exact hring

/-- RGSTAT lays its snapshot in the scratchpad before it writes its result. -/
theorem rgstat_answers (hv : (s.core j).reg b = v) (hcheck : areaCheck s v = none) {l : List Byte}
    (hl : (s.ringAt r.tile r.ring).entry.flatMap (fun w => leBytes 8 w.toNat) = l) :
    execRgstat d a b s = .next (({ r.back s (r.sent s) 0 l with
      mem := writeBytes s.mem (apAddr s.fpkg s.ftile v.toNat) l } : State).wrote d 0 4) := by
  let y := r.back s (r.sent s) 0 l
  have hfocus : y.focus = s.focus := (back_focus _ _ _ _ _).trans (sent_focus s r)
  have hjobs : y.jobs = s.jobs := (back_jobs _ _ _ _ _).trans (sent_jobs s r)
  have hmem : y.mem = s.mem := (back_mem _ _ _ _ _).trans (sent_mem s r)
  have hsnap : ringSnap r [] (r.sent s) = .ok (r.sent s) 0 l := by
    simp only [ringSnap, sent_outgoing, hout, sent_ringAt, hl]
    rfl
  let z : State := { y with mem := writeBytes s.mem (apAddr s.fpkg s.ftile v.toNat) l }
  have hkey : z.key = s.key := congrArg (fun f : StreamId => slotKey f.pkg.toNat f.tile.toNat f.slot.toNat) hfocus
  have hcalm : Calm z s.key := h.calm.of_jobAt (congrArg (mget · s.key) hjobs)
  have hpkg : y.fpkg = s.fpkg := congrArg (fun f : StreamId => f.pkg.toNat) hfocus
  have htile : y.ftile = s.ftile := congrArg (fun f : StreamId => f.tile.toNat) hfocus
  have hsend : ringSend s r ((s.core j).reg a) [] (ringSnap r)
      (fun s w x => .next (({ s with mem := writeBytes s.mem (apAddr s.fpkg s.ftile v.toNat) x } : State).setReg d w)) =
      .next (z.setReg d 0) := by
    rw [ringSend_answers harr hsnap]
    show Res.next (({ y with mem := writeBytes y.mem (apAddr y.fpkg y.ftile v.toNat) l } : State).setReg d 0) = _
    rw [hmem, hpkg, htile]
  exact ringExec_sends (t := z.setReg d 0) (b := some b) (sup := false) (rel := none) (carry := fun _ _ => [])
    (act := fun _ r => ringSnap r) h (by simp) ha hask href hv hcheck (by simp) hsend ((setReg_key _ _ _).trans hkey)
    (hcalm.setReg_at hkey)
end

/-! ### References and operands (R268, R269) -/

theorem ringRef_own {s : State} {ref : Word} {n : Nat} (h : ref.toNat = n) (hn : n < 64) (u : Nat) :
    ringRef s u ref = .ok ⟨s.tkey, n, false⟩ := by
  have hform : ¬ (bits ref 63 24 ≠ 0 ∨ bits ref 6 6 ≠ 0 ∨ (bits ref 7 7 = 0 ∧ bits ref 23 8 ≠ 0)) := by simp only [bits]; omega
  have hring : bits ref 5 0 = n := by simp only [bits]; omega
  have hown : bits ref 7 7 = 0 := by simp only [bits]; omega
  rw [ringRef, if_neg hform]
  dsimp only
  rw [if_pos (.inl hown), hring]

theorem ringRef_far {s : State} {ref : Word} {u n q t : Nat} (h : ref.toNat = 2 ^ 16 * q + 2 ^ 8 * t + 2 ^ 7 + n) (hn : n < 64)
    (ht : t < 256) (hq : q < 256) (hfar : (q, t) ≠ (s.fpkg, s.ftile)) (hd : q < (s.pkgAt s.fpkg).d) (hp : s.tilePresent q t = true)
    (hw : s.windowOk s.fpkg u (apAddr q t 0) (apAddr q t 0xFFFF) permRW = true) : ringRef s u ref = .ok ⟨tileKey q t, n, true⟩ := by
  have hform : ¬ (bits ref 63 24 ≠ 0 ∨ bits ref 6 6 ≠ 0 ∨ (bits ref 7 7 = 0 ∧ bits ref 23 8 ≠ 0)) := by simp only [bits]; omega
  have hring : bits ref 5 0 = n := by simp only [bits]; omega
  have hpkg : bits ref 23 16 = q := by simp only [bits]; omega
  have htile : bits ref 15 8 = t := by simp only [bits]; omega
  have hremote : ¬ (bits ref 7 7 = 0 ∨ (q = s.fpkg ∧ t = s.ftile)) := by
    rintro (h7 | ⟨hqe, hte⟩)
    · simp only [bits] at h7
      omega
    · exact hfar (by rw [hqe, hte])
  rw [ringRef, if_neg hform]
  dsimp only
  rw [hpkg, htile, hring, if_neg hremote, if_neg (by simp [hp, hd]), if_neg (by simp [hw])]

theorem areaCheck_ok {s : State} {v : Word} (hs : Sound s) (h0 : v.toNat + 32 ≤ 0x60_0000) (h1 : v.toNat % 16 = 0) :
    areaCheck s v = none := by
  have hin : ¬ padSize < v.toNat + 32 := Nat.not_lt.mpr h0
  simp [areaCheck, localFault, hin, h1, hs.flawed]

theorem roleCheck_ok {s : State} {v : Word} (h : v.toNat < 4) : roleCheck s v = none := by
  have hbits : bits v 63 2 = 0 := by simp only [bits]; omega
  simp [roleCheck, hbits]

theorem initCheck_ok {s : State} {v : Word} (h : bits v 22 0 + max (2 ^ bits v 55 52 * 16 * bits v 51 40) 1 ≤ 0x60_0000) :
    initCheck s v = none := if_neg (Nat.not_lt.mpr h)

/-! ### The obligation -/

/-- Settles O28: the reference names the ring, its unit answers at once, and the core takes the result. -/
theorem ringOperations : Obligations.RingOperations := by
  unfold Obligations.RingOperations
  intro s j d a b sc far n o w h ha hask hs hn ref v i k p u fin hown hfar hout g t answers
  let r : RingRef := ⟨k, n, far.isSome⟩
  have href : ringRef s j.tenant.toNat ((s.core j).reg a) = .ok r := by
    cases far with
    | none => exact ringRef_own (hown rfl) hn _
    | some f =>
      obtain ⟨q, e⟩ := f
      obtain ⟨hr, ht, hne, hd, hq, hp, hw, -⟩ := hfar q e rfl
      exact ringRef_far hr hn ht hq hne hd hp hw
  have harr : r.Reached s := by
    intro hremote
    obtain ⟨⟨q, e⟩, hf⟩ := Option.isSome_iff_exists.mp hremote
    obtain ⟨-, -, -, -, -, -, -, harr⟩ := hfar q e hf
    exact harr
  have ht : t = .next ((r.back s ((r.sent s).setRing r.tile r.ring o.ring) w []).wrote d w 4) := rfl
  clear_value t
  subst ht
  refine ⟨fun hop => ?claim, fun hop hrel => ?fill, fun hop => ?take, fun hop => ?observe, fun hop hrel => ?free, fun hop hin => ?init,
    fun hop hv => ?join, fun hop hv => ?leave, fun hop hsup h0 h1 => ?reset, fun h0 h1 => ?stat⟩
  case claim =>
    show execRgclaim d a b sc s = _
    exact ringPlain_answers (op := fun v r i => r.claim i v.toNat) h ha hask href harr hout (check := noCheck) rfl rfl hop
  case take =>
    show execRgtake d a b sc s = _
    exact ringPlain_answers (op := fun v r i => r.take i v.toNat) h ha hask href harr hout (check := noCheck) rfl rfl hop
  case observe =>
    show execRgtakeObs d a b sc s = _
    exact ringPlain_answers (op := fun v r i => r.observe i (lo32 v)) h ha hask href harr hout (check := noCheck) rfl rfl hop
  case fill =>
    show execRgfill d a sc s = _
    exact ringRelease_answers (op := fun r i => r.fill i) h ha hask href harr hout hrel hop
  case free =>
    show execRgfree d a sc s = _
    exact ringRelease_answers (op := fun r i => r.free i) h ha hask href harr hout hrel hop
  case init =>
    show execRginit d a b s = _
    exact ringPlain_answers (op := fun v r i => r.init i v) h ha hask href harr hout rfl (initCheck_ok hin) hop
  case join =>
    show execRgjoin d a b s = _
    exact ringPlain_answers (op := fun v r i => r.join i (v.getLsbD 0) (v.getLsbD 1)) h ha hask href harr hout rfl (roleCheck_ok hv) hop
  case leave =>
    show execRgleave d a b s = _
    exact ringPlain_answers (op := fun v r i => r.leave i (v.getLsbD 0) (v.getLsbD 1)) h ha hask href harr hout rfl (roleCheck_ok hv) hop
  case reset =>
    show execRgreset d a b s = _
    exact rgreset_answers h ha hask href harr hout hsup rfl (areaCheck_ok hs h0 h1) hop
  case stat =>
    show execRgstat d a b s = _
    exact rgstat_answers h ha hask href harr hout rfl (areaCheck_ok hs h0 h1) rfl

end Sys2Proof.Machine
end

section
/-!
SUPPORT. What a translation answers: at a hit, the checks of the entry (03 R75, R79; 01 R26, R30); at a miss under a root that is not
valid, Page-Absent (03 R73); and O19.
-/

namespace Sys2Proof.Machine

/-! ### The checks of an entry (03 R79; 01 R26, R30) -/

theorem grants_iff {have_ need : Perm} : grants have_ need = true ↔ need &&& have_ = need := beq_iff_eq

section
variable {s : State} {p u va : Nat} {need : Perm} {e : TlbEntry}

theorem entryCheck_ok (hleaf : grants e.xwr need = true)
    (hwin : s.windowOk p u e.pa (e.pa + pageBytes e.size.toNat - 1) need = true) (hplace : e.placement ≠ 0b1100) :
    s.entryCheck p u va need e = .ok e (e.phys va) := by
  rw [State.entryCheck, hleaf, hwin, if_neg (by decide), if_neg (by decide), if_neg hplace]

/-- A leaf that does not grant the access is refused first, whatever its window and placement. -/
theorem entryCheck_leafRefuses (hleaf : grants e.xwr need = false) : s.entryCheck p u va need e = .fault .protection := by
  simp [State.entryCheck, hleaf]

end

/-! ### A hit, and a miss without tables (03 R73 to R76) -/

section
variable {s : State} {p t : Nat} {sel : TlbSel} {u va : Nat} {need : Perm}

/-- A hit answers what the checks of the entry come to; the entry becomes the most recently used one. -/
theorem translate_hit {e : TlbEntry} (h : (s.tlbOf p t sel).find? (fun e => e.hits u va) = some e) :
    s.translate p t sel u va need =
      (s.setTlb p t sel (e :: (s.tlbOf p t sel).filter (fun x => !(x.hits u va))), s.entryCheck p u va need e) := by
  simp only [State.translate, h]

theorem translate_hit_head {e : TlbEntry} {l : List TlbEntry} (htlb : s.tlbOf p t sel = e :: l) (hhit : e.hits u va = true) :
    (s.translate p t sel u va need).2 = s.entryCheck p u va need e := by
  have hfind : (s.tlbOf p t sel).find? (fun e => e.hits u va) = some e := htlb ▸ List.find?_cons_of_pos hhit
  rw [translate_hit hfind]

theorem bits_bit0_eq_zero {n : Nat} {x : BitVec n} (h : x.getLsbD 0 = false) : bits x 0 0 = 0 := by
  have heven : x.toNat % 2 ≠ 1 := by simpa [BitVec.getLsbD] using h
  simp only [bits]
  omega

/-- A walk reads no table where TROOT.V = 0. -/
theorem walk_rootInvalid {w : Nat} (hroot : (s.tenAt p u).troot.getLsbD 0 = false) :
    s.walk p w u va need = (s, .fault .pageAbsent) :=
  if_pos (bits_bit0_eq_zero hroot)

theorem translate_miss_rootInvalid (hmiss : (s.tlbOf p t sel).find? (fun e => e.hits u va) = none)
    (hroot : (s.tenAt p u).troot.getLsbD 0 = false) : s.translate p t sel u va need = (s, .fault .pageAbsent) := by
  simp only [State.translate, hmiss, walk_rootInvalid hroot]

end

/-! ### The obligation -/

/-- Settles O19: a translation moves packages and tiles alone, a hit answers the entry's checks, and a miss without a valid root ends
before the walk. -/
theorem translation : Obligations.Translation := by
  unfold Obligations.Translation
  intro s p t u va need
  refine ⟨(movesUnits_translate s p t .core u va need).mem, fun e l htlb hhit hplace => ⟨?granted, ?refused⟩, ?absent⟩
  case granted =>
    intro hleaf hwin
    rw [translate_hit_head htlb hhit, entryCheck_ok (grants_iff.mpr hleaf) hwin hplace]
    rfl
  case refused =>
    intro hleaf
    rw [translate_hit_head htlb hhit, entryCheck_leafRefuses (Bool.eq_false_iff.mpr (mt grants_iff.mp hleaf))]
  case absent =>
    intro htlb hroot
    have hmiss : (s.tlbOf p t .core).find? (fun e => e.hits u va) = none := by rw [htlb, List.find?_nil]
    rw [translate_miss_rootInvalid hmiss hroot]

end Sys2Proof.Machine
end

section
/-!
SUPPORT. An operation of the content-addressed region as its core sees it (04 R101, R113, R114): the way to its home, the turn there and
the answer; counts (R105, R106), and what lookup-or-allocate can answer (R102).
-/

namespace Sys2Proof.Machine

/-! ### What line data on a link, and a request at a home's cache, move (02 R41, R69) -/

/-- `t` differs from `s` in the dictionaries of links and the lines of homes' caches at most. -/
def MovesBuffers (s t : State) : Prop :=
  (∃ pkgs, t = { s with pkgs := pkgs }) ∧ ∀ p, ∃ l c, t.pkgAt p = { s.pkgAt p with dicts := l, cache := c }

theorem MovesBuffers.refl (s : State) : MovesBuffers s s := ⟨⟨s.pkgs, rfl⟩, fun _ => ⟨_, _, rfl⟩⟩

theorem MovesBuffers.trans {s t u : State} (h1 : MovesBuffers s t) (h2 : MovesBuffers t u) : MovesBuffers s u := by
  obtain ⟨⟨_, rfl⟩, hp⟩ := h1
  obtain ⟨⟨k, rfl⟩, hq⟩ := h2
  refine ⟨⟨k, rfl⟩, fun p => ?_⟩
  obtain ⟨l, c, hl⟩ := hp p
  obtain ⟨l', c', hl'⟩ := hq p
  exact ⟨l', c', by rw [hl', hl]⟩

theorem movesBuffers_modDicts (s : State) (p : Nat) (f : Package → Map (List (List Byte))) :
    MovesBuffers s (s.modPkg p (fun k => { k with dicts := f k })) := by
  refine ⟨⟨_, rfl⟩, fun q => ?_⟩
  by_cases hq : q = p
  · subst hq
    exact ⟨_, _, modPkg_pkgAt_same _ _ _⟩
  · exact ⟨_, _, setPkg_pkgAt_ne _ _ _ _ hq⟩

theorem movesBuffers_carry (s : State) (way : List (Nat × Nat)) (pa : Nat) (b : List Byte) : MovesBuffers s (s.carry way pa b) := by
  have hfold : ∀ (f : Nat × Nat → Package → Map (List (List Byte))) (l : List (Nat × Nat)) (s : State),
      MovesBuffers s (l.foldl (fun s x => s.modPkg x.1 (fun k => { k with dicts := f x k })) s) := by
    intro f l
    induction l with
    | nil => exact MovesBuffers.refl
    | cons x l ih => exact fun s => (movesBuffers_modDicts s x.1 (f x)).trans (ih _)
  unfold State.carry
  split
  · exact .refl s
  · exact hfold (fun x k => mput k.dicts x.2 _) way s

theorem movesBuffers_touchHome (s : State) (pa n : Nat) (h : Hint) : MovesBuffers s (s.touchHome pa n h) := by
  refine ⟨?_, fun p => ?_⟩
  · unfold State.touchHome
    split
    · split
      · exact ⟨_, rfl⟩
      · exact ⟨_, rfl⟩
    · exact ⟨_, rfl⟩
  · obtain ⟨c, hc⟩ := touchHome_pkgAt s pa n h p
    exact ⟨_, c, hc⟩

section
variable {s t : State} (h : MovesBuffers s t)
include h

theorem MovesBuffers.mem : t.mem = s.mem := by obtain ⟨⟨_, rfl⟩, -⟩ := h; rfl
theorem MovesBuffers.jobs : t.jobs = s.jobs := by obtain ⟨⟨_, rfl⟩, -⟩ := h; rfl
theorem MovesBuffers.reqs : t.reqs = s.reqs := by obtain ⟨⟨_, rfl⟩, -⟩ := h; rfl
theorem MovesBuffers.errs : t.errs = s.errs := by obtain ⟨⟨_, rfl⟩, -⟩ := h; rfl
theorem MovesBuffers.focus : t.focus = s.focus := by obtain ⟨⟨_, rfl⟩, -⟩ := h; rfl
theorem MovesBuffers.issuer : t.issuer = s.issuer := by obtain ⟨⟨_, rfl⟩, -⟩ := h; rfl
theorem MovesBuffers.askOf : t.askOf = s.askOf := by obtain ⟨⟨_, rfl⟩, -⟩ := h; rfl

theorem MovesBuffers.caAt (p d : Nat) : t.caAt p d = s.caAt p d := by
  obtain ⟨l, c, hp⟩ := h.2 p
  rw [State.caAt, State.caAt, hp]

theorem MovesBuffers.deadAt (p d : Nat) : (t.pkgAt p).deadAt d = (s.pkgAt p).deadAt d := by
  obtain ⟨l, c, hp⟩ := h.2 p
  rw [hp]
  rfl

theorem MovesBuffers.placeOf (pa : Nat) : t.placeOf pa = s.placeOf pa := by
  obtain ⟨l, c, hp⟩ := h.2 (paPkg pa)
  simp only [State.placeOf, State.region, hp]

theorem MovesBuffers.targetNum (pa : Nat) : t.targetNum pa = s.targetNum pa := by
  rw [State.targetNum, h.placeOf]
  rfl

theorem MovesBuffers.targetBusy (n : Nat) : t.targetBusy n = s.targetBusy n := by
  simp only [State.targetBusy, h.reqs, h.issuer, h.targetNum]
end

/-! ### An operation leaves its core (R114; 02 R36, R65) -/

section
variable (s : State) (n : Nat) (data : List Byte)

theorem movesBuffers_caCarried : MovesBuffers s (s.caCarried n data) := movesBuffers_carry _ _ _ _

theorem caGone_jobs : (s.caGone n data).jobs = s.jobs := (asked_jobs _ _).trans (movesBuffers_caCarried s n data).jobs
theorem caGone_mem : (s.caGone n data).mem = s.mem := (asked_mem _ _).trans (movesBuffers_caCarried s n data).mem
theorem caGone_errs : (s.caGone n data).errs = s.errs := (asked_errs _ _).trans (movesBuffers_caCarried s n data).errs
theorem caGone_focus : (s.caGone n data).focus = s.focus := (asked_focus _ _).trans (movesBuffers_caCarried s n data).focus

theorem caGone_caAt (p d : Nat) : (s.caGone n data).caAt p d = s.caAt p d := by
  rw [← (movesBuffers_caCarried s n data).caAt, State.caGone, State.caAt, State.caAt, pkgAt_pkgs (asked_pkgs _ _)]

theorem caGone_deadAt (p d : Nat) : ((s.caGone n data).pkgAt p).deadAt d = (s.pkgAt p).deadAt d := by
  rw [← (movesBuffers_caCarried s n data).deadAt, State.caGone, pkgAt_pkgs (asked_pkgs _ _)]

theorem caGone_sound (hs : Sound s) : Sound (s.caGone n data) := (caGone_errs s n data).trans hs
end

/-! ### The turn at the home (R107, R109) -/

section
variable {s t : State} {pp dom g : Nat} {node : Bool} {act : State → Answer}

/-- Where nothing waits, no wait ends. -/
theorem caEnd_none (h : (s.caAt pp dom).held = []) (who : Issuer) : s.caEnd pp dom who = s := by
  simp [State.caEnd, State.caLeave, h]

theorem behind_none {c : CaDomain} (h : c.held = []) (g : Nat) (who : CaWaiter) : c.behind g who = false := by
  simp [CaDomain.behind, CaDomain.first_, h]

/-- An operation at a home where nothing waits, before it and after it, is the operation alone. -/
theorem caGate_ok {v : Word} {x : List Byte} (h : (s.caAt pp dom).held = []) (hact : act s = .ok t v x)
    (ht : (t.caAt pp dom).held = []) : caGate pp dom g node act s = .ok t v x := by
  simp only [caGate, behind_none h, Bool.false_eq_true, if_false, hact, caEnd_none ht]

theorem caGate_err {c : Cause} {eva : Word} (h : (s.caAt pp dom).held = []) (hact : act s = .err t c eva)
    (ht : (t.caAt pp dom).held = []) : caGate pp dom g node act s = .err t c eva := by
  simp only [caGate, behind_none h, Bool.false_eq_true, if_false, hact, caEnd_none ht]

end

@[simp] theorem setCa_caAt_same (s : State) (pp dom : Nat) (c : CaDomain) : (s.setCa pp dom c).caAt pp dom = c := by
  simp [State.caAt, State.setCa]

/-! ### The way there and back (R113, R114) -/

/-- The answer has come from the home, whose state is `u`: the core has taken it and is still to retire. -/
def State.caTaken (u : State) (d : Reg) (out n : Nat) (seq : BitVec 16) (v : Word) (x : List Byte) : State :=
  let t := (u.keep (caParcel n) seq v x).carry (wayBack u.fpkg (dieOf u.ftile) (placeOfNum (n / 4))) 0 x
  ({ t with mem := writeBytes t.mem (apAddr t.fpkg t.ftile out) x } : State).setReg d v

theorem caTaken_retired (u : State) (d : Reg) (out n : Nat) (seq : BitVec 16) (v : Word) (x : List Byte) :
    (u.caTaken d out n seq v x).retired 4 = u.caBack d out n seq v x := rfl

theorem caTaken_key (u : State) (d : Reg) (out n : Nat) (seq : BitVec 16) (v : Word) (x : List Byte) :
    (u.caTaken d out n seq v x).key = u.key := by
  refine (setReg_key _ _ _).trans ?_
  exact congrArg (fun f : StreamId => slotKey f.pkg.toNat f.tile.toNat f.slot.toNat) (movesBuffers_carry _ _ _ _).focus

theorem caTaken_calm {u : State} {k : Nat} (h : Calm u k) (hk : u.key = k) (d : Reg) (out n : Nat) (seq : BitVec 16) (v : Word)
    (x : List Byte) : Calm (u.caTaken d out n seq v x) k := by
  have hmoves := movesBuffers_carry (u.keep (caParcel n) seq v x) (wayBack u.fpkg (dieOf u.ftile) (placeOfNum (n / 4))) 0 x
  refine Calm.setReg_at (h.of_jobAt ?_) ?_
  · exact congrArg (mget · k) hmoves.jobs
  · exact (congrArg (fun f : StreamId => slotKey f.pkg.toNat f.tile.toNat f.slot.toNat) hmoves.focus).trans hk

section
variable {s t : State} {n dom : Nat} {data : List Byte} {act : Nat → Nat → List Byte → State → Answer}
  (harr : s.CaArrives n data)
include harr

/-- An operation that arrives acts once at its home. -/
theorem caSend_arrives (d : Reg) (out : Word) : ∃ a : Asked, a.seq = s.caSeq n data ∧
    caSend d out n dom data act s = answeredAs (caParcel n) a
      (fun t v x =>
        let u := t.carry (wayBack t.fpkg (dieOf s.ftile) (placeOfNum (n / 4))) 0 x
        .next (({ u with mem := writeBytes u.mem (apAddr u.fpkg u.ftile out.toNat) x } : State).setReg d v))
      (caServed (placeOfNum (n / 4)).pkg dom (act (placeOfNum (n / 4)).pkg dom data) (s.caGone n data)) := by
  have hmoves := movesBuffers_caCarried s n data
  have hask : s.askOf = none := hmoves.askOf ▸ harr.1
  have hbusy : s.targetBusy n = false := hmoves.targetBusy n ▸ (harr.2.2 rfl).1
  refine ⟨⟨BitVec.ofNat 64 dom, n, s.caSeq n data, (s.caCarried n data).wall, 0, data, false⟩, rfl, ?_⟩
  simp only [caSend, hask, hbusy, Option.isSome_none, Bool.or_self, Bool.false_eq_true, if_false]
  exact exchange_arrives harr _ _ _ _ _ _

theorem caSend_answers {v : Word} {x : List Byte} {pp : Nat} (hplace : (placeOfNum (n / 4)).pkg = pp)
    (hserv : (s.caAt pp dom).serving = true) (hact : act pp dom data (s.caGone n data) = .ok t v x) (hfocus : t.focus = s.focus)
    (d : Reg) (out : Word) : caSend d out n dom data act s = .next (t.caTaken d out.toNat n (s.caSeq n data) v x) := by
  obtain ⟨a, hseq, hsend⟩ := caSend_arrives (act := act) (dom := dom) harr d out
  have htile : t.ftile = s.ftile := congrArg (fun f : StreamId => f.tile.toNat) hfocus
  subst hplace
  rw [hsend, caServed, caGone_caAt, hserv, if_pos rfl, hact, ← htile]
  simp only [answeredAs, hseq]
  rfl

theorem caSend_raises {c : Cause} {eva : Word} {pp : Nat} (hplace : (placeOfNum (n / 4)).pkg = pp)
    (hserv : (s.caAt pp dom).serving = true) (hact : act pp dom data (s.caGone n data) = .err t c eva)
    (d : Reg) (out : Word) : caSend d out n dom data act s = .raise t c eva := by
  obtain ⟨a, -, hsend⟩ := caSend_arrives (act := act) (dom := dom) harr d out
  subst hplace
  rw [hsend, caServed, caGone_caAt, hserv, if_pos rfl, hact]
  rfl
end

/-! ### The common course (R101, R113; 10 R272) -/

/-- What a fault leaves sees the job and the stream in focus alone of what the operation has moved. -/
theorem coreFault_focus {s t : State} (h : t.focus = s.focus) (j : Job) (c : Cause) (eva : Word) : t.coreFault j c eva = s.coreFault j c eva := by
  simp only [State.coreFault, State.core, h]

theorem asked_of_askOf {s : State} {j : Job} (h : Ready s j) (hask : s.askOf = none) : (s.core j).asked = none := by
  simpa [State.askOf, h.1, State.core] using hask

/-- Local ranges over sound storage hold no error. -/
theorem Sound.find_flawed {s : State} (h : Sound s) (l : List (Word × Nat)) :
    l.find? (fun r => s.flawed (apAddr s.fpkg s.ftile r.1.toNat) r.2) = none := by
  simp [h.flawed]

section
variable {s t : State} {j : Job} {regs : List Reg} {d : Reg} {ranges : Core → List (Word × Nat)} {names : Core → State → Option Word}
  {rel : Bool} {out : Core → Word} {req : Nat → Nat → Job → Core → State → Option (Nat × List Byte)}
  {act : Core → Nat → Nat → List Byte → State → Answer} (ha : Allowed (s.core j) (d :: regs))
include ha

/-- A local range that fails its check raises its cause before anything is sent. -/
theorem caExec_rangeFault (h : Steady s j) (hask : s.askOf = none) {c : Cause} {eva : Word}
    (hrange : caRangeFault (ranges (s.core j)) = some (c, eva)) :
    caExec regs d ranges names rel out req act s = .next (s.faulted j c eva) := by
  refine coreExec_faulted h (by simp) ha ?_
  simp only [asked_of_askOf h.1 hask, hrange]

variable (hs : Sound s) (hrange : caRangeFault (ranges (s.core j)) = none)
include hs hrange

/-- So does a name. -/
theorem caExec_nameFault (h : Steady s j) (hask : s.askOf = none) {eva : Word} (hname : names (s.core j) s = some eva) :
    caExec regs d ranges names rel out req act s = .next (s.faulted j .caName eva) := by
  refine coreExec_faulted h (by simp) ha ?_
  simp only [asked_of_askOf h.1 hask, hrange, hs.find_flawed, hname]

variable (h : Ready s j) (hname : names (s.core j) s = none)
include h hname

theorem caExec_noRegion (hask : s.askOf = none) (hreg : s.caRegion s.fpkg j.tenant.toNat = none) :
    caExec regs d ranges names rel out req act s = .next (s.wrote d (caResult .noPool 0 0) 4) := by
  refine coreExec_next h (by simp) ha ?_ (setReg_key _ _ _) (h.calm.setReg _ _)
  simp only [asked_of_askOf h hask, hrange, hs.find_flawed, hname, hreg]

variable {pp dom : Nat} (hreg : s.caRegion s.fpkg j.tenant.toNat = some (pp, dom)) (hfree : s.localFree true = true)
  (hrel : rel = true → s.released .dom = true)
include hreg hfree hrel

omit ha h in
/-- An operation that has passed its checks, and waits for nothing of its core, is sent, or has nothing to do. -/
theorem caExec_body (hasked : (s.core j).asked = none) :
    ∃ body, caExec regs d ranges names rel out req act s = coreExec 4 false (d :: regs) body s ∧
      (req pp dom j (s.core j) s = none → body j (s.core j) s = .next (s.setReg d (caResult .ok 0 0))) ∧
      ∀ n data, req pp dom j (s.core j) s = some (n, data) →
        body j (s.core j) s = caSend d (out (s.core j)) n dom data (act (s.core j)) s := by
  refine ⟨_, rfl, fun hreq => ?_, fun n data hreq => ?_⟩
  all_goals
    simp only [hasked, hrange, hs.find_flawed, hname, hreg, inLocalQueue, hfree, if_true]
    cases hr : rel with
    | false => simp [hreq]
    | true => simp [hreq, afterRelease_ok (hrel hr)]

theorem caExec_nothing (hask : s.askOf = none) (hreq : req pp dom j (s.core j) s = none) :
    caExec regs d ranges names rel out req act s = .next (s.wrote d (caResult .ok 0 0) 4) := by
  obtain ⟨body, hexec, hnone, -⟩ := caExec_body (d := d) (regs := regs) (out := out) (req := req) (act := act) hs hrange hname hreg hfree
    hrel (asked_of_askOf h hask)
  rw [hexec]
  exact coreExec_next h (by simp) ha (hnone hreq) (setReg_key _ _ _) (h.calm.setReg _ _)

variable {n : Nat} {data : List Byte} (hreq : req pp dom j (s.core j) s = some (n, data)) (hplace : (placeOfNum (n / 4)).pkg = pp)
  (hserv : (s.caAt pp dom).serving = true) (harr : s.CaArrives n data)
include hreq hplace hserv harr

/-- An operation whose home answers at once writes its result and what the answer brings. -/
theorem caExec_answers {v : Word} {x : List Byte} (hact : act (s.core j) pp dom data (s.caGone n data) = .ok t v x)
    (hfocus : t.focus = s.focus) (hjobs : t.jobs = s.jobs) :
    caExec regs d ranges names rel out req act s = .next (t.caBack d (out (s.core j)).toNat n (s.caSeq n data) v x) := by
  have hask : s.askOf = none := (movesBuffers_caCarried s n data).askOf ▸ harr.1
  have hkey : t.key = s.key := by rw [State.key, State.key, hfocus]
  obtain ⟨body, hexec, -, hsome⟩ := caExec_body (d := d) (regs := regs) (out := out) (req := req) (act := act) hs hrange hname hreg hfree
    hrel (asked_of_askOf h hask)
  rw [hexec, ← caTaken_retired]
  exact coreExec_next h (by simp) ha ((hsome n data hreq).trans (caSend_answers harr hplace hserv hact hfocus _ _))
    ((caTaken_key _ _ _ _ _ _ _).trans hkey)
    (caTaken_calm (h.calm.of_jobAt (congrArg (mget · s.key) hjobs)) hkey _ _ _ _ _ _)

/-- One whose home refuses it raises the cause. -/
theorem caExec_raises (hst : j.st ≠ .freezing) {c : Cause} {eva : Word}
    (hact : act (s.core j) pp dom data (s.caGone n data) = .err t c eva) (hfocus : t.focus = s.focus) :
    caExec regs d ranges names rel out req act s = .next (t.faulted j c eva) := by
  have hask : s.askOf = none := (movesBuffers_caCarried s n data).askOf ▸ harr.1
  have hkey : t.key = s.key := by rw [State.key, State.key, hfocus]
  obtain ⟨body, hexec, -, hsome⟩ := caExec_body (d := d) (regs := regs) (out := out) (req := req) (act := act) hs hrange hname hreg hfree
    hrel (asked_of_askOf h hask)
  rw [hexec, State.faulted, coreFault_focus hfocus, hkey]
  exact coreExec_raise ⟨h, hst⟩ (by simp) ha ((hsome n data hreq).trans (caSend_raises harr hplace hserv hact _ _)) hkey
end

/-! ### Operands (R101, R113) -/

theorem caRangeFault_none {l : List (Word × Nat)} (h : ∀ r ∈ l, r.1.toNat + r.2 ≤ 0x60_0000 ∧ r.1.toNat % 16 = 0) :
    caRangeFault l = none := by
  have hrange : l.find? (fun r => decide (padSize < r.1.toNat + r.2)) = none :=
    List.find?_eq_none.mpr fun r hr => Bool.not_eq_true _ ▸ decide_eq_false (Nat.not_lt.mpr (h r hr).1)
  have halign : l.find? (fun r => r.1.toNat % 16 != 0) = none :=
    List.find?_eq_none.mpr fun r hr => by simpa using (h r hr).2
  simp only [caRangeFault, hrange, halign]

theorem badName_none {s : State} {a n : Nat} (h : ∀ i, i < n → bits (s.localName (a + 16 * i)) 7 0 = 0) : badName s a n = none := by
  simpa [badName] using h

theorem badName_first {s : State} {a : Word} (h : bits (s.localName a.toNat) 7 0 ≠ 0) : badName s a.toNat 1 = some a := by
  simp [badName, List.range_one, h]

@[simp] theorem readBytes_length (m : Memory) (a n : Nat) : (readBytes m a n).length = n := by simp [readBytes]

theorem leBytes_leNat : ∀ l : List Byte, leBytes l.length (leNat l) = l
  | [] => rfl
  | b :: l => by
    have hdiv : (b.toNat + 256 * leNat l) / 256 = leNat l := by omega
    have hmod : BitVec.ofNat 8 (b.toNat + 256 * leNat l) = b := BitVec.eq_of_toNat_eq (by simp; omega)
    simp only [List.length_cons, leNat, leBytes, hdiv, hmod, leBytes_leNat l]

theorem leNat_lt : ∀ l : List Byte, leNat l < 256 ^ l.length
  | [] => by simp [leNat]
  | b :: l => by
    have hl := leNat_lt l
    simp only [List.length_cons, leNat, pow_succ]
    omega

theorem bytesName_nameBytes (n : BitVec 128) (l : List Byte) : bytesName (leBytes 16 n.toNat ++ l) = n := by
  have htake : (leBytes 16 n.toNat ++ l).take 16 = leBytes 16 n.toNat := List.take_left' (leBytes_length _ _)
  rw [bytesName, htake, leNat_leBytes, Nat.mod_eq_of_lt (Nat.lt_of_lt_of_eq n.isLt (by norm_num)), BitVec.ofNat_toNat, BitVec.setWidth_eq]

/-- The bytes of a name in the scratchpad. -/
theorem leBytes_localName (s : State) (a : Nat) : leBytes 16 (s.localName a).toNat = readBytes s.mem (apAddr s.fpkg s.ftile a) 16 := by
  have hlt := leNat_lt (readBytes s.mem (apAddr s.fpkg s.ftile a) 16)
  rw [readBytes_length] at hlt
  have hnat : (s.localName a).toNat = leNat (readBytes s.mem (apAddr s.fpkg s.ftile a) 16) := by
    rw [State.localName, State.readL, readLe, BitVec.toNat_ofNat]
    exact Nat.mod_eq_of_lt hlt
  rw [hnat]
  simpa using leBytes_leNat (readBytes s.mem (apAddr s.fpkg s.ftile a) 16)

theorem bits_lt {n : Nat} (x : BitVec n) (hi lo : Nat) : bits x hi lo < 2 ^ (hi + 1 - lo) := Nat.mod_lt _ (by positivity)

theorem nameDie_lt (n : BitVec 128) : nameDie n < 4 := bits_lt n 127 126

/-- The home of a name is a die of the pool package. -/
theorem nameTarget_pkg (pp : Nat) {d : Nat} (h : d < 4) : (placeOfNum (nameTarget pp d / 4)).pkg = pp := by
  have hnum : nameTarget pp d / 4 = pp * 1024 + 256 + d := by simp [nameTarget, Place.target, Place.num]
  have hmod : (pp * 1024 + 256 + d) % 1024 = 256 + d := by omega
  have hdiv : (pp * 1024 + 256 + d) / 1024 = pp := by omega
  rw [hnum, placeOfNum, hmod, hdiv, if_neg (by omega), if_pos (by omega)]
  rfl

theorem caResult_line (l : CaLine) (m : W32) :
    caResult .ok l.kind m = BitVec.ofNat 64 ((if l.node then 2 else 1) * 2 ^ 58 + m.toNat) := by
  simp [caResult, CaStatus.code, CaLine.kind]

/-! ### Operations on a named line (R104 to R106) -/

section
variable {s t : State} {j : Job} {d a : Reg} {more : Core → List (Word × Nat)} {regs : List Reg} {out : Core → Word}
  {act : Nat → Nat → CaLine → State → Answer} {n : BitVec 128} (ha : Allowed (s.core j) (d :: a :: regs))
  (hn : s.localName ((s.core j).reg a).toNat = n)
include ha

theorem caNamed_rangeFault (h : Steady s j) (hask : s.askOf = none) {c : Cause} {eva : Word}
    (hrange : caRangeFault (more (s.core j) ++ [((s.core j).reg a, 16)]) = some (c, eva)) :
    caNamed d a more regs out act s = .next (s.faulted j c eva) := caExec_rangeFault ha h hask hrange

variable (hs : Sound s) (hrange : caRangeFault (more (s.core j) ++ [((s.core j).reg a, 16)]) = none)
include hs hrange hn

theorem caNamed_badName (h : Steady s j) (hask : s.askOf = none) (hz : bits n 7 0 ≠ 0) :
    caNamed d a more regs out act s = .next (s.faulted j .caName ((s.core j).reg a)) :=
  caExec_nameFault ha hs hrange h hask (badName_first (hn ▸ hz))

variable (h : Ready s j) (hz : bits n 7 0 = 0)
include h hz

theorem caNamed_noRegion (hask : s.askOf = none) (hreg : s.caRegion s.fpkg j.tenant.toNat = none) :
    caNamed d a more regs out act s = .next (s.wrote d (caResult .noPool 0 0) 4) :=
  caExec_noRegion ha hs hrange h (badName_none (by simpa [hn] using hz)) hask hreg

variable {pp dom : Nat} (hreg : s.caRegion s.fpkg j.tenant.toNat = some (pp, dom)) (hfree : s.localFree true = true)
include hreg hfree

theorem caNamed_null (hask : s.askOf = none) (h0 : n = 0) :
    caNamed d a more regs out act s = .next (s.wrote d (caResult .ok 0 0) 4) :=
  caExec_nothing ha hs hrange h (badName_none (by simpa [hn] using hz)) hreg hfree (by simp) hask (by simp [hn, h0])

variable (h0 : n ≠ 0) (hserv : (s.caAt pp dom).serving = true) (hheld : (s.caAt pp dom).held = [])
  (harr : s.CaArrives (nameTarget pp (nameDie n)) (leBytes 16 n.toNat))
include h0 hserv hheld harr

theorem caNamed_answers {x : CaLine} (hfind : (s.caAt pp dom).find n = some x) {v : Word} {y : List Byte}
    (hact : act pp dom x (s.caGone (nameTarget pp (nameDie n)) (leBytes 16 n.toNat)) = .ok t v y)
    (ht : (t.caAt pp dom).held = []) (hfocus : t.focus = s.focus) (hjobs : t.jobs = s.jobs) :
    caNamed d a more regs out act s = .next (t.caBack d (out (s.core j)).toNat (nameTarget pp (nameDie n))
      (s.caSeq (nameTarget pp (nameDie n)) (leBytes 16 n.toNat)) v y) := by
  refine caExec_answers ha hs hrange h (badName_none (by simpa [hn] using hz)) hreg hfree (by simp)
    (by simp only [hn, h0, if_false]; rfl) (nameTarget_pkg pp (nameDie_lt n)) hserv harr ?_ hfocus hjobs
  have hname : bytesName (leBytes 16 n.toNat) = n := by simpa using bytesName_nameBytes n []
  refine caGate_ok (by rw [caGone_caAt, hheld]) ?_ ht
  simp only [hname, caGone_caAt, hfind, hact]

theorem caNamed_notLive (hst : j.st ≠ .freezing) (hfind : (s.caAt pp dom).find n = none) :
    caNamed d a more regs out act s = .next ((s.caGone (nameTarget pp (nameDie n)) (leBytes 16 n.toNat)).faulted j .caName
      ((s.core j).reg a)) := by
  refine caExec_raises ha hs hrange h (badName_none (by simpa [hn] using hz)) hreg hfree (by simp)
    (by simp only [hn, h0, if_false]; rfl) (nameTarget_pkg pp (nameDie_lt n)) hserv harr hst ?_ (caGone_focus _ _ _)
  have hname : bytesName (leBytes 16 n.toNat) = n := by simpa using bytesName_nameBytes n []
  have hgone : ((s.caGone (nameTarget pp (nameDie n)) (leBytes 16 n.toNat)).caAt pp dom).held = [] := by rw [caGone_caAt, hheld]
  refine caGate_err hgone ?_ hgone
  simp only [hname, caGone_caAt, hfind]
end

/-! ### Counts (R105, R106) -/

theorem find_name {c : CaDomain} {n : BitVec 128} {x : CaLine} (h : c.find n = some x) : x.name = n ∧ x.dead = false := by
  simpa using List.find?_some h

theorem inc_count (x : CaLine) : x.inc.count.toNat = min (x.count.toNat + 1) 0xFFFF_FFFF := by
  unfold CaLine.inc
  split
  · next hsat => simp [hsat]
  · next hsat =>
    have hne : x.count.toNat ≠ 0xFFFF_FFFF := fun e => hsat (BitVec.eq_of_toNat_eq e)
    have hone : (1 : W32).toNat = 1 := rfl
    have hlt := x.count.isLt
    simp only [BitVec.toNat_add, hone]
    omega

theorem drop_count {x : CaLine} (hlive : x.dead = false) :
    x.drop.count = if x.count = 0xFFFF_FFFF then x.count else x.count - 1 := by
  rw [CaLine.drop, hlive, Bool.false_or]
  by_cases hsat : x.count = 0xFFFF_FFFF
  · rw [if_pos (beq_iff_eq.mpr hsat), if_pos hsat]
  · rw [if_neg (mt beq_iff_eq.mp hsat), if_neg hsat]
    split
    · next hone => rw [hone]; rfl
    · rfl

/-- A decrement after which the line lives on. -/
theorem caDec_lives {s : State} {pp dom : Nat} {n : BitVec 128} {x : CaLine} (hfind : (s.caAt pp dom).find n = some x)
    (hone : x.count ≠ 1) : s.caDec pp dom n = some (s.setCa pp dom ((s.caAt pp dom).dec n)) := by
  have hdies : (s.caAt pp dom).dies n = false := by rw [CaDomain.dies, hfind]; exact beq_eq_false_iff_ne.mpr hone
  rw [State.caDec, hdies]
  rfl

/-- The last one makes it dead, and the reclaim engine of its die takes it. -/
theorem caDec_dies {s : State} {pp dom : Nat} {n : BitVec 128} {x : CaLine} (hfind : (s.caAt pp dom).find n = some x)
    (hone : x.count = 1) (hroom : ((s.pkgAt pp).deadAt (nameDie n)).length < 4096) : s.caDec pp dom n =
      some ((s.setCa pp dom ((s.caAt pp dom).dec n)).modPkg pp (fun k => { k with reclaim := k.reclaim ++ [(dom, n)] })) := by
  have hdies : (s.caAt pp dom).dies n = true := by rw [CaDomain.dies, hfind]; exact beq_iff_eq.mpr hone
  rw [State.caDec, hdies]
  exact if_neg (Nat.not_le.mpr hroom)

/-! ### Lookup-or-allocate (R102) -/

theorem incAll_held (l done : List (BitVec 128)) (c : CaDomain) : (c.incAll l done).1.held = c.held := by
  induction l generalizing c done with
  | nil => rfl
  | cons n l ih =>
    unfold CaDomain.incAll
    split
    · exact (ih _ _).trans rfl
    · exact ih _ _

theorem foldl_dec_held (l : List (BitVec 128)) (c : CaDomain) : (l.foldl CaDomain.dec c).held = c.held := by
  induction l generalizing c with
  | nil => rfl
  | cons n l ih => exact (ih _).trans rfl

theorem mem_insertLine (x : CaLine) (l : List CaLine) : x ∈ insertLine x l := by
  induction l with
  | nil => simp [insertLine]
  | cons y l ih =>
    unfold insertLine
    split
    · simp
    · exact List.mem_cons_of_mem _ ih

/-- A line that matches in step 1: it is live, of this kind, and holds the content. -/
def State.CaSame (s : State) (pp dom : Nat) (node : Bool) (content : List Byte) (x : CaLine) : Prop :=
  x ∈ (s.caAt pp dom).lines ∧ x.dead = false ∧ x.node = node ∧ readBytes s.mem x.at_ 192 = content

/-- Lookup-or-allocate finds a line with the content, or makes one, or makes none and answers why; no wait begins or ends. -/
theorem lookupOrAllocate_cases (s : State) (pp dom : Nat) (node : Bool) (content : List Byte) :
    ∃ c : CaDomain, c.held = (s.caAt pp dom).held ∧
      ((∃ x, s.CaSame pp dom node content x ∧ s.lookupOrAllocate pp dom node content = (s.setCa pp dom c, .match_ x.name x.inc.count)) ∨
       (∃ n b, ⟨n, node, 1, b, false, false⟩ ∈ c.lines ∧ s.lookupOrAllocate pp dom node content =
          (({ s with mem := writeBytes s.mem b content } : State).setCa pp dom c, .new n)) ∨
       ∃ r, r ∈ [LookRes.deadChild, .full, .collision] ∧ s.lookupOrAllocate pp dom node content = (s.setCa pp dom c, r)) := by
  generalize ho : s.lookupOrAllocate pp dom node content = o
  rw [State.lookupOrAllocate] at ho
  generalize hcands : (s.caAt pp dom).lines.filter (fun l => !l.dead && bits l.name 127 16 == caDigest (s.caAt pp dom) node content) = cands at ho
  split at ho
  · next x hx =>
    have hmem := List.mem_of_find?_eq_some hx
    have hmatch := List.find?_some hx
    simp only [← hcands, List.mem_filter, Bool.and_eq_true, Bool.not_eq_true'] at hmem
    simp only [State.caMatches, Bool.and_eq_true, beq_iff_eq] at hmatch
    exact ⟨(s.caLogErrors (s.caAt pp dom) node content cands).inc x.name, rfl, .inl ⟨x, ⟨hmem.1, hmem.2.1, hmatch.1.1, hmatch.2⟩, ho.symm⟩⟩
  · extract_lets kids r undo d taken at ho
    have hr : r.1.held = (s.caAt pp dom).held := incAll_held _ _ _
    have hnone : ∀ q ∈ [LookRes.deadChild, .full, .collision], (undo, q) = o → ∃ c : CaDomain, c.held = (s.caAt pp dom).held ∧
        ∃ q ∈ [LookRes.deadChild, .full, .collision], o = (s.setCa pp dom c, q) :=
      fun q hq he => ⟨_, (foldl_dec_held _ _).trans hr, q, hq, he.symm⟩
    split_ifs at ho
    · obtain ⟨c, hc, hq⟩ := hnone _ (by simp) ho
      exact ⟨c, hc, .inr (.inr hq)⟩
    · obtain ⟨c, hc, hq⟩ := hnone _ (by simp) ho
      exact ⟨c, hc, .inr (.inr hq)⟩
    · split at ho
      · obtain ⟨c, hc, hq⟩ := hnone _ (by simp) ho
        exact ⟨c, hc, .inr (.inr hq)⟩
      · split at ho
        · obtain ⟨c, hc, hq⟩ := hnone _ (by simp) ho
          exact ⟨c, hc, .inr (.inr hq)⟩
        · next b _ =>
          extract_lets n c at ho
          exact ⟨c, hr, .inr (.inl ⟨n, b, mem_insertLine _ _, ho.symm⟩)⟩

section
variable {s : State} {pp dom : Nat} {node : Bool} {content : List Byte}

/-- What it moves: the memory of a new line and the lines of its domain. -/
theorem lookupOrAllocate_state : (s.lookupOrAllocate pp dom node content).1.focus = s.focus ∧
    (s.lookupOrAllocate pp dom node content).1.jobs = s.jobs ∧
    ((s.lookupOrAllocate pp dom node content).1.caAt pp dom).held = (s.caAt pp dom).held := by
  obtain ⟨c, hheld, ⟨x, -, he⟩ | ⟨n, b, -, he⟩ | ⟨r, -, he⟩⟩ := lookupOrAllocate_cases s pp dom node content
  all_goals
    rw [he]
    exact ⟨rfl, rfl, (congrArg CaDomain.held (setCa_caAt_same _ _ _ _)).trans hheld⟩

theorem lookupOrAllocate_match {n : BitVec 128} {m : W32} (h : (s.lookupOrAllocate pp dom node content).2 = .match_ n m) :
    ∃ x, s.CaSame pp dom node content x ∧ x.name = n := by
  obtain ⟨c, -, ⟨x, hx, he⟩ | ⟨n', b, -, he⟩ | ⟨r, hr, he⟩⟩ := lookupOrAllocate_cases s pp dom node content
  · rw [he] at h
    exact ⟨x, hx, (LookRes.match_.inj h).1⟩
  · rw [he] at h
    cases h
  · rw [he] at h
    subst h
    simp at hr

theorem lookupOrAllocate_new {n : BitVec 128} (h : (s.lookupOrAllocate pp dom node content).2 = .new n) :
    ∃ x ∈ ((s.lookupOrAllocate pp dom node content).1.caAt pp dom).lines, x.name = n ∧ x.count = 1 ∧ x.dead = false ∧ x.node = node ∧
      (s.mem.wf = true → content.length = 192 → readBytes (s.lookupOrAllocate pp dom node content).1.mem x.at_ 192 = content) := by
  obtain ⟨c, -, ⟨x, -, he⟩ | ⟨n', b, hmem, he⟩ | ⟨r, hr, he⟩⟩ := lookupOrAllocate_cases s pp dom node content
  · rw [he] at h
    cases h
  · rw [he] at h
    obtain rfl := LookRes.new.inj h
    rw [he]
    refine ⟨⟨n', node, 1, b, false, false⟩, ?_, rfl, rfl, rfl, rfl, fun hwf hlen => ?_⟩
    · rw [setCa_caAt_same]
      exact hmem
    have hread := readBytes_writeBytes hwf b content
    rwa [hlen] at hread
  · rw [he] at h
    subst h
    simp at hr
end

/-- What CAPUT and CANODE answer to what lookup-or-allocate finds, a collision apart: the result dword and the name (R102, R112). -/
def LookRes.reply (node : Bool) : LookRes → Option (Word × List Byte)
  | .match_ n m => some (caResult .ok (if node then 2 else 1) m, nameBytes n)
  | .new n => some (caResult .new (if node then 2 else 1) 1, nameBytes n)
  | .deadChild => some (caResult .deadChild 0 0, [])
  | .full => some (caResult .full 0 0, [])
  | .collision => none

/-- CAPUT and CANODE at a home where nothing waits: lookup-or-allocate, and its answer. -/
theorem caPut_answers {s : State} {j : Job} {node : Bool} {d a b : Reg} {pp dom n : Nat} {content : List Byte} (h : Ready s j)
    (ha : Allowed (s.core j) [d, a, b]) (hs : Sound s) (hfree : s.localFree true = true)
    (hreg : s.caRegion s.fpkg j.tenant.toNat = some (pp, dom)) (hserv : (s.caAt pp dom).serving = true)
    (hheld : (s.caAt pp dom).held = []) (hrange : caRangeFault [((s.core j).reg a, 192), ((s.core j).reg b, 16)] = none)
    (hname : node = true → badName s ((s.core j).reg a).toNat 12 = none)
    (hcontent : readBytes s.mem (apAddr s.fpkg s.ftile ((s.core j).reg a).toNat) 192 = content)
    (hn : nameTarget pp (caDigest (s.caAt pp dom) node content / 2 ^ 110) = n) (harr : s.CaArrives n content)
    {v : Word} {x : List Byte} (hreply : ((s.caGone n content).lookupOrAllocate pp dom node content).2.reply node = some (v, x)) :
    caPut node d a b s = .next (((s.caGone n content).lookupOrAllocate pp dom node content).1.caBack d ((s.core j).reg b).toNat n
      (s.caSeq n content) v x) := by
  obtain ⟨hfocus, hjobs, hend⟩ := lookupOrAllocate_state (s := s.caGone n content) (pp := pp) (dom := dom) (node := node) (content := content)
  have hgone : ((s.caGone n content).caAt pp dom).held = [] := by rw [caGone_caAt, hheld]
  have hdie : caDigest (s.caAt pp dom) node content / 2 ^ 110 < 4 := by
    have hlt := bits_lt (sm3 (leBytes 8 (s.caAt pp dom).key0.toNat ++ leBytes 8 (s.caAt pp dom).key1.toNat
      ++ [if node then 2 else 1] ++ content)) 255 144
    simp only [caDigest]
    omega
  unfold caPut
  refine caExec_answers (out := fun c => c.reg b) ha hs hrange h ?_ hreg hfree (by simp) ?_ (hn ▸ nameTarget_pkg pp hdie) hserv harr ?_
    (hfocus.trans (caGone_focus _ _ _)) (hjobs.trans (caGone_jobs _ _ _))
  · cases hnode : node with
    | false => rfl
    | true => exact hname hnode
  · simp only [hcontent, hn]
  · refine caGate_ok hgone ?_ (hend.trans hgone)
    have hkids : (nodeFields content).any (((s.caGone n content).caAt pp dom).kidWaits (.op (s.caGone n content).issuer)) = false := by
      simp [CaDomain.kidWaits, CaDomain.first_, hgone]
    simp only [hkids, Bool.and_false, Bool.false_eq_true, if_false]
    generalize (s.caGone n content).lookupOrAllocate pp dom node content = o at hreply
    obtain ⟨u, r⟩ := o
    cases r <;> simp only [LookRes.reply, Option.some.injEq, Prod.mk.injEq, reduceCtorEq] at hreply <;>
      obtain ⟨rfl, rfl⟩ := hreply <;> rfl

end Sys2Proof.Machine
end

section
/-!
SUPPORT. CAGET, CAREF, CADROP, CAPUT and CANODE (04 R102 to R107, R113), and O30.
-/

namespace Sys2Proof.Machine

/-! ### CAGET, CAREF, CADROP, CAPUT and CANODE (R102 to R107, R113) -/

theorem inc_eq : CaLine.inc = fun y => { y with count := if y.count = 0xFFFF_FFFF then y.count else y.count + 1 } := by
  funext y
  unfold CaLine.inc
  split
  · rfl
  · rfl

theorem drop_eq : CaLine.drop = fun y => if y.dead = true ∨ y.count = 0xFFFF_FFFF then y
    else if y.count = 1 then { y with count := 0, dead := true } else { y with count := y.count - 1 } := by
  funext y
  simp only [CaLine.drop, Bool.or_eq_true, beq_iff_eq]

/-- One local range, that of a name. -/
theorem caRange_name {v : Word} (h0 : v.toNat + 16 ≤ 0x60_0000) (h1 : v.toNat % 16 = 0) : caRangeFault [(v, 16)] = none :=
  caRangeFault_none (by simp only [List.mem_singleton, forall_eq]; exact ⟨h0, h1⟩)

theorem caRange_two {v w : Word} {m n : Nat} (h0 : v.toNat + m ≤ 0x60_0000) (h1 : v.toNat % 16 = 0) (h2 : w.toNat + n ≤ 0x60_0000)
    (h3 : w.toNat % 16 = 0) : caRangeFault [(v, m), (w, n)] = none :=
  caRangeFault_none (by simp only [List.forall_mem_cons]; exact ⟨⟨h0, h1⟩, ⟨h2, h3⟩, by simp⟩)

theorem caRange_outside {v : Word} (h : 0x60_0000 < v.toNat + 16) : caRangeFault [(v, 16)] = some (.localRange, v) := by
  have hfind : [(v, 16)].find? (fun r : Word × Nat => decide (padSize < r.1.toNat + r.2)) = some (v, 16) :=
    List.find?_cons_of_pos (decide_eq_true h)
  simp only [caRangeFault, hfind]

theorem Allowed.of_subset {c : Core} {l m : List Reg} (h : Allowed c l) (hm : m ⊆ l) : Allowed c m := fun r hr => h r (hm hr)

section
variable {s : State} {j : Job} {d a b : Reg} {pp dom : Nat} {n : BitVec 128} {x : CaLine} (h : Ready s j) (ha : Allowed (s.core j) [d, a, b])
  (hs : Sound s) (hfree : s.localFree true = true) (hreg : s.caRegion s.fpkg j.tenant.toNat = some (pp, dom))
  (hserv : (s.caAt pp dom).serving = true) (hheld : (s.caAt pp dom).held = [])
  (hin : ((s.core j).reg a).toNat + 16 ≤ 0x60_0000) (hal : ((s.core j).reg a).toNat % 16 = 0)
  (hn : s.localName ((s.core j).reg a).toNat = n) (hz : bits n 7 0 = 0) (h0 : n ≠ 0)
  (harr : s.CaArrives (nameTarget pp (nameDie n)) (leBytes 16 n.toNat))
include h ha hs hfree hreg hserv hheld hin hal hn hz h0 harr

theorem caget_notLive (hst : j.st ≠ .freezing) (hfind : (s.caAt pp dom).find n = none) (hk : ((s.core j).reg b).toNat + 192 ≤ 0x60_0000)
    (hka : ((s.core j).reg b).toNat % 16 = 0) : execCaget d a b s =
      .next ((s.caGone (nameTarget pp (nameDie n)) (leBytes 16 n.toNat)).faulted j .caName ((s.core j).reg a)) := by
  have hrange : caRangeFault ([((s.core j).reg b, 192)] ++ [((s.core j).reg a, 16)]) = none := caRange_two hk hka hin hal
  exact caNamed_notLive (more := fun c => [(c.reg b, 192)]) ha hn hs hrange h hz hreg hfree h0 hserv hheld harr hst hfind

/-- CAREF and CADROP name a line and use no other local range. -/
theorem caCount_notLive (act : Nat → Nat → CaLine → State → Answer) (hst : j.st ≠ .freezing) (hfind : (s.caAt pp dom).find n = none) :
    caNamed d a (fun _ => []) [] (fun _ => 0) act s =
      .next ((s.caGone (nameTarget pp (nameDie n)) (leBytes 16 n.toNat)).faulted j .caName ((s.core j).reg a)) :=
  caNamed_notLive (ha.of_subset (by simp)) hn hs (caRange_name hin hal) h hz hreg hfree h0
    hserv hheld harr hst hfind

variable (hfind : (s.caAt pp dom).find n = some x)
include hfind

theorem caget_answers (hk : ((s.core j).reg b).toNat + 192 ≤ 0x60_0000) (hka : ((s.core j).reg b).toNat % 16 = 0) :
    execCaget d a b s = .next ((s.caGone (nameTarget pp (nameDie n)) (leBytes 16 n.toNat)).caBack d ((s.core j).reg b).toNat
      (nameTarget pp (nameDie n)) (s.caSeq (nameTarget pp (nameDie n)) (leBytes 16 n.toNat))
      (BitVec.ofNat 64 ((if x.node then 2 else 1) * 2 ^ 58 + x.count.toNat)) (readBytes s.mem x.at_ 192)) := by
  have hrange : caRangeFault ([((s.core j).reg b, 192)] ++ [((s.core j).reg a, 16)]) = none := caRange_two hk hka hin hal
  rw [← caResult_line]
  refine caNamed_answers (more := fun c => [(c.reg b, 192)]) (out := fun c => c.reg b) ha hn hs hrange h hz hreg
    hfree h0 hserv hheld harr hfind ?_ ?_ (caGone_focus _ _ _) (caGone_jobs _ _ _)
  · rw [(caGone_sound s _ _ hs).flawed, State.caContent, caGone_mem]
    rfl
  · rw [caGone_caAt, hheld]

theorem caCount_answers {t : State} {act : Nat → Nat → CaLine → State → Answer} {m : W32}
    (hact : act pp dom x (s.caGone (nameTarget pp (nameDie n)) (leBytes 16 n.toNat)) = .ok t (caResult .ok x.kind m) [])
    (ht : (t.caAt pp dom).held = []) (hfocus : t.focus = s.focus) (hjobs : t.jobs = s.jobs) :
    caNamed d a (fun _ => []) [] (fun _ => 0) act s = .next (t.caBack d 0 (nameTarget pp (nameDie n))
      (s.caSeq (nameTarget pp (nameDie n)) (leBytes 16 n.toNat))
      (BitVec.ofNat 64 ((if x.node then 2 else 1) * 2 ^ 58 + m.toNat)) []) := by
  rw [← caResult_line]
  exact caNamed_answers (more := fun _ => []) (out := fun _ => 0) (ha.of_subset (by simp)) hn hs
    (caRange_name hin hal) h hz hreg hfree h0 hserv hheld harr hfind hact ht hfocus hjobs

theorem caref_answers : execCaref d a s = .next (((s.caGone (nameTarget pp (nameDie n)) (leBytes 16 n.toNat)).setCa pp dom
    ((s.caAt pp dom).inc n)).caBack d 0 (nameTarget pp (nameDie n)) (s.caSeq (nameTarget pp (nameDie n)) (leBytes 16 n.toNat))
      (BitVec.ofNat 64 ((if x.node then 2 else 1) * 2 ^ 58 + min (x.count.toNat + 1) 0xFFFF_FFFF)) []) := by
  rw [← inc_count]
  refine caCount_answers h ha hs hfree hreg hserv hheld hin hal hn hz h0 harr hfind ?_ ?_ (caGone_focus _ _ _) (caGone_jobs _ _ _)
  · rw [(find_name hfind).1, caGone_caAt]
  · rw [setCa_caAt_same]
    exact hheld

/-- CADROP where its decrement, which leaves `u`, need not wait. -/
theorem cadrop_answers {u : State} (hdec : (s.caGone (nameTarget pp (nameDie n)) (leBytes 16 n.toNat)).caDec pp dom n = some u)
    (hu : (u.caAt pp dom).held = []) (hfocus : u.focus = s.focus) (hjobs : u.jobs = s.jobs) :
    execCadrop d a s = .next (u.caBack d 0 (nameTarget pp (nameDie n)) (s.caSeq (nameTarget pp (nameDie n)) (leBytes 16 n.toNat))
      (BitVec.ofNat 64 ((if x.node then 2 else 1) * 2 ^ 58 + x.drop.count.toNat)) []) := by
  refine caCount_answers h ha hs hfree hreg hserv hheld hin hal hn hz h0 harr hfind ?_ hu hfocus hjobs
  rw [(find_name hfind).1, hdec]
end

theorem reply_match (node : Bool) (n : BitVec 128) (m : W32) : (LookRes.match_ n m).reply node =
    some (BitVec.ofNat 64 ((if node then 2 else 1) * 2 ^ 58 + m.toNat), leBytes 16 n.toNat) := by
  simp only [LookRes.reply, caResult, CaStatus.code, Nat.zero_mul, Nat.zero_add]
  rfl

theorem reply_new (node : Bool) (n : BitVec 128) : (LookRes.new n).reply node =
    some (BitVec.ofNat 64 (2 ^ 60) + BitVec.ofNat 64 ((if node then 2 else 1) * 2 ^ 58 + 1), leBytes 16 n.toNat) := by
  have hone : (1 : W32).toNat = 1 := rfl
  simp only [LookRes.reply, caResult, CaStatus.code, Nat.one_mul, hone, Nat.add_assoc, BitVec.ofNat_add]
  rfl

theorem reply_deadChild (node : Bool) : LookRes.deadChild.reply node = some (BitVec.ofNat 64 (4 * 2 ^ 60), []) := rfl
theorem reply_full (node : Bool) : LookRes.full.reply node = some (BitVec.ofNat 64 (3 * 2 ^ 60), []) := rfl

/-- CAPUT and CANODE by what lookup-or-allocate, `o`, finds (R102, R103). -/
theorem caPut_outcomes {s : State} {j : Job} {node : Bool} {d a b : Reg} {pp dom n : Nat} {content : List Byte} {o : State × LookRes}
    (h : Ready s j) (ha : Allowed (s.core j) [d, a, b]) (hs : Sound s) (hfree : s.localFree true = true)
    (hreg : s.caRegion s.fpkg j.tenant.toNat = some (pp, dom)) (hserv : (s.caAt pp dom).serving = true)
    (hheld : (s.caAt pp dom).held = []) (hrange : caRangeFault [((s.core j).reg a, 192), ((s.core j).reg b, 16)] = none)
    (hname : node = true → badName s ((s.core j).reg a).toNat 12 = none)
    (hcontent : content = readBytes s.mem (apAddr s.fpkg s.ftile ((s.core j).reg a).toNat) 192)
    (hn : n = nameTarget pp (caDigest (s.caAt pp dom) node content / 2 ^ 110)) (harr : s.CaArrives n content)
    (ho : o = (s.caGone n content).lookupOrAllocate pp dom node content) :
    (∀ v x, o.2.reply node = some (v, x) →
      caPut node d a b s = .next (o.1.caBack d ((s.core j).reg b).toNat n (s.caSeq n content) v x)) ∧
    (∀ m c, o.2 = .match_ m c → ∃ x ∈ (s.caAt pp dom).lines, x.name = m ∧ x.dead = false ∧ x.node = node ∧
      readBytes s.mem x.at_ 192 = content) ∧
    (∀ m, o.2 = .new m → ∃ x ∈ (o.1.caAt pp dom).lines, x.name = m ∧ x.count = 1 ∧ x.dead = false ∧ x.node = node ∧
      (MemoryCanonical s → readBytes o.1.mem x.at_ 192 = content)) := by
  have hmem : (s.caGone n content).mem = s.mem := caGone_mem _ _ _
  have hlen : content.length = 192 := by rw [hcontent, readBytes_length]
  subst ho
  refine ⟨fun v x hreply => caPut_answers h ha hs hfree hreg hserv hheld hrange hname hcontent.symm hn.symm harr hreply, fun m c hm => ?found,
    fun m hm => ?made⟩
  case found =>
    obtain ⟨x, ⟨hx, hlive, hnode, hsame⟩, hname⟩ := lookupOrAllocate_match hm
    rw [caGone_caAt] at hx
    rw [hmem] at hsame
    exact ⟨x, hx, hname, hlive, hnode, hsame⟩
  case made =>
    obtain ⟨x, hx, hname, hcount, hlive, hnode, hsame⟩ := lookupOrAllocate_new hm
    exact ⟨x, hx, hname, hcount, hlive, hnode, fun hwf => hsame (hmem.symm ▸ hwf) hlen⟩

/-! ### The obligation -/

/-- Settles O30: the checks come first; then the operation leaves, acts once at a home where nothing waits, and is answered. -/
theorem contentOperations : Obligations.ContentOperations := by
  unfold Obligations.ContentOperations
  refine ⟨?checks, ?acts⟩
  case checks =>
    intro s j d a h ha hs hask l n
    refine ⟨fun hout => ?outside, fun hin hal => ⟨fun hz => ?badName, fun hz hreg => ?noRegion, fun h0 hreg hfree => ?null⟩⟩
    all_goals show execCaref d a s = _ ∧ execCadrop d a s = _
    case outside =>
      have raises := fun act => caNamed_rangeFault (more := fun _ => []) (out := fun _ => 0) (act := act) ha h hask (caRange_outside hout)
      exact ⟨raises _, raises _⟩
    case badName =>
      have raises := fun act => caNamed_badName (more := fun _ => []) (out := fun _ => 0) (act := act) ha rfl hs (caRange_name hin hal) h
        hask hz
      exact ⟨raises _, raises _⟩
    case noRegion =>
      have answers := fun act => caNamed_noRegion (more := fun _ => []) (out := fun _ => 0) (act := act) ha rfl hs (caRange_name hin hal) h.1
        hz hask hreg
      exact ⟨answers _, answers _⟩
    case null =>
      obtain ⟨⟨pp, dom⟩, hreg⟩ := Option.isSome_iff_exists.mp hreg
      have hz : bits n 7 0 = 0 := by rw [h0]; rfl
      have answers := fun act => caNamed_null (more := fun _ => []) (out := fun _ => 0) (act := act) ha rfl hs (caRange_name hin hal) h.1
        hz hreg hfree hask h0
      exact ⟨answers _, answers _⟩
  case acts =>
    intro s j d a b pp dom h ha hs hfree hreg hserv hheld l k r
    refine ⟨?named, ?put⟩
    case named =>
      intro n c hh t back fall down
      have hcaAt : t.caAt pp dom = c := caGone_caAt _ _ _ _ _
      have hdown : t.setCa pp dom ((t.caAt pp dom).dec n) = down := by rw [hcaAt, CaDomain.dec, drop_eq]
      have hdownHeld : (down.caAt pp dom).held = [] := by rw [← hdown, setCa_caAt_same, hcaAt]; exact hheld
      refine ⟨?dead, fun x hin hal hz h0 hfind harr => ?live⟩
      case dead =>
        intro hin hal hz h0 hfind harr hst bad
        have raises := fun act => caCount_notLive h ha hs hfree hreg hserv hheld hin hal rfl hz h0 harr act hst hfind
        refine ⟨fun hk hka => ?get, ?ref, ?drop⟩
        case get =>
          show execCaget d a b s = _
          exact caget_notLive h ha hs hfree hreg hserv hheld hin hal rfl hz h0 harr hst hfind hk hka
        case ref =>
          show execCaref d a s = _
          exact raises _
        case drop =>
          show execCadrop d a s = _
          exact raises _
      have hlive := (find_name hfind).2
      have hfindT : (t.caAt pp dom).find n = some x := hcaAt.symm ▸ hfind
      have drops : ∀ u m, t.caDec pp dom n = some u → (u.caAt pp dom).held = [] → u.focus = t.focus → u.jobs = t.jobs → x.drop.count = m →
          execCadrop d a s = back u 0 (r x.node m.toNat) [] := by
        rintro u _ hdec hu hfocus hjobs rfl
        exact cadrop_answers h ha hs hfree hreg hserv hheld hin hal rfl hz h0 harr hfind hdec hu (hfocus.trans (caGone_focus _ _ _))
          (hjobs.trans (caGone_jobs _ _ _))
      refine ⟨fun hk hka => ?get, ?ref, fun hsat => ?dropSaturated, fun hsat hone => ?drop, fun hone hroom => ?dropLast⟩
      case get =>
        show execCaget d a b s = _
        exact caget_answers h ha hs hfree hreg hserv hheld hin hal rfl hz h0 harr hfind hk hka
      case ref =>
        show execCaref d a s = _
        rw [← inc_eq]
        exact caref_answers h ha hs hfree hreg hserv hheld hin hal rfl hz h0 harr hfind
      case dropSaturated =>
        have hone : x.count ≠ 1 := by rw [hsat]; decide
        exact drops down _ ((caDec_lives hfindT hone).trans (congrArg some hdown)) hdownHeld rfl rfl ((drop_count hlive).trans (if_pos hsat))
      case drop =>
        exact drops down _ ((caDec_lives hfindT hone).trans (congrArg some hdown)) hdownHeld rfl rfl ((drop_count hlive).trans (if_neg hsat))
      case dropLast =>
        have hcount : x.drop.count = 0 := by rw [drop_count hlive, hone]; rfl
        have hdead : ((t.pkgAt pp).deadAt (nameDie n)).length < 4096 := by rw [caGone_deadAt]; exact hroom
        refine drops _ 0 ((caDec_dies hfindT hone hdead).trans (by rw [hdown])) ?_ rfl rfl hcount
        rw [← hdownHeld, State.caAt, State.caAt, modPkg_pkgAt_same]
    case put =>
      intro node hin hal hk hka hnames content hh o i back harr
      have hput : exec i s = caPut node d a b s := by cases node <;> rfl
      obtain ⟨answers, found, made⟩ := caPut_outcomes h ha hs hfree hreg hserv hheld (caRange_two hin hal hk hka)
        (fun hnode => badName_none (hnames hnode)) (content := content) rfl (n := hh) rfl harr (o := o) rfl
      clear_value o hh content
      rw [hput]
      exact ⟨fun n m ho => ⟨answers _ _ (ho ▸ reply_match node n m), found n m ho⟩,
        fun n ho => ⟨answers _ _ (ho ▸ reply_new node n), made n ho⟩,
        fun ho => answers _ _ (ho ▸ reply_deadChild node), fun ho => answers _ _ (ho ▸ reply_full node)⟩

end Sys2Proof.Machine
end

section
/-!
SUPPORT. Operations on root slots (04 R108 to R111; 05 R146), and O31.
-/

namespace Sys2Proof.Machine

/-! ### What an operation on a slot carries -/

theorem readBytes_add (m : Memory) (a k n : Nat) : readBytes m a (k + n) = readBytes m a k ++ readBytes m (a + k) n := by
  simp [readBytes, List.range_add, Nat.add_assoc]

theorem leBytes_localName_two (s : State) (a : Nat) : readBytes s.mem (apAddr s.fpkg s.ftile a) 32 =
    leBytes 16 (s.localName a).toNat ++ leBytes 16 (s.localName (a + 16)).toNat := by
  have haddr : apAddr s.fpkg s.ftile (a + 16) = apAddr s.fpkg s.ftile a + 16 := by simp only [apAddr, Nat.add_assoc]
  rw [leBytes_localName, leBytes_localName, haddr]
  exact readBytes_add s.mem _ 16 16

theorem leNat_slot {slot : Nat} (h : slot < 2 ^ 64) (l : List Byte) : leNat ((leBytes 8 slot ++ l).take 8) = slot := by
  rw [List.take_left' (leBytes_length _ _), leNat_leBytes]
  exact Nat.mod_eq_of_lt h

/-- Both names that CACAS reads have a zero field of zero. -/
theorem twoNames_zero {s : State} {l : Nat} (he : bits (s.localName l) 7 0 = 0) (hn : bits (s.localName (l + 16)) 7 0 = 0) :
    ∀ i, i < 2 → bits (s.localName (l + 16 * i)) 7 0 = 0 := by
  intro i hi
  match i, hi with
  | 0, _ => exact he
  | 1, _ => exact hn

/-! ### The slot's access at its home (R108; 02 R41) -/

theorem readSlot_caAt (s : State) (slot pp dom : Nat) : (s.readSlot slot).caAt pp dom = s.caAt pp dom :=
  (movesBuffers_touchHome s slot 16 .load).caAt pp dom

theorem writeSlot_caAt (s : State) (slot : Nat) (n : BitVec 128) (pp dom : Nat) : (s.writeSlot slot n).caAt pp dom = s.caAt pp dom := by
  have hpkgs : (s.writeSlot slot n).pkgs = (s.touchHome slot 16 .store).pkgs := by simp only [State.writeSlot]
  rw [← (movesBuffers_touchHome s slot 16 .store).caAt pp dom, State.caAt, State.caAt, pkgAt_pkgs hpkgs]

/-! ### The common course (R109 to R111) -/

/-- A name that goes into a slot is null, or live at its home, where nothing waits. -/
theorem caChecked_ok {s t : State} {pp dom : Nat} {n : BitVec 128} {l : Word} {act : State → Answer} {v : Word} {x : List Byte}
    (hlive : n = 0 ∨ ((s.caAt pp dom).find n).isSome = true) (hheld : (s.caAt pp dom).held = []) (hact : act s = .ok t v x)
    (ht : (t.caAt pp dom).held = []) : caChecked pp dom n l act s = .ok t v x := by
  unfold caChecked
  split
  · exact hact
  · next h0 =>
    refine caGate_ok hheld ?_ ht
    have hsome : ((s.caAt pp dom).find n).isNone = false := by simpa using hlive.resolve_left h0
    simp only [hsome, Bool.false_eq_true, if_false, hact]

section
variable {s t : State} {j : Job} {d a b : Reg} {pp dom n reads slot h : Nat} {names : List Byte}
  {act : Core → Nat → Nat → Nat → List Byte → State → Answer} (hrdy : Ready s j) (ha : Allowed (s.core j) [d, a, b]) (hs : Sound s)
  (hfree : s.localFree true = true) (hrel : s.released .dom = true) (hreg : s.caRegion s.fpkg j.tenant.toNat = some (pp, dom))
  (hserv : (s.caAt pp dom).serving = true) (hheld : (s.caAt pp dom).held = []) (hi : ((s.core j).reg a).toNat < 4096)
  (hslot : bits (s.tenAt s.fpkg j.tenant.toNat).caten 55 16 * 0x1_0000 + 16 * ((s.core j).reg a).toNat = slot)
  (hh : s.slotTarget slot = h) (hplace : (placeOfNum (h / 4)).pkg = pp) (hal : ((s.core j).reg b).toNat % 16 = 0)
include hrdy ha hs hfree hrel hreg hserv hheld hi hslot hh hplace hal

/-- An operation on a slot, whose home answers at once. -/
theorem caSlot_answers (hin : ((s.core j).reg b).toNat + 16 * n ≤ 0x60_0000)
    (hz : ∀ i, i < reads → bits (s.localName (((s.core j).reg b).toNat + 16 * i)) 7 0 = 0)
    (hnames : readBytes s.mem (apAddr s.fpkg s.ftile ((s.core j).reg b).toNat) (16 * reads) = names)
    (harr : s.CaArrives h (leBytes 8 slot ++ names)) {v : Word} {x : List Byte}
    (hact : act (s.core j) pp dom slot names (s.caGone h (leBytes 8 slot ++ names)) = .ok t v x) (ht : (t.caAt pp dom).held = [])
    (hfocus : t.focus = s.focus) (hjobs : t.jobs = s.jobs) :
    caSlot d a b n reads act s = .next (t.caBack d ((s.core j).reg b).toNat h (s.caSeq h (leBytes 8 slot ++ names)) v x) := by
  have hlt : slot < 2 ^ 64 := by
    have hroots := bits_lt (s.tenAt s.fpkg j.tenant.toNat).caten 55 16
    omega
  have hrange : caRangeFault [((s.core j).reg b, 16 * n)] = none :=
    caRangeFault_none (by simp only [List.mem_singleton, forall_eq]; exact ⟨hin, hal⟩)
  unfold caSlot
  refine caExec_answers (out := fun c => c.reg b) ha hs hrange hrdy ?_ hreg hfree (fun _ => hrel) ?_ hplace hserv harr ?_ hfocus hjobs
  · simp only [badName_none hz]
    exact if_neg (Nat.not_le.mpr hi)
  · simp only [catenRoots, hslot, hh, hnames]
  · simp only [leNat_slot hlt]
    refine caGate_ok (by rw [caGone_caAt, hheld]) ?_ ht
    simp only [(caGone_sound s h (leBytes 8 slot ++ names) hs).flawed, List.drop_left' (leBytes_length 8 slot), Bool.false_eq_true, if_false,
      hact]

/-- One that leaves the slot as it is. -/
theorem caSlot_reads (hin : ((s.core j).reg b).toNat + 16 * n ≤ 0x60_0000)
    (hz : ∀ i, i < reads → bits (s.localName (((s.core j).reg b).toNat + 16 * i)) 7 0 = 0)
    (hnames : readBytes s.mem (apAddr s.fpkg s.ftile ((s.core j).reg b).toNat) (16 * reads) = names)
    (harr : s.CaArrives h (leBytes 8 slot ++ names)) {v : Word} {x : List Byte}
    (hact : act (s.core j) pp dom slot names (s.caGone h (leBytes 8 slot ++ names)) =
      .ok ((s.caGone h (leBytes 8 slot ++ names)).readSlot slot) v x) :
    caSlot d a b n reads act s = .next (((s.caGone h (leBytes 8 slot ++ names)).touchHome slot 16 .load).caBack d ((s.core j).reg b).toNat h
      (s.caSeq h (leBytes 8 slot ++ names)) v x) := by
  have hmoves := movesBuffers_touchHome (s.caGone h (leBytes 8 slot ++ names)) slot 16 .load
  refine caSlot_answers hrdy ha hs hfree hrel hreg hserv hheld hi hslot hh hplace hal hin hz hnames harr hact ?_
    (hmoves.focus.trans (caGone_focus _ _ _)) (hmoves.jobs.trans (caGone_jobs _ _ _))
  rw [hmoves.caAt, caGone_caAt, hheld]

/-- One that writes name `m` to it. -/
theorem caSlot_writes {m : BitVec 128} (hin : ((s.core j).reg b).toNat + 16 * n ≤ 0x60_0000)
    (hz : ∀ i, i < reads → bits (s.localName (((s.core j).reg b).toNat + 16 * i)) 7 0 = 0)
    (hnames : readBytes s.mem (apAddr s.fpkg s.ftile ((s.core j).reg b).toNat) (16 * reads) = names)
    (harr : s.CaArrives h (leBytes 8 slot ++ names)) {v : Word} {x : List Byte}
    (hact : act (s.core j) pp dom slot names (s.caGone h (leBytes 8 slot ++ names)) =
      .ok ((s.caGone h (leBytes 8 slot ++ names)).writeSlot slot m) v x) :
    caSlot d a b n reads act s = .next (({ (s.caGone h (leBytes 8 slot ++ names)).touchHome slot 16 .store with
      mem := writeLe s.mem slot 16 m.toNat } : State).caBack d ((s.core j).reg b).toNat h (s.caSeq h (leBytes 8 slot ++ names)) v x) := by
  have hmoves := movesBuffers_touchHome (s.caGone h (leBytes 8 slot ++ names)) slot 16 .store
  rw [State.writeSlot, caGone_mem] at hact
  refine caSlot_answers hrdy ha hs hfree hrel hreg hserv hheld hi hslot hh hplace hal hin hz hnames harr hact ?_
    (hmoves.focus.trans (caGone_focus _ _ _)) (hmoves.jobs.trans (caGone_jobs _ _ _))
  have hcaAt := writeSlot_caAt (s.caGone h (leBytes 8 slot ++ names)) slot m pp dom
  rw [State.writeSlot, caGone_mem, caGone_caAt] at hcaAt
  rw [hcaAt, hheld]

/-! ### CAROOT, CAROOT.ref, CASWAP and CACAS -/

theorem caroot_answers (hin : ((s.core j).reg b).toNat + 16 ≤ 0x60_0000) (harr : s.CaArrives h (leBytes 8 slot ++ [])) :
    execCaroot d a b s = .next (((s.caGone h (leBytes 8 slot ++ [])).touchHome slot 16 .load).caBack d ((s.core j).reg b).toNat h
      (s.caSeq h (leBytes 8 slot ++ [])) 0 (nameBytes (nameAt s.mem slot))) := by
  refine caSlot_reads hrdy ha hs hfree hrel hreg hserv hheld hi hslot hh hplace hal hin (fun k hk => absurd hk (Nat.not_lt_zero k)) rfl harr ?_
  rw [caGone_mem]
  rfl

/-- CAROOT.ref of a slot whose name is null or not live counts nothing. -/
theorem carootRef_notLive (hin : ((s.core j).reg b).toNat + 16 ≤ 0x60_0000) (harr : s.CaArrives h (leBytes 8 slot ++ []))
    (hnone : nameAt s.mem slot = 0 ∨ (s.caAt pp dom).find (nameAt s.mem slot) = none) :
    execCarootRef d a b s = .next (((s.caGone h (leBytes 8 slot ++ [])).touchHome slot 16 .load).caBack d ((s.core j).reg b).toNat h
      (s.caSeq h (leBytes 8 slot ++ [])) 0 (nameBytes (nameAt s.mem slot))) := by
  refine caSlot_reads hrdy ha hs hfree hrel hreg hserv hheld hi hslot hh hplace hal hin (fun k hk => absurd hk (Nat.not_lt_zero k)) rfl harr ?_
  simp only [caGone_mem]
  split
  · rfl
  · next h0 =>
    refine caGate_ok (by rw [caGone_caAt, hheld]) ?_ (by rw [readSlot_caAt, caGone_caAt, hheld])
    simp only [caGone_caAt, hnone.resolve_left h0]
    rfl

/-- CAROOT.ref of a slot whose name is live counts its line. -/
theorem carootRef_live {x : CaLine} (hin : ((s.core j).reg b).toNat + 16 ≤ 0x60_0000) (harr : s.CaArrives h (leBytes 8 slot ++ []))
    (h0 : nameAt s.mem slot ≠ 0) (hfind : (s.caAt pp dom).find (nameAt s.mem slot) = some x) :
    execCarootRef d a b s = .next ((((s.caGone h (leBytes 8 slot ++ [])).touchHome slot 16 .load).setCa pp dom
      ((s.caAt pp dom).inc (nameAt s.mem slot))).caBack d ((s.core j).reg b).toNat h (s.caSeq h (leBytes 8 slot ++ []))
      (BitVec.ofNat 64 ((if x.node then 2 else 1) * 2 ^ 58 + min (x.count.toNat + 1) 0xFFFF_FFFF)) (nameBytes (nameAt s.mem slot))) := by
  have hmoves := movesBuffers_touchHome (s.caGone h (leBytes 8 slot ++ [])) slot 16 .load
  have hincHeld : ((s.caAt pp dom).inc (nameAt s.mem slot)).held = [] := hheld
  refine caSlot_answers hrdy ha hs hfree hrel hreg hserv hheld hi hslot hh hplace hal hin (fun k hk => absurd hk (Nat.not_lt_zero k)) rfl harr
    ?_ (by rw [setCa_caAt_same, hincHeld]) (hmoves.focus.trans (caGone_focus _ _ _)) (hmoves.jobs.trans (caGone_jobs _ _ _))
  simp only [caGone_mem, if_neg h0]
  refine caGate_ok (by rw [caGone_caAt, hheld]) ?_ (by rw [setCa_caAt_same, hincHeld])
  simp only [caGone_caAt, hfind, caResult_line, inc_count]
  rfl

theorem caswap_answers {n : BitVec 128} (hin : ((s.core j).reg b).toNat + 16 ≤ 0x60_0000)
    (hn : s.localName ((s.core j).reg b).toNat = n) (hz : bits n 7 0 = 0) (hlive : n = 0 ∨ ((s.caAt pp dom).find n).isSome = true)
    (harr : s.CaArrives h (leBytes 8 slot ++ leBytes 16 n.toNat)) :
    execCaswap d a b s = .next (({ (s.caGone h (leBytes 8 slot ++ leBytes 16 n.toNat)).touchHome slot 16 .store with
      mem := writeLe s.mem slot 16 n.toNat } : State).caBack d ((s.core j).reg b).toNat h
      (s.caSeq h (leBytes 8 slot ++ leBytes 16 n.toNat)) 0 (nameBytes (nameAt s.mem slot))) := by
  have hbytes : bytesName (leBytes 16 n.toNat) = n := by simpa using bytesName_nameBytes n []
  refine caSlot_writes (m := n) hrdy ha hs hfree hrel hreg hserv hheld hi hslot hh hplace hal hin ?_ (hn ▸ (leBytes_localName s _).symm) harr ?_
  · intro k hk
    obtain rfl := Nat.lt_one_iff.mp hk
    exact hn ▸ hz
  · rw [hbytes]
    refine caChecked_ok (by rwa [caGone_caAt]) (by rw [caGone_caAt, hheld]) ?_ (by rw [writeSlot_caAt, caGone_caAt, hheld])
    rw [caGone_mem]
    rfl

section
variable {e n : BitVec 128} (hin : ((s.core j).reg b).toNat + 32 ≤ 0x60_0000) (he : s.localName ((s.core j).reg b).toNat = e)
  (hn : s.localName (((s.core j).reg b).toNat + 16) = n) (hze : bits e 7 0 = 0) (hzn : bits n 7 0 = 0)
  (harr : s.CaArrives h (leBytes 8 slot ++ (leBytes 16 e.toNat ++ leBytes 16 n.toNat)))
include hin he hn hze hzn harr

/-- CACAS where the slot holds another name than the expected one. -/
theorem cacas_mismatch (hne : nameAt s.mem slot ≠ e) :
    execCacas d a b s = .next (((s.caGone h (leBytes 8 slot ++ (leBytes 16 e.toNat ++ leBytes 16 n.toNat))).touchHome slot 16 .load).caBack
      d ((s.core j).reg b).toNat h (s.caSeq h (leBytes 8 slot ++ (leBytes 16 e.toNat ++ leBytes 16 n.toNat)))
      (BitVec.ofNat 64 (2 * 2 ^ 60)) (nameBytes (nameAt s.mem slot))) := by
  refine caSlot_reads hrdy ha hs hfree hrel hreg hserv hheld hi hslot hh hplace hal hin (twoNames_zero (he ▸ hze) (hn ▸ hzn))
    (he ▸ hn ▸ leBytes_localName_two s _) harr ?_
  simp only [bytesName_nameBytes, caGone_mem, if_pos hne]
  rfl

/-- CACAS where the slot holds the expected name. -/
theorem cacas_match (heq : nameAt s.mem slot = e) (hlive : n = 0 ∨ ((s.caAt pp dom).find n).isSome = true) :
    execCacas d a b s = .next (({ (s.caGone h (leBytes 8 slot ++ (leBytes 16 e.toNat ++ leBytes 16 n.toNat))).touchHome slot 16 .store with
      mem := writeLe s.mem slot 16 n.toNat } : State).caBack d ((s.core j).reg b).toNat h
      (s.caSeq h (leBytes 8 slot ++ (leBytes 16 e.toNat ++ leBytes 16 n.toNat))) 0 (nameBytes e)) := by
  have hbytes : bytesName ((leBytes 16 e.toNat ++ leBytes 16 n.toNat).drop 16) = n := by
    rw [List.drop_left' (leBytes_length _ _)]
    simpa using bytesName_nameBytes n []
  refine caSlot_writes (m := n) hrdy ha hs hfree hrel hreg hserv hheld hi hslot hh hplace hal hin (twoNames_zero (he ▸ hze) (hn ▸ hzn))
    (he ▸ hn ▸ leBytes_localName_two s _) harr ?_
  simp only [bytesName_nameBytes, hbytes, caGone_mem, heq, ne_eq, not_true_eq_false, if_false]
  exact caChecked_ok (by rwa [caGone_caAt]) (by rw [caGone_caAt, hheld]) rfl (by rw [writeSlot_caAt, caGone_caAt, hheld])
end
end

/-! ### The obligation -/

/-- Settles O31: an operation on a slot of the tenant's root frame leaves, acts once at the slot's home, and is answered. -/
theorem rootSlots : Obligations.RootSlots := by
  unfold Obligations.RootSlots
  intro s j d a b pp dom hrdy ha hs hfree hrel hreg i l v slot h c held live with_ back read put hplace hserv hheld hi hin hal
  refine ⟨fun harr => ⟨?root, fun hnone => ?refNone, fun x h0 hfind => ?refFound⟩, ?swap, ?cas⟩
  case root =>
    show execCaroot d a b s = _
    exact caroot_answers hrdy ha hs hfree hrel hreg hserv hheld hi rfl rfl hplace hal hin harr
  case refNone =>
    show execCarootRef d a b s = _
    exact carootRef_notLive hrdy ha hs hfree hrel hreg hserv hheld hi rfl rfl hplace hal hin harr hnone
  case refFound =>
    show execCarootRef d a b s = _
    exact carootRef_live hrdy ha hs hfree hrel hreg hserv hheld hi rfl rfl hplace hal hin harr h0 hfind
  case swap =>
    intro n x hz hlive harr
    show execCaswap d a b s = _
    exact caswap_answers hrdy ha hs hfree hrel hreg hserv hheld hi rfl rfl hplace hal hin rfl hz hlive harr
  case cas =>
    intro e n x hin2 hze hzn harr
    refine ⟨fun hne => ?mismatch, fun heq hlive => ?exchanged⟩
    case mismatch =>
      show execCacas d a b s = _
      exact cacas_mismatch hrdy ha hs hfree hrel hreg hserv hheld hi rfl rfl hplace hal hin2 rfl rfl hze hzn harr hne
    case exchanged =>
      show execCacas d a b s = _
      exact cacas_match hrdy ha hs hfree hrel hreg hserv hheld hi rfl rfl hplace hal hin2 rfl rfl hze hzn harr heq hlive

end Sys2Proof.Machine
end

section
/-!
SUPPORT. A request that times out beside two entries of one number (15 R385, R393), and the refutation of O49.
-/

namespace Sys2Proof.Machine

/-! ### Two entries of one number -/

/-- An entry of number `id` in the queues of a core of job 0, which stands in slot 0: a store of the dword 0 to address 0. -/
def storeEntry (id : Nat) (xcore : Bool) (reissues : Nat) (st : ReqStatus) : Req :=
  { id := id, by_ := ⟨0, 0, xcore⟩, tenant := 0, op := .store, va := 0, pa := 0, point := 0, size := 8, data := 0, noalloc := false
    seq := 0, sentAt := 0, reissues := reissues, st := st, acc := 0, missed := true }

/-- The store of the A-core whose time is over for the fourth time. -/
def overdueStore : Req := storeEntry 5 false 3 .sent

/-- Number 7 twice: an entry of the X-core that is to be translated anew, before a store of the A-core that is on its way. -/
def twinEntries : List Req := [storeEntry 7 true 0 .again, storeEntry 7 false 0 .sent]

/-- The job of these entries, which is frozen. -/
def twinJob : Job := { loneJob .A with st := .frozen }

/-- That job in a domain of which no page is mapped. -/
def twinState : State :=
  { State.reset with jobs := [(0, twinJob)], reqs := overdueStore :: twinEntries, arg := { id := 5 }, wall := us 8 }

theorem overdueStore_timedOut : twinState.timedOut overdueStore = true := by decide +kernel

/-- The timeout of one store leaves two faults with the job: as the queues of its core go on, the search for entry 7 finds the X-core's, whose
translation faults. -/
theorem twinState_faults : ((twinState.failWith overdueStore .requestTimeout).jobAt 0).map Job.deferred =
    some [overdueStore.faultInfo .requestTimeout, (storeEntry 7 true 0 .again).faultInfo .pageAbsent] := by decide +kernel

theorem twinState_timeout : exec .requestTimeout twinState = .next (twinState.failWith overdueStore .requestTimeout) := by
  show execRequestTimeout twinState = _
  have hreq : twinState.reqAt twinState.arg.id = some overdueStore := by decide +kernel
  have hdue : (twinState.timedOut overdueStore && overdueStore.reissues == 3) = true := by rw [overdueStore_timedOut]; rfl
  simp only [execRequestTimeout, hreq, hdue, if_true]

/-- Refutes O49: request numbers need not be distinct in a state that the statement ranges over, so a request that times out can set off another
context's entry of a number that its own context uses too, and that entry's fault is left with the job beside its own. -/
theorem not_regionAndRequestEvents : ¬ Obligations.RegionAndRequestEvents := by
  unfold Obligations.RegionAndRequestEvents
  rintro ⟨-, hrequests, -⟩
  obtain ⟨-, -, -, hfails⟩ := hrequests twinState overdueStore (by decide +kernel)
  obtain ⟨htimeout, -⟩ := hfails twinJob rfl rfl rfl (.inl rfl) (by decide) (by decide)
  obtain ⟨t, j, hexec, hjob, hdeferred, -⟩ := htimeout overdueStore_timedOut rfl
  have ht : twinState.failWith overdueStore .requestTimeout = t := Host.Outcome.next.inj (twinState_timeout.symm.trans hexec)
  have hfaults := twinState_faults
  rw [ht, show t.jobAt 0 = some j from hjob, Option.map_some, hdeferred] at hfaults
  exact absurd (congrArg List.length (Option.some.inj hfaults)) (by decide)

end Sys2Proof.Machine
end

section
/-!
SUPPORT. The canonical form of memory (log 1): the writes keep it, and what it means for the results of the machine's functions that the state
they carry has it. Below stands one lemma for each function that makes a state, `MemoryCanonical.f` for the function `f`: where the state
before is canonical, the state after is. A function that is made of others follows from their lemmas, along its own branches.
-/

namespace Sys2Proof.Machine

/-! ### The writes of memory -/

section
variable {m : Memory} {p t : Nat}

/-- A fold over memory keeps its form where each of its moves does. -/
theorem foldl_wf {α : Type} {f : Memory → α → Memory} {l : List α} (h : m.wf = true)
    (hf : ∀ {m x}, m.wf = true → (f m x).wf = true) : (l.foldl f m).wf = true := by
  induction l generalizing m with
  | nil => exact h
  | cons x l ih => exact ih (hf h)

theorem ageTags_wf {slots : List Nat} {w old : Nat} (h : m.wf = true) : (ageTags m p t slots w old).wf = true :=
  foldl_wf h fun h => ageSlot_wf h

theorem setEntry_wf {slots : List Nat} {w : Nat} {v : Word} (h : m.wf = true) : (setEntry m p t slots w v).wf = true :=
  ageTags_wf (write64_wf h _ _)

theorem LocalOp.act_wf {op : LocalOp} {a n : Nat} {v : Word} (h : m.wf = true) : (op.act m p t a n v).wf = true := by
  cases op with
  | load => exact h
  | store => exact writeLe_wf h _ _ _
  | atomic op _ => exact atomMem_wf h _ _ _ _ _
  | tgset first ways => exact setEntry_wf h
  | tginv => exact write64_wf h _ _
  | tgclr k => exact clearRange_wf h _ _

theorem nullRoots_wf {roots : List Nat} (h : m.wf = true) : (nullRoots m roots).wf = true :=
  foldl_wf h fun h => clearRange_wf h _ _

theorem copyBytes_wf {src dst n : Nat} (h : m.wf = true) : (copyBytes m src dst n).wf = true :=
  layAt_wf _ _ (clearRange_wf h _ _)

theorem clearTileMem_wf (h : m.wf = true) : (clearTileMem m p t).wf = true :=
  clearRange_wf (clearRange_wf (clearRange_wf (clearRange_wf h _ _) _ _) _ _) _ _

theorem clearTiles_wf (h : m.wf = true) : (clearTiles m p).wf = true :=
  clearRange_wf (clearRange_wf h _ _) _ _

theorem writeImem_wf {a : Nat} {l : List (W32 × Bool)} (h : m.wf = true) : (writeImem m p t a l).wf = true := by
  induction l generalizing m a with
  | nil => exact h
  | cons w l ih => exact ih (writeByte_wf _ _ (write32_wf h _ _))

theorem writeEmem_wf {i : Nat} {l : List Word} (h : m.wf = true) : (writeEmem m p t i l).wf = true := by
  induction l generalizing m i with
  | nil => exact h
  | cons w l ih => exact ih (write64_wf h _ _)

theorem landWord_wf {c : Circuit} {w : Nat × W32} (h : m.wf = true) : (landWord m c w).1.wf = true := by
  unfold landWord
  split_ifs
  · exact write32_wf h _ _
  · exact write32_wf h _ _
  · exact h

theorem landWords_wf {c : Circuit} {l : List (Nat × W32)} (h : m.wf = true) : (landWords m c l).1.wf = true := by
  induction l generalizing m c with
  | nil => exact h
  | cons w l ih =>
    have hw := landWord_wf (c := c) (w := w) h
    unfold landWords
    split
    next e => rw [e] at hw; exact ih hw
    next => exact hw

theorem rewriteLeaf_wf {v : Word} {at_ : Nat} {mig : Migration} (h : m.wf = true) : (rewriteLeaf m v at_ mig).wf = true :=
  foldl_wf h fun h => by
    split
    · exact write64_wf h _ _
    · exact h

theorem rowOut_wf {btype : Nat} {bscl zero : Bool} {a : List Block} {cols : List (List BBlock)} {at_ : Nat}
    {traps : Vector W32 3} (h : m.wf = true) : (rowOut btype bscl zero a cols at_ m traps).1.wf = true := by
  induction cols generalizing m at_ traps with
  | nil => exact h
  | cons col l ih => exact ih (write32_wf h _ _)

end

/-! ### What carries a state -/

/-- The state that what a core instruction comes to carries is canonical. -/
inductive Res.Canonical : Res → Prop
  | next {s} (h : MemoryCanonical s) : Canonical (.next s)
  | goto {s} {v} (h : MemoryCanonical s) : Canonical (.goto s v)
  | placed {s} (h : MemoryCanonical s) : Canonical (.placed s)
  | done {s} (h : MemoryCanonical s) : Canonical (.done s)
  | trap {s} {v} (h : MemoryCanonical s) : Canonical (.trap s v)
  | raise {s} {c} {v} (h : MemoryCanonical s) : Canonical (.raise s c v)
  | wait {s} (h : MemoryCanonical s) : Canonical (.wait s)
  | sent {s} (h : MemoryCanonical s) : Canonical (.sent s)
  | waitDq {s} (h : MemoryCanonical s) : Canonical (.waitDq s)

/-- The same of the answer of a place. -/
inductive Answer.Canonical : Answer → Prop
  | ok {s} {v} {l} (h : MemoryCanonical s) : Canonical (.ok s v l)
  | err {s} {c} {v} (h : MemoryCanonical s) : Canonical (.err s c v)
  | hold {s} (h : MemoryCanonical s) : Canonical (.hold s)

/-- The same of an MMIO access. -/
inductive MmioRes.Canonical : MmioRes → Prop
  | ok {v} {s} (h : MemoryCanonical s) : Canonical (.ok v s)
  | prot : Canonical .prot
  | wait : Canonical .wait

/-- The same of a host access. -/
inductive HostRes.Canonical : HostRes → Prop
  | done {s} {l} (h : MemoryCanonical s) : Canonical (.done s l)
  | absent {s} (h : MemoryCanonical s) : Canonical (.absent s)
  | wait {s} (h : MemoryCanonical s) : Canonical (.wait s)

/-- The same of a join decrement. -/
inductive JoinRes.Canonical : JoinRes → Prop
  | done {s} (h : MemoryCanonical s) : Canonical (.done s)
  | wait : Canonical .wait

/-- The same of a run of an engine word. -/
inductive WRes.Canonical : WRes → Prop
  | done {s} {n} (h : MemoryCanonical s) : Canonical (.done s n)
  | fault {s} {w} {c} {v} (h : MemoryCanonical s) : Canonical (.fault s w c v)
  | wait {s} {w} (h : MemoryCanonical s) : Canonical (.wait s w)

/-- The state of a run is canonical. -/
def Run.Canonical (r : Run) : Prop := MemoryCanonical r.s

/-- The same of a part of a word. -/
inductive Got.Canonical {α : Type} : Got α → Prop
  | ok {r} {v} (h : r.Canonical) : Canonical (.ok r v)
  | fault {r} {c} {v} (h : r.Canonical) : Canonical (.fault r c v)
  | wait {r} (h : r.Canonical) : Canonical (.wait r)
  | hold {r} (h : r.Canonical) : Canonical (.hold r)

/-- A step's next state, if it has one, is canonical. -/
inductive NextCanonical : Host.Outcome State Fault Refusal → Prop
  | next {s} (h : MemoryCanonical s) : NextCanonical (.next s)
  | fault {f} : NextCanonical (.fault f)
  | refused {e} : NextCanonical (.refused e)

/-- The state that an operation may leave, if it leaves one, is canonical. -/
inductive SomeCanonical : Option State → Prop
  | some {s} (h : MemoryCanonical s) : SomeCanonical (some s)
  | none : SomeCanonical none

/-- A plan whose run, from any position, keeps the canonical form. -/
def Plan.Canonical (p : Plan) : Prop := ∀ w s, MemoryCanonical s → (p.run w s).Canonical

/-- The plan of a word, if it has one, keeps the canonical form. -/
inductive SomePlanCanonical : Option Plan → Prop
  | some {p} (h : p.Canonical) : SomePlanCanonical (some p)
  | none : SomePlanCanonical none

/-- Only memory matters. -/
theorem MemoryCanonical.of_mem {s t : State} (h : MemoryCanonical s) (e : t.mem = s.mem) : MemoryCanonical t := by
  unfold MemoryCanonical; rw [e]; exact h

theorem MemoryCanonical.of_wf {s : State} {m : Memory} (h : m.wf = true) : MemoryCanonical { s with mem := m } := h

theorem MemoryCanonical.ite {c : Prop} [Decidable c] {s t : State} (h : MemoryCanonical s) (h' : MemoryCanonical t) :
    MemoryCanonical (if c then s else t) := by split <;> assumption

theorem MemoryCanonical.of_fst {α : Type} {t : State} {x : α} {p : State × α} (h : MemoryCanonical p.1) (e : p = (t, x)) :
    MemoryCanonical t := by rw [e] at h; exact h

theorem MemoryCanonical.of_snd {α : Type} {t : State} {x : α} {p : α × State} (h : MemoryCanonical p.2) (e : p = (x, t)) :
    MemoryCanonical t := by rw [e] at h; exact h

/-- A fold keeps the canonical form where each of its moves does. -/
theorem MemoryCanonical.foldl {α : Type} {f : State → α → State} {l : List α} {s : State} (h : MemoryCanonical s)
    (hf : ∀ {t x}, MemoryCanonical t → MemoryCanonical (f t x)) : MemoryCanonical (l.foldl f s) := by
  induction l generalizing s with
  | nil => exact h
  | cons x l ih => exact ih (hf h)

theorem SomeCanonical.of_some {o : Option State} {s : State} (h : SomeCanonical o) (e : o = .some s) : MemoryCanonical s := by
  rw [e] at h
  cases h with
  | some h => exact h

theorem SomePlanCanonical.of_some {o : Option Plan} {p : Plan} (h : SomePlanCanonical o) (e : o = .some p) : p.Canonical := by
  rw [e] at h
  cases h with
  | some h => exact h

theorem SomeCanonical.map {α : Type} {o : Option α} {f : α → State} (h : ∀ {x}, MemoryCanonical (f x)) :
    SomeCanonical (o.map f) := by
  cases o with
  | none => exact .none
  | some x => exact .some h

theorem SomeCanonical.map_state {o : Option State} {f : State → State} (h : SomeCanonical o)
    (hf : ∀ {t}, MemoryCanonical t → MemoryCanonical (f t)) : SomeCanonical (o.map f) := by
  cases h with
  | none => exact .none
  | some h => exact .some (hf h)

theorem SomeCanonical.getD {o : Option State} {s : State} (h : SomeCanonical o) (hs : MemoryCanonical s) :
    MemoryCanonical (o.getD s) := by
  cases h with
  | none => exact hs
  | some h => exact h

theorem SomePlanCanonical.map {α : Type} {o : Option α} {f : α → Plan} (h : ∀ {x}, (f x).Canonical) :
    SomePlanCanonical (o.map f) := by
  cases o with
  | none => exact .none
  | some x => exact .some h

theorem Answer.Canonical.of_ok {x : Answer} {s : State} {v l} (h : x.Canonical) (e : x = .ok s v l) : MemoryCanonical s := by
  rw [e] at h
  cases h with
  | ok h => exact h

theorem Answer.Canonical.of_err {x : Answer} {s : State} {c v} (h : x.Canonical) (e : x = .err s c v) : MemoryCanonical s := by
  rw [e] at h
  cases h with
  | err h => exact h

theorem Answer.Canonical.of_hold {x : Answer} {s : State} (h : x.Canonical) (e : x = .hold s) : MemoryCanonical s := by
  rw [e] at h
  cases h with
  | hold h => exact h

theorem MmioRes.Canonical.of_ok {x : MmioRes} {s : State} {v} (h : x.Canonical) (e : x = .ok v s) : MemoryCanonical s := by
  rw [e] at h
  cases h with
  | ok h => exact h

theorem HostRes.Canonical.of_done {x : HostRes} {s : State} {l} (h : x.Canonical) (e : x = .done s l) : MemoryCanonical s := by
  rw [e] at h
  cases h with
  | done h => exact h

theorem HostRes.Canonical.of_absent {x : HostRes} {s : State} (h : x.Canonical) (e : x = .absent s) : MemoryCanonical s := by
  rw [e] at h
  cases h with
  | absent h => exact h

theorem HostRes.Canonical.of_wait {x : HostRes} {s : State} (h : x.Canonical) (e : x = .wait s) : MemoryCanonical s := by
  rw [e] at h
  cases h with
  | wait h => exact h

theorem JoinRes.Canonical.of_done {x : JoinRes} {s : State} (h : x.Canonical) (e : x = .done s) : MemoryCanonical s := by
  rw [e] at h
  cases h with
  | done h => exact h

theorem WRes.Canonical.of_done {x : WRes} {s : State} {n} (h : x.Canonical) (e : x = .done s n) : MemoryCanonical s := by
  rw [e] at h
  cases h with
  | done h => exact h

theorem WRes.Canonical.of_fault {x : WRes} {s : State} {w c v} (h : x.Canonical) (e : x = .fault s w c v) : MemoryCanonical s := by
  rw [e] at h
  cases h with
  | fault h => exact h

theorem WRes.Canonical.of_wait {x : WRes} {s : State} {w} (h : x.Canonical) (e : x = .wait s w) : MemoryCanonical s := by
  rw [e] at h
  cases h with
  | wait h => exact h

theorem Got.Canonical.of_ok {α : Type} {x : Got α} {r : Run} {v} (h : x.Canonical) (e : x = .ok r v) : r.Canonical := by
  rw [e] at h
  cases h with
  | ok h => exact h

theorem Got.Canonical.of_fault {α : Type} {x : Got α} {r : Run} {c v} (h : x.Canonical) (e : x = .fault r c v) : r.Canonical := by
  rw [e] at h
  cases h with
  | fault h => exact h

theorem Got.Canonical.of_wait {α : Type} {x : Got α} {r : Run} (h : x.Canonical) (e : x = .wait r) : r.Canonical := by
  rw [e] at h
  cases h with
  | wait h => exact h

theorem Got.Canonical.of_hold {α : Type} {x : Got α} {r : Run} (h : x.Canonical) (e : x = .hold r) : r.Canonical := by
  rw [e] at h
  cases h with
  | hold h => exact h

end Sys2Proof.Machine
end

section
/-!
SUPPORT. The state's operations, translation, requests and the frame of a core instruction keep memory canonical (01; 02 R63; 05 R120).
-/

namespace Sys2Proof.Machine

variable {s : State} {r : Run}

/-! ### Parts of the state and the stream that acts -/

protected theorem MemoryCanonical.setPkg {p : Nat} {v : Package} (h : MemoryCanonical s) : MemoryCanonical (s.setPkg p v) := h

protected theorem MemoryCanonical.modPkg {p : Nat} {f : Package → Package} (h : MemoryCanonical s) : MemoryCanonical (s.modPkg p f) :=
  h.setPkg

protected theorem MemoryCanonical.setTile {k : Nat} {v : Tile} (h : MemoryCanonical s) : MemoryCanonical (s.setTile k v) := h

protected theorem MemoryCanonical.modTile {k : Nat} {f : Tile → Tile} (h : MemoryCanonical s) : MemoryCanonical (s.modTile k f) :=
  h.setTile

protected theorem MemoryCanonical.setJob {k : Nat} {v : Job} (h : MemoryCanonical s) : MemoryCanonical (s.setJob k v) := h

protected theorem MemoryCanonical.modJob {k : Nat} {f : Job → Job} (h : MemoryCanonical s) : MemoryCanonical (s.modJob k f) := by
  unfold State.modJob
  repeat' split
  exacts [h.setJob, h]

protected theorem MemoryCanonical.delJob {k : Nat} (h : MemoryCanonical s) : MemoryCanonical (s.delJob k) := h

protected theorem MemoryCanonical.setTen {p u : Nat} {v : TenantArea} (h : MemoryCanonical s) : MemoryCanonical (s.setTen p u v) :=
  h

protected theorem MemoryCanonical.modTen {p u : Nat} {f : TenantArea → TenantArea} (h : MemoryCanonical s) :
    MemoryCanonical (s.modTen p u f) := h.setTen

protected theorem MemoryCanonical.setCa {p d : Nat} {v : CaDomain} (h : MemoryCanonical s) : MemoryCanonical (s.setCa p d v) :=
  h.modPkg

protected theorem MemoryCanonical.setRing {k n : Nat} {v : Ring} (h : MemoryCanonical s) : MemoryCanonical (s.setRing k n v) :=
  h.modTile

protected theorem MemoryCanonical.take (h : MemoryCanonical s) : MemoryCanonical s.take.2 := h

protected theorem MemoryCanonical.modCur {f : Job → Job} (h : MemoryCanonical s) : MemoryCanonical (s.modCur f) := h.modJob

protected theorem MemoryCanonical.modCore {f : Core → Core} (h : MemoryCanonical s) : MemoryCanonical (s.modCore f) := h.modCur

protected theorem MemoryCanonical.setReg {r : Reg} {v : Word} (h : MemoryCanonical s) : MemoryCanonical (s.setReg r v) :=
  h.modCore

protected theorem MemoryCanonical.countTile {k : Nat} {f : Tile → Tile} (h : MemoryCanonical s) : MemoryCanonical (s.countTile k f) :=
  h.modTile

protected theorem MemoryCanonical.countReq {p t : Nat} {pl : Place} (h : MemoryCanonical s) : MemoryCanonical (s.countReq p t pl) :=
  h.countTile

/-! ### The unit of the tile's own queue -/

protected theorem MemoryCanonical.ageSet {slots : List Nat} {w old : Nat} (h : MemoryCanonical s) :
    MemoryCanonical (s.ageSet slots w old) := MemoryCanonical.of_wf (ageTags_wf h)

/-! ### The walk and the TLBs -/

protected theorem MemoryCanonical.touchHome {pa n : Nat} {hint : Hint} (h : MemoryCanonical s) :
    MemoryCanonical (s.touchHome pa n hint) := by
  unfold State.touchHome
  repeat' split
  exacts [h, h.modPkg, h]

protected theorem MemoryCanonical.touchSpan {pa n : Nat} {hint : Hint} (h : MemoryCanonical s) :
    MemoryCanonical (s.touchSpan pa n hint) := h.foldl fun h => h.touchHome.ite h

protected theorem MemoryCanonical.walkFrom {p w u va : Nat} {need : Perm} {n n1 : Nat} (h : MemoryCanonical s) :
    MemoryCanonical (walkFrom p w u va need n n1 s).1 := by
  induction n generalizing n1 s with
  | zero =>
    unfold walkFrom
    extract_lets at_ v taken s1
    have h1 : MemoryCanonical s1 := h.ite h.touchHome
    clear_value s1
    dsimp only
    repeat' split
    all_goals exact h1
  | succ l ih =>
    unfold walkFrom
    extract_lets at_ v taken s1
    have h1 : MemoryCanonical s1 := h.ite h.touchHome
    clear_value s1
    dsimp only
    repeat' split
    exacts [h1, h1, h1, h1, h1, h1, h1, ih h1.modPkg]

protected theorem MemoryCanonical.walk {p w u va : Nat} {need : Perm} (h : MemoryCanonical s) :
    MemoryCanonical (s.walk p w u va need).1 := by
  unfold State.walk
  dsimp only
  repeat' split
  exacts [h, h, h.walkFrom, h.walkFrom]

protected theorem MemoryCanonical.setTlb {p t : Nat} {sel : TlbSel} {l : List TlbEntry} (h : MemoryCanonical s) :
    MemoryCanonical (s.setTlb p t sel l) := by
  unfold State.setTlb
  repeat' split
  exacts [h.modTile, h.modTile, h.modTile, h.modTile, h.modTile, h.modPkg]

protected theorem MemoryCanonical.translate {p t : Nat} {sel : TlbSel} {u va : Nat} {need : Perm} (h : MemoryCanonical s) :
    MemoryCanonical (s.translate p t sel u va need).1 := by
  unfold State.translate
  dsimp only
  repeat' split
  exacts [h.setTlb, h.walk.of_fst ‹_›, h.walk.of_fst ‹_›, (h.walk.of_fst ‹_›).setTlb]

protected theorem MemoryCanonical.countMiss {u va : Nat} (h : MemoryCanonical s) : MemoryCanonical (s.countMiss u va) :=
  h.ite h.countTile.modCore

protected theorem MemoryCanonical.coreTranslate {u va : Nat} {need : Perm} (h : MemoryCanonical s) :
    MemoryCanonical (s.coreTranslate u va need).1 := h.countMiss.translate

protected theorem MemoryCanonical.prefetch {p t : Nat} {sel : TlbSel} {u va : Nat} {need : Perm} (h : MemoryCanonical s) :
    MemoryCanonical (s.prefetch p t sel u va need) := by
  unfold State.prefetch
  repeat' split
  exacts [h, (h.walk.of_fst ‹_›).setTlb, h.walk.of_fst ‹_›]

protected theorem MemoryCanonical.invalidate {p u : Nat} {f : TlbEntry → Bool} (h : MemoryCanonical s) :
    MemoryCanonical (s.invalidate p u f) := by
  unfold State.invalidate
  exact MemoryCanonical.modPkg h

/-! ### Requests on their way -/

protected theorem MemoryCanonical.losePackets {n o : Nat} (h : MemoryCanonical s) : MemoryCanonical (s.losePackets n o) := h

protected theorem MemoryCanonical.carry {way : List (Nat × Nat)} {pa : Nat} {b : List Byte} (h : MemoryCanonical s) :
    MemoryCanonical (s.carry way pa b) := h.ite (h.foldl fun h => h.modPkg)

protected theorem MemoryCanonical.modIssuer {b : Issuer} {f : Job → Job} (h : MemoryCanonical s) :
    MemoryCanonical (s.modIssuer b f) := by
  unfold State.modIssuer
  repeat' split
  exacts [h.setJob, h]

protected theorem MemoryCanonical.dropReq {id : Nat} (h : MemoryCanonical s) : MemoryCanonical (s.dropReq id) := h

protected theorem MemoryCanonical.modReq {id : Nat} {f : Req → Req} (h : MemoryCanonical s) : MemoryCanonical (s.modReq id f) :=
  h

protected theorem MemoryCanonical.failReq {r : Req} {c : Cause} (h : MemoryCanonical s) : MemoryCanonical (s.failReq r c) :=
  h.dropReq.ite (h.modIssuer.modReq.ite (h.modIssuer.modReq.ite h.modIssuer.dropReq))

protected theorem MemoryCanonical.applyReq {r : Req} (h : MemoryCanonical s) : MemoryCanonical (s.applyReq r) := by
  unfold State.applyReq
  repeat' split
  · exact h.touchHome.modIssuer
  · exact h.touchHome.modIssuer
  · exact h.touchHome
  · exact MemoryCanonical.of_wf (LocalOp.act_wf h)
  · exact MemoryCanonical.of_wf (atomMem_wf (h.touchHome.of_mem rfl) _ _ _ _ _)
  · exact (MemoryCanonical.of_wf (writeLe_wf (h.touchHome.of_mem rfl) _ _ _)).modTen
  · exact MemoryCanonical.of_wf (writeLe_wf (h.touchHome.of_mem rfl) _ _ _)
  · exact MemoryCanonical.of_wf (writeLe_wf (h.touchHome.of_mem rfl) _ _ _)

protected theorem MemoryCanonical.takeSeq {by_ target : Nat} (h : MemoryCanonical s) : MemoryCanonical (s.takeSeq by_ target).2 :=
  h

protected theorem MemoryCanonical.depart {r : Req} (h : MemoryCanonical s) : MemoryCanonical (s.depart r) := by
  unfold State.depart
  dsimp only
  exact h.countReq.takeSeq.modReq

protected theorem MemoryCanonical.performOwn {op : LocalOp} {r : Req} (h : MemoryCanonical s) : MemoryCanonical (s.performOwn op r) :=
  h.ite (h.failReq.ite h.applyReq.dropReq)

protected theorem MemoryCanonical.transAgain {r : Req} (h : MemoryCanonical s) : MemoryCanonical (s.transAgain r).1 :=
  (h.ite h.countTile.modReq).translate

protected theorem MemoryCanonical.letGo {older : List Req} {r : Req} (h : MemoryCanonical s) : MemoryCanonical (s.letGo older r) := by
  unfold State.letGo
  repeat' split
  · exact h
  · exact h.dropReq
  · exact h.dropReq
  · exact h.performOwn
  · exact h.dropReq.modIssuer
  · exact h
  · exact h.depart
  · exact (h.transAgain.of_fst ‹_›).failReq
  · exact h.transAgain.of_fst ‹_›
  · exact (h.transAgain.of_fst ‹_›).modReq.depart

protected theorem MemoryCanonical.advance1 {id : Nat} (h : MemoryCanonical s) : MemoryCanonical (s.advance1 id) := by
  unfold State.advance1
  repeat' split
  exacts [h, h.letGo, h]

protected theorem MemoryCanonical.advance {b : Issuer} (h : MemoryCanonical s) : MemoryCanonical (s.advance b) :=
  h.foldl fun h => h.advance1

protected theorem MemoryCanonical.advanceOwn (h : MemoryCanonical s) : MemoryCanonical s.advanceOwn :=
  h.foldl fun h => h.advance

protected theorem MemoryCanonical.finishReq {r : Req} {back : Bool} (h : MemoryCanonical s) : MemoryCanonical (s.finishReq r back) := by
  unfold State.finishReq
  dsimp only
  repeat' split
  · exact h.dropReq
  · exact h.modReq
  · exact MemoryCanonical.dropReq h
  · exact MemoryCanonical.modReq h

protected theorem MemoryCanonical.performReq {r : Req} (h : MemoryCanonical s) : MemoryCanonical (s.performReq r) :=
  h.ite (((h.failReq.ite (h.failReq.ite (h.finishReq.ite h.applyReq.finishReq))).advance).advanceOwn)

protected theorem MemoryCanonical.acceptReq {r : Req} (h : MemoryCanonical s) : MemoryCanonical (s.acceptReq r) := by
  unfold State.acceptReq
  repeat' split
  exacts [h, (h.take.of_snd ‹_›).modReq.advance]

protected theorem MemoryCanonical.queueUp {b : Issuer} {u : Tenant} {op : ReqOp} {va : Word} {pa point n : Nat} {data : Word}
    {noalloc : Bool} (h : MemoryCanonical s) : MemoryCanonical (s.queueUp b u op va pa point n data noalloc).2 := by
  unfold State.queueUp
  exact MemoryCanonical.letGo h.take

protected theorem MemoryCanonical.retranslate {p u : Nat} (h : MemoryCanonical s) : MemoryCanonical (s.retranslate p u) := h

protected theorem MemoryCanonical.reissueFailed {key jid : Nat} (h : MemoryCanonical s) :
    MemoryCanonical (s.reissueFailed key jid) := by
  unfold State.reissueFailed
  exact MemoryCanonical.advance (MemoryCanonical.advance h)

/-! ### Faults, retirement and the answers of places -/

protected theorem MemoryCanonical.writeL {a n v : Nat} (h : MemoryCanonical s) : MemoryCanonical (s.writeL a n v) :=
  MemoryCanonical.of_wf (writeLe_wf h _ _ _)

protected theorem MemoryCanonical.emptyFaultAt {p u : Nat} {w : FaultPlace} {c : Cause} {eva : Word} (h : MemoryCanonical s) :
    MemoryCanonical (s.emptyFaultAt p u w c eva) := h.modTen

protected theorem MemoryCanonical.emptyFault {p u tile : Nat} {c : Cause} {eva : Word} (h : MemoryCanonical s) :
    MemoryCanonical (s.emptyFault p u tile c eva) := h.emptyFaultAt

protected theorem MemoryCanonical.reply {d : Done} (h : MemoryCanonical s) : MemoryCanonical (s.reply d) := h.modIssuer

protected theorem MemoryCanonical.putRing {k n : Nat} {o : RingOut} (h : MemoryCanonical s) : MemoryCanonical (s.putRing k n o) :=
  (h.setRing.foldl fun h => h.reply).emptyFault.ite (h.setRing.foldl fun h => h.reply)

protected theorem MemoryCanonical.dropWaiters {f : Waiter → Bool} (h : MemoryCanonical s) : MemoryCanonical (s.dropWaiters f) :=
  h.foldl fun h => h.foldl fun h => h.putRing.ite h

protected theorem MemoryCanonical.endWaits {key : Nat} (h : MemoryCanonical s) : MemoryCanonical (s.endWaits key) := by
  unfold State.endWaits
  repeat' split
  exacts [h, h.setJob.dropWaiters.modJob]

protected theorem MemoryCanonical.toHandler {key : Nat} {j : Job} {f : FaultInfo} (h : MemoryCanonical s) :
    MemoryCanonical (s.toHandler key j f) := (MemoryCanonical.of_wf (writeDwords_wf _ _ h)).setJob

protected theorem MemoryCanonical.toSupervisor {key : Nat} {j : Job} {f : FaultInfo} (h : MemoryCanonical s) :
    MemoryCanonical (s.toSupervisor key j f) := h.setJob.modTen

protected theorem MemoryCanonical.deliver {key : Nat} {j : Job} {f : FaultInfo} (h : MemoryCanonical s) :
    MemoryCanonical (s.deliver key j f) := h.toHandler.ite h.toSupervisor

protected theorem MemoryCanonical.finishFreeze {key : Nat} {f : FaultInfo} (h : MemoryCanonical s) :
    MemoryCanonical (s.finishFreeze key f) := by
  unfold State.finishFreeze
  dsimp only
  repeat' split
  exacts [h.endWaits, h.endWaits.setJob, h.endWaits.deliver]

protected theorem MemoryCanonical.takeFault {key : Nat} {f : FaultInfo} (h : MemoryCanonical s) :
    MemoryCanonical (s.takeFault key f) := by
  unfold State.takeFault
  dsimp only
  repeat' split
  · exact h
  · exact h.setJob
  · exact h.setJob.finishFreeze
  · exact h.setJob
  · exact h.setJob.finishFreeze
  · exact h.setJob.finishFreeze
  · exact h.setJob.finishFreeze
  · exact h.setJob.finishFreeze
  · exact h.setJob.finishFreeze
  · exact h.setJob
  · exact h.setJob
  · exact h.setJob
  · exact h.setJob
  · exact h

protected theorem MemoryCanonical.haltX {key : Nat} (h : MemoryCanonical s) : MemoryCanonical (s.haltX key) := by
  unfold State.haltX
  dsimp only
  repeat' split
  exacts [h, h.setJob.finishFreeze, h.setJob]

protected theorem MemoryCanonical.noticeDeferred {key : Nat} (h : MemoryCanonical s) : MemoryCanonical (s.noticeDeferred key) := by
  unfold State.noticeDeferred
  repeat' split
  exacts [h, h, h.setJob.takeFault, h]

protected theorem MemoryCanonical.resume {key : Nat} (h : MemoryCanonical s) : MemoryCanonical (s.resume key) := by
  unfold State.resume
  repeat' split
  exacts [h, h.deliver, h.setJob.reissueFailed, h.setJob.reissueFailed]

protected theorem MemoryCanonical.resumeFrozen {key : Nat} (h : MemoryCanonical s) : MemoryCanonical (s.resumeFrozen key) := by
  unfold State.resumeFrozen
  repeat' split
  exacts [h, h.setJob.resume]

protected theorem MemoryCanonical.raiseFree {c : Cause} (h : MemoryCanonical s) : (raiseFree s c).Canonical := .raise h.take

protected theorem MemoryCanonical.checked {j : Job} {c : Core} {sup : Bool} {regs : List Reg} {body : Job → Core → State → Res}
    (h : MemoryCanonical s) (hbody : ∀ {x0 x1 t}, MemoryCanonical t → (body x0 x1 t).Canonical) :
    (checked j c sup regs body s).Canonical := by
  unfold checked
  repeat' split
  exacts [h.raiseFree, h.raiseFree, hbody h]

protected theorem MemoryCanonical.haltHere {kind : Kind} (h : MemoryCanonical s) : MemoryCanonical (s.haltHere kind) :=
  h.haltX.ite h

protected theorem MemoryCanonical.settle {len : Nat} {kind : Kind} {freezing : Bool} {s0 : State} {x : Res}
    (h : MemoryCanonical s0) (hx : x.Canonical) : MemoryCanonical (settle len kind freezing s0 x) := by
  cases hx with
  | next h => exact h.modCore
  | goto h => exact h.modCore
  | placed h => exact h.modCore
  | done h => exact h
  | trap ht => exact h.haltHere.ite ht.modCore.takeFault
  | raise h => exact h.modCore.haltHere.ite h.modCore.takeFault
  | wait h => exact h.modCore
  | sent h => exact h.modCore
  | waitDq h => exact h.haltX.ite h.modCore

protected theorem MemoryCanonical.coreExec {len : Nat} {sup : Bool} {regs : List Reg} {body : Job → Core → State → Res}
    (h : MemoryCanonical s) (hbody : ∀ {x0 x1 t}, MemoryCanonical t → (body x0 x1 t).Canonical) :
    NextCanonical (coreExec len sup regs body s) := by
  unfold coreExec
  dsimp only
  repeat' split
  exacts [.fault, .fault, .next h.haltX, .next ((h.settle (h.checked hbody)).noticeDeferred)]

protected theorem MemoryCanonical.ask {a : Asked} (h : MemoryCanonical s) : MemoryCanonical (s.ask a) := h.modCore

protected theorem MemoryCanonical.keep {p : Parcel} {seq : BitVec 16} {v : Word} {x : List Byte} (h : MemoryCanonical s) :
    MemoryCanonical (s.keep p seq v x) := h.ite h

protected theorem MemoryCanonical.arrive {p : Parcel} {a : Asked} {act : List Byte → State → Answer}
    {k : State → Word → List Byte → Res} (h : MemoryCanonical s) (hact : ∀ {x0 t}, MemoryCanonical t → (act x0 t).Canonical)
    (hk : ∀ {t x1 x2}, MemoryCanonical t → (k t x1 x2).Canonical) : (arrive s p a act k).Canonical := by
  unfold arrive
  repeat' split
  · exact .sent h.ask
  · exact hk h
  · exact hk (((hact h).of_ok ‹_›).keep)
  · exact .raise ((hact h).of_err ‹_›)
  · exact .sent (((hact h).of_hold ‹_›).ask)
  · exact .sent h.ask
  · exact .sent h.ask
  · exact .sent (((hact h).of_ok ‹_›).keep.ask)
  · exact .sent h.ask
  · exact .sent (((hact h).of_hold ‹_›).ask)

protected theorem Res.Canonical.stalls {x : Res} (h : x.Canonical) : (Res.stalls x).Canonical := by
  cases h with
  | sent h => exact .wait h
  | next h => exact .next h
  | goto h => exact .goto h
  | placed h => exact .placed h
  | done h => exact .done h
  | trap h => exact .trap h
  | raise h => exact .raise h
  | wait h => exact .wait h
  | waitDq h => exact .waitDq h

protected theorem MemoryCanonical.heldAsk {pl : Place} {a : Asked} {late : State → Res} (h : MemoryCanonical s)
    (hlate : ∀ {t}, MemoryCanonical t → (late t).Canonical) : (heldAsk s pl a late).Canonical := by
  unfold heldAsk
  repeat' split
  exacts [.wait h.ask, .wait h, hlate h, .wait h.countTile.ask]

protected theorem MemoryCanonical.await {p : Parcel} {a : Asked} {late : State → Res} {act : List Byte → State → Answer}
    {k : State → Word → List Byte → Res} (h : MemoryCanonical s) (hlate : ∀ {t}, MemoryCanonical t → (late t).Canonical)
    (hact : ∀ {x0 t}, MemoryCanonical t → (act x0 t).Canonical) (hk : ∀ {t x1 x2}, MemoryCanonical t → (k t x1 x2).Canonical) :
    (await s p a late act k).Canonical := by
  unfold await
  repeat' split
  · exact hk (((hact h).of_ok ‹_›).keep)
  · exact .raise ((hact h).of_err ‹_›)
  · exact ((hact h).of_hold ‹_›).heldAsk hlate
  · exact h.heldAsk hlate
  · exact .wait h
  · exact hlate h
  · exact (h.countTile.arrive hact hk).stalls

protected theorem MemoryCanonical.exchange {p : Parcel} {va : Word} {pa : Nat} {data : List Byte} {late : State → Res}
    {act : List Byte → State → Answer} {k : State → Word → List Byte → Res} (h : MemoryCanonical s)
    (hlate : ∀ {t}, MemoryCanonical t → (late t).Canonical) (hact : ∀ {x0 t}, MemoryCanonical t → (act x0 t).Canonical)
    (hk : ∀ {t x1 x2}, MemoryCanonical t → (k t x1 x2).Canonical) : (exchange s p va pa data late act k).Canonical := by
  unfold exchange
  dsimp only
  repeat' split
  exacts [h.await hlate hact hk, .wait h, h.countReq.takeSeq.arrive hact hk, h.takeSeq.arrive hact hk]

protected theorem MemoryCanonical.coreWrite {len : Nat} {regs : List Reg} {d : Reg} {f : Job → Core → Word}
    (h : MemoryCanonical s) : NextCanonical (coreWrite len regs d f s) := h.coreExec fun h => .next h.setReg

end Sys2Proof.Machine
end

section
/-!
SUPPORT. The places and the core instructions keep the canonical form of memory.
-/

namespace Sys2Proof.Machine

variable {s : State} {r : Run}

/-! ### The content-addressed store -/

protected theorem MemoryCanonical.caDec {pp dom : Nat} {n : BitVec 128} (h : MemoryCanonical s) : SomeCanonical (s.caDec pp dom n) := by
  unfold State.caDec
  dsimp only
  repeat' split
  exacts [.some h.setCa, .none, .some h.setCa.modPkg]

protected theorem MemoryCanonical.lookupOrAllocate {pp dom : Nat} {node : Bool} {content : List Byte} (h : MemoryCanonical s) :
    MemoryCanonical (s.lookupOrAllocate pp dom node content).1 := by
  unfold State.lookupOrAllocate
  dsimp only
  repeat' split
  · exact h.setCa
  · exact h.setCa
  · exact h.setCa
  · exact h.setCa
  · exact h.setCa
  · exact (MemoryCanonical.of_wf (writeBytes_wf _ _ h)).setCa
  · exact h.setCa
  · exact h.setCa
  · exact h.setCa
  · exact h.setCa
  · exact (MemoryCanonical.of_wf (writeBytes_wf _ _ h)).setCa

protected theorem MemoryCanonical.caWait {pp dom : Nat} {hint : CaHeld} (h : MemoryCanonical s) :
    MemoryCanonical (s.caWait pp dom hint) := h.ite h.setCa

protected theorem MemoryCanonical.caLeave {pp dom : Nat} {f : CaHeld → Bool} (h : MemoryCanonical s) :
    MemoryCanonical (s.caLeave pp dom f) := h.setCa.ite h

protected theorem MemoryCanonical.sendOwed {pp : Nat} {o : Owed} (h : MemoryCanonical s) : MemoryCanonical (State.sendOwed pp s o) := by
  have hdec : SomeCanonical (if (s.caAt pp o.dom).behind (groupOf o.field) (CaWaiter.reclaim (nameDie o.node)) then none
      else s.caDec pp o.dom o.field) := by
    split
    · exact .none
    · exact h.caDec
  unfold State.sendOwed
  dsimp only
  split
  · exact (hdec.of_some ‹_›).modPkg.caLeave
  · exact h.caWait

protected theorem MemoryCanonical.sendAll {pp d n : Nat} (h : MemoryCanonical s) : MemoryCanonical (State.sendAll pp d n s) := by
  induction n generalizing s with
  | zero => exact h
  | succ n ih => exact ih (h.foldl fun h => h.sendOwed)

protected theorem MemoryCanonical.flushOwed {pp d : Nat} (h : MemoryCanonical s) : MemoryCanonical (s.flushOwed pp d) :=
  h.sendAll

protected theorem MemoryCanonical.caReclaim {pp dom d : Nat} (h : MemoryCanonical s) : MemoryCanonical (s.caReclaim pp dom d) := by
  unfold State.caReclaim
  dsimp only
  repeat' split
  exacts [h, h, h.setCa.modPkg.flushOwed, h.setCa.modPkg.flushOwed]

protected theorem MemoryCanonical.caFinish {pp dom d : Nat} (h : MemoryCanonical s) : MemoryCanonical (s.caFinish pp dom d) := by
  unfold State.caFinish
  dsimp only
  repeat' split
  exacts [h.flushOwed, h.flushOwed.setCa]

protected theorem MemoryCanonical.emptyPool {pp dom : Nat} {c : CaDomain} (h : MemoryCanonical s) :
    MemoryCanonical (s.emptyPool pp dom c) := h.setCa.modPkg

protected theorem MemoryCanonical.caInit {p dom : Nat} (h : MemoryCanonical s) : MemoryCanonical (s.caInit p dom) :=
  h.ite (h.setCa.ite (h.emptyPool.ite h.setCa))

protected theorem MemoryCanonical.caEnable {p dom : Nat} (h : MemoryCanonical s) : MemoryCanonical (s.caEnable p dom) :=
  h.ite (h.setCa.ite h.setCa.caInit)

protected theorem MemoryCanonical.caDisable {p dom : Nat} (h : MemoryCanonical s) : SomeCanonical (s.caDisable p dom) := by
  unfold State.caDisable
  dsimp only
  repeat' split
  exacts [.some h, .none, .some ((MemoryCanonical.of_wf (nullRoots_wf h)).emptyPool.setCa)]

protected theorem MemoryCanonical.caMove {pp dom : Nat} {roots : List Nat} {l : List CaLine} (h : MemoryCanonical s) :
    SomeCanonical (s.caMove pp dom roots l) := by
  induction l generalizing s with
  | nil => exact .some h
  | cons x rest ih =>
    unfold State.caMove
    dsimp only
    split
    · exact .none
    · exact ih (MemoryCanonical.setCa (.of_wf (writeBytes_wf _ _ h)))

protected theorem MemoryCanonical.caDropAll {pp dom : Nat} {l : List (BitVec 128)} (h : MemoryCanonical s) :
    SomeCanonical (s.caDropAll pp dom l) := by
  induction l generalizing s with
  | nil => exact .some h
  | cons n l ih =>
    unfold State.caDropAll
    split
    · exact .none
    split
    · exact .none
    · exact ih (h.caDec.of_some ‹_›)

protected theorem MemoryCanonical.caRelease {p dom frame : Nat} (h : MemoryCanonical s) : SomeCanonical (s.caRelease p dom frame) := by
  unfold State.caRelease
  dsimp only
  repeat' split
  exacts [.none, h.caDropAll.map_state (fun h => MemoryCanonical.of_wf (clearRange_wf h _ _))]

protected theorem MemoryCanonical.catenWrite {p u : Nat} {v : Word} (h : MemoryCanonical s) : SomeCanonical (s.catenWrite p u v) := by
  have hf {t : State} {lo hi : Nat} {c : Prop} [Decidable c] {g : TenantArea → TenantArea} (ht : MemoryCanonical t) :
      MemoryCanonical ((if c then { t with mem := clearRange t.mem lo hi } else t).modTen p u g) :=
    MemoryCanonical.modTen (MemoryCanonical.ite (.of_wf (clearRange_wf ht _ _)) ht)
  unfold State.catenWrite
  extract_lets old dom area frame changed joins moved
  have hm : SomeCanonical moved := by
    unfold moved
    split
    · exact h.caMove
    · exact .some h
  clear_value moved
  split
  · exact .some h
  split
  · exact .some h
  cases hm with
  | none => exact .some h
  | @some s1 h1 =>
    have hr : SomeCanonical (if (catenE old && (!catenE v || changed)) = true then s1.caRelease p (catenDom old) (catenRoots old)
        else some s1) := by
      split
      · exact h1.caRelease
      · exact .some h1
    dsimp only
    revert hr
    generalize (if (catenE old && (!catenE v || changed)) = true then _ else _ : Option State) = released
    intro hr
    cases hr with
    | none => exact .none
    | some h2 => exact .some (hf h2)

/-! ### Shapes of integer instructions -/

protected theorem MemoryCanonical.opValue {f : Word → Word → Word} {d a : Reg} {b : Opd} (h : MemoryCanonical s) :
    NextCanonical (opValue f d a b s) := h.coreWrite

protected theorem MemoryCanonical.opOne {f : Word → Word} {d a : Reg} (h : MemoryCanonical s) : NextCanonical (opOne f d a s) :=
  h.coreWrite

protected theorem MemoryCanonical.opDivide {zero : Word → Bool} {f : Word → Word → Word} {d a : Reg} {b : Opd}
    (h : MemoryCanonical s) : NextCanonical (opDivide zero f d a b s) :=
  h.coreExec fun h => by
    repeat' split
    exacts [.raise h, .next h.setReg]

/-! ### Shapes of floating-point instructions -/

protected theorem MemoryCanonical.fpValue {f : W32 → W32 → W32} {d a : Reg} {b : Opd} (h : MemoryCanonical s) :
    NextCanonical (fpValue f d a b s) := h.coreWrite

protected theorem MemoryCanonical.fpOne {f : W32 → W32} {d a : Reg} (h : MemoryCanonical s) : NextCanonical (fpOne f d a s) :=
  h.coreWrite

protected theorem MemoryCanonical.fpTest {f : W32 → W32 → Bool} {d a : Reg} {b : Opd} (h : MemoryCanonical s) :
    NextCanonical (fpTest f d a b s) := h.coreWrite

protected theorem MemoryCanonical.execFcvt {d a : Reg} {mode : BitVec 2} {src dst : BitVec 3} (h : MemoryCanonical s) :
    NextCanonical (execFcvt d a mode src dst s) := by
  unfold execFcvt
  repeat' split
  exacts [h.coreWrite, h.coreExec fun h => h.raiseFree]

/-! ### Branches -/

protected theorem MemoryCanonical.transfer {s s' : State} {t : Word} (h : MemoryCanonical s) (hs' : MemoryCanonical s') :
    (transfer s s' t).Canonical := by
  unfold transfer
  repeat' split
  exacts [.raise h, .goto hs']

protected theorem MemoryCanonical.branch {cond : Word → Word → Bool} {a b : Reg} {i : BitVec 10} (h : MemoryCanonical s) :
    NextCanonical (branch cond a b i s) :=
  h.coreExec fun h => by
    repeat' split
    exacts [h.transfer h, .next h]

protected theorem MemoryCanonical.setLc {l : BitVec 2} {v : W32} (h : MemoryCanonical s) : MemoryCanonical (s.setLc l v) :=
  h.modCore

protected theorem MemoryCanonical.execLoopb {l : BitVec 2} {i : BitVec 10} (h : MemoryCanonical s) : NextCanonical (execLoopb l i s) :=
  h.coreExec fun h => by
    dsimp only
    repeat' split
    exacts [.next h, .next h.setLc, h.transfer h.setLc]

/-! ### System registers -/

protected theorem MemoryCanonical.execMfsr {d : Reg} {n : BitVec 12} (h : MemoryCanonical s) : NextCanonical (execMfsr d n s) := by
  unfold execMfsr
  repeat' split
  exacts [h.coreExec fun h => .next h.setReg, h.coreExec fun h => h.raiseFree]

protected theorem MemoryCanonical.sysWrite {c : Core} {n : Nat} {v : Word} (h : MemoryCanonical s) :
    SomeCanonical (sysWrite s c n v) := by
  unfold sysWrite
  repeat' split
  exacts [.some h.modCur, .none, .some h.modCore, .none, .some h.modCore, .none, .some h.modCore, .none, .none]

protected theorem MemoryCanonical.execMtsr {d : Reg} {n : BitVec 12} (h : MemoryCanonical s) : NextCanonical (execMtsr d n s) :=
  h.coreExec fun h => by
    repeat' split
    exacts [.next (h.sysWrite.of_some ‹_›), h.raiseFree]

protected theorem MemoryCanonical.execEret (h : MemoryCanonical s) : NextCanonical (execEret s) :=
  h.coreExec fun h => by
    repeat' split
    exacts [h.raiseFree, .done h.modCore.resume]

protected theorem MemoryCanonical.afterRelease {sc : Scope} {body : State → Res} (h : MemoryCanonical s)
    (hbody : ∀ {t}, MemoryCanonical t → (body t).Canonical) : (afterRelease s sc body).Canonical := by
  unfold afterRelease
  repeat' split
  exacts [hbody h, .wait h]

protected theorem MemoryCanonical.invalidateNow {p u : Nat} {f : TlbEntry → Bool} (h : MemoryCanonical s) :
    MemoryCanonical (s.invalidateNow p u f) := h.invalidate.retranslate

protected theorem MemoryCanonical.invalidateAfter {u : Nat} {f : TlbEntry → Bool} (h : MemoryCanonical s) :
    (invalidateAfter s u f).Canonical := by
  unfold invalidateAfter
  repeat' split
  exacts [h.afterRelease fun h => .next h.invalidateNow, .wait h]

protected theorem MemoryCanonical.execTlbinv {a : Reg} (h : MemoryCanonical s) : NextCanonical (execTlbinv a s) :=
  h.coreExec fun h => by
    dsimp only
    repeat' split
    exacts [.raise h, h.invalidateAfter]

protected theorem MemoryCanonical.execTlbprb {d a : Reg} (h : MemoryCanonical s) : NextCanonical (execTlbprb d a s) :=
  h.coreExec fun h => by
    dsimp only
    repeat' split
    · exact .next h.setReg
    · exact .next h.setReg
    · exact .next ((h.countMiss.walk.of_fst ‹_›).setReg)
    · exact .next ((h.countMiss.walk.of_fst ‹_›).setReg)
    · exact .next ((h.countMiss.walk.of_fst ‹_›).setReg)
    · exact .wait (h.countMiss.walk.of_fst ‹_›)

protected theorem MemoryCanonical.execPerfrd {d : Reg} {b : Opd} (h : MemoryCanonical s) : NextCanonical (execPerfrd d b s) :=
  h.coreExec fun h => by
    dsimp only
    repeat' split
    exacts [h.raiseFree, .next h.setReg]

protected theorem MemoryCanonical.execPerfclr {b : Opd} (h : MemoryCanonical s) : NextCanonical (execPerfclr b s) :=
  h.coreExec fun h => by
    dsimp only
    repeat' split
    exacts [h.raiseFree, .next h.modCore, h.raiseFree, .next h.modTile]

protected theorem MemoryCanonical.raiseVector {p u v : Nat} (h : MemoryCanonical s) : MemoryCanonical (s.raiseVector p u v) :=
  h.modTen

protected theorem MemoryCanonical.clearVpend {p u : Nat} {v : Word} (h : MemoryCanonical s) : MemoryCanonical (s.clearVpend p u v) :=
  h.modTen

protected theorem MemoryCanonical.execHostint {b : Opd} (h : MemoryCanonical s) : NextCanonical (execHostint b s) :=
  h.coreExec fun h => by
    dsimp only
    repeat' split
    exacts [h.raiseFree, h.afterRelease fun h => .next h.raiseVector]

/-! ### Scratchpad, data queues, tokens and the tag table -/

protected theorem MemoryCanonical.withLocal {a : Word} {n al : Nat} {body : State → Res} (h : MemoryCanonical s)
    (hbody : ∀ {t}, MemoryCanonical t → (body t).Canonical) : (withLocal s a n al body).Canonical := by
  unfold withLocal
  repeat' split
  exacts [.raise h, hbody h]

protected theorem MemoryCanonical.soundPad {a : Word} {n : Nat} {write : Bool} {body : State → Res} (h : MemoryCanonical s)
    (hbody : ∀ {t}, MemoryCanonical t → (body t).Canonical) : (soundPad s a n write body).Canonical := by
  unfold soundPad
  repeat' split
  exacts [.raise h, hbody h]

protected theorem MemoryCanonical.inLocalQueue {write : Bool} {body : State → Res} (h : MemoryCanonical s)
    (hbody : ∀ {t}, MemoryCanonical t → (body t).Canonical) : (inLocalQueue s write body).Canonical := by
  unfold inLocalQueue
  repeat' split
  exacts [hbody h, .wait h]

protected theorem MemoryCanonical.withPad {a : Word} {n : Nat} {write : Bool} {body : State → Res} (h : MemoryCanonical s)
    (hbody : ∀ {t}, MemoryCanonical t → (body t).Canonical) : (withPad s a n write body).Canonical :=
  h.withLocal fun h => h.inLocalQueue fun h => h.soundPad hbody

protected theorem MemoryCanonical.postLocal {j : Job} {c : Core} {op : LocalOp} {a n : Nat} {v : Word} (h : MemoryCanonical s) :
    (postLocal s j c op a n v).Canonical := by
  unfold postLocal
  repeat' split
  exacts [.next (MemoryCanonical.of_wf (LocalOp.act_wf h)), .next h.queueUp]

protected theorem MemoryCanonical.execStl {d a : Reg} {z : StoreSize} {i : BitVec 11} (h : MemoryCanonical s) :
    NextCanonical (execStl d a z i s) :=
  h.coreExec fun h => h.withLocal fun h => by
      repeat' split
      exacts [h.inLocalQueue fun h => .raise h, h.postLocal]

protected theorem MemoryCanonical.dqFault {q : Nat} (h : MemoryCanonical s) : (dqFault s q).Canonical := .raise h

protected theorem MemoryCanonical.dqPut {j : Job} {q : Nat} {v : Word} (h : MemoryCanonical s) : (dqPut s j q v).Canonical := by
  unfold dqPut
  repeat' split
  exacts [h.dqFault, .next h.modCur, h.dqFault, .waitDq h, .wait h]

protected theorem MemoryCanonical.nbPut {j : Job} {q : Nat} {v : Word} (h : MemoryCanonical s) : (nbPut s j q v).Canonical := by
  unfold nbPut
  dsimp only
  repeat' split
  exacts [h.dqFault, .next h.modCur, .next h.modCur, .next h.modCur, .wait h]

protected theorem MemoryCanonical.execDqput {q : BitVec 6} {b : Opd} (h : MemoryCanonical s) : NextCanonical (execDqput q b s) :=
  h.coreExec fun h => by
    repeat' split
    exacts [h.dqPut, h.nbPut]

protected theorem MemoryCanonical.dqTake {peek : Bool} {d : Reg} {j : Job} {q : Nat} (h : MemoryCanonical s) :
    (dqTake peek d s j q).Canonical := by
  unfold dqTake
  dsimp only
  repeat' split
  · exact h.dqFault
  · exact .next h.setReg
  · exact .next h.modCur.setReg
  · exact h.dqFault
  · exact .waitDq h
  · exact .wait h
  · exact .waitDq h
  · exact .wait h
  · exact h.dqFault
  · exact .next h.setReg
  · exact .next h.modCur.setReg
  · exact .wait h

protected theorem MemoryCanonical.modTq {n : Nat} {f : TokenQ → TokenQ} (h : MemoryCanonical s) : MemoryCanonical (s.modTq n f) :=
  h.modCur

protected theorem MemoryCanonical.execTksend {q : BitVec 6} (h : MemoryCanonical s) : NextCanonical (execTksend q s) :=
  h.coreExec fun h => by
    dsimp only
    repeat' split
    exacts [h.raiseFree, .raise h, .next h.queueUp]

protected theorem MemoryCanonical.execTkwait {q : BitVec 6} (h : MemoryCanonical s) : NextCanonical (execTkwait q s) :=
  h.coreExec fun h => by
    dsimp only
    repeat' split
    exacts [h.raiseFree, .next h.modTq, h.raiseFree, .wait h]

protected theorem MemoryCanonical.execTktry {d : Reg} {q : BitVec 6} (h : MemoryCanonical s) : NextCanonical (execTktry d q s) :=
  h.coreExec fun h => by
    dsimp only
    repeat' split
    exacts [h.raiseFree, .next h.modTq.setReg, .next h.setReg, .next h.setReg]

protected theorem MemoryCanonical.tagLook {slots : List Nat} {kind key : Nat} (h : MemoryCanonical s) :
    MemoryCanonical (tagLook s slots kind key).1 := by
  unfold tagLook
  dsimp only
  repeat' split
  exacts [h, h.ageSet, h, h, h]

protected theorem MemoryCanonical.withGeom {g : Word} {body : Geom → Res} (h : MemoryCanonical s)
    (hbody : ∀ {x0}, (body x0).Canonical) : (withGeom s g body).Canonical := by
  unfold withGeom
  repeat' split
  exacts [hbody, .raise h]

protected theorem MemoryCanonical.execTglook {d a : Reg} {b : Opd} (h : MemoryCanonical s) : NextCanonical (execTglook d a b s) :=
  h.coreExec fun h => h.withGeom fun {_} => by
    dsimp only
    split
    · exact h.raiseFree
    split
    · exact .raise h
    · exact h.inLocalQueue fun h => .next h.tagLook.setReg

protected theorem MemoryCanonical.withSlot {m : Geom} {slot : Word} {body : Nat → Res} (h : MemoryCanonical s)
    (hbody : ∀ {x0}, (body x0).Canonical) : (withSlot s m slot body).Canonical := by
  unfold withSlot
  repeat' split
  exacts [hbody, .raise h]

protected theorem MemoryCanonical.execTgset {d a : Reg} {b : Opd} (h : MemoryCanonical s) : NextCanonical (execTgset d a b s) :=
  h.coreExec fun h => h.withGeom (h.withSlot fun {_} => by
    dsimp only
    split
    · exact h.raiseFree
    · exact h.postLocal)

/-! ### Rings -/

protected theorem MemoryCanonical.ringAct {r : RingRef} {op : List Byte → Ring → Issuer → RingOut} {data : List Byte}
    (h : MemoryCanonical s) : (ringAct r op data s).Canonical := by
  unfold ringAct
  dsimp only
  repeat' split
  exacts [.ok h, .ok h.modCore.putRing.modCore, .hold h.modCore.putRing]

protected theorem MemoryCanonical.ringSend {r : RingRef} {ref : Word} {data : List Byte} {act : List Byte → State → Answer}
    {k : State → Word → List Byte → Res} (h : MemoryCanonical s) (hact : ∀ {x0 t}, MemoryCanonical t → (act x0 t).Canonical)
    (hk : ∀ {t x1 x2}, MemoryCanonical t → (k t x1 x2).Canonical) : (ringSend s r ref data act k).Canonical := by
  unfold ringSend
  repeat' split
  · exact h.exchange (fun h => .raise h) hact hk
  · exact hk ((hact h).of_ok ‹_›)
  · exact .raise ((hact h).of_err ‹_›)
  · exact .sent (((hact h).of_hold ‹_›).ask)

protected theorem MemoryCanonical.ringLate {ref : Word} (h : MemoryCanonical s) : (ringLate ref s).Canonical :=
  .raise h.dropWaiters

protected theorem MemoryCanonical.ringExec {sup : Bool} {d a : Reg} {b : Option Reg}
    {check : State → Word → Option (Cause × Word)} {rel : Option Scope} {carry : State → Word → List Byte}
    {act : Word → RingRef → List Byte → State → Answer} {k : Word → State → Word → List Byte → Res} (h : MemoryCanonical s)
    (hact : ∀ {x0 x1 x2 t}, MemoryCanonical t → (act x0 x1 x2 t).Canonical)
    (hk : ∀ {x0 t x2 x3}, MemoryCanonical t → (k x0 t x2 x3).Canonical) : NextCanonical (ringExec sup d a b check rel carry act k s) :=
  h.coreExec fun h => by
    dsimp only
    repeat' split
    · exact hk h
    · exact h.heldAsk fun h => h.ringLate
    · exact h.heldAsk fun h => h.ringLate
    · exact h.ringSend (fun h => hact h) fun h => hk h
    · exact .raise h
    · exact h.raiseFree
    · exact .raise h
    · exact h.afterRelease fun h => h.ringSend (fun h => hact h) fun h => hk h
    · exact h.ringSend (fun h => hact h) fun h => hk h

protected theorem MemoryCanonical.ringDone {d : Reg} {a : Word} {v : Word} {l : List Byte} (h : MemoryCanonical s) :
    (ringDone d a s v l).Canonical := .next h.setReg

protected theorem MemoryCanonical.ringPlain {sup : Bool} {d a : Reg} {b : Option Reg}
    {check : State → Word → Option (Cause × Word)} {rel : Option Scope} {op : Word → Ring → Issuer → RingOut}
    (h : MemoryCanonical s) : NextCanonical (ringPlain sup d a b check rel op s) :=
  h.ringExec (fun h => h.ringAct) fun h => h.ringDone

protected theorem MemoryCanonical.ringSnap {r : RingRef} {l : List Byte} (h : MemoryCanonical s) : (ringSnap r l s).Canonical := by
  unfold ringSnap
  repeat' split
  all_goals exact .ok h

protected theorem MemoryCanonical.execRgstat {d a b : Reg} (h : MemoryCanonical s) : NextCanonical (execRgstat d a b s) :=
  h.ringExec (fun h => h.ringSnap) fun h => .next ((MemoryCanonical.of_wf (writeBytes_wf _ _ h)).setReg)

protected theorem MemoryCanonical.leaveTile {k jid : Nat} (h : MemoryCanonical s) : MemoryCanonical (s.leaveTile k jid) :=
  h.foldl fun h => h.putRing.ite h

protected theorem MemoryCanonical.leaveRings {jid : Nat} (h : MemoryCanonical s) : MemoryCanonical (s.leaveRings jid) :=
  (h.foldl fun h => h.leaveTile).of_mem rfl

/-! ### Instructions of the content-addressed store -/

protected theorem MemoryCanonical.errFree {c : Cause} (h : MemoryCanonical s) : (errFree s c).Canonical := .err h.take

protected theorem MemoryCanonical.caEnd {pp dom : Nat} {who : Issuer} (h : MemoryCanonical s) : MemoryCanonical (s.caEnd pp dom who) :=
  h.caLeave

protected theorem MemoryCanonical.caGate {pp dom g : Nat} {node : Bool} {act : State → Answer} (h : MemoryCanonical s)
    (hact : ∀ {t}, MemoryCanonical t → (act t).Canonical) : (caGate pp dom g node act s).Canonical := by
  unfold caGate
  dsimp only
  repeat' split
  · exact .hold h.caWait
  · exact .ok (((hact h).of_ok ‹_›).caEnd)
  · exact .err (((hact h).of_err ‹_›).caEnd)
  · exact .hold (((hact h).of_hold ‹_›).caWait)

protected theorem MemoryCanonical.caServed {pp dom : Nat} {act : State → Answer} (h : MemoryCanonical s)
    (hact : ∀ {t}, MemoryCanonical t → (act t).Canonical) : (caServed pp dom act s).Canonical := by
  unfold caServed
  repeat' split
  exacts [hact h, .ok h.caEnd]

protected theorem MemoryCanonical.caSend {d : Reg} {out : Word} {n dom : Nat} {data : List Byte}
    {act : Nat → Nat → List Byte → State → Answer} (h : MemoryCanonical s)
    (hact : ∀ {x0 x1 x2 t}, MemoryCanonical t → (act x0 x1 x2 t).Canonical) : (caSend d out n dom data act s).Canonical :=
  (h.ite h.carry).exchange (fun h => h.caEnd.raiseFree) (fun h => h.caServed fun h => hact h)
    fun h => .next (MemoryCanonical.setReg (.of_wf (writeBytes_wf _ _ h.carry)))

protected theorem MemoryCanonical.caExec {regs : List Reg} {d : Reg} {ranges : Core → List (Word × Nat)}
    {names : Core → State → Option Word} {rel : Bool} {out : Core → Word}
    {req : Nat → Nat → Job → Core → State → Option (Nat × List Byte)} {act : Core → Nat → Nat → List Byte → State → Answer}
    (h : MemoryCanonical s) (hact : ∀ {x0 x1 x2 x3 t}, MemoryCanonical t → (act x0 x1 x2 x3 t).Canonical) :
    NextCanonical (caExec regs d ranges names rel out req act s) :=
  h.coreExec fun h => by
    dsimp only
    repeat' split
    · exact h.caSend fun h => hact h
    · exact .raise h
    · exact .raise h
    · exact .raise h
    · exact .next h.setReg
    · exact h.inLocalQueue fun h => h.afterRelease fun h => by
        repeat' split
        exacts [.next h.setReg, h.caSend fun h => hact h]
    · exact h.inLocalQueue fun h => by
        repeat' split
        exacts [.next h.setReg, h.caSend fun h => hact h]

protected theorem MemoryCanonical.caPut {node : Bool} {d a b : Reg} (h : MemoryCanonical s) : NextCanonical (caPut node d a b s) :=
  h.caExec fun h => h.caGate fun h => by
      dsimp only
      repeat' split
      · exact .hold h
      · exact .ok (h.lookupOrAllocate.of_fst ‹_›)
      · exact .ok (h.lookupOrAllocate.of_fst ‹_›)
      · exact .ok (h.lookupOrAllocate.of_fst ‹_›)
      · exact .ok (h.lookupOrAllocate.of_fst ‹_›)
      · exact .ok (h.lookupOrAllocate.of_fst ‹_›)
      · exact .ok (h.lookupOrAllocate.of_fst ‹_›)
      · exact .err (h.lookupOrAllocate.of_fst ‹_›)

protected theorem MemoryCanonical.caNamed {d a : Reg} {more : Core → List (Word × Nat)} {regs : List Reg} {out : Core → Word}
    {act : Nat → Nat → CaLine → State → Answer} (h : MemoryCanonical s)
    (hact : ∀ {x0 x1 x2 t}, MemoryCanonical t → (act x0 x1 x2 t).Canonical) : NextCanonical (caNamed d a more regs out act s) :=
  h.caExec fun h => h.caGate fun h => by
      repeat' split
      exacts [.err h, hact h]

protected theorem MemoryCanonical.execCaget {d a b : Reg} (h : MemoryCanonical s) : NextCanonical (execCaget d a b s) :=
  h.caNamed fun h => by
    repeat' split
    exacts [h.errFree, .ok h]

protected theorem MemoryCanonical.execCadrop {d a : Reg} (h : MemoryCanonical s) : NextCanonical (execCadrop d a s) :=
  h.caNamed fun h => by
    repeat' split
    exacts [.hold h, .ok (h.caDec.of_some ‹_›)]

protected theorem MemoryCanonical.readSlot {slot : Nat} (h : MemoryCanonical s) : MemoryCanonical (s.readSlot slot) :=
  h.touchHome

protected theorem MemoryCanonical.writeSlot {slot : Nat} {n : BitVec 128} (h : MemoryCanonical s) :
    MemoryCanonical (s.writeSlot slot n) := MemoryCanonical.of_wf (writeLe_wf h _ _ _)

protected theorem MemoryCanonical.caSlot {d a b : Reg} {n reads : Nat} {act : Core → Nat → Nat → Nat → List Byte → State → Answer}
    (h : MemoryCanonical s) (hact : ∀ {x0 x1 x2 x3 x4 t}, MemoryCanonical t → (act x0 x1 x2 x3 x4 t).Canonical) :
    NextCanonical (caSlot d a b n reads act s) :=
  h.caExec fun h => h.caGate fun h => by
      repeat' split
      exacts [h.errFree, hact h]

protected theorem MemoryCanonical.execCarootRef {d a b : Reg} (h : MemoryCanonical s) : NextCanonical (execCarootRef d a b s) :=
  h.caSlot fun h => by
    dsimp only
    repeat' split
    · exact .ok h.readSlot
    · exact h.caGate fun h => by
        repeat' split
        exacts [.ok h.readSlot, .ok h.readSlot.setCa]

protected theorem MemoryCanonical.caChecked {pp dom : Nat} {n : BitVec 128} {l : Word} {act : State → Answer}
    (h : MemoryCanonical s) (hact : ∀ {t}, MemoryCanonical t → (act t).Canonical) : (caChecked pp dom n l act s).Canonical := by
  unfold caChecked
  repeat' split
  · exact hact h
  · exact h.caGate fun h => by
      repeat' split
      exacts [.err h, hact h]

protected theorem MemoryCanonical.execCacas {d a b : Reg} (h : MemoryCanonical s) : NextCanonical (execCacas d a b s) :=
  h.caSlot fun h => by
    dsimp only
    repeat' split
    exacts [.ok h.readSlot, h.caChecked fun h => .ok h.writeSlot]

end Sys2Proof.Machine
end

section
/-!
SUPPORT. Circuits, spans, images, records and the scheduler keep the canonical form of memory.
-/

namespace Sys2Proof.Machine

variable {s : State} {r : Run}

/-! ### Circuits, flows and collectives -/

protected theorem MemoryCanonical.modJobOf {jid : Nat} {f : Job → Job} (h : MemoryCanonical s) :
    MemoryCanonical (s.modJobOf jid f) := by
  unfold State.modJobOf
  repeat' split
  exacts [h.modJob, h]

protected theorem MemoryCanonical.modSend {c : Circuit} {f : SendRec → SendRec} (h : MemoryCanonical s) :
    MemoryCanonical (s.modSend c f) := h.ite h.modJobOf

protected theorem MemoryCanonical.modLand {c : Circuit} {f : LandRec → LandRec} (h : MemoryCanonical s) :
    MemoryCanonical (s.modLand c f) := h.ite h.modJobOf

protected theorem MemoryCanonical.setCirc {c : Circuit} (h : MemoryCanonical s) : MemoryCanonical (s.setCirc c) := h

protected theorem MemoryCanonical.dropCirc {id : Nat} (h : MemoryCanonical s) : MemoryCanonical (s.dropCirc id) := h

protected theorem MemoryCanonical.showBreak {c : Circuit} {code : BitVec 4} (h : MemoryCanonical s) :
    MemoryCanonical (s.showBreak c code) := h.modSend

protected theorem MemoryCanonical.endCircuit {c : Circuit} {cause : Nat} {e : BreakEnd} (h : MemoryCanonical s) :
    MemoryCanonical (s.endCircuit c cause e) := (h.modLand.showBreak.ite h.modLand).setCirc

protected theorem MemoryCanonical.recause {c : Circuit} {cause : Nat} {e : BreakEnd} (h : MemoryCanonical s) :
    MemoryCanonical (s.recause c cause e) := by
  unfold State.recause
  repeat' split
  exacts [h, h.showBreak.ite h.showBreak.modLand.setCirc, h.ite h.modLand.setCirc, h]

protected theorem MemoryCanonical.landBeat {c : Circuit} {n : Nat} (h : MemoryCanonical s) : MemoryCanonical (s.landBeat c n) := by
  have hl : MemoryCanonical { s with mem := (landWords s.mem { c with words := c.words.drop n } (c.words.take n).flatten).1 } :=
    landWords_wf h
  unfold State.landBeat
  dsimp only
  split
  · exact hl.setCirc.modLand
  · exact hl.setCirc.modLand.endCircuit

protected theorem MemoryCanonical.breakCircuit {id cause : Nat} {e : BreakEnd} (h : MemoryCanonical s) :
    MemoryCanonical (s.breakCircuit id cause e) := by
  unfold State.breakCircuit
  dsimp only
  repeat' split
  exacts [h, h.recause, h.landBeat.endCircuit, h.endCircuit, h.landBeat, h, h.landBeat, h]

protected theorem MemoryCanonical.breakAll {f : Circuit → Bool} {cause : Nat} {e : BreakEnd} (h : MemoryCanonical s) :
    MemoryCanonical (s.breakAll f cause e) := h.foldl fun h => h.breakCircuit.ite h

protected theorem MemoryCanonical.clearFlow {id : Nat} (h : MemoryCanonical s) : MemoryCanonical (s.clearFlow id) := h

protected theorem MemoryCanonical.jobEndCircuits {jid : Nat} (h : MemoryCanonical s) : MemoryCanonical (s.jobEndCircuits jid) :=
  h.breakAll.breakAll.foldl fun h => h.clearFlow

protected theorem MemoryCanonical.endFlows {jid : Nat} (h : MemoryCanonical s) : MemoryCanonical (s.endFlows jid) :=
  h.foldl fun h => h.clearFlow

protected theorem MemoryCanonical.breakPort {p q low cause : Nat} (h : MemoryCanonical s) :
    MemoryCanonical (s.breakPort p q low cause) := h.breakAll

protected theorem MemoryCanonical.probeFrom {sp st dp dt cls n : Nat} {a : Probe} (h : MemoryCanonical s) :
    MemoryCanonical (s.probeFrom sp st dp dt cls n a).1 := by
  induction n generalizing a s with
  | zero => exact h
  | succ fuel ih =>
    unfold State.probeFrom
    extract_lets minimal ms advance
    split
    · exact h
    split
    · exact ih h
    split
    · exact ih h.breakCircuit
    split
    · exact h
    split
    · exact h
    · exact ih h

protected theorem MemoryCanonical.probe {sp st dp dt cls : Nat} (h : MemoryCanonical s) :
    MemoryCanonical (s.probe sp st dp dt cls).1 := by
  unfold State.probe
  repeat' split
  exacts [h, h.probeFrom]

protected theorem MemoryCanonical.closeFlow {f : Flow} (h : MemoryCanonical s) : MemoryCanonical (s.closeFlow f) := by
  unfold State.closeFlow
  repeat' split
  exacts [h.landBeat.clearFlow, h, h.clearFlow, h.clearFlow]

protected theorem MemoryCanonical.newWindow {p c : Nat} (h : MemoryCanonical s) : MemoryCanonical (s.newWindow p c) := h

protected theorem MemoryCanonical.meterFlow {p t dp dt : Nat} {label : Byte} {cls esize n : Nat} (h : MemoryCanonical s) :
    MemoryCanonical (s.meterFlow p t dp dt label cls esize n) := by
  have hw : MemoryCanonical (if s.windowOver p (t / 4) then s.newWindow p (t / 4) else s) := h.newWindow.ite h
  unfold State.meterFlow
  split
  · exact h
  extract_lets s1 ok
  split
  · exact MemoryCanonical.ite (s := s1.closeFlow _) (MemoryCanonical.closeFlow hw) hw
  · dsimp only
    split
    · exact hw.take
    split
    · exact MemoryCanonical.closeFlow hw.take
    · exact hw.take

protected theorem MemoryCanonical.setDom {p u i : Nat} {e : Domino} (h : MemoryCanonical s) : MemoryCanonical (s.setDom p u i e) :=
  h.modTen

protected theorem MemoryCanonical.seqLand {p u t n : Nat} {need : Perm} {f : Nat → Nat → Nat} {l : List (Nat × Nat)}
    (h : MemoryCanonical s) : MemoryCanonical (s.seqLand p u t n need f l).1 := by
  induction l generalizing s with
  | nil => exact h
  | cons w l ih =>
    unfold State.seqLand
    split
    · exact h
    · exact ih (.of_wf (writeLe_wf h _ _ _))

protected theorem MemoryCanonical.reduceChunk {u i : Nat} {root : Domino} {is : List Nat} (h : MemoryCanonical s) :
    MemoryCanonical (s.reduceChunk u i root is).1 := by
  unfold State.reduceChunk
  dsimp only
  repeat' split
  exacts [h, h.seqLand.of_fst ‹_›, h.seqLand.of_fst ‹_›]

protected theorem MemoryCanonical.castTiles {u p : Nat} {ws : List (Nat × Nat)} {l : List Nat} (h : MemoryCanonical s) :
    MemoryCanonical (s.castTiles u p ws l).1 := by
  induction l generalizing s with
  | nil => exact h
  | cons t ts ih =>
    unfold State.castTiles
    split
    · exact ih (h.seqLand.of_fst ‹_›)
    · exact h.seqLand

protected theorem MemoryCanonical.castPeers {u i : Nat} {root : Domino} {is vals l : List Nat} (h : MemoryCanonical s) :
    MemoryCanonical (s.castPeers u i root is vals l).1 := by
  induction l generalizing s with
  | nil => exact h
  | cons p ps ih =>
    unfold State.castPeers
    split
    · exact h
    split
    · exact h
    extract_lets e
    split
    · exact h.castTiles.of_fst ‹_›
    · exact ih (h.castTiles.of_fst ‹_›)

protected theorem MemoryCanonical.castChunk {u i : Nat} {root : Domino} {is : List Nat} (h : MemoryCanonical s) :
    MemoryCanonical (s.castChunk u i root is).1 := by
  unfold State.castChunk
  repeat' split
  exacts [h, h.castPeers]

protected theorem MemoryCanonical.runChunks {f : State → List Nat → Gen} {l : List (List Nat)} (h : MemoryCanonical s)
    (hf : ∀ {t x1}, MemoryCanonical t → MemoryCanonical ((f t x1).1)) : MemoryCanonical (runChunks f s l).1 := by
  induction l generalizing s with
  | nil => exact h
  | cons c cs ih =>
    unfold runChunks
    split
    · exact ih ((hf h).of_fst ‹_›)
    · exact hf h

protected theorem MemoryCanonical.generation {u i : Nat} {root : Domino} (h : MemoryCanonical s) :
    MemoryCanonical (s.generation u i root).1 := by
  unfold State.generation
  repeat' split
  · exact h.runChunks fun h => h.castChunk
  · exact h.runChunks fun h => h.reduceChunk
  · exact h.runChunks fun h => h.reduceChunk
  · exact h.runChunks fun h => h.reduceChunk

protected theorem MemoryCanonical.fire {p u i : Nat} (h : MemoryCanonical s) : MemoryCanonical (s.fire p u i) := by
  unfold State.fire
  dsimp only
  repeat' split
  · exact h
  · exact (h.foldl fun h => h.setDom).setDom.generation.of_fst ‹_›
  · exact ((h.foldl fun h => h.setDom).setDom.generation.of_fst ‹_›).emptyFault.setDom

protected theorem MemoryCanonical.complete {p u i : Nat} (h : MemoryCanonical s) : MemoryCanonical (s.complete p u i) :=
  h.ite (h.foldl fun h => h.setDom)

/-! ### Spans of an agent or an engine -/

protected theorem MemoryCanonical.trFor {q : Party} {va : Nat} {need : Perm} (h : MemoryCanonical s) :
    MemoryCanonical (s.trFor q va need).1 := by
  unfold State.trFor
  repeat' split
  exacts [h.translate, h.walk.of_fst ‹_›, h.walk.of_fst ‹_›, h.walk.of_fst ‹_›]

protected theorem MemoryCanonical.place1 {q : Party} {va : Nat} {need : Perm} (h : MemoryCanonical s) :
    MemoryCanonical (s.place1 q va need).1 := by
  unfold State.place1
  repeat' split
  · exact h
  · exact h.trFor.of_fst ‹_›
  · exact h.trFor.of_fst ‹_›
  · exact h.trFor.of_fst ‹_›
  · exact h.trFor.of_fst ‹_›
  · exact h.trFor.of_fst ‹_›
  · exact h.trFor.of_fst ‹_›
  · exact h.trFor.of_fst ‹_›

protected theorem MemoryCanonical.modEng {f : Engine → Engine} (h : MemoryCanonical s) : MemoryCanonical (s.modEng f) :=
  h.modCur

protected theorem MemoryCanonical.engAsk {a : Option Asked} (h : MemoryCanonical s) : MemoryCanonical (s.engAsk a) := h.modEng

protected theorem MemoryCanonical.numbered {pa : Nat} {write : Bool} (h : MemoryCanonical s) :
    MemoryCanonical (s.numbered pa write) := by
  unfold State.numbered
  dsimp only
  split
  · exact (h.takeSeq (by_ := requester s.key s.focus.kind false) (target := s.targetNum pa)).of_mem rfl
  · exact h.takeSeq

protected theorem MemoryCanonical.request {q : Party} {pa n : Nat} {hint : Hint} (h : MemoryCanonical s) :
    MemoryCanonical (s.request q pa n hint) := (h.numbered.ite h).touchHome

protected theorem MemoryCanonical.carryPiece {q : Party} {write : Bool} {from_ pa n : Nat} (h : MemoryCanonical s) :
    MemoryCanonical (s.carryPiece q write from_ pa n) := h.ite (h.foldl fun h => h.carry.ite h)

protected theorem MemoryCanonical.carryPieces {q : Party} {write : Bool} {f : Nat} {l : List (Nat × Nat)} (h : MemoryCanonical s) :
    MemoryCanonical (s.carryPieces q write f l) := h.foldl fun h => h.carryPiece

protected theorem MemoryCanonical.travelTo {q : Party} {va : Word} {pa target : Nat} {ways count : List Place} {write : Bool}
    (h : MemoryCanonical s) : MemoryCanonical (s.travelTo q va pa target ways count write).1 := by
  unfold State.travelTo
  dsimp only
  repeat' split
  · exact h
  · exact (h.foldl fun h => h.countReq).engAsk
  · exact h.foldl fun h => h.countReq
  · exact (h.foldl fun h => h.countReq).engAsk
  · exact (h.foldl fun h => h.countReq).engAsk
  · exact (h.foldl fun h => h.countReq).engAsk
  · exact (h.foldl fun h => h.countReq).engAsk
  · exact h
  · exact h.engAsk
  · exact h.countTile.engAsk
  · exact h.countTile
  · exact h.countTile.engAsk
  · exact h.countTile.engAsk
  · exact h.countTile.engAsk

protected theorem MemoryCanonical.travel {q : Party} {va : Word} {l : List (Nat × Nat)} {count : List Place} {write : Bool}
    (h : MemoryCanonical s) : MemoryCanonical (s.travel q va l count write).1 := h.travelTo

protected theorem MemoryCanonical.heldBack {s x : State} (h : MemoryCanonical s) (_ : MemoryCanonical x) :
    MemoryCanonical (s.heldBack x) := h.engAsk.modTile

protected theorem MemoryCanonical.settleAsked {q : Party} (h : MemoryCanonical s) : MemoryCanonical (s.settleAsked q).1 := by
  unfold State.settleAsked
  dsimp only
  repeat' split
  exacts [h, h, h.engAsk, h.countTile.engAsk, h.countTile.engAsk, h]

protected theorem MemoryCanonical.pieces {q : Party} {need : Perm} {n n1 n2 : Nat} (h : MemoryCanonical s) :
    MemoryCanonical (s.pieces q need n n1 n2).1 := by
  induction n generalizing n1 n2 s with
  | zero => exact h
  | succ fuel ih =>
    unfold State.pieces
    split
    · exact h
    split
    · exact h.place1.of_fst ‹_›
    · exact h.place1.of_fst ‹_›
    · have hp := h.place1.of_fst ‹_›
      dsimp only
      split
      · exact (ih hp).of_fst ‹_›
      · exact ih hp

protected theorem MemoryCanonical.sentPieces {q : Party} {need : Perm} {va n : Nat} {write : Bool} (h : MemoryCanonical s) :
    MemoryCanonical (s.sentPieces q need va n write).1 := by
  unfold State.sentPieces
  repeat' split
  · exact (h.pieces.of_fst ‹_›).travel.of_fst ‹_›
  · exact (h.pieces.of_fst ‹_›).travel.of_fst ‹_›
  · exact (h.pieces.of_fst ‹_›).travel.of_fst ‹_›
  · exact (h.pieces.of_fst ‹_›).travel.of_fst ‹_›
  · exact h.pieces

protected theorem MemoryCanonical.spanRead {q : Party} {va n : Nat} {need : Perm} {hint : Hint} (h : MemoryCanonical s) :
    MemoryCanonical (s.spanRead q va n need hint).1 := by
  unfold State.spanRead
  repeat' split
  exacts [((h.sentPieces.of_fst ‹_›).foldl fun h => h.request).carryPieces, h.sentPieces.of_fst ‹_›, h.sentPieces.of_fst ‹_›]

protected theorem MemoryCanonical.putPieces {q : Party} {hint : Hint} {l : List (Nat × Nat)} {l1 : List Byte}
    (h : MemoryCanonical s) : MemoryCanonical (s.putPieces q hint l l1) := by
  induction l generalizing l1 s with
  | nil => exact h
  | cons x l ih => exact ih (MemoryCanonical.carryPiece (.of_wf (writeBytes_wf _ _ h.request)))

protected theorem MemoryCanonical.spanWrite {q : Party} {va : Nat} {b : List Byte} {hint : Hint} (h : MemoryCanonical s) :
    MemoryCanonical (s.spanWrite q va b hint).1 := by
  unfold State.spanWrite
  repeat' split
  exacts [(h.sentPieces.of_fst ‹_›).putPieces, h.sentPieces.of_fst ‹_›, h.sentPieces.of_fst ‹_›]

protected theorem MemoryCanonical.peeked {p u va n : Nat} (h : MemoryCanonical s) : MemoryCanonical (s.peeked p u va n) :=
  h.spanRead

protected theorem MemoryCanonical.areaPages {q : Party} {need : Perm} {va n : Nat} (h : MemoryCanonical s) :
    MemoryCanonical (s.areaPages q need va n).1 := by
  induction n with
  | zero => exact h
  | succ k ih =>
    unfold State.areaPages
    split
    · have hk := ih.of_fst ‹_›
      split
      · repeat' split
        all_goals exact hk.place1.of_fst ‹_›
      · exact hk.place1.of_fst ‹_›
      · exact hk.place1.of_fst ‹_›
    · exact ih

protected theorem MemoryCanonical.putArea {q : Party} {va k : Nat} {l : List (Nat × Byte)} (h : MemoryCanonical s) :
    MemoryCanonical (s.putArea q va k l).1 := by
  unfold State.putArea
  split
  · refine MemoryCanonical.of_wf (foldl_wf (MemoryCanonical.foldl (h.areaPages.of_fst ‹_›) fun h => h.touchSpan) fun h => ?_)
    exact layAt_wf _ _ (clearRange_wf h _ _)
  · exact h.areaPages.of_fst ‹_›
  · exact h.areaPages.of_fst ‹_›

protected theorem MemoryCanonical.getArea {q : Party} {va k : Nat} (h : MemoryCanonical s) : MemoryCanonical (s.getArea q va k).1 := by
  unfold State.getArea
  repeat' split
  exacts [(h.areaPages.of_fst ‹_›).foldl fun h => h.touchSpan, h.areaPages.of_fst ‹_›, h.areaPages.of_fst ‹_›]

/-! ### Images -/

protected theorem MemoryCanonical.imageSection {q : Party} {va n : Nat} (h : MemoryCanonical s) :
    MemoryCanonical (s.section q va n).1 := by
  unfold State.section
  repeat' split
  exacts [h, h.spanRead]

protected theorem MemoryCanonical.sections {q : Party} {l : List (Nat × Nat)} (h : MemoryCanonical s) :
    MemoryCanonical (s.sections q l).1 := by
  induction l generalizing s with
  | nil => exact h
  | cons x l ih =>
    unfold State.sections
    split
    · exact h.imageSection.of_fst ‹_›
    · exact h.imageSection.of_fst ‹_›
    · have hl := ih (h.imageSection.of_fst ‹_›)
      split
      · exact hl.of_fst ‹_›
      · exact hl

protected theorem MemoryCanonical.loadImage {p t slot u va : Nat} {whole : Bool} (h : MemoryCanonical s) :
    MemoryCanonical (s.loadImage p t slot u va whole).1 := by
  unfold State.loadImage
  dsimp only
  split
  · exact h
  split
  · exact h.imageSection.of_fst ‹_›
  · exact h.imageSection.of_fst ‹_›
  split
  · exact h.imageSection.of_fst ‹_›
  have hs := h.imageSection.of_fst ‹_›
  split
  · exact hs.sections.of_fst ‹_›
  · exact hs.sections.of_fst ‹_›
  · have hm := hs.sections.of_fst ‹_›
    split
    · exact MemoryCanonical.modTile (MemoryCanonical.modJob (.of_wf (writeBytes_wf _ _ (writeEmem_wf (writeImem_wf hm)))))
    · exact .of_wf (writeBytes_wf _ _ hm)

/-! ### Records, queues and launches -/

protected theorem MemoryCanonical.readKernel {p u k : Nat} {kern : Option Kernel} (h : MemoryCanonical s) :
    MemoryCanonical (s.readKernel p u k kern) := by
  unfold State.readKernel
  dsimp only
  repeat' split
  exacts [h.peeked, h.peeked, h.peeked.peeked, h.peeked]

protected theorem MemoryCanonical.recordFault {p u : Nat} {dw : Dw8} {c : Cause} {eva : Nat} (h : MemoryCanonical s) :
    MemoryCanonical (s.recordFault p u dw c eva) := h.emptyFaultAt

protected theorem MemoryCanonical.backingFault {p u c : Nat} {dw : Dw8} {e : Cause} {eva : Word} (h : MemoryCanonical s) :
    MemoryCanonical (s.backingFault p u c dw e eva) := h.emptyFaultAt.modTen

protected theorem MemoryCanonical.modRecord {p u c : Nat} {r : QRec} {f : QRec → QRec} (h : MemoryCanonical s) :
    MemoryCanonical (s.modRecord p u c r f) := h.modTen

protected theorem MemoryCanonical.recall {p u c : Nat} {r : QRec} {onChip : Bool} (h : MemoryCanonical s) :
    MemoryCanonical (s.recall p u c r onChip) := by
  unfold State.recall
  repeat' split
  · exact h
  · exact (h.spanRead.of_fst ‹_›).modRecord
  · exact (h.spanRead.of_fst ‹_›).modRecord
  · exact (h.spanRead.of_fst ‹_›).backingFault
  · exact h.spanRead.of_fst ‹_›

protected theorem MemoryCanonical.stow {p u c : Nat} (h : MemoryCanonical s) : MemoryCanonical (s.stow p u c) := by
  unfold State.stow
  extract_lets q s1 a
  have h1 : MemoryCanonical s1 := by
    unfold s1
    split
    · exact h.recall
    · exact h
  split
  · exact h1
  split
  · exact (h1.spanWrite.of_fst ‹_›).modRecord
  · exact (h1.spanWrite.of_fst ‹_›).backingFault
  · exact h1.spanWrite.of_fst ‹_›

protected theorem MemoryCanonical.stowAll {p u : Nat} (h : MemoryCanonical s) : MemoryCanonical (s.stowAll p u) :=
  h.foldl fun h => h.stow.foldl fun h => h.recall

protected theorem MemoryCanonical.enqueue {p u : Nat} {r : QRec} (h : MemoryCanonical s) : MemoryCanonical (s.enqueue p u r) :=
  h.ite h.modTen.stow

protected theorem MemoryCanonical.enqueueSpawn {p u die : Nat} {dw : Dw8} (h : MemoryCanonical s) :
    MemoryCanonical (s.enqueueSpawn p u die dw) := h.ite h.enqueue

protected theorem MemoryCanonical.enqueueFirst {p u : Nat} {r : QRec} (h : MemoryCanonical s) :
    MemoryCanonical (s.enqueueFirst p u r) := h.ite h.modTen.stow

protected theorem MemoryCanonical.modLaunch {p u tag : Nat} {f : Launch → Launch} (h : MemoryCanonical s) :
    MemoryCanonical (s.modLaunch p u tag f) := h.modTen

protected theorem MemoryCanonical.settleDeps {p u : Nat} (h : MemoryCanonical s) : MemoryCanonical (s.settleDeps p u) :=
  h.modTen

protected theorem MemoryCanonical.releasePhases {p u : Nat} (h : MemoryCanonical s) : MemoryCanonical (s.releasePhases p u) :=
  h.modTen

protected theorem MemoryCanonical.sealPhases {p u : Nat} {f : PhaseInst → Bool} (h : MemoryCanonical s) :
    MemoryCanonical (s.sealPhases p u f) := h.modTen.releasePhases

protected theorem MemoryCanonical.sealInstance {p u tag phase : Nat} (h : MemoryCanonical s) :
    MemoryCanonical (s.sealInstance p u tag phase) := (h.modTen.ite h).sealPhases

protected theorem MemoryCanonical.putStatus {p u : Nat} {dw : Dw8} {st : LaunchStatus} (h : MemoryCanonical s) :
    SomeCanonical (s.putStatus p u dw st) := by
  unfold State.putStatus
  dsimp only
  repeat' split
  exacts [.some (h.spanWrite.of_fst ‹_›), .some ((h.spanWrite.of_fst ‹_›).emptyFaultAt), .none]

protected theorem MemoryCanonical.flushStatuses {p u : Nat} (h : MemoryCanonical s) : MemoryCanonical (s.flushStatuses p u) :=
  h.foldl fun h => by
    repeat' split
    exacts [h, (h.putStatus.of_some ‹_›).modTen, h]

protected theorem MemoryCanonical.writeStatus {p u : Nat} {dw : Dw8} {st : LaunchStatus} (h : MemoryCanonical s) :
    MemoryCanonical (s.writeStatus p u dw st) := h.modTen.flushStatuses

protected theorem MemoryCanonical.finishLaunch {p u : Nat} {l : Launch} (h : MemoryCanonical s) :
    MemoryCanonical (s.finishLaunch p u l) := by
  unfold State.finishLaunch
  dsimp only
  repeat' split
  exacts [h, h, h.writeStatus.modTen.sealPhases]

protected theorem MemoryCanonical.settleTenant {p u : Nat} (h : MemoryCanonical s) : MemoryCanonical (s.settleTenant p u) :=
  (h.flushStatuses.settleDeps.foldl fun h => h.finishLaunch).releasePhases

protected theorem MemoryCanonical.failLaunch {p u tag : Nat} {st : LaunchStatus} (h : MemoryCanonical s) :
    MemoryCanonical (s.failLaunch p u tag st) := h.modLaunch.modTen.settleTenant

protected theorem MemoryCanonical.submit {p u : Nat} {sup : Bool} (h : MemoryCanonical s) : MemoryCanonical (s.submit p u sup) :=
  h.modTen.ite (h.writeStatus.ite (h.modTen.ite h.modTen))

protected theorem MemoryCanonical.takeLaunch {p u : Nat} (h : MemoryCanonical s) : MemoryCanonical (s.takeLaunch p u) := by
  unfold State.takeLaunch
  dsimp only
  repeat' split
  · exact h
  · exact h
  · exact h.modTen.writeStatus
  · exact h
  · exact h.modTen.writeStatus
  · exact h
  · exact h.modTen.writeStatus
  · exact h.readKernel.modTen.writeStatus
  · exact h
  · exact h.readKernel.modTen.writeStatus
  · exact h.readKernel.peeked.modTen.writeStatus.modTen

protected theorem MemoryCanonical.endExpansion {p u tag : Nat} (h : MemoryCanonical s) : MemoryCanonical (s.endExpansion p u tag) :=
  h.modLaunch.sealInstance.settleTenant

protected theorem MemoryCanonical.expand {p u tag : Nat} (h : MemoryCanonical s) : MemoryCanonical (s.expand p u tag) := by
  unfold State.expand
  dsimp only
  repeat' split
  exacts [h, h, h.endExpansion, h, h, h.enqueue.modLaunch.endExpansion, h.enqueue.modLaunch]

protected theorem MemoryCanonical.spawnFault {p u : Nat} (h : MemoryCanonical s) : MemoryCanonical (s.spawnFault p u) := by
  unfold State.spawnFault
  dsimp only
  repeat' split
  exacts [h, h, h.modTen.enqueue]

protected theorem MemoryCanonical.writeFaultRecord {p u : Nat} (h : MemoryCanonical s) : MemoryCanonical (s.writeFaultRecord p u) := by
  unfold State.writeFaultRecord
  dsimp only
  repeat' split
  · exact h.spawnFault
  · exact h.spawnFault.modTen
  · exact h.spawnFault
  · exact (h.spawnFault.spanWrite.of_fst ‹_›).modTen
  · exact h.spawnFault.spanWrite.of_fst ‹_›
  · exact ((h.spawnFault.spanWrite.of_fst ‹_›).modTen.raiseVector.modTen).spawnFault
  · exact (h.spawnFault.spanWrite.of_fst ‹_›).modTen.modTen.spawnFault
  · exact (h.spawnFault.spanWrite.of_fst ‹_›).modTen.raiseVector
  · exact (h.spawnFault.spanWrite.of_fst ‹_›).modTen

/-! ### Starting and ending jobs -/

protected theorem MemoryCanonical.clearRings {k : Nat} (h : MemoryCanonical s) : MemoryCanonical (s.clearRings k) :=
  (h.foldl fun h => h.putRing).modTile

protected theorem MemoryCanonical.saveTile {p t : Nat} (h : MemoryCanonical s) : SomeCanonical (s.saveTile p t) := by
  unfold State.saveTile
  extract_lets k
  split
  · exact .some h
  extract_lets u a
  split
  · split
    · exact .none
    · exact .some (h.putArea.of_fst ‹_›).emptyFaultAt
    · exact .some (h.putArea.of_fst ‹_›).modTen
  · exact .some h

protected theorem MemoryCanonical.layTile {p t u : Nat} {sv : TileSave} {l : List (Nat × Byte)} (h : MemoryCanonical s) :
    MemoryCanonical (s.layTile p t u sv l) :=
  (((MemoryCanonical.of_wf (layAt_wf _ _ (layAt_wf _ _ h))).modTile).modTen).foldl fun h => h.leaveTile

protected theorem MemoryCanonical.clearTile {p t u : Nat} (h : MemoryCanonical s) : MemoryCanonical (s.clearTile p t u) :=
  (MemoryCanonical.of_wf (clearTileMem_wf (h.clearRings.of_mem rfl))).modTile

protected theorem MemoryCanonical.takeTenant {p t u : Nat} (h : MemoryCanonical s) : SomeCanonical (s.takeTenant p t u) := by
  unfold State.takeTenant
  extract_lets k
  split
  · exact .some h
  split
  · exact .none
  next s1 he =>
    have hs := h.saveTile.of_some he
    generalize (s1.tenAt p u).saveOf k = saved
    cases saved with
    | none => exact .some hs.clearTile
    | some sv =>
      have hg : MemoryCanonical (s1.getArea (agent p u) ((s1.tenAt p u).saveAt t) savePages).1 := hs.getArea
      generalize s1.getArea (agent p u) ((s1.tenAt p u).saveAt t) savePages = x at hg
      obtain ⟨s2, x⟩ := x
      cases x with
      | wait => exact .none
      | fault c e => exact .some (MemoryCanonical.clearTile hg).modTen.emptyFaultAt
      | ok l => exact .some (MemoryCanonical.clearTile hg).layTile

protected theorem MemoryCanonical.idleDeficits {p d : Nat} (h : MemoryCanonical s) : MemoryCanonical (s.idleDeficits p d) :=
  h.modPkg

protected theorem MemoryCanonical.startOn {p t : Nat} {c : Cand} (h : MemoryCanonical s) : MemoryCanonical (s.startOn p t c) := by
  unfold State.startOn
  dsimp only
  repeat' split
  · exact (((MemoryCanonical.of_wf (clearRange_wf (h.readKernel.modTen.stow.modTen.take.of_mem rfl) _ _)).modPkg).setJob).settleTenant
  · exact (((MemoryCanonical.of_wf (clearRange_wf (h.readKernel.peeked.modTen.stow.modTen.take.of_mem rfl) _ _)).modPkg).setJob).settleTenant

protected theorem MemoryCanonical.startJob {p t : Nat} {c : Cand} (h : MemoryCanonical s) : SomeCanonical (s.startJob p t c) :=
  h.takeTenant.map_state (fun h => h.startOn)

protected theorem MemoryCanonical.rejectRecord {p u : Nat} {r : QRec} (h : MemoryCanonical s) :
    MemoryCanonical (s.rejectRecord p u r) := h.failLaunch.ite h.modTen.recordFault.settleTenant

protected theorem MemoryCanonical.weedOut {p : Nat} (h : MemoryCanonical s) : MemoryCanonical (s.weedOut p) := by
  unfold State.weedOut
  dsimp only
  repeat' split
  exacts [h.rejectRecord.failLaunch, h.failLaunch, h.rejectRecord, h]

protected theorem MemoryCanonical.enqueueParent {p t : Nat} {j : Job} {img : Dw8} (h : MemoryCanonical s) :
    SomeCanonical (s.enqueueParent p t j img) := by
  unfold State.enqueueParent
  dsimp only
  repeat' split
  exacts [.some h.enqueueSpawn, .none]

protected theorem MemoryCanonical.joinDecrement {key : Nat} {j : Job} (h : MemoryCanonical s) : (s.joinDecrement key j).Canonical := by
  unfold State.joinDecrement
  dsimp only
  repeat' split
  · exact .done h
  · exact .done h.emptyFaultAt
  · exact .done ((h.place1.of_fst ‹_›).emptyFaultAt)
  · exact .wait
  · exact .done ((h.place1.of_fst ‹_›).emptyFaultAt)
  · exact .done (MemoryCanonical.of_wf (write64_wf (h.place1.of_fst ‹_›) _ _))
  · exact .done ((((MemoryCanonical.of_wf (write64_wf (h.place1.of_fst ‹_›) _ _)).spanRead).of_fst ‹_›).emptyFaultAt)
  · exact .wait
  · exact .done (((((MemoryCanonical.of_wf (write64_wf (h.place1.of_fst ‹_›) _ _)).spanRead).of_fst ‹_›).enqueueParent).of_some ‹_›)
  · exact .wait

protected theorem MemoryCanonical.freeUnits {k jid : Nat} (h : MemoryCanonical s) : MemoryCanonical (s.freeUnits k jid) :=
  h.modTile

protected theorem MemoryCanonical.removeJob {key : Nat} {j : Job} (h : MemoryCanonical s) : MemoryCanonical (s.removeJob key j) := by
  unfold State.removeJob
  exact MemoryCanonical.delJob (MemoryCanonical.freeUnits h.jobEndCircuits.endFlows.dropWaiters)

protected theorem MemoryCanonical.retireJob {key : Nat} (h : MemoryCanonical s) : MemoryCanonical (s.retireJob key) := by
  unfold State.retireJob
  repeat' split
  exacts [h, h, h.noticeDeferred, h, (h.joinDecrement.of_done ‹_›).leaveRings.removeJob.settleTenant]

protected theorem MemoryCanonical.finishKill {key : Nat} (h : MemoryCanonical s) : MemoryCanonical (s.finishKill key) := by
  unfold State.finishKill
  repeat' split
  · exact h
  · exact h.endWaits.ite h.endWaits.leaveRings.removeJob.enqueueFirst.settleTenant
  · exact h.endWaits.ite h.endWaits.leaveRings.removeJob.settleTenant
  · exact h

protected theorem MemoryCanonical.killJob {key : Nat} {again : Bool} (h : MemoryCanonical s) :
    MemoryCanonical (s.killJob key again) := by
  unfold State.killJob
  repeat' split
  exacts [h, h.finishKill, h.setJob.finishKill]

protected theorem MemoryCanonical.freeMatrix {key : Nat} (h : MemoryCanonical s) : MemoryCanonical (s.freeMatrix key) := by
  unfold State.freeMatrix
  repeat' split
  exacts [h, h, h.modTile]

end Sys2Proof.Machine
end

section
/-!
SUPPORT. The course of an engine word, and the words of the copy engine, keep the canonical form of memory.
-/

namespace Sys2Proof.Machine

variable {s : State} {r : Run}

/-! ### A word as it runs -/

protected theorem MemoryCanonical.engineFault {pos : Option WordPos} {c : Cause} {eva : Word} {point : Nat}
    (h : MemoryCanonical s) : MemoryCanonical (s.engineFault pos c eva point) := h.modEng.takeFault

protected theorem MemoryCanonical.finishStream (h : MemoryCanonical s) : MemoryCanonical s.finishStream := by
  unfold State.finishStream
  dsimp only
  repeat' split
  exacts [h.modEng.modTile, h.modEng]

protected theorem MemoryCanonical.afterPush (h : MemoryCanonical s) : MemoryCanonical s.afterPush := by
  unfold State.afterPush
  dsimp only
  repeat' split
  exacts [h, h.finishStream, h, h, h.modEng.finishStream.engineFault, h.modEng.engineFault]

protected theorem MemoryCanonical.settlePush (h : MemoryCanonical s) : MemoryCanonical s.settlePush := by
  unfold State.settlePush
  dsimp only
  repeat' split
  exacts [h, h.afterPush, h.take.engineFault, h.engineFault, h.modTq.modEng.afterPush]

protected theorem MemoryCanonical.completeWord {push : Option (BitVec 4)} {chain : Chain} {nxt : Option Nat}
    (h : MemoryCanonical s) : MemoryCanonical (s.completeWord push chain nxt) := h.modEng.settlePush

protected theorem Plan.Canonical.of {run : WordPos → State → WRes} (hrun : ∀ {x0 t}, MemoryCanonical t → (run x0 t).Canonical) :
    (Plan.of run).Canonical := fun _ _ h => hrun h

protected theorem MemoryCanonical.popToken {a : Option (BitVec 4)} (h : MemoryCanonical s) : MemoryCanonical (s.popToken a) := by
  unfold State.popToken
  repeat' split
  exacts [h, h.modTq]

protected theorem MemoryCanonical.goOn {push : Option (BitVec 4)} {chain : Chain} {d : BitVec 10} {w : WordPos} {p : Option Plan}
    (h : MemoryCanonical s) (hp : SomePlanCanonical p) : MemoryCanonical (s.goOn push chain d w p) := by
  unfold State.goOn
  dsimp only
  split
  · exact (h.settleAsked.of_fst ‹_›).modEng
  · exact (h.settleAsked.of_fst ‹_›).engineFault
  · have hs := h.settleAsked.of_fst ‹_›
    split
    · have hq := hp.of_some rfl
      split
      · exact hs.engineFault
      · split
        · exact ((hq _ _ hs).of_done ‹_›).completeWord
        · exact ((hq _ _ hs).of_fault ‹_›).engineFault
        · exact ((hq _ _ hs).of_wait ‹_›).modEng
    · exact hs.engineFault

protected theorem MemoryCanonical.beginWord {jid : Nat} {hold : Hold} {pop : Option (BitVec 4)} (h : MemoryCanonical s) :
    MemoryCanonical (s.beginWord jid hold pop) := h.popToken.modTile

protected theorem MemoryCanonical.startWord {j : Job} {hold : Hold} {pop push : Option (BitVec 4)} {chain : Chain} {d : BitVec 10}
    {plan : Job → State → Option Plan} (h : MemoryCanonical s)
    (hplan : ∀ {x0 t}, MemoryCanonical t → SomePlanCanonical (plan x0 t)) :
    MemoryCanonical (s.startWord j hold pop push chain d plan) :=
  h.ite (h.modEng.ite (h.beginWord.modEng.ite (h.beginWord.goOn (hplan h.beginWord))))

protected theorem MemoryCanonical.droopFault (h : MemoryCanonical s) : MemoryCanonical s.droopFault := h.modEng.take.engineFault

protected theorem MemoryCanonical.engineExec {own : Option Kind} {hold : Hold} {pop push : Option (BitVec 4)} {chain : Chain}
    {d : BitVec 10} {plan : Job → State → Option Plan} (h : MemoryCanonical s)
    (hplan : ∀ {x0 t}, MemoryCanonical t → SomePlanCanonical (plan x0 t)) :
    NextCanonical (engineExec own hold pop push chain d plan s) := by
  unfold engineExec
  repeat' split
  · exact .fault
  · exact .fault
  · exact .next h.engineFault
  · exact .next h
  · exact .next h.droopFault
  · exact .next h
  · exact .next (h.goOn (hplan h))
  · exact .next h.take.engineFault
  · exact .next h
  · exact .next (h.startWord hplan)

protected theorem Got.Canonical.bind {α β : Type} {x : Got α} {f : Run → α → Got β} (hx : x.Canonical)
    (hf : ∀ {r x1}, r.Canonical → (f r x1).Canonical) : (Got.bind x f).Canonical := by
  cases hx with
  | ok h => exact hf h
  | fault h => exact .fault h
  | wait h => exact .wait h
  | hold h => exact .hold h

protected theorem Run.Canonical.setSide {src : Bool} {t : Touch} (h : r.Canonical) : (r.setSide src t).Canonical := h

protected theorem Run.Canonical.heldAt {r x : Run} (h : r.Canonical) (_ : x.Canonical) : (r.heldAt x).Canonical :=
  (MemoryCanonical.engAsk h).modTile

protected theorem Run.Canonical.anew (h : r.Canonical) : r.anew.Canonical := h

protected theorem Run.Canonical.doneAhead {f : Nat → Run → Got Unit} {free : Nat → Nat → State → Bool} {k n n1 : Nat}
    (h : r.Canonical) (hf : ∀ {x0 r}, r.Canonical → (f x0 r).Canonical) : (doneAhead f free k n n1 r).Canonical := by
  induction n generalizing n1 r with
  | zero => exact h
  | succ n ih =>
    unfold doneAhead
    split
    · exact ih h
    split
    · exact h
    split
    next he =>
      have hx := (hf h.anew).of_ok he
      exact ih hx
    · exact h

protected theorem Run.Canonical.failed {f : Nat → Run → Got Unit} {free : Nat → Nat → State → Bool} {k left : Nat} {c : Cause}
    {eva : Word} (h : r.Canonical) (hf : ∀ {x0 r}, r.Canonical → (f x0 r).Canonical) : (r.failed f free k left c eva).Canonical := by
  unfold Run.failed
  split
  · exact Run.Canonical.anew (Run.Canonical.doneAhead (r := { r with s := r.s.take.2 }) (MemoryCanonical.take h) hf)
  · exact h.anew

protected theorem Run.Canonical.after {k : Nat} (h : r.Canonical) : (r.after k).Canonical := h

protected theorem Run.Canonical.elemsFrom {f : Nat → Run → Got Unit} {free : Nat → Nat → State → Bool} {rep n n1 : Nat} {b : Bool}
    (h : r.Canonical) (hf : ∀ {x0 r}, r.Canonical → (f x0 r).Canonical) : (elemsFrom f free rep n n1 b r).Canonical := by
  induction n generalizing n1 b r with
  | zero =>
    unfold elemsFrom
    split
    · exact .hold h
    · exact .ok h
  | succ n ih =>
    unfold elemsFrom
    extract_lets w r1
    have h1 : r1.Canonical := h
    split
    · exact ih h1.after
    split
    · exact .wait h
    split
    · exact ih ((hf h1).of_ok ‹_›).after
    · exact .fault (((hf h1).of_fault ‹_›).failed hf)
    · exact .wait ((hf h1).of_wait ‹_›)
    · exact .wait (h1.heldAt ((hf h1).of_hold ‹_›))

protected theorem Run.Canonical.atElem {k : Nat} (h : r.Canonical) : (r.atElem k).Canonical := by
  unfold Run.atElem
  repeat' split
  all_goals exact h

protected theorem Run.Canonical.repsFrom {f : Nat → Nat → Run → Got Unit} {free : Nat → Nat → Nat → State → Bool}
    {n n1 n2 n3 : Nat} (h : r.Canonical) (hf : ∀ {x0 x1 r}, r.Canonical → (f x0 x1 r).Canonical) :
    (repsFrom f free n n1 n2 n3 r).Canonical := by
  induction n1 generalizing n2 n3 r with
  | zero => exact .ok h
  | succ m ih => exact (h.atElem.elemsFrom hf).bind fun h => ih h

protected theorem MemoryCanonical.loopAhead {free : Nat → Nat → Nat → State → Bool} {reps n : Nat}
    {f : Nat → Nat → Run → Got Unit} {last : Run → Got Unit} {w : WordPos} (h : MemoryCanonical s)
    (hf : ∀ {x0 x1 r}, r.Canonical → (f x0 x1 r).Canonical) (hlast : ∀ {r}, r.Canonical → (last r).Canonical) :
    (loopAhead free reps n f last w s).Canonical := by
  have hb : ((repsFrom f free n (reps - w.rep) w.rep w.elem ⟨s, w⟩).bind (fun r _ => last r)).Canonical :=
    Got.Canonical.bind (Run.Canonical.repsFrom (r := ⟨s, w⟩) h hf) fun h => hlast h
  unfold loopAhead
  split
  · exact .done (hb.of_ok ‹_›)
  · exact .fault (hb.of_fault ‹_›)
  · exact .wait (hb.of_wait ‹_›)
  · exact .wait (hb.of_hold ‹_›)

protected theorem MemoryCanonical.loopWord {reps n : Nat} {f : Nat → Nat → Run → Got Unit} {last : Run → Got Unit} {w : WordPos}
    (h : MemoryCanonical s) (hf : ∀ {x0 x1 r}, r.Canonical → (f x0 x1 r).Canonical)
    (hlast : ∀ {r}, r.Canonical → (last r).Canonical) : (loopWord reps n f last w s).Canonical := h.loopAhead hf hlast

protected theorem Run.Canonical.noEnd (h : r.Canonical) : (noEnd r).Canonical := .ok h

protected theorem MemoryCanonical.sendPieces {q : Party} {hint : Hint} {a : Option Nat} {l : List (Nat × Nat)}
    (h : MemoryCanonical s) : MemoryCanonical (State.sendPieces q hint a l s) := by
  induction l generalizing a s with
  | nil => exact h
  | cons x l ih => exact ih (h.touchHome.ite h.request)

protected theorem Run.Canonical.travel {va : Word} {l : List (Nat × Nat)} {line : Option Nat} {write : Bool} (h : r.Canonical) :
    (r.travel va l line write).Canonical := by
  unfold Run.travel
  dsimp only
  repeat' split
  · exact .ok (MemoryCanonical.travel h)
  · exact .ok (MemoryCanonical.travel h)
  · exact .fault (MemoryCanonical.travel h)
  · exact .fault (MemoryCanonical.travel h)
  · exact .hold (MemoryCanonical.travel h)
  · exact .hold (MemoryCanonical.travel h)

protected theorem Run.Canonical.prefetch {src : Bool} {va : Nat} {need : Perm} {later : Nat → Nat → Option Nat} (h : r.Canonical) :
    (r.prefetch src va need later).Canonical := by
  unfold Run.prefetch
  dsimp only
  repeat' split
  exacts [h, h, MemoryCanonical.prefetch h.setSide, h.setSide, h.setSide]

protected theorem Run.Canonical.entered {src : Bool} {hint : Hint} {line : Option Nat} {fin : Nat} {l : List (Nat × Nat)}
    (h : r.Canonical) : (r.entered src hint line fin l).Canonical :=
  Run.Canonical.setSide ((MemoryCanonical.sendPieces h).ite ((MemoryCanonical.sendPieces h).carryPieces))

protected theorem Run.Canonical.globalSpan {src : Bool} {need : Perm} {hint : Hint} {red : Bool} {va : Word} {n nib fin : Nat}
    {later : Nat → Nat → Option Nat} (h : r.Canonical) : (globalSpan r src need hint red va n nib fin later).Canonical := by
  unfold globalSpan
  dsimp only
  repeat' split
  · exact .fault ((MemoryCanonical.pieces h).of_fst ‹_›)
  · exact .hold ((MemoryCanonical.pieces h).of_fst ‹_›)
  · exact .fault ((MemoryCanonical.pieces h).of_fst ‹_›)
  · exact (Run.Canonical.travel ((MemoryCanonical.pieces h).of_fst ‹_›)).bind fun h => .fault h
  · exact (Run.Canonical.travel ((MemoryCanonical.pieces h).of_fst ‹_›)).bind fun h => .ok h.prefetch.prefetch.entered
  · exact (Run.Canonical.travel ((MemoryCanonical.pieces h).of_fst ‹_›)).bind fun h => .fault h
  · exact (Run.Canonical.travel ((MemoryCanonical.pieces h).of_fst ‹_›)).bind fun h => .ok h.prefetch.prefetch.entered

protected theorem Run.Canonical.sound {ad : Word} {l : List (Nat × Nat)} (h : r.Canonical) : (r.sound ad l).Canonical := by
  unfold Run.sound
  repeat' split
  exacts [.fault h, .ok h]

protected theorem Run.Canonical.remoteSpan {p : Pat} {counted : Bool} {ad : Word} {n nib fin : Nat} (h : r.Canonical) :
    (remoteSpan r p counted ad n nib fin).Canonical := by
  unfold remoteSpan
  dsimp only
  repeat' split
  · exact .fault h
  · exact .fault h
  · exact .ok h
  · exact h.travel.bind fun h => by
      repeat' split
      exacts [.fault h, .ok h.entered]
  · exact h.travel.bind fun h => by
      repeat' split
      exacts [.fault h, .ok h.entered]

protected theorem Run.Canonical.patPlaceAt {p : Pat} {u : Use} {ad : Word} {high : Bool} {later : Nat → Nat → Option Nat}
    (h : r.Canonical) : (Pat.placeAt p u ad high later r).Canonical := by
  unfold Pat.placeAt
  dsimp only
  repeat' split
  · exact h.globalSpan
  · exact h.globalSpan
  · exact h.globalSpan
  · exact h.globalSpan
  · exact h.globalSpan
  · exact h.globalSpan
  · exact h.globalSpan
  · exact h.globalSpan
  · exact h.globalSpan
  · exact h.globalSpan
  · exact h.globalSpan
  · exact h.globalSpan
  · exact h.globalSpan
  · exact h.globalSpan
  · exact h.globalSpan
  · exact h.globalSpan
  · exact h.globalSpan
  · exact h.globalSpan
  · exact h.globalSpan
  · exact h.globalSpan
  · exact .fault h
  · exact .fault h
  · exact .ok h
  · exact .fault h
  · exact h.sound
  · exact h.remoteSpan
  · exact h.remoteSpan
  · exact h.remoteSpan
  · exact h.remoteSpan

protected theorem Run.Canonical.patPlace {p : Pat} {u : Use} {rep k : Nat} (h : r.Canonical) : (Pat.place p u rep k r).Canonical :=
  h.patPlaceAt

protected theorem Run.Canonical.patRead {p : Pat} {u : Use} {rep k : Nat} (h : r.Canonical) : (Pat.read p u rep k r).Canonical :=
  h.patPlace.bind fun h => .ok h

protected theorem Run.Canonical.patWrite {p : Pat} {u : Use} {f : Nat → Nat} {rep k : Nat} (h : r.Canonical) :
    (Pat.write p u f rep k r).Canonical :=
  h.patPlace.bind fun h => .ok ((MemoryCanonical.of_wf (putBytes_wf _ _ h)).carryPieces.ite (MemoryCanonical.of_wf (putBytes_wf _ _ h)))

protected theorem MemoryCanonical.modSw {c : Nat} {f : Channel → Channel} (h : MemoryCanonical s) : MemoryCanonical (s.modSw c f) :=
  h.modCur

protected theorem Run.Canonical.awaits {c : Nat} (h : r.Canonical) : (r.awaits c).Canonical := h

protected theorem Run.Canonical.takeBeat {c n : Nat} (h : r.Canonical) : (takeBeat c n r).Canonical := by
  unfold takeBeat
  repeat' split
  exacts [.ok h, .wait h.awaits, .ok (MemoryCanonical.modSw h), .ok (MemoryCanonical.modSw h)]

protected theorem Run.Canonical.use {n : Nat} (h : r.Canonical) : (r.use n).Canonical := h

protected theorem Run.Canonical.endRead {c : Nat} (h : r.Canonical) : (endRead c r).Canonical := by
  unfold endRead
  repeat' split
  exacts [.ok h, .wait h.awaits, .fault h, .ok (MemoryCanonical.modSw h)]

protected theorem Run.Canonical.putBeat {c : Nat} {b : Beat} (h : r.Canonical) : (putBeat c b r).Canonical := by
  unfold putBeat
  repeat' split
  exacts [.wait h, .ok (MemoryCanonical.modSw h)]

protected theorem Run.Canonical.flushBeats {c n : Nat} (h : r.Canonical) : (flushBeats c n r).Canonical := by
  induction n generalizing r with
  | zero => exact .ok h
  | succ n ih =>
    unfold flushBeats
    split
    · exact .ok h
    · exact h.putBeat.bind fun h => ih h

protected theorem Run.Canonical.flushFull {c : Nat} (h : r.Canonical) : (flushFull c r).Canonical := h.flushBeats

protected theorem Run.Canonical.pack {b : List Byte} (h : r.Canonical) : (r.pack b).Canonical := h

protected theorem Run.Canonical.endWrite {c : Nat} (h : r.Canonical) : (endWrite c r).Canonical :=
  h.flushFull.bind fun h => Got.Canonical.bind (by
    split
    · exact .ok h
    · exact h.putBeat.bind fun h => .ok h) fun h => h.putBeat

protected theorem Run.Canonical.patFetch {p : Pat} (h : r.Canonical) : (Pat.fetch p r).Canonical := by
  unfold Pat.fetch
  repeat' split
  exacts [h.takeBeat, .ok h]

protected theorem Run.Canonical.patRoom {p : Pat} {g : Nat} (h : r.Canonical) : (Pat.room p g r).Canonical := by
  unfold Pat.room
  repeat' split
  exacts [h.flushFull, .ok h]

protected theorem Run.Canonical.patGet {p : Pat} {u : Use} {wanted : Bool} {rep k g : Nat} (h : r.Canonical) :
    (Pat.get p u wanted rep k g r).Canonical := by
  unfold Pat.get
  repeat' split
  exacts [.ok h, .ok h, .ok h, .ok h, h.patRead, .ok h]

protected theorem Run.Canonical.patUsed {p : Pat} {g : Nat} (h : r.Canonical) : (Pat.used p g r).Canonical := by
  unfold Pat.used
  repeat' split
  exacts [h.use, h]

protected theorem Run.Canonical.tryFlush {c : Nat} (h : r.Canonical) : (tryFlush c r).Canonical := by
  have hf : (flushFull c r).Canonical := h.flushFull
  unfold tryFlush
  generalize flushFull c r = x at hf
  cases hf with
  | ok h => exact h
  | wait h => exact h
  | fault h => exact h
  | hold h => exact h

protected theorem Run.Canonical.patPut {p : Pat} {u : Use} {wanted : Bool} {f : Nat → Nat} {rep k g : Nat} (h : r.Canonical) :
    (Pat.put p u wanted f rep k g r).Canonical := by
  unfold Pat.put
  split
  · extract_lets v w r1
    have h1 : r1.Canonical := by
      unfold r1
      split
      · exact h
      · exact h.pack
    refine .ok ?_
    split
    · exact h1
    · exact h1.tryFlush
  split
  · exact h.patWrite
  · exact .ok h

protected theorem Run.Canonical.moveElem {ps pd : Pat} {us ud : Use} {f : Nat → Nat → Nat} {wanted : Bool} {rep ks kd g : Nat}
    (h : r.Canonical) : (moveElem ps pd us ud f wanted rep ks kd g r).Canonical :=
  h.patFetch.bind fun h => h.patRoom.bind fun h => h.patGet.bind fun h => h.patPut.bind fun h => .ok h.patUsed

protected theorem Run.Canonical.endPair {ps pd : Pat} (h : r.Canonical) : (endPair ps pd r).Canonical := by
  unfold endPair
  repeat' split
  · exact h.endRead.bind fun h => h.endWrite
  · exact h.endRead.bind fun h => .ok h
  · exact Got.Canonical.bind (.ok h) fun h => h.endWrite
  · exact Got.Canonical.bind (.ok h) fun h => .ok h

/-! ### Instructions of circuits and collectives -/

protected theorem MemoryCanonical.openCircuit {j : Job} {i p t la key jid r : Nat} {links : List Link} (h : MemoryCanonical s) :
    MemoryCanonical (openCircuit s j i p t la key jid r links) := by
  unfold openCircuit
  exact MemoryCanonical.modCur (MemoryCanonical.modJob h.take)

protected theorem MemoryCanonical.copenAct {data : List Byte} (h : MemoryCanonical s) : (copenAct data s).Canonical := by
  unfold copenAct
  dsimp only
  repeat' split
  exacts [.ok h, .ok h, .ok h, .ok (h.probe.of_fst ‹_›), .ok ((h.probe.of_fst ‹_›).openCircuit)]

protected theorem MemoryCanonical.startLease {v : Word} {lease : Nat} (h : MemoryCanonical s) :
    MemoryCanonical (s.startLease v lease) := h.ite h

protected theorem MemoryCanonical.copenSend {d : Reg} {a : Word} {lease : Nat} {data : List Byte} {pl : Place}
    (h : MemoryCanonical s) : (copenSend d a lease data pl s).Canonical :=
  h.exchange (fun h => .raise h) (fun h => h.copenAct) fun h => .next h.startLease.setReg

protected theorem MemoryCanonical.copenBody {d : Reg} {a lease : Word} {j : Job} (h : MemoryCanonical s) :
    (copenBody d a lease s j).Canonical := by
  unfold copenBody
  dsimp only
  repeat' split
  exacts [h.raiseFree, .raise h, .next h.setReg, .next h.setReg, h.copenSend]

protected theorem MemoryCanonical.execCopen {d a : Reg} {b : Opd} (h : MemoryCanonical s) : NextCanonical (execCopen d a b s) :=
  h.coreExec fun h => by
    dsimp only
    repeat' split
    exacts [h.copenSend, h.raiseFree, h.withLocal fun h => h.inLocalQueue fun h => h.soundPad fun h => h.copenBody]

protected theorem MemoryCanonical.execCland {d a : Reg} {b : Opd} (h : MemoryCanonical s) : NextCanonical (execCland d a b s) :=
  h.coreExec fun h => by
    dsimp only
    repeat' split
    exacts [h.raiseFree, h.withLocal fun h => .next h.setReg, h.withLocal fun h => .next h.modCur.setReg]

protected theorem MemoryCanonical.execChold {a : Reg} {b : Opd} (h : MemoryCanonical s) : NextCanonical (execChold a b s) :=
  h.coreExec fun h => by
    dsimp only
    repeat' split
    exacts [h.raiseFree, .next h, .next h, .next h.setCirc]

protected theorem MemoryCanonical.closeSend {j : Job} {i : Nat} (h : MemoryCanonical s) : MemoryCanonical (s.closeSend j i) :=
  (h.ite h.breakCircuit).modCur

protected theorem MemoryCanonical.closeLand {j : Job} {i : Nat} (h : MemoryCanonical s) : MemoryCanonical (s.closeLand j i) := by
  unfold State.closeLand
  repeat' split
  exacts [h.breakCircuit.modCur, h.modCur]

protected theorem MemoryCanonical.execCclose {a : Reg} (h : MemoryCanonical s) : NextCanonical (execCclose a s) :=
  h.coreExec fun h => by
    dsimp only
    repeat' split
    exacts [.next h.closeLand, .next h, .next h.closeSend, .next h]

protected theorem MemoryCanonical.dmsetBody {v : Word} {i : Nat} {j : Job} (h : MemoryCanonical s) : (dmsetBody v i j s).Canonical := by
  unfold dmsetBody
  dsimp only
  repeat' split
  exacts [.raise h, .wait h, .next h.setDom]

protected theorem MemoryCanonical.execDmset {a : Reg} {b : Opd} (h : MemoryCanonical s) : NextCanonical (execDmset a b s) :=
  h.coreExec fun h => by
    repeat' split
    exacts [h.raiseFree, h.withLocal fun h => h.inLocalQueue fun h => h.soundPad fun h => h.dmsetBody]

protected theorem MemoryCanonical.ready {u i root p t : Nat} (h : MemoryCanonical s) : MemoryCanonical (s.ready u i root p t) :=
  h.setDom.ite h.emptyFault

protected theorem MemoryCanonical.readyAct {u i root : Nat} {l : List Byte} (h : MemoryCanonical s) :
    (readyAct u i root l s).Canonical := by
  unfold readyAct
  repeat' split
  exacts [.hold h, .ok h.ready]

protected theorem MemoryCanonical.readySend {v : Word} {u i root : Nat} (h : MemoryCanonical s) : (readySend v u i root s).Canonical :=
  h.exchange (fun h => .raise h) (fun h => h.readyAct) fun h => .next h

protected theorem MemoryCanonical.execDmready {a : Reg} (h : MemoryCanonical s) : NextCanonical (execDmready a s) :=
  h.coreExec fun h => by
    dsimp only
    repeat' split
    exacts [h.readySend, h.raiseFree, .raise h, h.afterRelease fun h => h.readySend]

protected theorem MemoryCanonical.execDmwait {d a : Reg} (h : MemoryCanonical s) : NextCanonical (execDmwait d a s) :=
  h.coreExec fun h => by
    dsimp only
    repeat' split
    exacts [h.raiseFree, .next h.setReg, .wait h]

protected theorem MemoryCanonical.execDmstat {d a : Reg} (h : MemoryCanonical s) : NextCanonical (execDmstat d a s) :=
  h.coreExec fun h => by
    dsimp only
    repeat' split
    exacts [h.raiseFree, .next h.setReg]

/-! ### Copies -/

protected theorem MemoryCanonical.copyRun {w : EW} {ps pd : Pat} {ud : Use} {f : Nat → Nat → Nat} {a : WordPos}
    (h : MemoryCanonical s) : (copyRun w ps pd ud f a s).Canonical := h.loopAhead (fun h => h.moveElem) fun h => h.endPair

protected theorem MemoryCanonical.execCpy {w : EW} (h : MemoryCanonical s) : NextCanonical (execCpy w s) :=
  h.engineExec fun h => by
    repeat' split
    exacts [.none, .some (fun _ _ h => h.copyRun), .none]

protected theorem MemoryCanonical.execCpyred {w : EW} (h : MemoryCanonical s) : NextCanonical (execCpyred w s) :=
  h.engineExec fun h => by
    dsimp only
    repeat' split
    exacts [.none, .some (fun _ _ h => h.copyRun), .none]

protected theorem Run.Canonical.packetElem {w : EW} {ps pd : Pat} {g : Nat} (h : r.Canonical) : (packetElem w ps pd g r).Canonical :=
  h.patGet.bind fun h => h.patWrite

protected theorem Run.Canonical.packetElems {w : EW} {ps pd : Pat} {l : List Nat} (h : r.Canonical) :
    (packetElems w ps pd l r).Canonical := by
  induction l generalizing r with
  | nil => exact .ok h
  | cons g l ih => exact h.packetElem.bind fun h => ih h

protected theorem Run.Canonical.cpypkResend {w : EW} {ps pd : Pat} {g : Nat} (h : r.Canonical) :
    (cpypkResend w ps pd g r).Canonical := by
  unfold cpypkResend
  dsimp only
  repeat' split
  exacts [.ok h, .hold h, h.packetElems.bind fun h => .ok (MemoryCanonical.clearFlow h), .ok h]

protected theorem Run.Canonical.cpypkElem {w : EW} {ps pd : Pat} {cls rep k : Nat} (h : r.Canonical) :
    (cpypkElem w ps pd cls rep k r).Canonical :=
  h.cpypkResend.bind fun {r _} h => by
    split
    · exact .ok h
    extract_lets flow r1 meter
    have h1 : r1.Canonical := by
      unfold r1
      cases flow with
      | none => exact h
      | some f =>
        dsimp only
        split
        · exact MemoryCanonical.closeFlow h
        · exact h
    have hm {r : Run} (h : r.Canonical) : (meter r).Canonical := .ok (MemoryCanonical.meterFlow h)
    split
    · exact h1.patGet.bind fun h => h.patPlace.bind fun h => hm (MemoryCanonical.setCirc h)
    · exact h1.packetElem.bind fun h => hm h

protected theorem Run.Canonical.cpypkEnd {w : EW} {ps pd : Pat} (h : r.Canonical) : (cpypkEnd w ps pd r).Canonical :=
  h.cpypkResend.bind fun h => by
    repeat' split
    exacts [.ok (MemoryCanonical.setCirc h), .hold h, .ok h]

protected theorem MemoryCanonical.execCpypk {w : EW} (h : MemoryCanonical s) : NextCanonical (execCpypk w s) :=
  h.engineExec fun h => by
    repeat' split
    exacts [.none, .some (Plan.Canonical.of fun h => h.loopWord (fun h => h.cpypkElem) fun h => h.cpypkEnd), .none]

protected theorem MemoryCanonical.sendWord {id : Nat} {first : Bool} {v : W32} (h : MemoryCanonical s) :
    MemoryCanonical (s.sendWord id first v) := by
  unfold State.sendWord
  repeat' split
  exacts [h.setCirc, h.setCirc, h.setCirc, h.setCirc, h]

protected theorem Run.Canonical.cpyckEnd {pd : Pat} {broken : Bool} {g : Nat} (h : r.Canonical) :
    (cpyckEnd pd broken g r).Canonical := by
  unfold cpyckEnd
  dsimp only
  repeat' split
  exacts [.fault h, .fault h, .done (MemoryCanonical.writeL h), .done (MemoryCanonical.writeL h)]

protected theorem Run.Canonical.cpyckLoop {ps pd : Pat} {us : Use} {rec : Option Nat} {n n1 n2 : Nat} (h : r.Canonical) :
    (cpyckLoop ps pd us rec n n1 n2 r).Canonical := by
  induction n generalizing n1 n2 r with
  | zero => exact Run.Canonical.cpyckEnd h
  | succ n ih =>
    unfold cpyckLoop
    extract_lets rep k w r1
    have h1 : r1.Canonical := h
    split
    · exact Run.Canonical.cpyckEnd h
    split
    · exact ih h
    split
    · exact .wait h
    split
    next he =>
      have hx := h1.patGet.of_ok he
      exact ih (MemoryCanonical.sendWord hx)
    next he => exact .fault (h1.patGet.of_fault he)
    next he => exact .wait (h1.patGet.of_wait he)
    next he => exact .wait (h1.heldAt (h1.patGet.of_hold he))

protected theorem MemoryCanonical.checkLease {rec : Option Nat} (h : MemoryCanonical s) : MemoryCanonical (s.checkLease rec) := by
  unfold State.checkLease
  repeat' split
  exacts [h.breakCircuit, h, h]

protected theorem MemoryCanonical.execCpyck {w : EW} (h : MemoryCanonical s) : NextCanonical (execCpyck w s) :=
  h.engineExec fun h => by
    dsimp only
    repeat' split
    exacts [.none, .some (Plan.Canonical.of fun h => Run.Canonical.cpyckLoop h.checkLease), .none]

protected theorem MemoryCanonical.execCpycode {w : EW} (h : MemoryCanonical s) : NextCanonical (execCpycode w s) :=
  h.engineExec fun h => by
    dsimp only
    repeat' split
    · exact .none
    · exact .some (Plan.Canonical.of fun h => by
        repeat' split
        · exact .done (h.loadImage.of_fst ‹_›)
        · exact .fault (h.loadImage.of_fst ‹_›)
        · exact .fault (h.loadImage.of_fst ‹_›)
        · exact .wait (h.heldBack (h.loadImage.of_fst ‹_›)))

protected theorem Run.Canonical.caTravel {pp : Nat} {n : BitVec 128} {eva : Word} {leaf : Bool} (h : r.Canonical) :
    (r.caTravel pp n eva leaf).Canonical := by
  unfold Run.caTravel
  dsimp only
  repeat' split
  · exact .ok ((MemoryCanonical.travelTo h).takeSeq)
  · exact .ok ((MemoryCanonical.travelTo h).takeSeq)
  · exact .ok ((MemoryCanonical.travelTo h).takeSeq)
  · exact .ok ((MemoryCanonical.travelTo h).takeSeq)
  · exact .fault (MemoryCanonical.travelTo h)
  · exact .fault (MemoryCanonical.travelTo h)
  · exact .fault (MemoryCanonical.travelTo h)
  · exact .fault (MemoryCanonical.travelTo h)
  · exact .hold (MemoryCanonical.travelTo h)
  · exact .hold (MemoryCanonical.travelTo h)
  · exact .hold (MemoryCanonical.travelTo h)
  · exact .hold (MemoryCanonical.travelTo h)

protected theorem MemoryCanonical.caBrings {pl : Place} {l : CaLine} (h : MemoryCanonical s) : MemoryCanonical (s.caBrings pl l) :=
  h.carry

protected theorem Run.Canonical.caLine {pp dom : Nat} {n : BitVec 128} {node : Bool} {eva : Word} (h : r.Canonical) :
    (r.caLine pp dom n node eva).Canonical :=
  h.caTravel.bind fun h => by
    dsimp only
    repeat' split
    exacts [.fault h, .fault h, .fault h, .ok (MemoryCanonical.caBrings h)]

protected theorem Run.Canonical.treeWalk {pp dom : Nat} {dest : Nat → Word} {j n : Nat} {a : BitVec 128} (h : r.Canonical) :
    (treeWalk pp dom dest j n a r).Canonical := by
  induction n generalizing a r with
  | zero =>
    unfold treeWalk
    split
    · exact .ok h
    · exact h.caLine
  | succ k ih =>
    unfold treeWalk
    split
    · exact .ok h
    dsimp only
    split
    · exact ih h
    · exact h.caLine.bind fun h => ih h.setSide

protected theorem Run.Canonical.cpyoutLeaf {w : EW} {t : Tree} {tenant rep j : Nat} (h : r.Canonical) :
    (cpyoutLeaf w t tenant rep j r).Canonical := by
  unfold cpyoutLeaf
  repeat' split
  · exact .fault h
  · exact .fault h
  · exact .fault h
  · exact h.treeWalk.bind fun h => h.globalSpan.bind fun h => .ok ((MemoryCanonical.of_wf (putBytes_wf _ _ h)).carryPieces)
  · exact h.treeWalk.bind fun h => h.globalSpan.bind fun h => .ok ((MemoryCanonical.of_wf (putBytes_wf _ _ h)).carryPieces)

protected theorem MemoryCanonical.execCpyout {w : EW} (h : MemoryCanonical s) : NextCanonical (execCpyout w s) :=
  h.engineExec fun _ => SomePlanCanonical.map (Plan.Canonical.of fun h => h.loopWord (fun h => h.cpyoutLeaf) fun h => h.noEnd)

end Sys2Proof.Machine
end

section
/-!
SUPPORT. The platform, the MMIO registers and the instructions that reach memory keep its canonical form.
-/

namespace Sys2Proof.Machine

variable {s : State} {r : Run}

/-! ### Migration -/

protected theorem MemoryCanonical.migWalk {p u va : Nat} (h : MemoryCanonical s) : MemoryCanonical (s.migWalk p u va) :=
  h.ite (h.foldl fun h => h.touchHome)

protected theorem MemoryCanonical.migWrite {p u done st old : Nat} (h : MemoryCanonical s) :
    SomeCanonical (s.migWrite p u done st old) := by
  unfold State.migWrite
  dsimp only
  repeat' split
  exacts [.some h.emptyFault, .some (h.spanWrite.of_fst ‹_›), .some ((h.spanWrite.of_fst ‹_›).emptyFault), .none]

protected theorem MemoryCanonical.migEnd {p : Nat} {m : Migration} {st : MigStatus} {old : Nat} (h : MemoryCanonical s) :
    MemoryCanonical (s.migEnd p m st old) := by
  unfold State.migEnd
  repeat' split
  exacts [h.migWrite.of_some ‹_›, h.modPkg]

protected theorem MemoryCanonical.submitMigration {p u : Nat} {host : Bool} (h : MemoryCanonical s) :
    MemoryCanonical (s.submitMigration p u host) := by
  unfold State.submitMigration
  dsimp only
  repeat' split
  · exact h.migEnd
  · exact h.migEnd
  · exact h.migEnd
  · exact h.migEnd
  · exact h.migEnd
  · exact h.migEnd
  · exact h.modPkg
  · exact h.migEnd
  · exact h.migEnd
  · exact h.modPkg.migEnd
  · exact h.migEnd
  · exact h.migEnd
  · exact h.migEnd
  · exact h.migEnd
  · exact h.modPkg

protected theorem MemoryCanonical.copyTouches {src dst n : Nat} (h : MemoryCanonical s) : MemoryCanonical (s.copyTouches src dst n) :=
  h.touchSpan.touchSpan

protected theorem MemoryCanonical.dropMig {p : Nat} {m : Migration} (h : MemoryCanonical s) : MemoryCanonical (s.dropMig p m) :=
  h.modPkg

protected theorem MemoryCanonical.runMigration {p : Nat} (h : MemoryCanonical s) : MemoryCanonical (s.runMigration p) := by
  unfold State.runMigration
  dsimp only
  repeat' split
  exacts [h, h, h.migWalk.dropMig.migEnd, h.migWalk.dropMig.migEnd, h.migWalk.dropMig.migEnd, h.migWalk.invalidateNow.modPkg]

protected theorem MemoryCanonical.copyPage {m : Migration} {v : Word} (h : MemoryCanonical s) : MemoryCanonical (s.copyPage m v) :=
  h.ite (MemoryCanonical.of_wf (copyBytes_wf h))

protected theorem MemoryCanonical.completeMigration {p i : Nat} (h : MemoryCanonical s) :
    MemoryCanonical (s.completeMigration p i) := by
  unfold State.completeMigration
  split
  · exact h
  extract_lets u
  split
  · split
    · exact (h.migWrite.of_some ‹_›).dropMig
    · exact h
  · exact h
  split
  · exact h
  extract_lets s1 ok s2 base s3
  have h1 : MemoryCanonical s1 := h.copyPage
  have h2 : MemoryCanonical s2 := by
    unfold s2
    split
    · refine MemoryCanonical.of_wf (foldl_wf h1 fun h => ?_)
      split
      · exact write64_wf h _ _
      · exact h
    · exact h1
  exact MemoryCanonical.migEnd (MemoryCanonical.modPkg (MemoryCanonical.dropMig h2.touchHome))

protected theorem MemoryCanonical.hostFault {p u w va : Nat} {write : Bool} (h : MemoryCanonical s) :
    MemoryCanonical (s.hostFault p u w va write) := (h.modTen.ite h.modTen).raiseVector

protected theorem MemoryCanonical.hostPerform {p u : Nat} {write : Bool} {va n : Nat} {data : List Byte} (h : MemoryCanonical s) :
    (s.hostPerform p u write va n data).Canonical := by
  unfold State.hostPerform
  repeat' split
  · exact .done (h.spanWrite.of_fst ‹_›)
  · exact .absent (h.spanWrite.of_fst ‹_›)
  · exact .done (h.spanWrite.of_fst ‹_›)
  · exact .wait (h.spanWrite.of_fst ‹_›)
  · exact .done (h.spanRead.of_fst ‹_›)
  · exact .absent (h.spanRead.of_fst ‹_›)
  · exact .done (h.spanRead.of_fst ‹_›)
  · exact .wait (h.spanRead.of_fst ‹_›)

protected theorem MemoryCanonical.hold {p u : Nat} {write absent : Bool} {o va n : Nat} {data : List Byte} (h : MemoryCanonical s) :
    MemoryCanonical (s.hold p u write absent o va n data) := h

protected theorem MemoryCanonical.hostAccess {p u : Nat} {write : Bool} {o n : Nat} {data : List Byte} (h : MemoryCanonical s) :
    MemoryCanonical (s.hostAccess p u write o n data) := by
  unfold State.hostAccess
  extract_lets a
  split
  · exact h
  split
  · exact h
  split
  · exact h
  refine MemoryCanonical.ite h ?_
  extract_lets va
  split
  · exact h.hold
  split
  next he =>
    have hd := h.hostPerform.of_done he
    exact hd
  · exact (h.hostPerform.of_absent ‹_›).hostFault.hold
  · exact (h.hostPerform.of_wait ‹_›).hold

protected theorem MemoryCanonical.retryAccess {p i : Nat} {hint : HeldAccess} (h : MemoryCanonical s) :
    MemoryCanonical (s.retryAccess p i hint) := by
  unfold State.retryAccess
  extract_lets u
  split
  next he =>
    have hd := h.hostPerform.of_done he
    exact hd
  · split
    · exact h.hostPerform.of_absent ‹_›
    · exact (h.hostPerform.of_absent ‹_›).hostFault.modPkg
  · exact h.hostPerform.of_wait ‹_›

protected theorem MemoryCanonical.expireHeld {p i : Nat} (h : MemoryCanonical s) : MemoryCanonical (s.expireHeld p i) := by
  unfold State.expireHeld
  split
  · exact h
  split
  · exact h
  split
  next he =>
    have ha := h.hostPerform.of_absent he
    exact ha
  · exact h

protected theorem MemoryCanonical.popHostFault {p u : Nat} (h : MemoryCanonical s) : MemoryCanonical (s.popHostFault p u).2 := by
  unfold State.popHostFault
  repeat' split
  exacts [h, h.modTen]

/-! ### The host link, power and bring-up -/

protected theorem MemoryCanonical.grant {p g : Nat} (h : MemoryCanonical s) : MemoryCanonical (s.grant p g) := h.modPkg

protected theorem MemoryCanonical.ceilingFall {p : Nat} (h : MemoryCanonical s) : MemoryCanonical (s.ceilingFall p) :=
  h.modPkg.grant.ite h

protected theorem MemoryCanonical.capEvaluate {p avg : Nat} (h : MemoryCanonical s) : MemoryCanonical (s.capEvaluate p avg) :=
  h.modPkg.grant

protected theorem MemoryCanonical.sample {p i : Nat} {t : ℤ × ℤ × ℤ} (h : MemoryCanonical s) : MemoryCanonical (s.sample p i t) :=
  h.modPkg.ceilingFall

protected theorem MemoryCanonical.clearSensor {p i : Nat} {v : Word} (h : MemoryCanonical s) : MemoryCanonical (s.clearSensor p i v) :=
  h.modPkg

protected theorem MemoryCanonical.failTile {p t : Nat} (h : MemoryCanonical s) : MemoryCanonical (s.failTile p t) :=
  h.modTile.modPkg.ite h.modPkg

protected theorem MemoryCanonical.fieldTest {p t : Nat} {pass : Bool} (h : MemoryCanonical s) :
    MemoryCanonical (s.fieldTest p t pass) := (h.modTile.ite h).ite (h.modTile.ite h.modTile.failTile)

protected theorem MemoryCanonical.columnFails {p t m : Nat} (h : MemoryCanonical s) : MemoryCanonical (s.columnFails p t m) :=
  h.ite (h.modPkg.ite h.fieldTest)

protected theorem MemoryCanonical.dieLaneFails {p l : Nat} (h : MemoryCanonical s) : MemoryCanonical (s.dieLaneFails p l) :=
  h.modPkg

protected theorem MemoryCanonical.extend {p m : Nat} {hint : BitVec 256} (h : MemoryCanonical s) :
    MemoryCanonical (s.extend p m hint) := h.modPkg

protected theorem MemoryCanonical.clearPackage {p : Nat} (h : MemoryCanonical s) : MemoryCanonical (s.clearPackage p) := by
  have hb {d c e b} : MemoryCanonical ((s.breakAll d c e).setPkg p b) := h.breakAll.setPkg
  unfold State.clearPackage
  exact clearTiles_wf (hb (b := _))

protected theorem MemoryCanonical.repairLanes {p : Nat} {g : ServiceGrant} (h : MemoryCanonical s) :
    MemoryCanonical (s.repairLanes p g) := h.foldl fun h => h.dieLaneFails

protected theorem MemoryCanonical.bringUp {p : Nat} {img : Image} {a : Args} (h : MemoryCanonical s) :
    MemoryCanonical (s.bringUp p img a) := (h.extend.foldl fun h => h.extend).extend.repairLanes.modPkg

protected theorem MemoryCanonical.resetPackage {p : Nat} {a : Args} (h : MemoryCanonical s) : MemoryCanonical (s.resetPackage p a) := by
  unfold State.resetPackage
  dsimp only
  repeat' split
  exacts [h.clearPackage.setPkg.bringUp, h.clearPackage.setPkg.modPkg]

protected theorem MemoryCanonical.fullService {p : Nat} {g : ServiceGrant} (h : MemoryCanonical s) :
    MemoryCanonical (s.fullService p g) := h.ite (h.repairLanes.modPkg.foldl fun h => h.caInit)

protected theorem MemoryCanonical.updateFirmware {p : Nat} {a : Args} (h : MemoryCanonical s) :
    MemoryCanonical (s.updateFirmware p a) := by
  unfold State.updateFirmware
  dsimp only
  repeat' split
  exacts [h.modPkg.bringUp, h.modPkg, h, h.modPkg, h, h.modPkg, h]

protected theorem MemoryCanonical.signalRecord {p u : Nat} (h : MemoryCanonical s) : MemoryCanonical (s.signalRecord p u) := by
  unfold State.signalRecord
  dsimp only
  repeat' split
  exacts [h, h, h.modTen.modTen.raiseVector, h.modTen.modTen.raiseVector, h.modTen.modTen, h.modTen.modTen]

protected theorem MemoryCanonical.dropUndelivered {p : Nat} (h : MemoryCanonical s) : MemoryCanonical (s.dropUndelivered p) :=
  h.ite (h.foldl fun h => h.modTen)

protected theorem MemoryCanonical.linkDown {p : Nat} (h : MemoryCanonical s) : MemoryCanonical (s.linkDown p) := h.modPkg

protected theorem MemoryCanonical.linkComesUp {p : Nat} (h : MemoryCanonical s) : MemoryCanonical (s.linkComesUp p) :=
  h.dropUndelivered.modPkg.foldl fun h => h.modTen

protected theorem MemoryCanonical.unmask {p u v : Nat} (h : MemoryCanonical s) : MemoryCanonical (s.unmask p u v) := h.modTen

protected theorem MemoryCanonical.maskFunction {p u : Nat} {masked : Bool} (h : MemoryCanonical s) :
    MemoryCanonical (s.maskFunction p u masked) := h.modTen

protected theorem MemoryCanonical.readSqctl {p u : Nat} (h : MemoryCanonical s) : MemoryCanonical (s.readSqctl p u).2 :=
  h.modTen

protected theorem MemoryCanonical.readLqstat {p u : Nat} (h : MemoryCanonical s) : MemoryCanonical (s.readLqstat p u).2 :=
  h.modTen

protected theorem MemoryCanonical.readFqlost {p u : Nat} (h : MemoryCanonical s) : MemoryCanonical (s.readFqlost p u).2 :=
  h.modTen

protected theorem MemoryCanonical.endLaunches {p u : Nat} (h : MemoryCanonical s) : MemoryCanonical (s.endLaunches p u) :=
  h.modTen

protected theorem MemoryCanonical.dropFrames {p u : Nat} (h : MemoryCanonical s) : MemoryCanonical (s.dropFrames p u) := by
  have hl : MemoryCanonical ((s.tenAt p u).frames.foldl (fun s f => s.leaveRings f.job.jid) s) := h.foldl fun h => h.leaveRings
  unfold State.dropFrames
  exact MemoryCanonical.modTen hl

protected theorem MemoryCanonical.offIfDone {p u : Nat} (h : MemoryCanonical s) : MemoryCanonical (s.offIfDone p u) :=
  h.modTen.ite h

protected theorem MemoryCanonical.teardown {p u : Nat} (h : MemoryCanonical s) : MemoryCanonical (s.teardown p u) :=
  h.ite (((h.modTen.foldl fun h => h.writeStatus).endLaunches.foldl fun h => h.killJob).dropFrames.settleTenant)

protected theorem MemoryCanonical.enableTenant {p u : Nat} (h : MemoryCanonical s) : MemoryCanonical (s.enableTenant p u) :=
  h.modTen.ite h

protected theorem MemoryCanonical.quiesceStop {p : Nat} (h : MemoryCanonical s) : MemoryCanonical (s.quiesceStop p) :=
  h.ite (h.modPkg.foldl fun h => h.modTen.endLaunches.settleTenant)

protected theorem MemoryCanonical.quiesceDeadline {p : Nat} (h : MemoryCanonical s) : MemoryCanonical (s.quiesceDeadline p) := by
  have hk {l : List (Nat × Job)} : MemoryCanonical (l.foldl (fun s e => s.killJob e.1 false) s) := h.foldl fun h => h.killJob
  unfold State.quiesceDeadline
  extract_lets k s1 s2
  split
  · exact h
  have h2 : MemoryCanonical s2 := hk.foldl fun h => h.dropFrames.settleTenant
  split
  · exact h2
  · exact h2.modPkg

protected theorem MemoryCanonical.isolatePort {p q : Nat} (h : MemoryCanonical s) : MemoryCanonical (s.isolatePort p q) :=
  h.breakPort.modPkg

protected theorem MemoryCanonical.retrainPort {p q : Nat} (h : MemoryCanonical s) : MemoryCanonical (s.retrainPort p q) :=
  h.modPkg

protected theorem MemoryCanonical.quiesceIsolate {p : Nat} (h : MemoryCanonical s) : MemoryCanonical (s.quiesceIsolate p) :=
  h.ite ((h.breakAll.foldl fun h => h.isolatePort).modPkg)

protected theorem MemoryCanonical.quiesceResume {p : Nat} (h : MemoryCanonical s) : MemoryCanonical (s.quiesceResume p) :=
  h.ite (((h.foldl fun h => h.retrainPort).ite h).modPkg.ceilingFall)

protected theorem MemoryCanonical.writeQuiesce {p : Nat} {v : Word} (h : MemoryCanonical s) : MemoryCanonical (s.writeQuiesce p v) :=
  h.modPkg.quiesceStop.ite (h.modPkg.quiesceIsolate.ite (h.modPkg.quiesceResume.ite h.modPkg))

protected theorem MemoryCanonical.powerOff {p : Nat} (h : MemoryCanonical s) : MemoryCanonical (s.powerOff p) := h.ite h

/-! ### Register reads and writes -/

protected theorem MemoryCanonical.hread {p : Nat} {r : HReg} (h : MemoryCanonical s) : MemoryCanonical (s.hread p r).2 := by
  unfold State.hread
  repeat' split
  exacts [h.popHostFault, h.readLqstat, h.readFqlost, h]

protected theorem MemoryCanonical.writeTroot {p u : Nat} {v : Word} (h : MemoryCanonical s) : SomeCanonical (s.writeTroot p u v) := by
  unfold State.writeTroot
  repeat' split
  exacts [.none, .some h.modTen.invalidateNow]

protected theorem MemoryCanonical.writeWindow {p u i : Nat} {v : Word} (h : MemoryCanonical s) :
    SomeCanonical (s.writeWindow p u i v) := by
  unfold State.writeWindow
  repeat' split
  exacts [.none, .some h.modTen.invalidateNow, .some h.modTen.invalidateNow]

protected theorem MemoryCanonical.writeHbmsplit {p : Nat} {v : Word} (h : MemoryCanonical s) : MemoryCanonical (s.writeHbmsplit p v) :=
  h.modPkg

protected theorem MemoryCanonical.writeTbudget {p u : Nat} {v : Word} (h : MemoryCanonical s) :
    MemoryCanonical (s.writeTbudget p u v) := h.modTen

protected theorem MemoryCanonical.writeTctl {p u : Nat} {v : Word} (h : MemoryCanonical s) : MemoryCanonical (s.writeTctl p u v) :=
  h.enableTenant.ite h.teardown

protected theorem MemoryCanonical.writeCactl {p d : Nat} {v : Word} (h : MemoryCanonical s) : SomeCanonical (s.writeCactl p d v) := by
  unfold State.writeCactl
  repeat' split
  exacts [.some h.caEnable, h.caDisable]

protected theorem MemoryCanonical.writeCaArea {p d : Nat} {f : CaDomain → CaDomain} (h : MemoryCanonical s) :
    MemoryCanonical (s.writeCaArea p d f) := h.setCa.ite h

protected theorem MemoryCanonical.hwrite {p : Nat} {r : HReg} {v : Word} (h : MemoryCanonical s) : SomeCanonical (s.hwrite p r v) := by
  unfold State.hwrite
  repeat' split
  · exact h.writeTroot
  · exact .some h.modTen
  · exact .some h.writeTbudget
  · exact .some h.modTen.submitMigration
  · exact .some h.modTen
  · exact .some h.modTen
  · exact .some h.writeCaArea
  · exact .some h.writeCaArea
  · exact .some h.writeCaArea
  · exact .some h.writeCaArea
  · exact h.writeCactl
  · exact h.catenWrite
  · exact .some h.modTen
  · exact .some h.modTen
  · exact .some h.writeTctl
  · exact .some h.modTen
  · exact .some h.modTen
  · exact .some h.modTen
  · exact .some h.modTen
  · exact .some h.modTen
  · exact .some h.modTen
  · exact .some h.modTen
  · exact .some h.modTen.submit
  · exact .some h.modTen
  · exact .some h.modTen.submit
  · exact .some h.modTen
  · exact .some h.modTen
  · exact .some h.modTen
  · exact .some h.modTen
  · exact .some h.modTen
  · exact .some h.modPkg
  · exact .some h.modPkg
  · exact .some h.modPkg
  · exact .some h.modPkg
  · exact .some h.modPkg
  · exact .some h.modPkg
  · exact .some h.modPkg
  · exact .some h.isolatePort
  · exact .some h.retrainPort
  · exact .some h.modPkg
  · exact .some h.modPkg
  · exact .some h.modPkg
  · exact .some h.modPkg
  · exact .some h.modPkg
  · exact .some h.writeHbmsplit
  · exact .some h.modPkg
  · exact .some h.modPkg
  · exact .some h.modPkg
  · exact .some h.modPkg
  · exact .some h.modPkg
  · exact .some h.clearSensor
  · exact .some h.writeQuiesce
  · exact .some h

protected theorem MemoryCanonical.jctlWrite {key : Nat} {v : Word} (h : MemoryCanonical s) : MemoryCanonical (s.jctlWrite key v) := by
  unfold State.jctlWrite
  repeat' split
  exacts [h, h.resumeFrozen, h, h.killJob, h]

protected theorem MemoryCanonical.sysWriteShown {key core n : Nat} {v : Word} (h : MemoryCanonical s) :
    MemoryCanonical (s.sysWriteShown key core n v) := by
  unfold State.sysWriteShown
  repeat' split
  · exact h.setJob
  · exact h
  · exact h.ite h.spanWrite.spanWrite.modTen
  · exact h.ite h.spanWrite.modTen
  · exact h.ite h.spanWrite.spanWrite.modTen
  · exact h.ite h.spanWrite.modTen
  · exact h.ite h.spanWrite.spanWrite.modTen
  · exact h.ite h.spanWrite.modTen
  · exact h

protected theorem MemoryCanonical.tput {p t o n : Nat} {v : Word} (h : MemoryCanonical s) : MemoryCanonical (s.tput p t o n v) :=
  MemoryCanonical.of_wf (writeLe_wf h _ _ _)

protected theorem MemoryCanonical.endImages {p t i n e m : Nat} (h : MemoryCanonical s) : MemoryCanonical (s.endImages p t i n e m) :=
  h.modTile

protected theorem MemoryCanonical.writeImemWords {p t o n : Nat} {v : Word} (h : MemoryCanonical s) :
    MemoryCanonical (s.writeImemWords p t o n v) := (MemoryCanonical.of_wf (writeImem_wf h)).endImages

protected theorem MemoryCanonical.writeTags {p t o n : Nat} {v : Word} (h : MemoryCanonical s) :
    MemoryCanonical (s.writeTags p t o n v) := h.tput.endImages

protected theorem MemoryCanonical.writeEmemPart {p t o n : Nat} {v : Word} (h : MemoryCanonical s) :
    MemoryCanonical (s.writeEmemPart p t o n v) := (MemoryCanonical.of_wf (write64_wf h _ _)).endImages

protected theorem MemoryCanonical.twrite {p t o n : Nat} {v : Word} (h : MemoryCanonical s) : MemoryCanonical (s.twrite p t o n v) := by
  unfold State.twrite
  repeat' split
  exacts [h.tput, h.tput, h.tput, h.writeImemWords, h.writeEmemPart, h.writeTags, h.sysWriteShown, h.jctlWrite, h, h]

protected theorem MemoryCanonical.mmioRead {pa n : Nat} {l : Level} (h : MemoryCanonical s) : (s.mmioRead pa n l).Canonical := by
  unfold State.mmioRead
  dsimp only
  repeat' split
  exacts [.prot, .ok h.hread, .prot, .ok h, .ok h, .prot, .ok h, .prot]

protected theorem MemoryCanonical.mmioWrite {pa n : Nat} {v : Word} {l : Level} (h : MemoryCanonical s) :
    (s.mmioWrite pa n v l).Canonical := by
  unfold State.mmioWrite
  dsimp only
  repeat' split
  exacts [.prot, .ok h, .ok (h.hwrite.of_some ‹_›), .wait, .prot, .ok h, .prot, .ok h.twrite, .prot]

/-! ### Loads, stores and atomics -/

protected theorem MemoryCanonical.dataAccess {j : Job} {va : Word} {al : Nat} {need : Perm} {mmio mem : State → Nat → Res}
    (h : MemoryCanonical s) (hmmio : ∀ {t x1}, MemoryCanonical t → (mmio t x1).Canonical)
    (hmem : ∀ {t x1}, MemoryCanonical t → (mem t x1).Canonical) : (dataAccess s j va al need mmio mem).Canonical := by
  unfold dataAccess
  dsimp only
  repeat' split
  · exact hmmio h
  · exact hmem h
  · exact .raise h
  · exact .raise h
  · exact .raise (h.coreTranslate.of_fst ‹_›)
  · exact .wait (h.coreTranslate.of_fst ‹_›)
  · exact hmmio (h.coreTranslate.of_fst ‹_›)
  · exact hmem (h.coreTranslate.of_fst ‹_›)

protected theorem MemoryCanonical.askPlace {op : ReqOp} {va : Word} {act : State → Answer} {k : State → Word → Res} {pa : Nat}
    (h : MemoryCanonical s) (hact : ∀ {t}, MemoryCanonical t → (act t).Canonical)
    (hk : ∀ {t x1}, MemoryCanonical t → (k t x1).Canonical) : (askPlace op va act k s pa).Canonical := by
  unfold askPlace
  repeat' split
  exacts [.wait h, h.exchange (fun h => .raise h) (fun h => hact h) fun h => hk h]

protected theorem MemoryCanonical.memAct {va : Word} {pa n : Nat} {act : State → State × Word} (h : MemoryCanonical s)
    (hact : ∀ {t}, MemoryCanonical t → MemoryCanonical ((act t).1)) : (memAct va pa n act s).Canonical := by
  unfold memAct
  repeat' split
  exacts [.err h, .err h, .hold h, .ok (hact h)]

protected theorem MemoryCanonical.mmioRefused {va : Word} {n : Nat} (h : MemoryCanonical s) : (mmioRefused va s n).Canonical :=
  .raise h

protected theorem MemoryCanonical.mmioAct {va : Word} {pa : Nat} {f : State → MmioRes} (h : MemoryCanonical s)
    (hf : ∀ {t}, MemoryCanonical t → (f t).Canonical) : (mmioAct va pa f s).Canonical := by
  unfold mmioAct
  repeat' split
  exacts [.err h, .ok ((hf h).of_ok ‹_›), .err h, .hold h]

protected theorem MemoryCanonical.mmioLoad {j : Job} {va : Word} {n : Nat} {k : State → Word → Res} {pa : Nat}
    (h : MemoryCanonical s) (hk : ∀ {t x1}, MemoryCanonical t → (k t x1).Canonical) : (mmioLoad j va n k s pa).Canonical := by
  unfold mmioLoad
  repeat' split
  exacts [.raise h, h.askPlace (fun h => h.mmioAct fun h => h.mmioRead) hk]

protected theorem MemoryCanonical.mmioStore {j : Job} {va : Word} {n : Nat} {v : Word} {k : State → Res} {pa : Nat}
    (h : MemoryCanonical s) (hk : ∀ {t}, MemoryCanonical t → (k t).Canonical) : (mmioStore j va n v k s pa).Canonical := by
  unfold mmioStore
  repeat' split
  · exact .raise h
  · exact h.askPlace (fun h => h.mmioAct fun h => by
      repeat' split
      exacts [.wait, h.mmioWrite]) fun h => hk h

protected theorem MemoryCanonical.releaseOnce {sc : Scope} {body : State → Res} (h : MemoryCanonical s)
    (hbody : ∀ {t}, MemoryCanonical t → (body t).Canonical) : (releaseOnce s sc body).Canonical := by
  unfold releaseOnce
  repeat' split
  exacts [hbody h, h.afterRelease hbody]

protected theorem MemoryCanonical.memLoad {va : Word} {n : Nat} {hint : Hint} {k : State → Nat → Res} {pa : Nat}
    (h : MemoryCanonical s) (hk : ∀ {t x1}, MemoryCanonical t → (k t x1).Canonical) : (memLoad va n hint k s pa).Canonical :=
  h.askPlace (fun h => h.memAct fun h => h.touchHome) fun h => hk h

protected theorem MemoryCanonical.memPost {j : Job} {va point : Word} {op : ReqOp} {n : Nat} {v : Word} {noalloc : Bool}
    {pa : Nat} (h : MemoryCanonical s) : (memPost j va point op n v noalloc s pa).Canonical := .next h.queueUp

protected theorem MemoryCanonical.loadBody {d : Reg} {n : Nat} {signed : Bool} {hint : Hint} {va : Word} {j : Job}
    (h : MemoryCanonical s) : (loadBody d n signed hint va j s).Canonical :=
  h.dataAccess (fun h => h.mmioLoad fun h => .next h.setReg) fun h => h.memLoad fun h => .next h.setReg

protected theorem MemoryCanonical.storeBody {n : Nat} {noalloc : Bool} {va v : Word} {j : Job} {c : Core} (h : MemoryCanonical s) :
    (storeBody n noalloc va v j c s).Canonical := h.dataAccess (fun h => h.mmioStore fun h => .next h) fun h => h.memPost

protected theorem MemoryCanonical.ldqSend {j : Job} {c : Core} {q n : Nat} {signed : Bool} {va : Word} {pa : Nat}
    (h : MemoryCanonical s) : (ldqSend j c q n signed va s pa).Canonical := .next h.modCur.queueUp

protected theorem MemoryCanonical.mmioSized {va : Word} {n : Nat} {body : State → Nat → Res} {pa : Nat} (h : MemoryCanonical s)
    (hbody : ∀ {t x1}, MemoryCanonical t → (body t x1).Canonical) : (mmioSized va n body s pa).Canonical := by
  unfold mmioSized
  repeat' split
  exacts [.raise h, hbody h]

protected theorem MemoryCanonical.execLdq {q : BitVec 6} {a : Reg} {z : LoadSize} {i : BitVec 11} (h : MemoryCanonical s) :
    NextCanonical (execLdq q a z i s) :=
  h.coreExec fun h => h.dataAccess (fun h => h.mmioSized fun h => by
        dsimp only
        repeat' split
        exacts [h.dqFault, h.mmioLoad fun h => .next h.modCur, h.dqFault, .wait h]) fun h => by
      dsimp only
      repeat' split
      exacts [h.dqFault, h.ldqSend, h.dqFault, .wait h]

protected theorem MemoryCanonical.stqTake {j : Job} {q : Nat} {k : State → Word → Res} (h : MemoryCanonical s)
    (hk : ∀ {t x1}, MemoryCanonical t → (k t x1).Canonical) : (stqTake j q k s).Canonical := by
  unfold stqTake
  repeat' split
  exacts [h.dqFault, hk h, h.dqFault, .wait h]

protected theorem MemoryCanonical.stqTaken {q : Nat} (h : MemoryCanonical s) : MemoryCanonical (stqTaken q s) := h.modCur

protected theorem MemoryCanonical.execStq {q : BitVec 6} {a : Reg} {z : StoreSize} {i : BitVec 11} (h : MemoryCanonical s) :
    NextCanonical (execStq q a z i s) :=
  h.coreExec fun h => h.dataAccess
    (fun h => h.mmioSized fun h => h.stqTake fun h => h.mmioStore fun h => .next h.stqTaken)
    fun h => h.stqTake fun h => h.stqTaken.memPost

protected theorem MemoryCanonical.execStrel {a b : Reg} {z : WD} {sc : Scope} (h : MemoryCanonical s) :
    NextCanonical (execStrel a b z sc s) :=
  h.coreExec fun h => h.dataAccess (fun h => h.releaseOnce fun h => h.mmioStore fun h => .next h) fun h => h.memPost

protected theorem MemoryCanonical.queueMark {j : Job} {c : Core} {op : ReqOp} (h : MemoryCanonical s) :
    (queueMark j c op s).Canonical := .next h.queueUp

protected theorem MemoryCanonical.execPref {a : Reg} (h : MemoryCanonical s) : NextCanonical (execPref a s) :=
  h.coreExec fun h => by
    dsimp only
    repeat' split
    · exact .next h
    · exact .next (h.coreTranslate.of_fst ‹_›)
    · exact .next ((h.coreTranslate.of_fst ‹_›).queueUp)
    · exact .next (h.coreTranslate.of_fst ‹_›)

protected theorem MemoryCanonical.atomicNow {pa n : Nat} {op : BitVec 4} {x cmp : Nat} (h : MemoryCanonical s) :
    MemoryCanonical (s.atomicNow pa n op x cmp).1 := MemoryCanonical.of_wf (atomMem_wf (h.touchHome.of_mem rfl) _ _ _ _ _)

protected theorem MemoryCanonical.atomGlobal {op : BitVec 4} {d a b : Reg} {n : Nat} {rel : Option Scope} {j : Job} {c : Core}
    (h : MemoryCanonical s) : (atomGlobal op d a b n rel j c s).Canonical := by
  unfold atomGlobal
  exact h.dataAccess (fun h => h.mmioRefused) fun h => by
    repeat' split
    exacts [h.memPost, h.askPlace (fun h => h.memAct fun h => h.atomicNow) fun h => .next h.setReg]

protected theorem MemoryCanonical.postAtomic {op : BitVec 4} {ad : Word} {n x : Nat} {rel : Option Scope} {j : Job} {c : Core}
    (h : MemoryCanonical s) : (postAtomic op ad n x rel j c s).Canonical := by
  unfold postAtomic
  dsimp only
  repeat' split
  exacts [.next h.modCur, h.postLocal]

protected theorem MemoryCanonical.atomLocal {op : BitVec 4} {d a b : Reg} {n : Nat} {rel : Option Scope} {j : Job} {c : Core}
    (h : MemoryCanonical s) : (atomLocal op d a b n rel j c s).Canonical := by
  unfold atomLocal
  exact h.withLocal fun h => by
    repeat' split
    · exact h.postAtomic
    · exact h.inLocalQueue fun h => h.afterRelease fun h => h.soundPad fun h => .next ((MemoryCanonical.of_wf (atomMem_wf h _ _ _ _ _)).setReg)
    · exact h.inLocalQueue fun h => h.soundPad fun h => .next ((MemoryCanonical.of_wf (atomMem_wf h _ _ _ _ _)).setReg)

protected theorem MemoryCanonical.atomExec {op : BitVec 4} {d a b : Reg} {n : Nat} {sp : AtomSpace} (h : MemoryCanonical s) :
    NextCanonical (atomExec op d a b n sp s) :=
  h.coreExec fun h => by
    repeat' split
    exacts [h.atomGlobal, h.atomGlobal, h.atomLocal, h.atomLocal]

protected theorem MemoryCanonical.execHostsig {a : Reg} {b : Opd} (h : MemoryCanonical s) : NextCanonical (execHostsig a b s) :=
  h.coreExec fun h => h.dataAccess (fun h => h.releaseOnce fun h => h.mmioStore fun h => .next h.modTen) fun h => h.memPost

/-! ### Instructions of jobs -/

protected theorem MemoryCanonical.execSpawn {a : Reg} (h : MemoryCanonical s) : NextCanonical (execSpawn a s) :=
  h.coreExec fun h => h.withLocal fun h => h.inLocalQueue fun h => h.soundPad fun h => by
          repeat' split
          exacts [.wait h, h.afterRelease fun h => .next h.enqueueSpawn]

protected theorem MemoryCanonical.execJoin {a : Reg} {b : Opd} (h : MemoryCanonical s) : NextCanonical (execJoin a b s) :=
  h.coreExec fun h => h.dataAccess (fun h => h.mmioRefused) fun h => h.askPlace (fun h => h.memAct fun h => h.atomicNow) fun h => .next h

protected theorem MemoryCanonical.execRend (h : MemoryCanonical s) : NextCanonical (execRend s) :=
  h.coreExec fun h => by
    repeat' split
    exacts [h.raiseFree, .waitDq h, h.afterRelease fun h => .next h.modCore]

protected theorem MemoryCanonical.execWaitdep (h : MemoryCanonical s) : NextCanonical (execWaitdep s) :=
  h.coreExec fun h => by
    repeat' split
    exacts [.next h, .wait h]

protected theorem MemoryCanonical.execExit (h : MemoryCanonical s) : NextCanonical (execExit s) :=
  h.coreExec fun h => by
    dsimp only
    repeat' split
    · exact .done h.modCore.endWaits.modCur.freeMatrix.haltX
    · exact .done h.modCore.endWaits.modCur.freeMatrix
    · exact .done h.modCore.endWaits.modCur.freeMatrix

protected theorem MemoryCanonical.execAllot {d : Reg} {b : Opd} (h : MemoryCanonical s) : NextCanonical (execAllot d b s) :=
  h.coreExec fun h => by
    dsimp only
    repeat' split
    exacts [h.raiseFree, .next h.setReg, .next h.modCore.setReg, .next h.setReg]

protected theorem MemoryCanonical.execShrink {b : Opd} (h : MemoryCanonical s) : NextCanonical (execShrink b s) :=
  h.coreExec fun h => by
    dsimp only
    repeat' split
    exacts [h.raiseFree, .next h.modCore]

protected theorem MemoryCanonical.execPhase {b : Opd} (h : MemoryCanonical s) : NextCanonical (execPhase b s) :=
  h.coreExec fun h => by
    dsimp only
    repeat' split
    exacts [h.raiseFree, .next h.sealInstance]

protected theorem MemoryCanonical.execSwpt (h : MemoryCanonical s) : NextCanonical (execSwpt s) :=
  h.coreExec fun h => by
    repeat' split
    exacts [h.transfer h, .next h]

/-! ### Common words -/

protected theorem MemoryCanonical.plainWord {pop push : Option (BitVec 4)} {chain : Chain}
    {f : Job → Engine → State → State × Option Nat} (h : MemoryCanonical s)
    (hf : ∀ {x0 x1 t}, MemoryCanonical t → MemoryCanonical ((f x0 x1 t).1)) : NextCanonical (plainWord pop push chain f s) :=
  h.engineExec fun _ => .some (Plan.Canonical.of fun h => .done (hf h))

protected theorem MemoryCanonical.execSwlink {c : CW} {n p q : BitVec 3} (h : MemoryCanonical s) :
    NextCanonical (execSwlink c n p q s) :=
  h.engineExec fun h => .some (Plan.Canonical.of fun h => by
      repeat' split
      exacts [.fault h, .done h.modSw, .fault h])

protected theorem MemoryCanonical.execSwcut {c : CW} {n : BitVec 3} (h : MemoryCanonical s) : NextCanonical (execSwcut c n s) :=
  h.engineExec fun h => .some (Plan.Canonical.of fun h => by
      dsimp only
      repeat' split
      exacts [.fault h, .done h.modSw, .wait h])

end Sys2Proof.Machine
end

section
/-!
SUPPORT. The events of the platform, of the fabric and of jobs keep the canonical form of memory.
-/

namespace Sys2Proof.Machine

variable {s : State} {r : Run}

/-! ### Platform events -/

protected theorem MemoryCanonical.dwordAnswer {r : Word × State} (hr : MemoryCanonical r.2) : MemoryCanonical (dwordAnswer r) :=
  hr

protected theorem MemoryCanonical.execQuoteRequest (h : MemoryCanonical s) : NextCanonical (execQuoteRequest s) := by
  unfold execQuoteRequest
  repeat' split
  all_goals exact .next h

protected theorem MemoryCanonical.execMeasExtend (h : MemoryCanonical s) : NextCanonical (execMeasExtend s) := by
  unfold execMeasExtend
  repeat' split
  exacts [.next h.extend, .next h]

protected theorem MemoryCanonical.writeMigH {p u i : Nat} {v : Word} (h : MemoryCanonical s) : MemoryCanonical (s.writeMigH p u i v) :=
  h.modTen.submitMigration.ite h.modTen

protected theorem MemoryCanonical.vfRead {p u : Nat} {r : VfReg} (h : MemoryCanonical s) : MemoryCanonical (s.vfRead p u r).2 := by
  unfold State.vfRead
  repeat' split
  exacts [h.readLqstat, h.readSqctl, h]

protected theorem MemoryCanonical.msixControl {p u v : Nat} {masked : Bool} (h : MemoryCanonical s) :
    MemoryCanonical (s.msixControl p u v masked) := h.modTen.ite h.unmask

protected theorem MemoryCanonical.vfWrite {p u : Nat} {r : VfReg} {v : Word} (h : MemoryCanonical s) :
    MemoryCanonical (s.vfWrite p u r v) := by
  unfold State.vfWrite
  extract_lets ten
  split
  · exact h.clearVpend
  · exact h.hwrite.getD h
  · exact h.hwrite.getD h
  · exact h.modTen
  · exact h.modTen
  · exact h.modTen
  · exact h.modTen
  · exact h.modTen
  · exact h.modTen.msixControl
  · exact h.writeMigH
  · exact h

protected theorem MemoryCanonical.bar0Write {p u o n : Nat} {v : Word} (h : MemoryCanonical s) :
    MemoryCanonical (s.bar0Write p u o n v) := h.ite h.vfWrite

protected theorem MemoryCanonical.hostMmio {p u o n : Nat} {v : Word} (h : MemoryCanonical s) :
    MemoryCanonical (s.hostMmio p u o n v) := by
  unfold State.hostMmio
  repeat' split
  exacts [h, h.submit.of_mem rfl, h, h.submit.of_mem rfl, h, h, h, h.bar0Write.of_mem rfl]

protected theorem MemoryCanonical.retryHeld {p i : Nat} (h : MemoryCanonical s) : MemoryCanonical (s.retryHeld p i) := by
  unfold State.retryHeld
  repeat' split
  exacts [h, h, h.modPkg.bar0Write.of_mem rfl, h.retryAccess]

protected theorem MemoryCanonical.hostRead {p u o : Nat} (h : MemoryCanonical s) : MemoryCanonical (s.hostRead p u o) := by
  unfold State.hostRead
  split
  · exact h
  split
  · exact h
  · exact MemoryCanonical.dwordAnswer h.vfRead

protected theorem MemoryCanonical.execPageWalk (h : MemoryCanonical s) : NextCanonical (execPageWalk s) := by
  unfold execPageWalk
  repeat' split
  exact .next h.translate

protected theorem MemoryCanonical.serve {r : Req} (h : MemoryCanonical s) : MemoryCanonical (s.serve r) :=
  (h.advance.ite h.performReq).noticeDeferred

protected theorem MemoryCanonical.execHomeRequest (h : MemoryCanonical s) : NextCanonical (execHomeRequest s) := by
  unfold execHomeRequest
  repeat' split
  exacts [.next h, .next h.serve, .next h]

protected theorem MemoryCanonical.execTileAddressedRequest (h : MemoryCanonical s) : NextCanonical (execTileAddressedRequest s) := by
  unfold execTileAddressedRequest
  repeat' split
  exacts [.next h.serve, .next h, .next h]

protected theorem MemoryCanonical.resend {r : Req} (h : MemoryCanonical s) : MemoryCanonical (s.resend r) :=
  h.modReq.countTile.dropReq.advance.ite h.modReq.countTile

protected theorem MemoryCanonical.execRequestReissue (h : MemoryCanonical s) : NextCanonical (execRequestReissue s) := by
  unfold execRequestReissue
  repeat' split
  exacts [.next h.resend, .next h, .next h]

protected theorem MemoryCanonical.failWith {r : Req} {c : Cause} (h : MemoryCanonical s) : MemoryCanonical (s.failWith r c) :=
  h.failReq.advance.advanceOwn.noticeDeferred

protected theorem MemoryCanonical.execRequestTimeout (h : MemoryCanonical s) : NextCanonical (execRequestTimeout s) := by
  unfold execRequestTimeout
  repeat' split
  exacts [.next h.failWith, .next h, .next h]

protected theorem MemoryCanonical.execDeferredFault (h : MemoryCanonical s) : NextCanonical (execDeferredFault s) := by
  unfold execDeferredFault
  repeat' split
  exacts [.next h.failWith, .next h, .next h]

protected theorem MemoryCanonical.linkError {p l : Nat} (h : MemoryCanonical s) : MemoryCanonical (s.linkError p l) := h

protected theorem MemoryCanonical.ringEvent {f : Ring → Option RingOut} (h : MemoryCanonical s) : MemoryCanonical (s.ringEvent f) := by
  unfold State.ringEvent
  repeat' split
  exacts [h.putRing, h]

protected theorem MemoryCanonical.nbDeliver {q : Nat} (h : MemoryCanonical s) : MemoryCanonical (s.nbDeliver q) := by
  unfold State.nbDeliver
  dsimp only
  repeat' split
  exacts [h, h, h.modJob, h, h.modJob.modJob, h]

protected theorem MemoryCanonical.execCapEvaluate (h : MemoryCanonical s) : NextCanonical (execCapEvaluate s) := by
  unfold execCapEvaluate
  dsimp only
  repeat' split
  exacts [.next h, .next h.modPkg.capEvaluate]

protected theorem MemoryCanonical.execSensorSample (h : MemoryCanonical s) : NextCanonical (execSensorSample s) := by
  unfold execSensorSample
  dsimp only
  repeat' split
  exacts [.next h, .next h.modPkg.sample]

protected theorem MemoryCanonical.execMmioImemWrite (h : MemoryCanonical s) : NextCanonical (execMmioImemWrite s) := by
  unfold execMmioImemWrite
  dsimp only
  repeat' split
  exacts [.next h.writeImemWords, .next h, .next h.writeImemWords, .next h]

protected theorem MemoryCanonical.execMmioTagWindowWrite (h : MemoryCanonical s) : NextCanonical (execMmioTagWindowWrite s) := by
  unfold execMmioTagWindowWrite
  dsimp only
  repeat' split
  exacts [.next h.writeTags, .next h, .next h.writeTags, .next h]

protected theorem MemoryCanonical.execMmioSysregWrite (h : MemoryCanonical s) : NextCanonical (execMmioSysregWrite s) := by
  unfold execMmioSysregWrite
  repeat' split
  exacts [.next h.sysWriteShown, .next h]

protected theorem MemoryCanonical.execMmioRegisterWrite (h : MemoryCanonical s) : NextCanonical (execMmioRegisterWrite s) := by
  unfold execMmioRegisterWrite
  dsimp only
  repeat' split
  · exact .next h
  · exact .next h.hostMmio
  · exact .next (h.mmioWrite.of_ok ‹_›)
  · exact .next h
  · exact .next h
  · exact .next h.hostMmio
  · exact .next (h.mmioWrite.of_ok ‹_›)
  · exact .next h

/-! ### Fabric events -/

protected theorem MemoryCanonical.modPort {f : Port → Port} (h : MemoryCanonical s) : MemoryCanonical (s.modPort f) := h.modPkg

protected theorem MemoryCanonical.modPlane {f : Port → Port} (h : MemoryCanonical s) : MemoryCanonical (s.modPlane f) :=
  h.losePackets.modPort.ite h.modPort

protected theorem MemoryCanonical.circuitLane (h : MemoryCanonical s) : MemoryCanonical s.circuitLane :=
  (h.breakPort.ite (h.breakPort.ite h.breakPort)).modPort

protected theorem MemoryCanonical.execLaneFailure (h : MemoryCanonical s) : NextCanonical (execLaneFailure s) := by
  unfold execLaneFailure
  repeat' split
  exacts [.next h.circuitLane, .next h.modPlane]

protected theorem MemoryCanonical.execCircuitBeatLand (h : MemoryCanonical s) : NextCanonical (execCircuitBeatLand s) := by
  unfold execCircuitBeatLand
  repeat' split
  exacts [.next h, .next h.landBeat, .next h.breakCircuit, .next h]

protected theorem MemoryCanonical.execBreakSignalArrival (h : MemoryCanonical s) : NextCanonical (execBreakSignalArrival s) := by
  unfold execBreakSignalArrival
  repeat' split
  exacts [.next h.modSend.setCirc, .next h, .next h]

protected theorem MemoryCanonical.notice {c : Circuit} {code : BitVec 4} {n : W32} (h : MemoryCanonical s) :
    MemoryCanonical (s.notice c code n) := by
  unfold State.notice
  repeat' split
  exacts [h.clearFlow, h.setCirc, h.modSend.dropCirc]

protected theorem MemoryCanonical.execBreakNotice (h : MemoryCanonical s) : NextCanonical (execBreakNotice s) := by
  unfold execBreakNotice
  repeat' split
  exacts [.next h, .next h.notice, .next h, .next h]

protected theorem MemoryCanonical.execLeaseExpiry (h : MemoryCanonical s) : NextCanonical (execLeaseExpiry s) := by
  unfold execLeaseExpiry
  repeat' split
  exacts [.next h.breakCircuit, .next h, .next h]

protected theorem MemoryCanonical.modFlow {id : Nat} {f : Flow → Flow} (h : MemoryCanonical s) : MemoryCanonical (s.modFlow id f) :=
  h

protected theorem MemoryCanonical.execFlowMeterWindowEnd (h : MemoryCanonical s) : NextCanonical (execFlowMeterWindowEnd s) := by
  unfold execFlowMeterWindowEnd
  repeat' split
  exacts [.next h.newWindow, .next h]

protected theorem MemoryCanonical.execFlowProbe (h : MemoryCanonical s) : NextCanonical (execFlowProbe s) := by
  unfold execFlowProbe
  split
  · split
    · exact .next h
    split
    next he =>
      have hp := h.probe.of_fst he
      exact .next hp
    · exact .next (h.probe.of_fst ‹_›).modFlow
  · exact .next h

protected theorem MemoryCanonical.execFlowPromote (h : MemoryCanonical s) : NextCanonical (execFlowPromote s) := by
  unfold execFlowPromote
  repeat' split
  exacts [.next h.modFlow, .next h, .next h]

protected theorem MemoryCanonical.execHoldoffExpire (h : MemoryCanonical s) : NextCanonical (execHoldoffExpire s) := by
  unfold execHoldoffExpire
  repeat' split
  exacts [.next h.modFlow, .next h, .next h, .next h]

protected theorem MemoryCanonical.execFlowIdleClose (h : MemoryCanonical s) : NextCanonical (execFlowIdleClose s) := by
  unfold execFlowIdleClose
  repeat' split
  exacts [.next h.closeFlow, .next h, .next h]

/-! ### Fetching -/

protected theorem MemoryCanonical.fetchFail {c : Cause} {eva : Option Word} (h : MemoryCanonical s) :
    NextCanonical (fetchFail c eva s) :=
  h.coreExec fun h => by
    repeat' split
    exacts [.raise h, h.raiseFree]

protected theorem MemoryCanonical.execIllegalInstruction (h : MemoryCanonical s) : NextCanonical (execIllegalInstruction s) := by
  unfold execIllegalInstruction
  repeat' split
  exacts [.fault, .next h, h.fetchFail]

protected theorem MemoryCanonical.execEngineDecodeFailure (h : MemoryCanonical s) : NextCanonical (execEngineDecodeFailure s) := by
  unfold execEngineDecodeFailure
  dsimp only
  repeat' split
  exacts [.fault, .next h, .next h.engineFault]

protected theorem MemoryCanonical.runLoad {j : Job} {l : Load} (h : MemoryCanonical s) : MemoryCanonical (s.runLoad j l) := by
  unfold State.runLoad
  repeat' split
  exacts [h, (h.loadImage.of_fst ‹_›).modEng, (h.loadImage.of_fst ‹_›).engineFault, h.heldBack (h.loadImage.of_fst ‹_›)]

/-! ### The Pinwheel unit -/

protected theorem MemoryCanonical.modPw {f : Pinwheel → Pinwheel} (h : MemoryCanonical s) : MemoryCanonical (s.modPw f) :=
  h.modTile

/-! ### Freezing, saving and resuming -/

protected theorem MemoryCanonical.applyPre {key : Nat} {a : PreAct} (h : MemoryCanonical s) : MemoryCanonical (s.applyPre key a) := by
  unfold State.applyPre
  repeat' split
  exacts [h.modJob, h.modJob.endWaits, h.killJob, h, h]

protected theorem MemoryCanonical.preemptDecide {p d : Nat} (h : MemoryCanonical s) : MemoryCanonical (s.preemptDecide p d) := by
  unfold State.preemptDecide
  repeat' split
  exacts [h, h, h, h, h, (h.foldl fun h => h.applyPre).modTen.modPkg]

protected theorem MemoryCanonical.drainExpire {key : Nat} (h : MemoryCanonical s) : MemoryCanonical (s.drainExpire key) := by
  unfold State.drainExpire
  repeat' split
  exacts [h, h, h.ite (h.setJob.applyPre.ite h.killJob), h.ite (h.setJob.applyPre.ite h.setJob)]

protected theorem MemoryCanonical.notTaken {key : Nat} {j : Job} (h : MemoryCanonical s) : MemoryCanonical (s.notTaken key j) :=
  h.setJob.ite h.resume.noticeDeferred

protected theorem MemoryCanonical.refund {key : Nat} (h : MemoryCanonical s) : MemoryCanonical (s.refund key) := by
  unfold State.refund
  dsimp only
  repeat' split
  exacts [h, h.modPkg.modTen]

protected theorem MemoryCanonical.storeFrame {key i : Nat} {j : Job} (h : MemoryCanonical s) :
    MemoryCanonical (s.storeFrame key i j) := by
  unfold State.storeFrame
  dsimp only
  repeat' split
  · exact h.take.putArea.of_fst ‹_›
  · exact (h.take.putArea.of_fst ‹_›).resumeFrozen.emptyFaultAt
  · exact ((h.take.putArea.of_fst ‹_›).dropWaiters.freeUnits.delJob).modTen
  · exact ((h.take.putArea.of_fst ‹_›).dropWaiters.freeUnits.delJob).modTen

protected theorem MemoryCanonical.checkpoint {key : Nat} (h : MemoryCanonical s) : MemoryCanonical (s.checkpoint key) := by
  unfold State.checkpoint
  dsimp only
  repeat' split
  · exact h
  · exact h
  · exact h.endWaits
  · exact h.endWaits
  · exact h.endWaits.jobEndCircuits
  · exact h.endWaits.jobEndCircuits.killJob
  · exact h.endWaits.jobEndCircuits.refund.notTaken
  · exact h.endWaits.jobEndCircuits.resumeFrozen
  · exact h.endWaits.jobEndCircuits.storeFrame

protected theorem MemoryCanonical.loadFrame {f : Frame} {sl : Nat} {l : List (Nat × Byte)} (h : MemoryCanonical s) :
    MemoryCanonical (s.loadFrame f sl l) := by
  have hm {p sl : Nat} {a b c d : Nat} {l l' : List (Nat × Byte)} :
      (layAt (clearRange (layAt (clearRange s.mem a b) p l) c d) sl l').wf = true :=
    layAt_wf _ _ (clearRange_wf (layAt_wf _ _ (clearRange_wf h _ _)) _ _)
  unfold State.loadFrame
  extract_lets p t key j at_ part m1 m2 rekey s1 s2 j2
  have h1 : MemoryCanonical s1 := hm
  exact MemoryCanonical.resumeFrozen (MemoryCanonical.setJob (MemoryCanonical.modTile h1))

protected theorem MemoryCanonical.resumeFrame {p t i : Nat} {c : Cand} (h : MemoryCanonical s) :
    SomeCanonical (s.resumeFrame p t i c) := by
  unfold State.resumeFrame
  repeat' split
  · exact .none
  · exact .some (((h.takeTenant.of_some ‹_›).getArea.of_fst ‹_›).emptyFaultAt)
  · exact .some (((h.takeTenant.of_some ‹_›).getArea.of_fst ‹_›).modTen.loadFrame)
  · exact .none

protected theorem MemoryCanonical.considered {p d : Nat} (h : MemoryCanonical s) : MemoryCanonical (s.considered p d) :=
  (h.foldl fun h => h.stowAll).weedOut.idleDeficits

protected theorem MemoryCanonical.dispatch {p d : Nat} (h : MemoryCanonical s) : MemoryCanonical (s.dispatch p d) := by
  unfold State.dispatch
  extract_lets s1
  have h1 : MemoryCanonical s1 := h.considered
  split
  · exact h
  split
  · exact h1
  next t c k _ =>
    have hn : SomeCanonical (match c.frame with
        | some i => (s1.setPkg p k).resumeFrame p t i c
        | none => (s1.setPkg p k).startJob p t c) := by
      split
      · exact h1.setPkg.resumeFrame
      · exact h1.setPkg.startJob
    split
    · exact (hn.of_some ‹_›).idleDeficits
    · exact h1

protected theorem MemoryCanonical.checkpointResume {p u i : Nat} (h : MemoryCanonical s) :
    MemoryCanonical (s.checkpointResume p u i) := by
  unfold State.checkpointResume
  dsimp only
  repeat' split
  exacts [h, h, h.dispatch, h, h]

/-! ### Job events -/

protected theorem MemoryCanonical.execLaunchSubmit (h : MemoryCanonical s) : NextCanonical (execLaunchSubmit s) := by
  unfold execLaunchSubmit
  repeat' split
  exacts [.next h.hostMmio, .next h.hostMmio, .next h.modTen.submit, .next h.modTen.submit]

protected theorem MemoryCanonical.freezeOn {key : Nat} (h : MemoryCanonical s) : MemoryCanonical (s.freezeOn key) := by
  unfold State.freezeOn
  repeat' split
  exacts [h, h.finishFreeze, h, h]

protected theorem MemoryCanonical.execXcoreStopTimeout (h : MemoryCanonical s) : NextCanonical (execXcoreStopTimeout s) := by
  unfold execXcoreStopTimeout
  repeat' split
  exacts [.next h.haltX, .next h, .next h]

protected theorem MemoryCanonical.starveOut {j : Job} {w : EW} (h : MemoryCanonical s) : MemoryCanonical (s.starveOut j w) := by
  unfold State.starveOut
  repeat' split
  exacts [h.modEng.take.engineFault, h, h.beginWord.modEng.take.engineFault]

protected theorem MemoryCanonical.execScaleQueueTimeout (h : MemoryCanonical s) : NextCanonical (execScaleQueueTimeout s) := by
  have hf : MemoryCanonical { s with focus := ⟨s.arg.pkg, s.arg.tile, s.arg.slot, .M⟩ } := h
  unfold execScaleQueueTimeout
  dsimp only
  repeat' split
  · exact .next h
  · exact .next hf.starveOut
  · exact .next h
  · exact .next h

protected theorem MemoryCanonical.suspectAgain (h : MemoryCanonical s) : MemoryCanonical s.suspectAgain := h.modEng

protected theorem MemoryCanonical.closeDroop {p r : Nat} (h : MemoryCanonical s) : MemoryCanonical (s.closeDroop p r) :=
  h.modPkg.foldl fun h => MemoryCanonical.suspectAgain h

protected theorem MemoryCanonical.backToStart {j : Job} {p : WordPos} (h : MemoryCanonical s) :
    MemoryCanonical (s.backToStart j p) := by
  have hu : MemoryCanonical { s with mem := p.undo.foldl (fun (m : Memory) (x : Nat × List Byte) => writeBytes m x.1 x.2) s.mem } :=
    MemoryCanonical.of_wf (foldl_wf h fun h => writeBytes_wf _ _ h)
  exact hu.modJob

protected theorem MemoryCanonical.mismatch {j : Job} {w : EW} (h : MemoryCanonical s) : MemoryCanonical (s.mismatch j w) := by
  unfold State.mismatch
  repeat' split
  exacts [h.backToStart.suspectAgain, h, h.beginWord.modEng.suspectAgain]

protected theorem MemoryCanonical.execDroopReexecute (h : MemoryCanonical s) : NextCanonical (execDroopReexecute s) := by
  have hf : MemoryCanonical { s with focus := ⟨s.arg.pkg, s.arg.tile, s.arg.slot, .M⟩ } := h
  unfold execDroopReexecute
  dsimp only
  split
  · exact .next (h.closeDroop.ite h)
  split
  · exact .next (hf.mismatch.ite h)
  · exact .next h

end Sys2Proof.Machine
end

section
/-!
SUPPORT. The words of the M, W, T and V streams keep the canonical form of memory.
-/

namespace Sys2Proof.Machine

variable {s : State} {r : Run}

/-! ### Matrix words -/

protected theorem MemoryCanonical.execMldb {w : EW} (h : MemoryCanonical s) : NextCanonical (execMldb w s) := by
  unfold execMldb
  dsimp only
  exact (h.modCur.ite h).engineExec fun h => .some (Plan.Canonical.of fun h => by
      repeat' split
      exacts [.fault h.modCur, .fault h.modCur, .done h.modCur.modCur])

protected theorem Run.Canonical.takeScales {n : Nat} (h : r.Canonical) : (takeScales n r).Canonical := by
  unfold takeScales
  repeat' split
  exacts [h, (MemoryCanonical.modCur h).ite ((MemoryCanonical.modCur h).modEng)]

protected theorem Run.Canonical.mmaScales {m : Mma} {n : Nat} (h : r.Canonical) : (Mma.scales m n r).Canonical := by
  unfold Mma.scales
  dsimp only
  repeat' split
  · exact .ok h
  · exact .ok (MemoryCanonical.modEng h.takeScales)
  · exact .wait h.takeScales
  · exact .fault (MemoryCanonical.take h.takeScales)
  · exact .wait (Run.Canonical.awaits (MemoryCanonical.modEng h.takeScales))

protected theorem Run.Canonical.mmaRep {m : Mma} {b : ResidentB} {zero : Bool} {step : BitVec 12} {rep : Nat} (h : r.Canonical) :
    (Mma.rep m b zero step rep r).Canonical := by
  unfold Mma.rep
  extract_lets row at_
  split
  · exact .fault h
  · exact h.mmaScales.bind fun h => by
      dsimp only
      repeat' split
      · exact .fault h
      · exact .fault h
      · exact .ok h
      · exact .ok (MemoryCanonical.modCur (MemoryCanonical.of_wf (rowOut_wf h)))

protected theorem Run.Canonical.noteThreshold (h : r.Canonical) : (noteThreshold r).Canonical := by
  unfold noteThreshold
  repeat' split
  exacts [.ok h, .ok (MemoryCanonical.modEng h)]

protected theorem MemoryCanonical.mmaExec {zero : Bool} {w : EW} (h : MemoryCanonical s) : NextCanonical (mmaExec zero w s) :=
  h.engineExec fun h => by
    repeat' split
    · exact .some (fun _ _ h => h.loopWord (fun h => h.mmaRep) fun h => h.noteThreshold)
    · exact .some (fun _ _ h => h.loopWord (fun h => h.mmaRep) fun h => h.noteThreshold)
    · exact .none

protected theorem MemoryCanonical.execMclr {w : EW} (h : MemoryCanonical s) : NextCanonical (execMclr w s) :=
  h.engineExec fun h => by
    repeat' split
    · exact .none
    · exact .none
    · exact .some (Plan.Canonical.of fun h => h.loopWord (fun h => by
        repeat' split
        exacts [h.patWrite, .ok h]) fun h => h.noEnd)

protected theorem MemoryCanonical.execMthr {w : EW} (h : MemoryCanonical s) : NextCanonical (execMthr w s) :=
  h.engineExec fun h => by
    dsimp only
    repeat' split
    exacts [.none, .some (Plan.Canonical.of fun h => .done h.modCur), .some (Plan.Canonical.of fun h => .done h.modCur)]

protected theorem Run.Canonical.mrdcElem {base : Nat} {clear : Bool} {step : BitVec 12} {rep i : Nat} (h : r.Canonical) :
    (mrdcElem base clear step rep i r).Canonical := by
  unfold mrdcElem
  dsimp only
  repeat' split
  · exact .ok h
  · exact .fault h
  · exact .fault h
  · exact .ok ((MemoryCanonical.of_wf (write32_wf h _ _)).modCur)
  · exact .ok (MemoryCanonical.of_wf (write32_wf h _ _))

protected theorem MemoryCanonical.execMrdc {w : EW} (h : MemoryCanonical s) : NextCanonical (execMrdc w s) :=
  h.engineExec fun h => by
    dsimp only
    repeat' split
    exacts [.none, .none, .some (Plan.Canonical.of fun h => h.loopWord (fun h => h.mrdcElem) fun h => h.noEnd)]

protected theorem Run.Canonical.moutElem {p : Pat} {u : Use} {f : FpFmt} {row col rep k : Nat} (h : r.Canonical) :
    (moutElem p u f row col rep k r).Canonical :=
  h.patRoom.bind fun h => by
    dsimp only
    repeat' split
    exacts [h.patPut, .fault h, .fault h, h.patPut]

protected theorem MemoryCanonical.execMout {w : EW} (h : MemoryCanonical s) : NextCanonical (execMout w s) :=
  h.engineExec fun h => by
    dsimp only
    repeat' split
    · exact .none
    · exact .none
    · exact .none
    · exact .some (fun _ _ h => h.loopWord (fun h => h.moutElem) fun h => h.endWrite)
    · exact .some (fun _ _ h => h.loopWord (fun h => h.moutElem) fun h => .ok h)

/-! ### Pinwheel words -/

protected theorem MemoryCanonical.pwWord {w : EW} {plan : Job → State → Option Plan} (h : MemoryCanonical s)
    (hplan : ∀ {x0 t}, MemoryCanonical t → SomePlanCanonical (plan x0 t)) : NextCanonical (pwWord w plan s) :=
  h.engineExec hplan

protected theorem MemoryCanonical.cellRead {w : EW} {spaces : List Nat} {esize : Nat} {f : Nat → Nat → Word → Run → Got Unit}
    (h : MemoryCanonical s) (hf : ∀ {x0 x1 x2 r}, r.Canonical → (f x0 x1 x2 r).Canonical) :
    NextCanonical (cellRead w spaces esize f s) :=
  h.pwWord fun h => SomePlanCanonical.map fun _ _ h => h.loopWord
    (fun h => h.patFetch.bind fun h => h.patGet.bind fun h => by
      dsimp only
      split
      · exact hf (Run.Canonical.patUsed h)
      · exact .ok (Run.Canonical.patUsed h))
    fun h => by
      split
      · exact h.endRead
      · exact .ok h

protected theorem Run.Canonical.pw {f : Pinwheel → Pinwheel} (h : r.Canonical) : (r.pw f).Canonical := MemoryCanonical.modPw h

protected theorem MemoryCanonical.execWpatch {w : EW} (h : MemoryCanonical s) : NextCanonical (execWpatch w s) :=
  h.cellRead fun h => by
    repeat' split
    exacts [.fault h, .ok h.pw]

protected theorem MemoryCanonical.execWsave {w : EW} (h : MemoryCanonical s) : NextCanonical (execWsave w s) :=
  h.pwWord fun _ => SomePlanCanonical.map (Plan.Canonical.of fun h => h.loopWord (fun h => h.patPut) fun h => h.noEnd)

protected theorem MemoryCanonical.execWdom {w : EW} (h : MemoryCanonical s) : NextCanonical (execWdom w s) :=
  h.pwWord fun h => by
    dsimp only
    repeat' split
    exacts [.none, .some (Plan.Canonical.of fun h => .done h.modPw)]

protected theorem Run.Canonical.sample {x : Sampling} {first n : Nat} (h : r.Canonical) : (r.sample x first n).Canonical := by
  unfold Run.sample
  repeat' split
  exacts [h, h.pack.pw, h.pack]

protected theorem Run.Canonical.sendSample {c : Nat} (h : r.Canonical) : (sendSample c r).Canonical :=
  h.putBeat.bind fun h => .ok h

protected theorem Run.Canonical.wrunInput {c : Nat} (h : r.Canonical) : (wrunInput c r).Canonical :=
  h.takeBeat.bind fun h => by
    dsimp only
    repeat' split
    exacts [.fault h, .fault h, .ok (MemoryCanonical.modPw h)]

protected theorem Run.Canonical.wrunCycle (h : r.Canonical) : (wrunCycle r).Canonical := by
  unfold wrunCycle
  repeat' split
  exacts [.fault h, .ok h.pw]

protected theorem Run.Canonical.wrunBegin {input : Bool} {ich : Nat} (h : r.Canonical) : (wrunBegin input ich r).Canonical := by
  unfold wrunBegin
  repeat' split
  exacts [.ok h, h.wrunInput.bind fun h => .ok h, Got.Canonical.bind (.ok h) fun h => .ok h]

protected theorem Run.Canonical.wrunStep {input output : Bool} {ich cycles sfirst : Nat} {x : Sampling} {k : Nat}
    (h : r.Canonical) : (wrunStep input output ich cycles sfirst x k r).Canonical := by
  unfold wrunStep
  repeat' split
  exacts [h.wrunBegin.bind fun h => h.wrunCycle, h.sample.sendSample.bind fun h => .ok h, Got.Canonical.bind (.ok h) fun h => .ok h]

protected theorem WRes.Canonical.wrunStop {cycles : Nat} {a : WRes} (h : a.Canonical) : (wrunStop cycles a).Canonical := by
  cases h with
  | done h => exact .done h
  | fault h => exact .fault h
  | wait h => exact .wait h

protected theorem MemoryCanonical.execWrun {w : EW} (h : MemoryCanonical s) : NextCanonical (execWrun w s) :=
  h.pwWord fun h => by
    dsimp only
    split
    · exact .none
    · refine .some fun _ _ h => (h.loopWord (fun h => h.wrunStep) fun h => Got.Canonical.bind (by
        split
        · exact h.endRead
        · exact .ok h) fun h => by
          split
          · exact h.endWrite
          · exact .ok h).wrunStop

protected theorem MemoryCanonical.execWsamp {w : EW} (h : MemoryCanonical s) : NextCanonical (execWsamp w s) :=
  h.pwWord fun h => by
    dsimp only
    repeat' split
    exacts [.none, .some (fun _ _ h => h.loopWord (fun h => h.sample.sendSample) fun h => h.endWrite)]

protected theorem MemoryCanonical.withPw {j : Job} {body : State → Res} (h : MemoryCanonical s)
    (hbody : ∀ {t}, MemoryCanonical t → (body t).Canonical) : (withPw j s body).Canonical := by
  unfold withPw
  repeat' split
  exacts [.wait h, hbody h.modTile, .wait h.modTile]

protected theorem MemoryCanonical.execPwsave {a : Reg} (h : MemoryCanonical s) : NextCanonical (execPwsave a s) :=
  h.coreExec fun h => h.withLocal fun h => h.inLocalQueue fun h => h.withPw fun h => .next (MemoryCanonical.of_wf (writeBytes_wf _ _ h))

protected theorem MemoryCanonical.execPwrest {a : Reg} (h : MemoryCanonical s) : NextCanonical (execPwrest a s) :=
  h.coreExec fun h => h.withLocal fun h => h.inLocalQueue fun h => h.withPw fun h => h.soundPad fun h => by
            dsimp only
            repeat' split
            exacts [.raise h, .next h.modPw]

protected theorem MemoryCanonical.execPwrdy {d : Reg} (h : MemoryCanonical s) : NextCanonical (execPwrdy d s) :=
  h.coreExec fun h => by
    repeat' split
    exacts [.next h.setReg, .wait h]

/-! ### Transposes -/

protected theorem Run.Canonical.takeBytes {c n n1 : Nat} (h : r.Canonical) : (takeBytes c n n1 r).Canonical := by
  induction n1 generalizing r with
  | zero => exact .ok h
  | succ m ih =>
    unfold takeBytes
    split
    · exact .ok h
    · exact h.takeBeat.bind fun h => ih h

protected theorem Run.Canonical.patGather {p : Pat} {g0 n : Nat} (h : r.Canonical) : (Pat.gather p g0 n r).Canonical := by
  unfold Pat.gather
  repeat' split
  exacts [h.takeBytes, .ok h]

protected theorem Run.Canonical.patRelease {p : Pat} {g0 n : Nat} (h : r.Canonical) : (Pat.release p g0 n r).Canonical := by
  unfold Pat.release
  repeat' split
  exacts [h.use, h]

protected theorem Run.Canonical.patPick {p : Pat} {u : Use} {wanted : Bool} {rep k g0 : Nat} (h : r.Canonical) :
    (Pat.pick p u wanted rep k g0 r).Canonical := by
  unfold Pat.pick
  repeat' split
  exacts [.ok h, .ok h, .ok h, h.patRead]

protected theorem Run.Canonical.txblkElem {ps pd : Pat} {us ud : Use} {rep k : Nat} (h : r.Canonical) :
    (txblkElem ps pd us ud rep k r).Canonical :=
  h.patGather.bind fun h => h.patRoom.bind fun h => h.patPick.bind fun h => h.patPut.bind fun h => by
          repeat' split
          exacts [.ok h.patRelease, .ok h]

protected theorem MemoryCanonical.execTxblk {w : EW} (h : MemoryCanonical s) : NextCanonical (execTxblk w s) :=
  h.engineExec fun h => by
    repeat' split
    exacts [.none, .some (fun _ _ h => h.loopWord (fun h => h.txblkElem) fun h => h.endPair), .none]

protected theorem MemoryCanonical.execTxcvt {w : EW} (h : MemoryCanonical s) : NextCanonical (execTxcvt w s) :=
  h.engineExec fun h => by
    dsimp only
    repeat' split
    exacts [.none, .some (fun _ _ h => h.loopWord (fun h => h.moveElem) fun h => h.endPair), .none]

protected theorem Run.Canonical.txgatElem {ps pd : Pat} {us ud : Use} {at_ rep k : Nat} (h : r.Canonical) :
    (txgatElem ps pd us ud at_ rep k r).Canonical :=
  h.patGather.bind fun h => by
    repeat' split
    · exact .ok h.patRelease
    · exact h.patRoom.bind fun h => h.patPut
    · exact h.patRoom.bind fun h => by
        repeat' split
        exacts [.fault h, h.patPick.bind fun h => h.patPut]

protected theorem MemoryCanonical.execTxgat {w : EW} (h : MemoryCanonical s) : NextCanonical (execTxgat w s) :=
  h.engineExec fun h => by
    repeat' split
    exacts [.none, .some (fun _ _ h => h.loopWord (fun h => h.txgatElem) fun h => h.endPair), .none]

/-! ### Vector words -/

protected theorem MemoryCanonical.modVregs {f : Map W32 → Map W32} (h : MemoryCanonical s) : MemoryCanonical (s.modVregs f) :=
  h.modCur

protected theorem Run.Canonical.takeBeats {l : List Nat} {n : Nat} (h : r.Canonical) : (takeBeats l n r).Canonical := by
  induction l generalizing n r with
  | nil => exact .ok h
  | cons c l ih =>
    unfold takeBeats
    split
    · exact ih h
    · exact h.takeBeat.bind fun h => by
        dsimp only
        split
        · exact ih h
        · exact ih h

protected theorem Run.Canonical.vDescDst {v : VDesc} {step : BitVec 12} {rep : Nat} {act : List Bool} {vals : List W32}
    (h : r.Canonical) : (VDesc.dst v step rep act vals r).Canonical := by
  unfold VDesc.dst
  repeat' split
  exacts [h, MemoryCanonical.modVregs h, h.pack.tryFlush]

protected theorem Run.Canonical.vDescRoom {v : VDesc} (h : r.Canonical) : (VDesc.room v r).Canonical := by
  unfold VDesc.room
  repeat' split
  exacts [h.flushFull, .ok h]

protected theorem Run.Canonical.endReads {l : List Nat} (h : r.Canonical) : (endReads l r).Canonical := by
  induction l generalizing r with
  | nil => exact .ok h
  | cons c l ih => exact h.endRead.bind fun h => ih h

protected theorem Run.Canonical.vDescEnds {v : VDesc} (h : r.Canonical) : (VDesc.ends v r).Canonical :=
  h.endReads.bind fun h => by
    repeat' split
    exacts [h.endWrite, .ok h]

protected theorem Run.Canonical.vDescRep {v : VDesc} {step : BitVec 12}
    {f : List Bool → List W32 → List W32 → List W32 → List W32 × List Bool} {rep : Nat} (h : r.Canonical) :
    (VDesc.rep v step f rep r).Canonical := h.takeBeats.bind fun h => h.vDescRoom.bind fun h => .ok (Run.Canonical.vDescDst h)

protected theorem MemoryCanonical.vecExec {u : VUses} {w : EW}
    {f : VDesc → List Bool → List W32 → List W32 → List W32 → List W32 × List Bool} (h : MemoryCanonical s) :
    NextCanonical (vecExec u w f s) :=
  h.engineExec fun h => by
    repeat' split
    exacts [.none, .some (fun _ _ h => h.loopWord (fun h => h.vDescRep) fun h => h.vDescEnds)]

protected theorem MemoryCanonical.execVsmx {w : EW} (h : MemoryCanonical s) : NextCanonical (execVsmx w s) :=
  h.engineExec fun h => by
    repeat' split
    · exact .none
    · exact .none
    · exact .none
    · exact .some (fun _ _ h => h.loopWord (fun h => h.vDescRep) fun h => h.vDescEnds.bind fun h => .ok (MemoryCanonical.modVregs h))

protected theorem Run.Canonical.vMoveLoad {v : VMove} {u : Use} {rep k : Nat} (h : r.Canonical) : (VMove.load v u rep k r).Canonical :=
  h.patFetch.bind fun h => h.patGet.bind fun h => by
      repeat' split
      exacts [.ok (MemoryCanonical.modVregs h.patUsed), .ok h.patUsed]

protected theorem Run.Canonical.vMoveStore {v : VMove} {u : Use} {rep k : Nat} (h : r.Canonical) :
    (VMove.store v u rep k r).Canonical := h.patRoom.bind fun h => h.patPut

protected theorem MemoryCanonical.vloadExec {acc : Bool} {w : EW} (h : MemoryCanonical s) : NextCanonical (vloadExec acc w s) :=
  h.engineExec fun h => by
    repeat' split
    · exact .none
    · exact .some (fun _ _ h => h.loopWord (fun h => h.vMoveLoad) fun h => h.endRead)
    · exact .some (fun _ _ h => h.loopWord (fun h => h.vMoveLoad) fun h => .ok h)

protected theorem MemoryCanonical.vstoreExec {acc : Bool} {w : EW} (h : MemoryCanonical s) : NextCanonical (vstoreExec acc w s) :=
  h.engineExec fun h => by
    repeat' split
    · exact .none
    · exact .some (fun _ _ h => h.loopWord (fun h => h.vMoveStore) fun h => h.endWrite)
    · exact .some (fun _ _ h => h.loopWord (fun h => h.vMoveStore) fun h => .ok h)

protected theorem Run.Canonical.vDescBegin {v : VDesc} {step : BitVec 12} {rep : Nat} (h : r.Canonical) :
    (VDesc.begin v step rep r).Canonical := by
  unfold VDesc.begin
  repeat' split
  exacts [.ok h, h.takeBeats.bind fun h => h.vDescRoom.bind fun h => .ok h]

protected theorem Run.Canonical.vDescLanePut {v : VDesc} {step : BitVec 12} {rep j : Nat} {write : Bool} {x : W32}
    (h : r.Canonical) : (VDesc.lanePut v step rep j write x r).Canonical := by
  unfold VDesc.lanePut
  repeat' split
  exacts [h, MemoryCanonical.modVregs h, h, h.pack.tryFlush, h.pack.tryFlush]

protected theorem Run.Canonical.vDescLaneMem {v : VDesc} {p : Pat} {ibound : Nat} {u : Use} {rep j : Nat} (h : r.Canonical) :
    (VDesc.laneMem v p ibound u rep j r).Canonical :=
  h.vDescBegin.bind fun h => by
    dsimp only
    repeat' split
    · exact .ok h.vDescLanePut
    · exact .ok h.vDescLanePut
    · exact .ok h.vDescLanePut
    · exact .ok h.vDescLanePut
    · exact h.patPlaceAt.bind fun h => .ok h.vDescLanePut
    · exact h.patPlaceAt.bind fun h => .ok h.vDescLanePut
    · exact h.patPlaceAt.bind fun h => .ok (MemoryCanonical.of_wf (putBytes_wf _ _ h))
    · exact h.patPlaceAt.bind fun h => .ok (MemoryCanonical.of_wf (putBytes_wf _ _ h))

protected theorem MemoryCanonical.gatherExec {gather : Bool} {w : EW} (h : MemoryCanonical s) : NextCanonical (gatherExec gather w s) :=
  h.engineExec fun h => by
    dsimp only
    repeat' split
    exacts [.some (fun _ _ h => h.loopWord (fun h => h.vDescLaneMem) fun h => h.vDescEnds), .none]

end Sys2Proof.Machine
end

section
/-!
SUPPORT. Each move and each step keeps the canonical form of memory: O58.
-/

namespace Sys2Proof.Machine

variable {s : State} {r : Run}

/-! ### Every instruction and every event -/

protected theorem MemoryCanonical.exec {i : Instr} (h : MemoryCanonical s) : NextCanonical (exec i s) := by
  unfold exec
  split
  exacts [h.coreExec fun h => .trap h, h.execMfsr, h.execMtsr, h.opValue, h.opValue, h.opValue, h.opValue, h.opValue, h.opValue,
    h.opValue, h.opValue, h.opValue, h.opValue, h.opValue, h.opValue, h.opValue, h.opValue, h.opValue, h.opValue, h.opValue, h.opValue,
    h.opValue, h.opValue, h.opValue, h.opValue, h.opValue, h.opValue, h.opDivide, h.opDivide, h.opDivide, h.opDivide, h.opValue,
    h.opDivide, h.opDivide, h.opDivide, h.opDivide, h.opOne, h.opOne, h.opOne, h.opOne, h.opOne, h.opValue, h.opValue, h.coreWrite,
    h.opOne, h.opOne, h.opOne, h.opOne, h.opOne, h.opOne, h.opOne, h.opOne, h.opOne, h.coreWrite, h.opValue, h.opValue, h.opValue,
    h.opValue, h.opOne, h.opOne, h.fpValue, h.fpValue, h.fpValue, h.fpValue, h.fpOne, h.fpValue, h.fpValue, h.coreWrite, h.fpValue,
    h.fpTest, h.fpTest, h.fpTest, h.coreWrite, h.fpOne, h.fpOne, h.fpOne, h.fpOne, h.execFcvt, h.coreWrite, h.coreWrite, h.coreWrite,
    h.branch, h.branch, h.branch, h.branch, h.branch, h.branch, h.coreExec fun h => h.transfer h, h.coreExec fun h => h.transfer h.setReg,
    h.coreExec fun h => h.transfer h, h.coreExec fun h => h.transfer h.setReg, h.execLoopb, h.coreExec fun h => .next h.setLc,
    h.coreWrite, h.coreExec fun h => h.loadBody, h.coreExec fun h => h.storeBody, h.coreExec fun h => h.withPad fun h => .next h.setReg,
    h.execStl, h.coreWrite, h.coreExec fun h => .next h.modCore, h.coreWrite, h.coreExec fun h => .next h.modCur, h.execLdq, h.execStq,
    h.coreExec fun h => h.loadBody, h.execStrel, h.coreExec fun h => h.queueMark, h.execPref, h.coreExec fun h => h.loadBody,
    h.coreExec fun h => h.storeBody, h.atomExec, h.atomExec, h.atomExec, h.atomExec, h.atomExec, h.atomExec, h.atomExec, h.atomExec,
    h.atomExec, h.atomExec, h.atomExec, h.atomExec, h.execDqput, h.coreExec fun h => h.dqTake, h.coreExec fun h => h.dqTake,
    h.coreExec fun h => .next h.setReg, h.execTksend, h.execTkwait, h.execTktry, h.coreExec fun h => .next h.setReg, h.ringPlain,
    h.ringPlain, h.ringPlain, h.ringPlain, h.ringPlain, h.ringPlain, h.execRgstat, h.ringExec (fun h => h.ringAct) fun h => h.ringDone,
    h.ringPlain, h.ringPlain, h.execTglook, h.execTgset, h.coreExec fun h => h.withGeom (h.withSlot h.postLocal),
    h.coreExec fun h => h.withGeom h.postLocal, h.coreExec fun h => h.withGeom (h.inLocalQueue fun h => .next h.setReg), h.caPut, h.caPut,
    h.execCaget, h.caNamed fun h => .ok h.setCa, h.execCadrop, h.caSlot fun h => .ok h.readSlot, h.execCarootRef,
    h.caSlot fun h => h.caChecked fun h => .ok h.writeSlot, h.execCacas, h.execSpawn, h.execJoin, h.execAllot, h.execShrink, h.execPhase,
    h.execCopen, h.execCland, h.execChold, h.execCclose, h.coreExec fun h => .next h.setReg, h.execDmset, h.execDmready, h.execDmwait,
    h.execDmstat, h.execPwsave, h.execPwrest, h.execPwrdy, h.coreExec fun h => .next h.setReg, h.execTlbinv, h.execTlbprb, h.execPerfrd,
    h.execPerfclr, h.execHostint, h.execHostsig, h.plainWord fun h => h, h.plainWord fun h => h, h.plainWord fun h => h.modEng,
    h.plainWord fun h => h.modEng.ite h, h.plainWord fun h => h.modEng, h.plainWord fun h => h, h.execSwlink, h.execSwcut, h.execMldb,
    h.mmaExec, h.mmaExec, h.execMclr, h.execMthr, h.execMrdc, h.execMout, h.vloadExec, h.vstoreExec, h.vloadExec, h.vstoreExec, h.vecExec,
    h.vecExec, h.vecExec, h.vecExec, h.vecExec, h.vecExec, h.vecExec, h.vecExec, h.vecExec, h.vecExec, h.vecExec, h.vecExec, h.vecExec,
    h.vecExec, h.vecExec, h.vecExec, h.vecExec, h.vecExec, h.vecExec, h.vecExec, h.gatherExec, h.gatherExec, h.execVsmx, h.execTxblk,
    h.execTxcvt, h.execTxgat, h.execCpy, h.execCpyred, h.execCpypk, h.execCpyck, h.execCpycode, h.execCpyout, h.execWpatch,
    h.cellRead fun h => .ok h.pw, h.execWrun, h.execWsamp, h.execWsave, h.cellRead fun h => .ok h.pw, h.execWdom,
    h.coreExec fun h => .next h, h.execEret, h.coreExec fun h => h.queueMark, h.execRend,
    h.coreExec fun h => h.afterRelease fun h => .next h.modCur.settleDeps, h.execWaitdep, h.coreExec fun h => .next h.modTile, h.execExit,
    h.execSwpt, h.coreExec fun h => h.invalidateAfter, .next h.resetPackage, .next h.fullService, .next h.updateFirmware,
    h.execQuoteRequest, h.execMeasExtend, .next (h.writeWindow.getD h), .next (h.writeTroot.getD h), .next h.writeHbmsplit,
    .next h.writeTbudget, .next h.modTen.submitMigration, .next h.hostMmio, .next h.runMigration, .next h.completeMigration,
    .next h.popHostFault.dwordAnswer, h.execPageWalk, .next h.hostAccess, .next h.hostAccess, .next h.retryHeld, .next h.expireHeld,
    .next h.caEnable, .next (h.caDisable.getD h), .next (h.catenWrite.getD h), h.execHomeRequest, h.execRequestReissue,
    h.execRequestTimeout, .next h.linkError, .next h.caReclaim, .next h.caFinish, .next h.ringEvent, .next h.ringEvent, .next h.ringEvent,
    .next h.ringEvent, .next h.nbDeliver, h.execLaunchSubmit, .next h.readLqstat.dwordAnswer, .next h.takeLaunch, .next h.expand,
    .next h.dispatch, .next h.retireJob, .next h.settleTenant.offIfDone, .next h.teardown, .next h.enableTenant, .next h.freezeOn,
    h.execXcoreStopTimeout, h.execDeferredFault, .next h.writeFaultRecord, .next h.readFqlost.dwordAnswer, .next h.jctlWrite,
    .next h.jctlWrite, .next h.preemptDecide, .next h.drainExpire, .next h.checkpoint, .next h.checkpointResume, h.execScaleQueueTimeout,
    .next h.modJob, .next h.modPkg, h.execDroopReexecute, .next h.modPort, .next h.modPlane, h.execLaneFailure, .next h.modPort,
    .next h.isolatePort, .next h.retrainPort, h.execCircuitBeatLand, h.execBreakNotice, h.execLeaseExpiry, h.execFlowMeterWindowEnd,
    h.execFlowProbe, h.execFlowPromote, h.execHoldoffExpire, h.execFlowIdleClose, .next h.fire, .next h.complete, h.execCapEvaluate,
    .next h.ceilingFall, h.execSensorSample, .next h.clearSensor, .next h.fieldTest, .next h.linkDown, .next h.signalRecord,
    .next h.dropUndelivered, .next h.hostMmio, .next h.hostMmio, .next h.hostRead, .next h.quiesceStop, .next h.quiesceDeadline,
    .next h.quiesceIsolate, .next h.quiesceResume, h.execMmioImemWrite, h.execMmioTagWindowWrite, h.execMmioSysregWrite,
    h.execMmioRegisterWrite, h.execTileAddressedRequest, h.execBreakSignalArrival, h.execIllegalInstruction, h.execEngineDecodeFailure,
    .next h.powerOff]

/-! ### Turns -/

protected theorem MemoryCanonical.tick {p : Nat} (h : MemoryCanonical s) : MemoryCanonical (State.tick p s) := h

protected theorem NextCanonical.ticked {ends : Bool} {p : Nat} {a : Host.Outcome State Fault Refusal} (ha : NextCanonical a) :
    NextCanonical (ticked ends p a) := by
  cases ha with
  | next h => exact .next (h.tick.ite h)
  | fault => exact .fault
  | refused => exact .refused

protected theorem MemoryCanonical.coreTurn {j : Job} (h : MemoryCanonical s) : NextCanonical (s.coreTurn j) := by
  unfold State.coreTurn
  repeat' split
  all_goals exact h.exec

protected theorem MemoryCanonical.engineTurn {j : Job} (h : MemoryCanonical s) : NextCanonical (s.engineTurn j) := by
  unfold State.engineTurn
  dsimp only
  repeat' split
  exacts [.next h.runLoad, .next h.settlePush, h.exec, h.exec]

protected theorem NextCanonical.unfrozen {key : Nat} {a : Host.Outcome State Fault Refusal} (ha : NextCanonical a) :
    NextCanonical (unfrozen key a) := by
  cases ha with
  | next h => exact .next h.freezeOn
  | fault => exact .fault
  | refused => exact .refused

protected theorem MemoryCanonical.streamMove (h : MemoryCanonical s) : NextCanonical s.streamMove := by
  unfold State.streamMove
  repeat' split
  exacts [.next h, .next h, h.coreTurn, h.engineTurn.unfrozen]

protected theorem MemoryCanonical.upsetAt {a : Nat} {bad : Bool} (h : MemoryCanonical s) : MemoryCanonical (s.upsetAt a bad) :=
  h

protected theorem MemoryCanonical.ringMeets {k n : Nat} {double : Bool} (h : MemoryCanonical s) :
    MemoryCanonical (s.ringMeets k n double) := h.putRing.ite h.setRing

protected theorem MemoryCanonical.eventMove {i : Instr} {a : Args} (h : MemoryCanonical s) : NextCanonical (s.eventMove i a) := by
  unfold State.eventMove
  split
  · exact MemoryCanonical.exec h
  · exact .next h

protected theorem MemoryCanonical.vfMask {p u : Nat} {masked : Bool} (h : MemoryCanonical s) : MemoryCanonical (s.vfMask p u masked) :=
  h.ite h.maskFunction

protected theorem MemoryCanonical.move {a : Turn} (h : MemoryCanonical s) : NextCanonical (s.move a) := by
  unfold State.move
  split
  · exact NextCanonical.ticked (MemoryCanonical.streamMove h)
  · exact MemoryCanonical.streamMove h
  · exact NextCanonical.ticked h.eventMove
  · exact h.eventMove
  · exact .next h
  · refine .next ?_
    split
    · exact h.acceptReq
    · exact h
  · exact .next h.upsetAt
  · exact .next (h.ringMeets.ite h)
  · exact .next h.linkComesUp
  · exact .next h.hostRead
  · exact .next h.vfMask
  · exact .next (MemoryCanonical.ite (s := { s with answer := _ }) h h)
  · exact .next h.dieLaneFails
  · exact .next h.columnFails

protected theorem MemoryCanonical.serveUnits (h : MemoryCanonical s) : MemoryCanonical s.serveUnits.2 := by
  unfold State.serveUnits
  exact List.foldlRecOn (motive := fun (x : List Turn × State) => MemoryCanonical x.2) s.units _ h
    fun _ ht _ _ => MemoryCanonical.modTile ht

protected theorem MemoryCanonical.ownMoves (h : MemoryCanonical s) : MemoryCanonical s.ownMoves.2 := by
  unfold State.ownMoves
  repeat' split
  exact h.serveUnits.of_snd ‹_›

protected theorem MemoryCanonical.beginCycle {l : List Turn} (h : MemoryCanonical s) : MemoryCanonical (s.beginCycle l).2 := by
  unfold State.beginCycle
  repeat' split
  all_goals exact h

protected theorem MemoryCanonical.nextMove (h : MemoryCanonical s) : MemoryCanonical s.nextMove.2 := by
  unfold State.nextMove
  split
  · exact h
  · exact MemoryCanonical.beginCycle h
  · exact MemoryCanonical.beginCycle h.ownMoves

/-! ### A step -/

protected theorem MemoryCanonical.step (h : MemoryCanonical s) : NextCanonical (step s) := h.nextMove.move

end Sys2Proof.Machine
end

section
/-!
O58: an invariant of every step.
-/

namespace Sys2Proof.Machine

/-- Settles O58: a step takes the next move, and each move keeps the canonical form. -/
theorem canonicalMemoryKept : Obligations.CanonicalMemoryKept := by
  unfold Obligations.CanonicalMemoryKept
  intro s t h hst
  have hn : NextCanonical (step s) := h.step
  rw [hst] at hn
  cases hn with
  | next h => exact h

end Sys2Proof.Machine
end

section
/-!
SUPPORT. What moves as the queues of the core contexts go on after an access is over (05 R119; 02 R65): entries leave or end, and the translation
of one that goes again moves units; no result that a place has kept, no area of a tenant and no entry of a data queue, and memory only by
what stands in a local queue.
-/

namespace Sys2Proof.Machine

/-- `t` is `s` after queues have gone on: `t` has no entry that `s` had not. -/
structure QueuesGone (s t : State) : Prop where
  tenants : t.tenants = s.tenants
  kept : t.kept = s.kept
  jobs : ∀ k j, s.jobAt k = some j → ∃ j', t.jobAt k = some j' ∧ j'.dq = j.dq
  reqs : ∀ q ∈ t.reqs, ∃ p ∈ s.reqs, p.id = q.id ∧ p.op = q.op
  mem : (∀ q ∈ s.reqs, q.op.isOwn = false) → t.mem = s.mem

theorem QueuesGone.refl (s : State) : QueuesGone s s :=
  ⟨rfl, rfl, fun _ j hj => ⟨j, hj, rfl⟩, fun q hq => ⟨q, hq, rfl, rfl⟩, fun _ => rfl⟩

theorem QueuesGone.trans {s t u : State} (h1 : QueuesGone s t) (h2 : QueuesGone t u) : QueuesGone s u where
  tenants := h2.tenants.trans h1.tenants
  kept := h2.kept.trans h1.kept
  jobs k j hj := by
    obtain ⟨j', hj', hdq⟩ := h1.jobs k j hj
    obtain ⟨j'', hj'', hdq'⟩ := h2.jobs k j' hj'
    exact ⟨j'', hj'', hdq'.trans hdq⟩
  reqs q hq := by
    obtain ⟨p, hp, hid, hop⟩ := h2.reqs q hq
    obtain ⟨p', hp', hid', hop'⟩ := h1.reqs p hp
    exact ⟨p', hp', hid'.trans hid, hop'.trans hop⟩
  mem hown := by
    refine (h2.mem fun q hq => ?_).trans (h1.mem hown)
    obtain ⟨p, hp, -, hop⟩ := h1.reqs q hq
    exact hop ▸ hown p hp

theorem QueuesGone.foldl {α : Type} {f : State → α → State} (h : ∀ s x, QueuesGone s (f s x)) (l : List α) (s : State) :
    QueuesGone s (l.foldl f s) := by
  induction l generalizing s with
  | nil => exact .refl s
  | cons x l ih => exact (h s x).trans (ih _)

theorem MovesUnits.queuesGone {s t : State} (h : MovesUnits s t) : QueuesGone s t := by
  obtain ⟨_, _, rfl⟩ := h
  exact ⟨rfl, rfl, fun _ j hj => ⟨j, hj, rfl⟩, fun q hq => ⟨q, hq, rfl, rfl⟩, fun _ => rfl⟩

section
variable (s : State) (r : Req)

theorem queuesGone_dropReq (id : Nat) : QueuesGone s (s.dropReq id) :=
  ⟨rfl, rfl, fun _ j hj => ⟨j, hj, rfl⟩, fun q hq => ⟨q, List.mem_of_mem_filter hq, rfl, rfl⟩, fun _ => rfl⟩

theorem queuesGone_modReq (id : Nat) {f : Req → Req} (hf : ∀ q, (f q).id = q.id ∧ (f q).op = q.op) : QueuesGone s (s.modReq id f) := by
  refine ⟨rfl, rfl, fun _ j hj => ⟨j, hj, rfl⟩, fun q hq => ?_, fun _ => rfl⟩
  obtain ⟨p, hp, rfl⟩ := List.mem_map.mp hq
  refine ⟨p, hp, ?_⟩
  split
  · exact ⟨(hf p).1.symm, (hf p).2.symm⟩
  · exact ⟨rfl, rfl⟩

theorem queuesGone_modIssuer (b : Issuer) {f : Job → Job} (hf : ∀ j, (f j).dq = j.dq) : QueuesGone s (s.modIssuer b f) := by
  unfold State.modIssuer
  split
  · next i hi =>
    refine ⟨rfl, rfl, fun k j hj => ?_, fun q hq => ⟨q, hq, rfl, rfl⟩, fun _ => rfl⟩
    by_cases hk : k = b.key
    · subst hk
      have hij : i = j := by
        unfold State.issuerJob at hi
        rw [hj] at hi
        dsimp only at hi
        split at hi
        · exact (Option.some.inj hi).symm
        · exact absurd hi nofun
      exact ⟨f i, setJob_jobAt_same _ _ _, hij ▸ hf i⟩
    · exact ⟨j, (setJob_jobAt_ne _ _ _ _ hk).trans hj, rfl⟩
  · exact .refl s

theorem queuesGone_failReq (c : Cause) : QueuesGone s (s.failReq r c) := by
  have hnote := queuesGone_modIssuer s r.by_ (f := fun j => { j with deferred := j.deferred ++ [r.faultInfo c] }) fun _ => rfl
  unfold State.failReq
  split
  · exact queuesGone_dropReq s r.id
  dsimp only
  split
  · exact hnote.trans (queuesGone_modReq _ _ fun _ => ⟨rfl, rfl⟩)
  split
  · exact hnote.trans (queuesGone_modReq _ _ fun _ => ⟨rfl, rfl⟩)
  · exact hnote.trans (queuesGone_dropReq _ _)

theorem queuesGone_takeSeq (n target : Nat) : QueuesGone s (s.takeSeq n target).2 :=
  ⟨rfl, rfl, fun _ j hj => ⟨j, hj, rfl⟩, fun q hq => ⟨q, hq, rfl, rfl⟩, fun _ => rfl⟩

theorem queuesGone_depart : QueuesGone s (s.depart r) :=
  ((movesUnits_modTile s _ _).queuesGone.trans (queuesGone_takeSeq _ _ _)).trans (queuesGone_modReq _ _ fun _ => ⟨rfl, rfl⟩)

theorem queuesGone_transAgain : QueuesGone s (s.transAgain r).1 := by
  unfold State.transAgain
  refine QueuesGone.trans ?_ (movesUnits_translate _ _ _ _ _ _ _).queuesGone
  split
  · exact .refl s
  · exact (movesUnits_modTile s _ _).queuesGone.trans (queuesGone_modReq _ _ fun _ => ⟨rfl, rfl⟩)

variable {s r}

/-- An access of a local queue performs: it alone can change memory. -/
theorem queuesGone_performOwn {op : LocalOp} (hr : r ∈ s.reqs) (hop : r.op = .own op) : QueuesGone s (s.performOwn op r) := by
  unfold State.performOwn
  dsimp only
  split
  · exact .refl s
  split
  · exact queuesGone_failReq s r _
  · have happly : s.applyReq r = { s with mem := op.act s.mem (keyPkg r.by_.key) (keyTile r.by_.key) r.va.toNat r.size r.data } := by
      unfold State.applyReq
      rw [hop]
    rw [happly]
    refine ⟨rfl, rfl, fun _ j hj => ⟨j, hj, rfl⟩, fun q hq => ⟨q, List.mem_of_mem_filter hq, rfl, rfl⟩, fun hown => ?_⟩
    exact absurd (hown r hr) (by simp [hop, ReqOp.isOwn])

theorem queuesGone_letGo (hr : r ∈ s.reqs) (older : List Req) : QueuesGone s (s.letGo older r) := by
  unfold State.letGo
  split
  · exact .refl s
  split
  · exact queuesGone_dropReq s r.id
  · exact queuesGone_dropReq s r.id
  · next hop => exact queuesGone_performOwn hr hop
  · exact (queuesGone_dropReq s r.id).trans (queuesGone_modIssuer _ _ fun _ => rfl)
  · have htrans := queuesGone_transAgain s r
    split
    · exact .refl s
    split
    · exact queuesGone_depart s r
    split
    next he =>
      rw [he] at htrans
      exact htrans.trans (queuesGone_failReq _ _ _)
    next he =>
      rw [he] at htrans
      exact htrans
    next t _ pa he =>
      rw [he] at htrans
      have hmod : QueuesGone t (t.modReq r.id (fun q => { q with pa := pa, missed := false })) :=
        queuesGone_modReq t r.id fun _ => ⟨rfl, rfl⟩
      exact (QueuesGone.trans htrans hmod).trans (queuesGone_depart _ _)

theorem queuesGone_advance1 (s : State) (id : Nat) : QueuesGone s (s.advance1 id) := by
  unfold State.advance1
  split
  · exact .refl s
  next r hfind =>
    split
    · exact queuesGone_letGo (List.mem_of_find?_eq_some hfind) _
    · exact .refl s

theorem queuesGone_advance (s : State) (b : Issuer) : QueuesGone s (s.advance b) := QueuesGone.foldl queuesGone_advance1 _ s

theorem queuesGone_advanceOwn (s : State) : QueuesGone s s.advanceOwn := QueuesGone.foldl queuesGone_advance _ s
end

end Sys2Proof.Machine
end

section
/-!
SUPPORT. A request that performs at its place and is answered (05 R120 to R122; 02 R63, R67), and O22.
-/

namespace Sys2Proof.Machine

/-! ### The effect at the place -/

section
variable (s : State) (r : Req)

/-- The job that has issued a request may have changed, and nothing else. -/
theorem modIssuer_eq (b : Issuer) (f : Job → Job) : ∃ jobs, s.modIssuer b f = { s with jobs := jobs } := by
  unfold State.modIssuer
  split
  · exact ⟨_, rfl⟩
  · exact ⟨s.jobs, rfl⟩

/-- A request at its place moves of the packages, the queues and the kept results what it moves in the caches of homes. -/
theorem applyReq_moves : ∃ t, MovesBuffers s t ∧ (s.applyReq r).pkgs = t.pkgs ∧ (s.applyReq r).reqs = t.reqs ∧
    (s.applyReq r).kept = t.kept := by
  unfold State.applyReq
  split
  · obtain ⟨jobs, hjobs⟩ := modIssuer_eq (s.touchHome r.pa r.size .load) r.by_ _
    refine ⟨_, movesBuffers_touchHome s r.pa r.size .load, ?_⟩
    dsimp only
    rw [hjobs]
    exact ⟨rfl, rfl, rfl⟩
  · exact ⟨_, movesBuffers_touchHome s (lineBase r.pa) 192 .pref, rfl, rfl, rfl⟩
  · exact ⟨s, .refl s, rfl, rfl, rfl⟩
  · exact ⟨_, movesBuffers_touchHome s r.pa r.size .store, rfl, rfl, rfl⟩
  · exact ⟨_, movesBuffers_touchHome s r.pa r.size .store, rfl, rfl, rfl⟩
  · exact ⟨_, movesBuffers_touchHome s r.pa r.size _, rfl, rfl, rfl⟩

theorem applyReq_reqs : (s.applyReq r).reqs = s.reqs := by
  obtain ⟨t, ht, -, hreqs, -⟩ := applyReq_moves s r
  exact hreqs.trans ht.reqs

theorem applyReq_kept : (s.applyReq r).kept = s.kept := by
  obtain ⟨t, ⟨⟨_, rfl⟩, -⟩, -, -, hkept⟩ := applyReq_moves s r
  exact hkept

theorem applyReq_targetNum (pa : Nat) : (s.applyReq r).targetNum pa = s.targetNum pa := by
  obtain ⟨t, ht, hpkgs, -, -⟩ := applyReq_moves s r
  rw [← ht.targetNum pa, State.targetNum, State.targetNum, placeOf_pkgs hpkgs]

variable {s r}

theorem applyReq_store (hop : r.op = .store ∨ r.op = .hostsig ∨ ∃ sc, r.op = .strel sc) :
    (s.applyReq r).mem = writeLe s.mem r.pa r.size r.data.toNat := by
  unfold State.applyReq
  obtain hop | hop | ⟨sc, hop⟩ := hop
  · rw [hop]
    exact congrArg (writeLe · r.pa r.size r.data.toNat) (movesBuffers_touchHome s _ _ _).mem
  · rw [hop]
    exact congrArg (writeLe · r.pa r.size r.data.toNat) (movesBuffers_touchHome s _ _ _).mem
  · rw [hop]
    exact congrArg (writeLe · r.pa r.size r.data.toNat) (movesBuffers_touchHome s _ _ _).mem

theorem applyReq_atomic {op : BitVec 4} {sc : Option Scope} (hop : r.op = .atomic op sc) :
    (s.applyReq r).mem = atomMem s.mem r.pa r.size op (r.data.toNat % 2 ^ (8 * r.size)) 0 := by
  unfold State.applyReq
  rw [hop]
  exact congrArg (atomMem · r.pa r.size op _ 0) (movesBuffers_touchHome s _ _ _).mem

theorem applyReq_hostsig (hop : r.op = .hostsig) :
    ((s.applyReq r).tenAt (keyPkg r.by_.key) r.tenant.toNat).signals =
      (s.tenAt (keyPkg r.by_.key) r.tenant.toNat).signals ++ [(r.va, r.data, s.wall)] := by
  obtain ⟨⟨pkgs, ht⟩, -⟩ := movesBuffers_touchHome s r.pa r.size .store
  unfold State.applyReq
  rw [hop]
  dsimp only
  rw [ht, modTen_tenAt_same]
  rfl

/-- The load of an LDQ leaves memory, and fills the entries of its queue that wait for it. -/
theorem applyReq_ldq {q : Nat} {signed : Bool} {j : Job} (hop : r.op = .ldq q signed) (hq : q < 4) (hj : s.jobAt r.by_.key = some j)
    (hjid : j.jid = r.by_.jid) :
    (s.applyReq r).mem = s.mem ∧ (s.applyReq r).jobAt r.by_.key =
      some { j with dq := vset j.dq q (fillDq r.id (extend r.size signed (readLe s.mem r.pa r.size)) (vget j.dq q)) } := by
  obtain ⟨⟨pkgs, ht⟩, -⟩ := movesBuffers_touchHome s r.pa r.size .load
  have hissuer : (s.touchHome r.pa r.size .load).issuerJob r.by_ = some j := by
    rw [ht]
    simp only [State.issuerJob, State.jobAt] at hj ⊢
    rw [hj]
    exact if_pos hjid
  have hmem : (s.touchHome r.pa r.size .load).mem = s.mem := (movesBuffers_touchHome s _ _ _).mem
  unfold State.applyReq
  rw [hop]
  dsimp only
  unfold State.modIssuer
  rw [hissuer, hmem]
  dsimp only
  refine ⟨hmem, ?_⟩
  rw [setJob_jobAt_same, if_neg (by omega)]

/-! ### The answer -/

/-- An access whose answer comes back is over; the place keeps the result of what is no load. -/
theorem finishReq_back : s.finishReq r true = { s with
    reqs := s.reqs.filter (fun q => q.id != r.id)
    kept := if r.op.isLoad then s.kept else keepResult s.kept ⟨r.by_.queue false, s.targetNum r.pa, r.seq, 0, []⟩ } := by
  unfold State.finishReq
  split
  · simp [State.dropReq]
  · simp [State.dropReq]

/-- A request that arrives, at a place that is there and sound, has its effect and is over before the queues go on. -/
theorem performReq_answered (hmay : s.mayPerform r = true) (hway : s.wayOf r = .through) (habs : s.absent r.pa = false)
    (hsound : s.flawed r.pa r.size = false) : QueuesGone ((s.applyReq r).finishReq r true) (s.performReq r) := by
  have heq : s.performReq r = (((s.applyReq r).finishReq r true).advance r.by_).advanceOwn := by
    have hback : (Passage.through != Passage.unanswered) = true := by decide
    simp [State.performReq, hmay, hway, habs, hsound, hback]
  rw [heq]
  exact (queuesGone_advance _ _).trans (queuesGone_advanceOwn _)

section
variable (hgone : QueuesGone ((s.applyReq r).finishReq r true) (s.performReq r))
include hgone

theorem performReq_over : ∀ q ∈ (s.performReq r).reqs, q.id ≠ r.id := by
  intro q hq
  obtain ⟨p, hp, hid, -⟩ := hgone.reqs q hq
  rw [finishReq_back] at hp
  rw [← hid]
  simpa using (List.mem_filter.mp hp).2

/-- With no access of a local queue about, memory is as the request leaves it. -/
theorem performReq_mem (hown : ∀ q ∈ s.reqs, q.op.isOwn = false) : (s.performReq r).mem = (s.applyReq r).mem := by
  refine (hgone.mem fun q hq => ?_).trans (by rw [finishReq_back])
  rw [finishReq_back] at hq
  exact hown q (applyReq_reqs s r ▸ List.mem_of_mem_filter hq)

theorem performReq_tenAt (p u : Nat) : (s.performReq r).tenAt p u = (s.applyReq r).tenAt p u := by
  unfold State.tenAt
  rw [hgone.tenants, finishReq_back]

theorem performReq_kept (hop : r.op.isLoad = false) :
    (s.performReq r).kept = keepResult s.kept ⟨r.by_.queue false, s.targetNum r.pa, r.seq, 0, []⟩ := by
  rw [hgone.kept, finishReq_back, hop, applyReq_kept, applyReq_targetNum]
  rfl

theorem performReq_dq {k : Nat} {j : Job} (hj : (s.applyReq r).jobAt k = some j) :
    ∃ j', (s.performReq r).jobAt k = some j' ∧ j'.dq = j.dq :=
  hgone.jobs k j (by rw [finishReq_back]; exact hj)
end

/-- An access of a local queue that nothing keeps performs at once, and leaves the queue. -/
theorem letGo_own {op : LocalOp} {older : List Req} (hop : r.op = .own op) (hfree : older.any (fun a => s.bars a r) = false)
    (hbank : s.bankFree (keyPkg r.by_.key) (keyTile r.by_.key) = true)
    (hsound : op.flawed s (keyPkg r.by_.key) (keyTile r.by_.key) r.va.toNat r.size = false) :
    s.letGo older r = { s with
      mem := op.act s.mem (keyPkg r.by_.key) (keyTile r.by_.key) r.va.toNat r.size r.data
      reqs := s.reqs.filter (fun q => q.id != r.id) } := by
  simp [State.letGo, State.performOwn, State.applyReq, State.dropReq, hop, hfree, hbank, hsound]

end

theorem vget_vset_same {α : Type} {n : Nat} (v : Vector α (n + 1)) (i : Nat) (x : α) : vget (vset v i x) i = x :=
  Vector.getElem_set_self _

/-- Settles O22: the request has its effect and leaves the queues (`performReq_answered`); what then goes on in the queues undoes none of it. -/
theorem requestsPerform : Obligations.RequestsPerform := by
  unfold Obligations.RequestsPerform
  intro s r hmay hway habs hsound
  have hgone := performReq_answered hmay hway habs hsound
  refine ⟨performReq_over hgone, ?stores, ?atomics, ?own, ?signal, performReq_kept hgone, ?ldq⟩
  case stores =>
    intro hop hown
    have hmem := (performReq_mem hgone hown).trans (applyReq_store hop)
    exact ⟨hmem, fun n hn => by rw [hmem]; exact readByte_writeLe_out _ _ _ _ _ hn⟩
  case atomics => exact fun op sc hop hown => (performReq_mem hgone hown).trans (applyReq_atomic hop)
  case own => exact fun op older hop hfree hbank hflawed => letGo_own hop hfree hbank hflawed
  case signal =>
    intro hop
    rw [performReq_tenAt hgone]
    exact applyReq_hostsig hop
  case ldq =>
    intro q signed j hop hq hj hjid
    obtain ⟨hmem, hjob⟩ := applyReq_ldq hop hq hj hjid
    obtain ⟨j', hj', hdq⟩ := performReq_dq hgone hjob
    exact ⟨fun hown => (performReq_mem hgone hown).trans hmem, j', hj', by rw [hdq, vget_vset_same]; rfl⟩

end Sys2Proof.Machine
end

section
/-!
SUPPORT. What the marks of the order do to the queue of the core (05 R125, R128 to R130; 10 R264, R265; log 5), and O26.
-/

namespace Sys2Proof.Machine

/-! ### A mark in the queue of the core -/

/-- An entry that makes no access stays behind an older entry that keeps it, or is over at once. -/
theorem letGo_mark {s : State} {older : List Req} {r : Req} (h : r.op.isAccess = false) (ht : ∀ q, r.op ≠ .token q) :
    s.letGo older r = if older.any (fun a => s.bars a r) then s else s.dropReq r.id := by
  unfold State.letGo
  cases hop : r.op with
  | qmark => rfl
  | fence k sc => rfl
  | token q => exact absurd hop (ht q)
  | _ => simp [hop, ReqOp.isAccess] at h

section
variable {s : State} {op : ReqOp} {u : Tenant} {va v : Word} {pa point n : Nat} {noalloc : Bool}

/-- Where a mark is put, only the queues and the next number move, and no older entry leaves. -/
theorem queueUp_mark (h : op.isAccess = false) (ht : ∀ q, op ≠ .token q) :
    ∃ reqs, (s.queueUp s.issuer u op va pa point n v noalloc).2 = { s with fresh := s.fresh + 1, reqs := reqs } ∧
      (Quiet s → ∀ r ∈ reqs, r ∈ s.reqs) := by
  unfold State.queueUp
  dsimp only [State.take]
  rw [letGo_mark h ht]
  split_ifs with hbars
  · refine ⟨_, rfl, fun hq => ?_⟩
    obtain ⟨a, ha, hb⟩ := List.any_eq_true.mp hbars
    have hctx : (a.by_ == s.issuer) = false := hq.notOf a ha
    simp [State.bars, Req.sameCtx, hctx] at hb
  · refine ⟨_, rfl, fun _ r hr => ?_⟩
    obtain ⟨hmem, hid⟩ := List.mem_filter.mp hr
    rcases List.mem_append.mp hmem with hold | hnew
    · exact hold
    · rw [List.mem_singleton.mp hnew] at hid
      simp at hid

/-- An access stays behind an entry of the queue that keeps it (05 R125). -/
theorem queueUp_barred {a : Req} (ha : a ∈ s.reqs) (hb : ∀ r : Req, r.by_ = s.issuer → r.op = op → s.bars a r = true) :
    ∃ r, (s.queueUp s.issuer u op va pa point n v noalloc).2 = { s with fresh := s.fresh + 1, reqs := s.reqs ++ [r] } := by
  refine ⟨_, if_pos (List.any_eq_true.mpr ⟨a, ha, ?_⟩)⟩
  refine (bars_pkgs (t := s) ?_ a _).trans (hb _ ?_ ?_)
  all_goals rfl

theorem depart_ops (s : State) (r : Req) : (s.depart r).reqs.map Req.op = s.reqs.map Req.op := by
  show (s.reqs.map _).map Req.op = _
  rw [List.map_map]
  refine List.map_congr_left fun q _ => ?_
  dsimp only [Function.comp]
  split <;> rfl

end

/-- `t` is `s` but for what a translation and a request of a load queue move, and `ops` is what then stands in the queues. -/
def MovesRequests (s t : State) (ops : List ReqOp) : Prop :=
  t.reqs.map Req.op = ops ∧ ∃ pkgs tiles seqs fresh reqs, t = { s with pkgs, tiles, seqs, fresh, reqs }

section
variable {s t : State} {ops : List ReqOp}

theorem MovesUnits.movesRequests (h : MovesUnits s t) : MovesRequests s t (s.reqs.map Req.op) := by
  obtain ⟨pkgs, tiles, rfl⟩ := h
  exact ⟨rfl, pkgs, tiles, s.seqs, s.fresh, s.reqs, rfl⟩

/-- A prefetch that nothing older keeps departs: no list of posted writes bounds it. -/
theorem letGo_pref {older : List Req} {r : Req} (hop : r.op = .pref) (hst : r.st = .waiting) :
    s.letGo older r = if older.any (fun a => s.bars a r) then s else s.depart r := by
  have hfull : s.full r.by_ true r.pa = false := rfl
  simp [State.letGo, hop, hst, ReqOp.isLoad, hfull]

theorem movesRequests_queueUp_pref (s : State) (u : Tenant) (va : Word) (pa point : Nat) :
    MovesRequests s (s.queueUp s.issuer u .pref va pa point 1 0 false).2 (s.reqs.map Req.op ++ [.pref]) := by
  unfold State.queueUp
  dsimp only [State.take]
  rw [letGo_pref rfl rfl]
  split_ifs
  · exact ⟨List.map_append, _, _, _, _, _, rfl⟩
  · exact ⟨(depart_ops _ _).trans List.map_append, _, _, _, _, _, rfl⟩

theorem MovesRequests.trans {r : State} {ops' : List ReqOp} (h1 : MovesRequests s t (s.reqs.map Req.op))
    (h2 : MovesRequests t r ops') : MovesRequests s r ops' := by
  obtain ⟨-, _, _, _, _, _, rfl⟩ := h1
  obtain ⟨hops, _, _, _, _, _, rfl⟩ := h2
  exact ⟨hops, _, _, _, _, _, rfl⟩

/-- What moves after an update of the core that acts moves before it as well. -/
theorem MovesRequests.modCore {f : Core → Core} (h : MovesRequests (s.modCore f) t ops) :
    ∃ x, MovesRequests s x ops ∧ t = x.modCore f := by
  obtain ⟨rfl, pkgs, tiles, seqs, fresh, reqs, rfl⟩ := h
  refine ⟨{ s with pkgs, tiles, seqs, fresh, reqs }, ⟨rfl, _, _, _, _, _, rfl⟩, ?_⟩
  exact modCore_commutes (U := fun s => { s with pkgs, tiles, seqs, fresh, reqs }) (fun _ => rfl) (fun _ => rfl) (fun _ _ => rfl)
    (fun _ _ _ => rfl) s f

end

/-! ### What a translation for the core leaves (09 R248) -/

theorem MovesUnits.key {s t : State} (h : MovesUnits s t) : t.key = s.key := by rw [State.key, State.key, h.focus]

theorem MovesUnits.reqs {s t : State} (h : MovesUnits s t) : t.reqs = s.reqs := by obtain ⟨_, _, rfl⟩ := h; rfl

/-- A miss that the instruction in hand has counted. -/
def Core.missing (c : Core) : Core := { c with missed := true }

/-- `t` is `s`, or `s` with a miss noted in the core that acts. -/
def MayMiss (s t : State) : Prop := t = s ∨ t = s.modCore Core.missing

theorem MayMiss.reqs {s t : State} (h : MayMiss s t) : t.reqs = s.reqs := by
  rcases h with rfl | rfl
  · rfl
  · exact modCore_reqs _ _

theorem MayMiss.movesRequests {s t y : State} {ops : List ReqOp} (h : MayMiss s t) (hm : MovesRequests t y ops) :
    ∃ x, MovesRequests s x ops ∧ MayMiss x y := by
  rcases h with rfl | rfl
  · exact ⟨y, hm, .inl rfl⟩
  · obtain ⟨x, hx, hy⟩ := hm.modCore
    exact ⟨x, hx, .inr hy⟩

/-- A translation for the core moves packages and tiles, and notes a miss in the core. -/
theorem coreTranslate_moves {s s1 : State} {u va : Nat} {need : Perm} {r : TrRes} (h : s.coreTranslate u va need = (s1, r)) :
    ∃ x, MovesUnits s x ∧ MayMiss x s1 := by
  obtain rfl : (s.coreTranslate u va need).1 = s1 := congrArg Prod.fst h
  have hmoves := movesUnits_translate (s.countMiss u va) s.fpkg s.ftile .core u va need
  unfold State.coreTranslate
  generalize ((s.countMiss u va).translate s.fpkg s.ftile .core u va need).1 = t at hmoves
  unfold State.countMiss at hmoves
  dsimp only at hmoves
  split_ifs at hmoves
  · exact ⟨t, hmoves, .inl rfl⟩
  · obtain ⟨pkgs, tiles, rfl⟩ := hmoves
    refine ⟨{ s with pkgs, tiles }, ⟨_, _, rfl⟩, .inr ?_⟩
    exact modCore_commutes (U := fun s => { s with pkgs, tiles }) (fun _ => rfl) (fun _ => rfl) (fun _ _ => rfl)
      (fun _ _ _ => rfl) _ _

/-- An instruction that retires forgets the miss. -/
theorem retired_missing (s : State) (n : Nat) : (s.modCore Core.missing).retired n = s.retired n := modCore_modCore s _ _

theorem modCore_askOf {s : State} {f : Core → Core} (hf : ∀ c, (f c).asked = c.asked) : (s.modCore f).askOf = s.askOf := by
  cases hj : s.jobAt s.key with
  | none => rw [State.modCore, State.modCur, modJob_none hj]
  | some j =>
    rw [State.askOf, State.askOf, modCore_key, modCore_jobAt, hj, modCore_focus]
    simp [Job.modCore, hf]

section
variable {s s1 : State} {j : Job} {va : Word} {need : Perm} {pa : Nat} (h : Translated s j va need s1 pa)
include h

theorem Translated.reqs : s1.reqs = s.reqs := by
  obtain ⟨-, -, ⟨e, htr⟩, -⟩ := h
  obtain ⟨x, ⟨_, _, rfl⟩, rfl | rfl⟩ := coreTranslate_moves htr
  · rfl
  · exact modCore_reqs _ _

theorem Translated.issuer : s1.issuer = s.issuer := by
  obtain ⟨-, -, ⟨e, htr⟩, -⟩ := h
  obtain ⟨x, ⟨_, _, rfl⟩, rfl | rfl⟩ := coreTranslate_moves htr
  · rfl
  · exact modCore_issuer _ _

theorem Translated.askOf : s1.askOf = none := by
  obtain ⟨hask, -, ⟨e, htr⟩, -⟩ := h
  obtain ⟨x, ⟨_, _, rfl⟩, rfl | rfl⟩ := coreTranslate_moves htr
  · exact hask
  · exact (modCore_askOf (f := Core.missing) fun _ => rfl).trans hask

theorem Translated.calm (hc : Calm s s.key) : Calm s1 s.key := by
  obtain ⟨-, -, ⟨e, htr⟩, -⟩ := h
  obtain ⟨x, hx, rfl | rfl⟩ := coreTranslate_moves htr
  · exact hc.of_jobAt (congrArg (mget · s.key) hx.jobs)
  · exact (hc.of_jobAt (congrArg (mget · s.key) hx.jobs)).modCore_at hx.key
end

/-! ### The instructions (10 R264, R265) -/

section
variable {s : State} {j : Job} {a : Reg} (h : Ready s j)
include h

theorem coreExec_mark {op : ReqOp} (hop : op.isAccess = false) (ht : ∀ q, op ≠ .token q) :
    coreExec 4 false [] (fun j c s => queueMark j c op s) s =
      .next ((s.queueUp s.issuer j.tenant op 0 0 (s.core j).pc.toNat 0 0 false).2.retired 4) := by
  obtain ⟨reqs, hput, -⟩ := queueUp_mark (s := s) (u := j.tenant) (va := 0) (v := 0) (pa := 0) (point := (s.core j).pc.toNat) (n := 0)
    (noalloc := false) hop ht
  refine coreExec_next h (by simp) nofun rfl ?_ ?_
  · rw [hput]; rfl
  · rw [hput]; exact h.calm.of_jobAt rfl

/-- An instruction whose body moves requests, and may note a miss, completes with those requests moved alone. -/
theorem coreExec_moves {body : Job → Core → State → Res} {y x : State} {ops : List ReqOp} (ha : Allowed (s.core j) [a])
    (hb : body j (s.core j) s = .next y) (hx : MovesRequests s x ops) (hy : MayMiss x y) :
    coreExec 4 false [a] body s = .next (x.retired 4) := by
  obtain ⟨-, pkgs, tiles, seqs, fresh, reqs, rfl⟩ := hx
  have hcalm : Calm { s with pkgs, tiles, seqs, fresh, reqs } s.key := h.calm.of_jobAt rfl
  rcases hy with rfl | rfl
  · exact coreExec_next h nofun ha hb rfl hcalm
  · rw [← retired_missing]
    exact coreExec_next h nofun ha hb (modCore_key _ _) (hcalm.modCore_at rfl)

/-- PREF completes whatever its address translates to, and its request joins the load queue or is not made. -/
theorem exec_pref (ha : Allowed (s.core j) [a]) : ∃ x, exec (.pref a) s = .next (x.retired 4) ∧
    (MovesRequests s x (s.reqs.map Req.op) ∨ MovesRequests s x (s.reqs.map Req.op ++ [.pref])) := by
  show ∃ x, execPref a s = _ ∧ _
  unfold execPref
  by_cases hva : vaOk ((s.core j).reg a) = true
  case neg =>
    have hsame := (MovesUnits.refl s).movesRequests
    exact ⟨s, coreExec_moves h ha (if_pos (by simp [hva])) hsame (.inl rfl), .inl hsame⟩
  obtain ⟨s1, r, htr⟩ : ∃ s1 r, s.coreTranslate j.tenant.toNat ((s.core j).reg a).toNat permR = (s1, r) := ⟨_, _, rfl⟩
  obtain ⟨x, hx, hs1⟩ := coreTranslate_moves htr
  have hstays := hx.movesRequests
  cases r with
  | ok e pa =>
    by_cases hplace : (s1.region pa).isMmio = true ∨ s1.absent pa = true
    · exact ⟨x, coreExec_moves h ha (by simp [hva, htr, hplace]) hstays hs1, .inl hstays⟩
    · obtain ⟨z, hz, hy⟩ := hs1.movesRequests (movesRequests_queueUp_pref s1 j.tenant ((s.core j).reg a) pa (s.core j).pc.toNat)
      rw [hs1.reqs.trans hx.reqs] at hz
      have hjoins := hstays.trans hz
      exact ⟨z, coreExec_moves h ha (by simp [hva, htr, hplace]) hjoins hy, .inr hjoins⟩
  | _ => exact ⟨x, coreExec_moves h ha (by simp [hva, htr]) hstays hs1, .inl hstays⟩
end

/-! ### What a mark keeps (05 R125, R130) -/

section
variable {s : State} {q r : Req} (hq : q.by_ = s.issuer) (hpend : q.pending = true) (hr : r.by_ = s.issuer)
include hq hpend hr

theorem bars_of_qmark (hop : q.op = .qmark) (ha : r.op.isAccess = true) : s.bars q r = true := by
  simp [State.bars, Req.sameCtx, hq, hr, hpend, hop, ha]

/-- A store of the own tile stands behind a QMARK and a FENCE.rel of whatever scope. -/
theorem bars_of_mark {sc : Scope} (hop : q.op = .qmark ∨ q.op = .fence .rel sc) (hstore : r.op = .own .store) :
    s.bars q r = true := by
  rcases hop with hop | hop <;> simp [State.bars, Req.sameCtx, hq, hr, hpend, hop, hstore, ReqOp.isAccess, ReqOp.isWrite, ReqOp.isLoad]
end

section
variable {s : State} {q : Req} (hm : q ∈ s.reqs)
include hm

theorem localFree_of_barred {write : Bool} (hb : ∀ r : Req, r.by_ = s.issuer → r.op = .own (if write then .store else .load) →
    s.bars q r = true) : s.localFree write = false := by
  have hbars := hb (s.newReq (.own (if write then .store else .load)) (apAddr s.fpkg s.ftile 0)) rfl rfl
  have hall : (s.reqs.all fun a => !s.bars a (s.newReq (.own (if write then .store else .load)) (apAddr s.fpkg s.ftile 0))) = false :=
    List.all_eq_false.mpr ⟨q, hm, by simp [hbars]⟩
  simp only [State.localFree, hall, Bool.false_and]

theorem clear_of_barred {op : ReqOp} {pa : Nat} (hb : s.bars q (s.newReq op pa) = true) : s.clear op pa = false := by
  unfold State.clear
  dsimp only
  rw [List.all_eq_false.mpr ⟨q, hm, by simp [hb]⟩]
  rfl
end

theorem askPlace_waits {op : ReqOp} {va : Word} {act : State → Answer} {k : State → Word → Res} {s : State} {pa : Nat}
    (hask : s.askOf = none) (hc : s.clear op pa = false) : askPlace op va act k s pa = .wait s :=
  if_pos (by simp [hask, hc])

section
variable {s : State} {j : Job} {a d : Reg} {q : Req} {i : BitVec 11} (h : Ready s j) (ha : Allowed (s.core j) [d, a])
  (hm : q ∈ s.reqs) (hq : q.by_ = s.issuer) (hpend : q.pending = true)
include h ha hm hq hpend

theorem ld_waits {z : LoadSize} {s1 : State} {pa : Nat} (hop : q.op = .qmark)
    (ht : Translated s j ((s.core j).reg a + BitVec.ofInt 64 (i.toInt * loadBytes z)) permR s1 pa)
    (hal : ((s.core j).reg a + BitVec.ofInt 64 (i.toInt * loadBytes z)).toNat % loadBytes z = 0) :
    exec (.ld d a z i) s = .next s1.stalled := by
  have hkey : s1.key = s.key := by rw [State.key, State.key, ht.focus]
  refine coreExec_wait h nofun ha ((dataAccess_translated ht hal).trans (askPlace_waits ht.askOf ?_)) hkey (ht.calm h.calm)
  exact clear_of_barred (ht.reqs.symm ▸ hm) (bars_of_qmark (hq.trans ht.issuer.symm) hpend rfl hop rfl)

theorem ldl_waits {z : LoadSize} (hop : q.op = .qmark)
    (hpad : ((s.core j).reg a + BitVec.ofInt 64 (i.toInt * loadBytes z)).toNat < padSize)
    (hal : ((s.core j).reg a + BitVec.ofInt 64 (i.toInt * loadBytes z)).toNat % loadBytes z = 0) :
    exec (.ldl d a z i) s = .next s.stalled := by
  have hfree := localFree_of_barred (write := false) hm fun r hr hload => bars_of_qmark hq hpend hr hop (by rw [hload]; rfl)
  exact coreExec_wait h nofun ha (withPad_wait hpad hal hfree _) rfl h.calm

/-- A local store behind a mark stands in its queue (log 5). -/
theorem stl_stands {y : StoreSize} {sc : Scope} (hop : q.op = .qmark ∨ q.op = .fence .rel sc) {t : Word}
    (ht : t = (s.core j).reg a + BitVec.ofInt 64 (i.toInt * storeBytes y)) (hpad : t.toNat < padSize)
    (hal : t.toNat % storeBytes y = 0) (hsound : s.padFlawed t.toNat (storeBytes y) true = false) :
    let o := (s.queueUp s.issuer j.tenant (.own .store) t (apAddr s.fpkg s.ftile t.toNat) (s.core j).pc.toNat (storeBytes y)
      ((s.core j).reg d) false).2
    exec (.stl d a y i) s = .next (o.retired 4) ∧ o.mem = s.mem := by
  intro o
  have hbars : ∀ r : Req, r.by_ = s.issuer → r.op = .own .store → s.bars q r = true := fun r hr => bars_of_mark hq hpend hr hop
  obtain ⟨r, hput⟩ : ∃ r, o = { s with fresh := s.fresh + 1, reqs := s.reqs ++ [r] } := queueUp_barred hm hbars
  have hbody : postLocal s j (s.core j) .store t.toNat (storeBytes y) ((s.core j).reg d) = .next o := by
    rw [postLocal_queues rfl (localFree_of_barred (write := true) hm hbars), BitVec.ofNat_toNat, BitVec.setWidth_eq]
    rfl
  have hrange : localFault t 1 (storeBytes y) = none := by
    rw [localFault, if_neg (by omega), if_neg (by simp [hal])]
  rw [hput]
  refine ⟨coreExec_next h nofun ha (hput ▸ ?_) rfl (h.calm.of_jobAt rfl), rfl⟩
  subst ht
  simp only [withLocal, effAddr, hrange, hsound]
  exact hbody
end

/-- Settles O26: a mark moves the queues alone, a prefetch units and queues alone, and what a mark bars waits or stands. -/
theorem orderingInstructions : Obligations.OrderingInstructions := by
  unfold Obligations.OrderingInstructions
  intro s j a k sc h ha put
  refine ⟨⟨coreExec_mark h rfl nofun, coreExec_mark h rfl nofun, fun op hop => ?mark⟩, ?pref, ?yield, ?kept⟩
  case mark =>
    have hmark : op.isAccess = false ∧ ∀ q, op ≠ .token q := by
      rcases hop with rfl | rfl <;> exact ⟨rfl, nofun⟩
    obtain ⟨reqs, hput, hquiet⟩ := queueUp_mark (s := s) (u := j.tenant) (va := 0) (v := 0) (pa := 0) (point := (s.core j).pc.toNat)
      (n := 0) (noalloc := false) hmark.1 hmark.2
    rw [show put op = _ from hput]
    exact ⟨rfl, rfl, fun hq r hr => hq r (hquiet hq r hr)⟩
  case pref =>
    obtain ⟨x, hx, ⟨hops, _, _, _, _, _, rfl⟩ | ⟨hops, _, _, _, _, _, rfl⟩⟩ := exec_pref h ha
    · exact ⟨_, hx, rfl, rfl, .inl hops⟩
    · exact ⟨_, hx, rfl, rfl, .inr hops⟩
  case yield =>
    have htile : s.key / 4 = s.tkey := by
      have := s.focus.slot.isLt
      simp only [State.key, slotKey, State.tkey, tileKey]
      omega
    rw [← htile]
    exact coreExec_next h nofun nofun rfl rfl (h.calm.of_jobAt rfl)
  case kept =>
    intro q d z y i hm hq hpend hd l t here
    have hda : Allowed (s.core j) [d, a] := fun r hr =>
      (List.mem_cons.mp hr).elim (fun e => hd r (List.mem_singleton.mpr e)) (ha r)
    exact ⟨fun hop => ⟨fun s1 pa ht hal => ld_waits h hda hm hq hpend hop ht hal,
        fun hl => ldl_waits h hda hm hq hpend hop hl.1 hl.2⟩,
      fun hop ht hsound => stl_stands h hda hm hq hpend hop rfl ht.1 ht.2 hsound⟩

end Sys2Proof.Machine
end

section
/-!
SUPPORT. The faults that a core instruction raises before any effect (01 R16, R20; 06 R158; 08 R202; 09 R228, R235 to R238; 10 R255),
and O15.
-/

namespace Sys2Proof.Machine

/-! ### Causes without a stated EVA (log 18) -/

theorem coreExec_raiseFree {s : State} {j : Job} {len : Nat} {regs : List Reg} {body : Job → Core → State → Res} {c : Cause}
    (h : Steady s j) (ha : Allowed (s.core j) regs) (hb : body j (s.core j) s = raiseFree s c) :
    coreExec len false regs body s = .next (s.take.2.faulted j c (Config.unstatedEva s.fresh)) :=
  coreExec_faulted_at h ha rfl hb

/-! ### Targets (01 R20) -/

theorem transfer_bad {s s' : State} {t : Word} {c : Cause} (h : badTarget t = some c) : transfer s s' t = .raise s c t := by
  simp [transfer, h]

/-- What holds of a target with whatever cause it is refused for holds with each of the two causes. -/
theorem targetFaults {t : Word} {P : Cause → Prop} (h : ∀ c, badTarget t = some c → P c) :
    (0x40000 ≤ t.toNat → P .localRange) ∧ (t.toNat < 0x40000 → t.toNat % 4 ≠ 0 → P .misaligned) :=
  ⟨fun hfar => h _ (if_pos hfar), fun hnear hodd => h _ ((if_neg (by omega)).trans (if_pos hodd))⟩

section
variable {s : State} {j : Job} {c : Cause}

theorem branch_faults {a b : Reg} {k : BitVec 10} {cond : Word → Word → Bool} (h : Steady s j) (ha : Allowed (s.core j) [a, b])
    (hcond : cond ((s.core j).reg a) ((s.core j).reg b) = true) (hbad : badTarget (relTarget (s.core j) k.toInt) = some c) :
    branch cond a b k s = .next (s.faulted j c (relTarget (s.core j) k.toInt)) :=
  coreExec_faulted h nofun ha ((if_pos hcond).trans (transfer_bad hbad))

theorem loopb_faults {l : BitVec 2} {k : BitVec 10} (h : Steady s j) (hmore : 1 < (vget (s.core j).lc l.toNat).toNat)
    (hbad : badTarget (relTarget (s.core j) k.toInt) = some c) :
    exec (.loopb l k) s = .next (s.faulted j c (relTarget (s.core j) k.toInt)) := by
  have hzero : vget (s.core j).lc l.toNat ≠ 0 := fun e => by rw [e] at hmore; exact absurd hmore (by decide)
  have hlast : vget (s.core j).lc l.toNat - 1 ≠ 0 := fun e => by rw [sub_eq_zero.mp e] at hmore; exact absurd hmore (by decide)
  exact coreExec_faulted h nofun nofun ((if_neg hzero).trans ((if_neg hlast).trans (transfer_bad hbad)))
end

/-! ### Local addresses (01 R16; 10 R255) -/

theorem localFault_range {a : Word} {n : Nat} (h : padSize ≤ a.toNat) : localFault a 1 n = some .localRange := if_pos (by omega)

theorem localFault_misaligned {a : Word} {n : Nat} (h : a.toNat < padSize) (hal : a.toNat % n ≠ 0) :
    localFault a 1 n = some .misaligned := (if_neg (by omega)).trans (if_pos hal)

theorem withLocal_fault {s : State} {a : Word} {n al : Nat} {c : Cause} (h : localFault a n al = some c) (body : State → Res) :
    withLocal s a n al body = .raise s c a := by
  simp [withLocal, h]

theorem withLocal_ok {s : State} {a : Word} {n al : Nat} (h : a.toNat + n ≤ padSize) (hal : a.toNat % al = 0) (body : State → Res) :
    withLocal s a n al body = body s := by
  simp [withLocal, localFault, Nat.not_lt.mpr h, hal]

/-- A store of a size of its own lies in one unit of the code (02 R42). -/
theorem storeUnit {t : Nat} (y : StoreSize) (h : t % storeBytes y = 0) : (t % 16 + storeBytes y + 15) / 16 * 16 = 16 := by
  cases y <;> simp only [storeBytes] at h ⊢ <;> omega

section
variable {s : State} {j : Job} {d a : Reg} {i : BitVec 11} {c : Cause}

theorem ldl_faults {z : LoadSize} {l : Word} (hl : effAddr ((s.core j).reg a) i (loadBytes z) = l) (h : Steady s j)
    (ha : Allowed (s.core j) [d, a]) (hf : localFault l 1 (loadBytes z) = some c) :
    exec (.ldl d a z i) s = .next (s.faulted j c l) := by
  subst hl
  exact coreExec_faulted h nofun ha (withLocal_fault hf _)

theorem stl_faults {y : StoreSize} {t : Word} (ht : effAddr ((s.core j).reg a) i (storeBytes y) = t) (h : Steady s j)
    (ha : Allowed (s.core j) [d, a]) (hf : localFault t 1 (storeBytes y) = some c) :
    exec (.stl d a y i) s = .next (s.faulted j c t) := by
  subst ht
  exact coreExec_faulted h nofun ha (withLocal_fault hf _)

theorem ldl_flawed {z : LoadSize} {l : Word} (hl : effAddr ((s.core j).reg a) i (loadBytes z) = l) (h : Steady s j)
    (ha : Allowed (s.core j) [d, a]) (hin : l.toNat < padSize) (hal : l.toNat % loadBytes z = 0) (hfree : s.localFree false = true)
    (hbad : s.padFlawed l.toNat (loadBytes z) false = true) : exec (.ldl d a z i) s = .next (s.faulted j .dataError l) := by
  subst hl
  exact coreExec_faulted h nofun ha (withPad_flawed hin hal hfree hbad _)

/-- A store that meets an error raises it at the core, once its queue lets it on. -/
theorem stl_flawed {y : StoreSize} {t : Word} (ht : effAddr ((s.core j).reg a) i (storeBytes y) = t) (h : Steady s j)
    (ha : Allowed (s.core j) [d, a]) (hin : t.toNat < padSize) (hal : t.toNat % storeBytes y = 0) (hfree : s.localFree true = true)
    (hbad : s.padFlawed t.toNat (storeBytes y) true = true) : exec (.stl d a y i) s = .next (s.faulted j .dataError t) := by
  subst ht
  exact coreExec_faulted h nofun ha ((withLocal_ok hin hal _).trans ((if_pos hbad).trans (if_pos hfree)))
end

/-! ### The obligation -/

/-- Settles O15: each form raises its cause at the check that its operands fail. -/
theorem coreFaults : Obligations.CoreFaults := by
  unfold Obligations.CoreFaults
  refine ⟨?allotment, ?privileged, ?targets, ?divide, ?pad⟩
  case allotment =>
    intro s j d a b i z y l n x sp h bad f
    have outside : ∀ {len regs body} (r : Reg), r ∈ regs → bad r → coreExec len false regs body s = f := fun r hr hbad =>
      coreExec_allotment h nofun ⟨r, hr, Nat.not_lt.mpr hbad.1, hbad.2⟩
    refine ⟨fun hb => ?_, fun hb => ?_, fun hb => ?_, fun hb => outside d (by simp) hb⟩
    · obtain ⟨r, hr, hbad⟩ : ∃ r ∈ [d, a, b], bad r := by simpa using hb
      exact ⟨outside r hr hbad, outside r hr hbad⟩
    · obtain ⟨r, hr, hbad⟩ : ∃ r ∈ [d, a], bad r := by simpa using hb
      exact ⟨outside r hr hbad, outside r hr hbad, outside r hr hbad, outside r hr hbad, outside r hr hbad, outside r hr hbad⟩
    · exact ⟨outside a (by simp) hb, outside a (by simp) hb, outside a (by simp) hb⟩
  case privileged =>
    intro s j d a b o h hsup f
    refine ⟨coreExec_privileged h hsup, coreExec_privileged h hsup, coreExec_privileged h hsup, coreExec_privileged h hsup, ?_⟩
    intro ha hn
    refine coreExec_raiseFree h ha ?_
    have hcore : perfOfCore (bval j (s.core j) o).toNat = false := by
      simp only [perfOfCore, Bool.or_eq_false_iff, beq_eq_false_iff_ne]
      omega
    exact (if_neg (by omega)).trans ((if_neg (by simp [hcore])).trans (if_pos (by simp [hsup])))
  case targets =>
    intro s j d a b i k l h ha x y t u f
    have hab : Allowed (s.core j) [a, b] := ha.of_subset (by simp)
    have hregs := targetFaults (t := x) (P := fun c => exec (.jr a) s = f c x ∧ exec (.jalr d a) s = f c x) fun c hbad =>
      ⟨coreExec_faulted h nofun (ha.of_subset (by simp)) (transfer_bad hbad),
        coreExec_faulted h nofun (ha.of_subset (by simp)) (transfer_bad hbad)⟩
    have hjumps := targetFaults (t := t) (P := fun c => exec (.j i) s = f c t ∧ exec (.jal i) s = f c t) fun c hbad =>
      ⟨coreExec_faulted h nofun nofun (transfer_bad hbad), coreExec_faulted h nofun nofun (transfer_bad hbad)⟩
    refine ⟨hregs.1, hregs.2, hjumps.1, hjumps.2, fun e he htaken => targetFaults (P := fun c => exec e.2 s = f c u) fun c hbad => ?_⟩
    have taken : ∀ {cond : Word → Word → Bool}, cond x y = true → branch cond a b k s = f c u := fun hc => branch_faults h hab hc hbad
    simp only [List.mem_cons, List.not_mem_nil, or_false] at he
    rcases he with rfl | rfl | rfl | rfl | rfl | rfl | rfl
    · exact taken (cond := fun x y => x == y) (beq_iff_eq.mpr htaken)
    · exact taken (cond := fun x y => x != y) (bne_iff_ne.mpr htaken)
    · exact taken (cond := slt64) (by simpa [slt64] using htaken)
    · exact taken (cond := fun x y => !slt64 x y) (by simpa [slt64] using htaken)
    · exact taken (cond := ult64) (by simpa [ult64] using htaken)
    · exact taken (cond := fun x y => !ult64 x y) (by simpa [ult64] using htaken)
    · exact loopb_faults h htaken hbad
  case divide =>
    intro s j d a b h ha y f
    have zeroed : ∀ {zero f'}, zero y = true → opDivide zero f' d a b s = f := fun hz => coreExec_faulted h nofun ha (if_pos hz)
    exact ⟨fun h0 => have h64 : zero64 y = true := beq_iff_eq.mpr h0; ⟨zeroed h64, zeroed h64, zeroed h64, zeroed h64⟩,
      fun h0 => have h32 : zero32 y = true := beq_iff_eq.mpr h0; ⟨zeroed h32, zeroed h32, zeroed h32, zeroed h32⟩⟩
  case pad =>
    intro s j d a z y i h ha l t
    refine ⟨fun h0 => ldl_faults rfl h ha (localFault_range h0), fun h0 h1 => ldl_faults rfl h ha (localFault_misaligned h0 h1),
      fun h0 => stl_faults rfl h ha (localFault_range h0), fun h0 h1 => stl_faults rfl h ha (localFault_misaligned h0 h1),
      fun h0 h1 hfree hbad => ldl_flawed rfl h ha h0 h1 hfree hbad, fun h0 h1 hfree hbad => stl_flawed rfl h ha h0 h1 hfree ?_⟩
    simpa [State.padFlawed, State.padFlawedAt, storeUnit y h1] using hbad

end Sys2Proof.Machine
end

section
/-!
SUPPORT. Data queues (10 R257, R260, R261) and token queues (06 R156; 10 R262), and O16.
-/

namespace Sys2Proof.Machine

/-! ### What a queue instruction comes to -/

section
variable {s : State} {j : Job} {len : Nat} {regs : List Reg} {body : Job → Core → State → Res}

/-- An instruction that writes its register last. -/
theorem coreExec_wrote {x : State} {d : Reg} {v : Word} (h : Ready s j) (ha : Allowed (s.core j) regs)
    (hb : body j (s.core j) s = .next (x.setReg d v)) (hk : x.key = s.key) (hc : Calm x s.key) :
    coreExec len false regs body s = .next (x.wrote d v len) :=
  coreExec_next h nofun ha hb ((setReg_key x d v).trans hk) (hc.setReg_at hk)

/-- Both waits at a data queue stall a core that is not freezing (03 R81). -/
theorem coreExec_waitsAtQueue (h : Steady s j) (ha : Allowed (s.core j) regs) {c : Prop} [Decidable c]
    (hb : body j (s.core j) s = if c then .waitDq s else .wait s) : coreExec len false regs body s = .next s.stalled := by
  split at hb
  · have hf : (j.st == JobState.freezing) = false := beq_eq_false_iff_ne.mpr h.2
    rw [coreExec_ready (sup := false) h.1 nofun ha, hb, hf]
    exact congrArg _ (noticeDeferred_calm (h.1.calm.modCore _))
  · exact coreExec_wait h.1 nofun ha hb rfl h.1.calm

/-- An update of the job that acts, of its queues alone. -/
theorem coreExec_modCur {f : Job → Job} (hst : ∀ j, (f j).st = j.st) (hdef : ∀ j, (f j).deferred = j.deferred) (h : Ready s j)
    (ha : Allowed (s.core j) regs) (hb : body j (s.core j) s = .next (s.modCur f)) :
    coreExec len false regs body s = .next ((s.modCur f).retired len) :=
  coreExec_next h nofun ha hb (modCur_key _ _) (h.calm.modCur f hst hdef)

theorem coreExec_modCur_wrote {f : Job → Job} {d : Reg} {v : Word} (hst : ∀ j, (f j).st = j.st)
    (hdef : ∀ j, (f j).deferred = j.deferred) (h : Ready s j) (ha : Allowed (s.core j) regs)
    (hb : body j (s.core j) s = .next ((s.modCur f).setReg d v)) :
    coreExec len false regs body s = .next ((s.modCur f).wrote d v len) :=
  coreExec_wrote h ha hb (modCur_key _ _) (h.calm.modCur f hst hdef)
end

/-- Two updates that leave the same job leave the same state. -/
theorem modCur_congr {s : State} {j : Job} {f g : Job → Job} (h : s.jobAt s.key = some j) (hfg : f j = g j) :
    s.modCur f = s.modCur g := by
  rw [modCur_some h, modCur_some h, hfg]

/-! ### Data queues (10 R257, R260, R261) -/

section
variable {s : State} {j : Job} {n : Nat} {d : Reg} {v : Word} {peek : Bool}

theorem dqPut_wrongCore (h : s.focus.kind ≠ dqPutter n) : dqPut s j n v = dqFault s n := if_pos h

theorem dqPut_room (h : s.focus.kind = dqPutter n) (hlen : (vget j.dq n).length < 64) :
    dqPut s j n v = .next (s.modCur (fun j => { j with dq := vset j.dq n (vget j.dq n ++ [.val v]) })) := by
  simp [dqPut, h, hlen]

theorem dqPut_finished (h : s.focus.kind = dqPutter n) (hlen : 64 ≤ (vget j.dq n).length) (hf : j.finished (dqTaker n) = true) :
    dqPut s j n v = dqFault s n := by
  simp [dqPut, h, Nat.not_lt.mpr hlen, hf]

theorem dqPut_full (h : s.focus.kind = dqPutter n) (hlen : 64 ≤ (vget j.dq n).length) (hf : j.finished (dqTaker n) = false) :
    dqPut s j n v = if 4 ≤ n then .waitDq s else .wait s := by
  simp [dqPut, h, Nat.not_lt.mpr hlen, hf]

theorem dqTake_wrongCore (hn : n < 6) (h : s.focus.kind ≠ dqTaker n) : dqTake peek d s j n = dqFault s n := by
  simp [dqTake, hn, h]

theorem dqTake_element {l : List DqEntry} (hn : n < 6) (h : s.focus.kind = dqTaker n) (hq : vget j.dq n = .val v :: l) :
    dqTake peek d s j n = .next ((if peek then s else s.modCur (fun j => { j with dq := vset j.dq n l })).setReg d v) := by
  simp [dqTake, hn, h, hq]

theorem dqTake_finished (hn : n < 6) (h : s.focus.kind = dqTaker n) (hq : vget j.dq n = []) (hf : j.finished (dqPutter n) = true) :
    dqTake peek d s j n = dqFault s n := by
  simp [dqTake, hn, h, hq, hf]

theorem dqTake_empty (hn : n < 6) (h : s.focus.kind = dqTaker n) (hq : vget j.dq n = []) (hf : j.finished (dqPutter n) = false) :
    dqTake peek d s j n = if n < 4 then .waitDq s else .wait s := by
  simp [dqTake, hn, h, hq, hf]

/-- An element whose load is on its way has not entered (R258). -/
theorem dqTake_loading {id : Nat} {l : List DqEntry} (hn : n < 6) (h : s.focus.kind = dqTaker n) (hq : vget j.dq n = .waiting id :: l) :
    dqTake peek d s j n = if n < 4 then .waitDq s else .wait s := by
  simp [dqTake, hn, h, hq]

theorem nbPut_links (hlink : (vget j.nq (n - 6)).link = none) (hv : v.toNat < 4)
    (hthere : s.neighbourPresent s.fpkg s.ftile v.toNat = true) : nbPut s j n v =
      .next (s.modCur (fun j' => { j' with nq := vset j'.nq (n - 6) { vget j.nq (n - 6) with link := some (v.setWidth 2) } })) := by
  have hhigh : bits v 63 2 = 0 := by simp only [bits]; omega
  have hlow : bits v 1 0 = v.toNat := by simp only [bits]; omega
  have hval : BitVec.ofNat 2 v.toNat = v.setWidth 2 := BitVec.ofNat_toNat 2 v
  simp [nbPut, hlink, hhigh, hlow, hthere, hval]

theorem nbPut_room {l : BitVec 2} (hlink : (vget j.nq (n - 6)).link = some l)
    (hthere : s.neighbourPresent s.fpkg s.ftile l.toNat = true) (hlen : (vget j.nq (n - 6)).outq.length < 64) : nbPut s j n v =
      .next (s.modCur (fun j' => { j' with
        nq := vset j'.nq (n - 6) { vget j.nq (n - 6) with outq := (vget j.nq (n - 6)).outq ++ [v] } })) := by
  simp [nbPut, hlink, hthere, hlen]

theorem nbPut_full {l : BitVec 2} (hlink : (vget j.nq (n - 6)).link = some l)
    (hthere : s.neighbourPresent s.fpkg s.ftile l.toNat = true) (hlen : 64 ≤ (vget j.nq (n - 6)).outq.length) :
    nbPut s j n v = .wait s := by
  simp [nbPut, hlink, hthere, Nat.not_lt.mpr hlen]

theorem dqTake_unbound (hn : 6 ≤ n) (hlink : (vget j.nq (n - 6)).link = none) : dqTake peek d s j n = dqFault s n := by
  simp [dqTake, Nat.not_lt.mpr hn, hlink]

theorem dqTake_nbEmpty (hn : 6 ≤ n) (hlink : (vget j.nq (n - 6)).link.isSome = true) (hq : (vget j.nq (n - 6)).inq = []) :
    dqTake peek d s j n = .wait s := by
  simp [dqTake, Nat.not_lt.mpr hn, Option.isSome_iff_ne_none.mp hlink, hq]

theorem dqTake_nbElement {l : List Word} (hn : 6 ≤ n) (hlink : (vget j.nq (n - 6)).link.isSome = true)
    (hq : (vget j.nq (n - 6)).inq = v :: l) : dqTake peek d s j n = .next ((if peek then s else
      s.modCur (fun j' => { j' with nq := vset j'.nq (n - 6) { vget j.nq (n - 6) with inq := l } })).setReg d v) := by
  simp [dqTake, Nat.not_lt.mpr hn, Option.isSome_iff_ne_none.mp hlink, hq]

end

section
variable {s : State} {j : Job} {q : BitVec 6} {d : Reg} {b : Opd}

/-- DQGET and DQPEEK come to the same but for what they leave in the queue. -/
theorem takes_faulted (h : Steady s j) (hd : Allowed (s.core j) [d])
    (hb : ∀ peek, dqTake peek d s j q.toNat = dqFault s q.toNat) :
    exec (.dqget d q) s = .next (s.faulted j .queueDiscipline (BitVec.ofNat 64 q.toNat)) ∧
      exec (.dqpeek d q) s = .next (s.faulted j .queueDiscipline (BitVec.ofNat 64 q.toNat)) :=
  ⟨coreExec_faulted h nofun hd (hb false), coreExec_faulted h nofun hd (hb true)⟩

theorem takes_wait (h : Steady s j) (hd : Allowed (s.core j) [d]) {c : Prop} [Decidable c]
    (hb : ∀ peek, dqTake peek d s j q.toNat = if c then .waitDq s else .wait s) :
    exec (.dqget d q) s = .next s.stalled ∧ exec (.dqpeek d q) s = .next s.stalled :=
  ⟨coreExec_waitsAtQueue h hd (hb false), coreExec_waitsAtQueue h hd (hb true)⟩

theorem takes_element {f : Job → Job} {x : Word} (hst : ∀ j, (f j).st = j.st) (hdef : ∀ j, (f j).deferred = j.deferred)
    (h : Ready s j) (hd : Allowed (s.core j) [d])
    (hb : ∀ peek, dqTake peek d s j q.toNat = .next ((if peek then s else s.modCur f).setReg d x)) :
    exec (.dqget d q) s = .next ((s.modCur f).wrote d x 4) ∧ exec (.dqpeek d q) s = .next (s.wrote d x 4) :=
  ⟨coreExec_modCur_wrote hst hdef h hd (hb false), coreExec_wrote h hd (hb true) rfl h.calm⟩
end

/-! ### Token queues (06 R156; 10 R262) -/

/-- Queue `q` of a job with one more token. -/
def Job.tokenIn (q : Nat) (j : Job) : Job :=
  { j with tq := vset j.tq q { vget j.tq q with count := (vget j.tq q).count + 1 } }

/-- A token stands behind the older entries of its core that keep it, or enters at once. -/
theorem letGo_token {s : State} {older : List Req} {r : Req} {q : Nat} (hop : r.op = .token q) :
    s.letGo older r = if older.any (fun a => s.bars a r) then s else (s.dropReq r.id).modIssuer r.by_ (Job.tokenIn q) := by
  unfold State.letGo
  rw [hop]
  rfl

theorem modIssuer_issuer {s : State} {j : Job} (h : s.jobAt s.key = some j) (f : Job → Job) : s.modIssuer s.issuer f = s.modCur f := by
  have hjob : s.issuerJob s.issuer = some j := by simp [State.issuerJob, issuer_of h, h]
  rw [State.modIssuer, hjob, modCur_some h, issuer_of h]

/-- A token that is sent stays behind the queue of its core, or enters at once: always where nothing of the core waits. -/
theorem queueUp_token {s : State} {j : Job} (h : s.jobAt s.key = some j) (q point : Nat) :
    ∃ reqs, let x : State := { s with fresh := s.fresh + 1, reqs := reqs }
      let o := (s.queueUp s.issuer j.tenant (.token q) 0 0 point 0 0 false).2
      o = x.modCur (Job.tokenIn q) ∨ o = x ∧ ¬ Quiet s := by
  unfold State.queueUp
  dsimp only [State.take]
  rw [letGo_token rfl]
  split_ifs with hbars
  · refine ⟨_, .inr ⟨rfl, fun hq => ?_⟩⟩
    obtain ⟨a, ha, hb⟩ := List.any_eq_true.mp hbars
    have hctx : (a.by_ == s.issuer) = false := hq.notOf a ha
    simp [State.bars, Req.sameCtx, hctx] at hb
  · exact ⟨_, .inl (modIssuer_issuer (by exact h) _)⟩

/-- So it moves the queues of the core and its job's tokens alone. -/
theorem queueUp_token_leaves {s : State} {j : Job} (h : Ready s j) (q point : Nat) :
    let o := (s.queueUp s.issuer j.tenant (.token q) 0 0 point 0 0 false).2
    o.key = s.key ∧ Calm o s.key ∧ o.mem = s.mem ∧ (Quiet s → o.jobs = (s.modCur (Job.tokenIn q)).jobs) := by
  obtain ⟨reqs, ho⟩ := queueUp_token h.1 q point
  have hcalm : Calm { s with fresh := s.fresh + 1, reqs := reqs } s.key := h.calm.of_jobAt rfl
  rcases ho with ho | ⟨ho, hbusy⟩
  · rw [ho]
    refine ⟨modCur_key _ _, hcalm.modCur _ (fun _ => rfl) (fun _ => rfl), modCur_mem _ _, fun _ => ?_⟩
    rw [modCur_some h.1, modCur_some (by exact h.1)]
    rfl
  · rw [ho]
    exact ⟨rfl, hcalm, rfl, fun hq => absurd hq hbusy⟩

section
variable {s : State} {j : Job} {q : BitVec 6} {d : Reg}

theorem tksend_leaves (h : Ready s j) (hprod : (vget j.tq q.toNat).producer = some s.focus.kind)
    (hroom : (vget j.tq q.toNat).count + s.tokensComing q.toNat < 32) :
    let o := (s.queueUp s.issuer j.tenant (.token q.toNat) 0 0 (s.core j).pc.toNat 0 0 false).2
    exec (.tksend q) s = .next (o.retired 4) ∧ o.mem = s.mem ∧ (Quiet s → o.jobs = (s.modCur (Job.tokenIn q.toNat)).jobs) := by
  obtain ⟨hkey, hcalm, hmem, hjobs⟩ := queueUp_token_leaves h q.toNat (s.core j).pc.toNat
  exact ⟨coreExec_next h nofun nofun ((if_neg (not_not_intro hprod)).trans (if_neg (Nat.not_le.mpr hroom))) hkey hcalm, hmem, hjobs⟩

/-- A token taken from a queue that holds one. -/
theorem modTq_takes (h : s.jobAt s.key = some j) (n : Nat) : s.modTq n (fun t => { t with count := t.count - 1 }) =
    s.modCur (fun i => { i with tq := vset i.tq n { vget i.tq n with count := (vget j.tq n).count - 1 } }) :=
  modCur_congr h rfl

theorem modTq_calm (h : Calm s s.key) (n : Nat) (f : TokenQ → TokenQ) : Calm (s.modTq n f) s.key :=
  h.modCur _ (fun _ => rfl) (fun _ => rfl)

theorem tkwait_token (h : Ready s j) (hcons : (vget j.tq q.toNat).consumer = some s.focus.kind) (hpos : 0 < (vget j.tq q.toNat).count) :
    exec (.tkwait q) s = .next ((s.modTq q.toNat (fun t => { t with count := t.count - 1 })).retired 4) :=
  coreExec_next h nofun nofun ((if_neg (not_not_intro hcons)).trans (if_pos hpos)) (modCur_key _ _) (modTq_calm h.calm _ _)

theorem tktry_token (h : Ready s j) (hd : Allowed (s.core j) [d]) (hcons : (vget j.tq q.toNat).consumer = some s.focus.kind)
    (hpos : 0 < (vget j.tq q.toNat).count) :
    exec (.tktry d q) s = .next ((s.modTq q.toNat (fun t => { t with count := t.count - 1 })).wrote d 1 4) :=
  coreExec_wrote h hd ((if_neg (not_not_intro hcons)).trans (if_pos hpos)) (modCur_key _ _) (modTq_calm h.calm _ _)

section
variable {p : Kind} (hbind : (vget j.tq q.toNat).bind = some (p, s.focus.kind)) (hzero : (vget j.tq q.toNat).count = 0)
include hbind

theorem consumer_of_bind : (vget j.tq q.toNat).consumer = some s.focus.kind := by simp [TokenQ.consumer, hbind]

theorem producerFinished_of_bind : ((vget j.tq q.toNat).producer.map j.finished).getD true = j.finished p := by
  simp [TokenQ.producer, hbind]

include hzero

theorem tktry_empty (h : Ready s j) (hd : Allowed (s.core j) [d]) :
    exec (.tktry d q) s = .next (s.wrote d (if j.finished p then 2 else 0) 4) := by
  rw [← producerFinished_of_bind hbind]
  exact coreExec_wrote h hd ((if_neg (not_not_intro (consumer_of_bind hbind))).trans (if_neg (by omega))) rfl h.calm

theorem tkwait_empty (h : Ready s j) (hf : j.finished p = false) : exec (.tkwait q) s = .next s.stalled := by
  rw [← producerFinished_of_bind hbind] at hf
  exact coreExec_wait h nofun nofun ((if_neg (not_not_intro (consumer_of_bind hbind))).trans ((if_neg (by omega)).trans
    (if_neg (by simp [hf])))) rfl h.calm

theorem tkwait_finished (h : Steady s j) (hf : j.finished p = true) :
    exec (.tkwait q) s = .next (s.take.2.faulted j .queueDiscipline (Config.unstatedEva s.fresh)) := by
  rw [← producerFinished_of_bind hbind] at hf
  exact coreExec_raiseFree h nofun ((if_neg (not_not_intro (consumer_of_bind hbind))).trans ((if_neg (by omega)).trans (if_pos hf)))
end
end

/-! ### The obligation -/

/-- Settles O16: each instruction by what its queue holds and which core acts. -/
theorem queuesAndTokens : Obligations.QueuesAndTokens := by
  unfold Obligations.QueuesAndTokens
  refine ⟨⟨?queueRefuses, ?queueServes⟩, ?tokenServes, ?tokenRefuses⟩
  case queueRefuses =>
    intro s j q d b h ha n nb putter taker f w
    have hd : Allowed (s.core j) [d] := ha.of_subset (by simp)
    have hb : Allowed (s.core j) (opdRegs b) := ha.of_subset (by simp)
    have putFaults : dqPut s j n (bval j (s.core j) b) = dqFault s n → n < 6 → exec (.dqput q b) s = f := fun he hn =>
      coreExec_faulted h nofun hb ((if_pos hn).trans he)
    refine ⟨fun hn hk => putFaults (dqPut_wrongCore hk) hn, fun hn hk => takes_faulted h hd fun _ => dqTake_wrongCore hn hk,
      fun hn hk hlen => ?full, fun hn hk hq => ?empty, fun id l hn hk hq => takes_wait h hd fun _ => dqTake_loading hn hk hq,
      fun l hn hlink hthere hlen => ?neighbourFull, fun hn hlink => takes_faulted h hd fun _ => dqTake_unbound hn hlink,
      fun hn hlink hq => ?neighbourEmpty⟩
    case full =>
      cases hf : j.finished taker with
      | true => exact putFaults (dqPut_finished hk hlen hf) hn
      | false => exact coreExec_waitsAtQueue h hb ((if_pos hn).trans (dqPut_full hk hlen hf))
    case empty =>
      cases hf : j.finished putter with
      | true => exact takes_faulted h hd fun _ => dqTake_finished hn hk hq hf
      | false => exact takes_wait h hd fun _ => dqTake_empty hn hk hq hf
    case neighbourFull =>
      exact coreExec_wait h.1 nofun hb ((if_neg (Nat.not_lt.mpr hn)).trans (nbPut_full hlink hthere hlen)) rfl h.1.calm
    case neighbourEmpty =>
      exact takes_wait h hd (c := False) fun _ => (dqTake_nbEmpty hn hlink hq).trans (if_neg id).symm
  case queueServes =>
    intro s j q d b h ha v n nb
    have hd : Allowed (s.core j) [d] := ha.of_subset (by simp)
    have hb : Allowed (s.core j) (opdRegs b) := ha.of_subset (by simp)
    refine ⟨fun hn hk hlen => ?_, fun x l hn hk hq => ?_, fun hn hlink hv hthere => ?_, fun l hn hlink hthere hlen => ?_,
      fun x l hn hlink hq => ?_, coreExec_wrote h hd rfl rfl h.calm⟩
    · exact coreExec_modCur (fun _ => rfl) (fun _ => rfl) h hb ((if_pos hn).trans (dqPut_room hk hlen))
    · exact takes_element (fun _ => rfl) (fun _ => rfl) h hd fun _ => dqTake_element hn hk hq
    · exact coreExec_modCur (fun _ => rfl) (fun _ => rfl) h hb ((if_neg (Nat.not_lt.mpr hn)).trans (nbPut_links hlink hv hthere))
    · exact coreExec_modCur (fun _ => rfl) (fun _ => rfl) h hb ((if_neg (Nat.not_lt.mpr hn)).trans (nbPut_room hlink hthere hlen))
    · exact takes_element (fun _ => rfl) (fun _ => rfl) h hd fun _ => dqTake_nbElement hn hlink hq
  case tokenServes =>
    intro s j q d h hd n t count
    refine ⟨fun hprod hroom => ?_, fun hcons hpos => ?_, fun p hbind hzero => ?_, coreExec_wrote h hd rfl rfl h.calm⟩
    · obtain ⟨hexec, hmem, hjobs⟩ := tksend_leaves h hprod hroom
      exact ⟨hexec, hmem, fun hq => (hjobs hq).trans (congrArg State.jobs (modCur_congr h.1 rfl))⟩
    · rw [show count (t.count - 1) s = _ from (modTq_takes h.1 n).symm]
      exact ⟨tkwait_token h hcons hpos, tktry_token h hd hcons hpos⟩
    · exact ⟨tktry_empty hbind hzero h hd, tkwait_empty hbind hzero h⟩
  case tokenRefuses =>
    intro s j q d h hd t f
    refine ⟨fun hprod => coreExec_raiseFree h nofun (if_pos hprod), fun hcons => ?_, fun p hbind hzero => tkwait_finished hbind hzero h,
      fun hprod hfull => ?_⟩
    · exact ⟨coreExec_raiseFree h nofun (if_pos hcons), coreExec_raiseFree h hd (if_pos hcons)⟩
    · exact coreExec_faulted h nofun nofun ((if_neg (not_not_intro hprod)).trans (if_pos hfull))

end Sys2Proof.Machine
end

section
/-!
SUPPORT. The allotment of registers (06 R157 to R159) and the end of a job's streams (06 R157; 11 R282), and O33.
-/

namespace Sys2Proof.Machine

/-! ### The core file (06 R158, R159) -/

theorem sum_filterMap {α β : Type} (f : α → Option β) (g : β → Nat) (l : List α) :
    ((l.filterMap f).map g).sum = (l.map (fun x => ((f x).map g).getD 0)).sum := by
  induction l with
  | nil => rfl
  | cons x l ih => cases hx : f x <;> simp [hx, ih]

/-- What is free of a core file is what the contexts of the four slots leave. -/
theorem freeRegs_eq (s : State) (p t : Nat) (k : Kind) : s.freeRegs p t k =
    256 - ((List.range 4).map (fun sl => ((s.jobAt (slotKey p t sl)).map (fun i => (i.core k).allot)).getD 0)).sum := by
  rw [State.freeRegs, State.tileJobs, ← List.sum_eq_foldl, sum_filterMap]
  simp only [Option.map_map]
  rfl

theorem allotOk_iff (n : Word) : allotOk n = true ↔ n.toNat % 8 = 0 ∧ 8 ≤ n.toNat ∧ n.toNat ≤ 64 := by
  simp [allotOk, and_assoc]

/-- The registers that a context gains read zero, g63 apart. -/
theorem zeroRegs_eq (c : Core) (lo hi : Nat) : c.zeroRegs lo hi =
    { c with g := Vector.ofFn (fun i => if lo ≤ i.val ∧ i.val < hi ∧ i.val < 63 then 0 else c.g[i]) } := by
  have hread : ∀ i : Fin 64, vget c.g i.val = c.g[i] := fun i => by simp [vget, Nat.mod_eq_of_lt i.isLt]
  simp only [Core.zeroRegs, hread]

section
variable {s : State} {j : Job} {d : Reg} {b : Opd} (h : Ready s j) (ha : Allowed (s.core j) (d :: opdRegs b))
  (hn : allotOk (bval j (s.core j) b) = true)
include h ha hn

theorem allot_kept (hle : (bval j (s.core j) b).toNat ≤ (s.core j).allot) :
    exec (.allot d b) s = .next (s.wrote d 1 (opdLen b)) :=
  coreExec_wrote h ha ((if_neg (by simp [hn])).trans (if_pos hle)) rfl h.calm

theorem allot_grows (hlt : (s.core j).allot < (bval j (s.core j) b).toNat)
    (hroom : (bval j (s.core j) b).toNat - (s.core j).allot ≤ s.freeRegs s.fpkg s.ftile s.focus.kind) :
    exec (.allot d b) s = .next ((s.modCore (fun c =>
      { c.zeroRegs c.allot (bval j (s.core j) b).toNat with allot := (bval j (s.core j) b).toNat })).wrote d 1 (opdLen b)) :=
  coreExec_wrote h ha ((if_neg (by simp [hn])).trans ((if_neg (Nat.not_le.mpr hlt)).trans (if_pos hroom))) (modCore_key _ _)
    (h.calm.modCore _)

theorem allot_refused (hlt : (s.core j).allot < (bval j (s.core j) b).toNat)
    (hfull : s.freeRegs s.fpkg s.ftile s.focus.kind < (bval j (s.core j) b).toNat - (s.core j).allot) :
    exec (.allot d b) s = .next (s.wrote d 0 (opdLen b)) :=
  coreExec_wrote h ha ((if_neg (by simp [hn])).trans ((if_neg (Nat.not_le.mpr hlt)).trans (if_neg (Nat.not_le.mpr hfull)))) rfl h.calm

theorem shrink_lowers : exec (.shrink b) s =
    .next ((s.modCore (fun c => { c with allot := min c.allot (bval j (s.core j) b).toNat })).retired (opdLen b)) :=
  coreExec_next h nofun (ha.of_subset (by simp)) (if_neg (by simp [hn])) (modCore_key _ _) (h.calm.modCore _)
end

/-! ### EXIT (06 R157; 11 R282) -/

/-! An update of a core leaves the engine streams of its job and its switch. -/

theorem modCore_eng (j : Job) (k : Kind) (f : Core → Core) (e : Kind) : (j.modCore k f).eng e = j.eng e := by cases k <;> rfl
theorem modCore_sw (j : Job) (k : Kind) (f : Core → Core) : (j.modCore k f).sw = j.sw := by cases k <;> rfl
theorem modCore_hasInput (j : Job) (k : Kind) (f : Core → Core) : (j.modCore k f).hasInput = j.hasInput := by cases k <;> rfl

theorem modCore_wordGoes (j : Job) (k : Kind) (f : Core → Core) (n : Nat) : (j.modCore k f).wordGoes n = j.wordGoes n := by
  induction n with
  | zero => rfl
  | succ n ih =>
    funext e
    simp only [Job.wordGoes, modCore_eng, modCore_sw, modCore_hasInput, ih]

theorem modCore_wordRuns (j : Job) (k : Kind) (f : Core → Core) : (j.modCore k f).wordRuns = j.wordRuns := by
  rw [Job.wordRuns, Job.wordRuns, modCore_wordGoes]

/-- The job with the instruction of core `k` retired that no longer waits for anything: neither of its cores does. -/
theorem AtRest.retire {s : State} {key : Nat} {j : Job} (h : AtRest s key j) (k : Kind) (f : Core → Core)
    (hf : ∀ c, (f c).asked = none ∧ (f c).reply = none) : AtRest (s.setJob key (j.modCore k f)) key (j.modCore k f) := by
  obtain ⟨ha, hx, hra, hrx, -⟩ := id h
  have hidle : (j.modCore k f).a.asked = none ∧ (j.modCore k f).x.asked = none ∧ (j.modCore k f).a.reply = none ∧
      (j.modCore k f).x.reply = none := by
    unfold Job.modCore Job.setCore
    split
    · exact ⟨ha, (hf _).1, hra, (hf _).2⟩
    · exact ⟨(hf _).1, hx, (hf _).2, hrx⟩
  obtain ⟨ha', hx', hra', hrx'⟩ := hidle
  exact h.setJob (ha'.trans ha.symm) (hx'.trans hx.symm) (hra'.trans hra.symm) (hrx'.trans hrx.symm)
    (modCore_wordRuns j k f) (modCore_jid j k f)

/-- A matrix engine that becomes free moves a tile alone. -/
theorem freeMatrix_eq (s : State) (key : Nat) : ∃ tiles, s.freeMatrix key = { s with tiles := tiles } := by
  unfold State.freeMatrix
  split
  · exact ⟨s.tiles, rfl⟩
  · split
    · exact ⟨s.tiles, rfl⟩
    · exact ⟨_, rfl⟩

theorem freeMatrix_jobAt (s : State) (key n : Nat) : (s.freeMatrix key).jobAt n = s.jobAt n := by
  obtain ⟨_, h⟩ := freeMatrix_eq s key
  rw [h]
  rfl

theorem freeMatrix_key (s : State) (key : Nat) : (s.freeMatrix key).key = s.key := by
  obtain ⟨_, h⟩ := freeMatrix_eq s key
  rw [h]
  rfl

theorem exit_idle {c : Core} (h : c.asked = none) : c.exit = { c with fin := true } := by simp [Core.exit, h]

/-- The job as its EXIT leaves it before its streams end: the instruction has retired. -/
def State.exited (s : State) (j : Job) : Job := j.modCore s.focus.kind (fun c => (c.goto (c.pc.toNat + 4)).retire)

theorem exit_ends {s : State} {j : Job} (h : Steady s j) (hr : AtRest s s.key j) :
    exec .exit s = .next ((s.setJob s.key (s.exited j).exitAll).freeMatrix s.key) := by
  have hjob := h.1.1
  have hrest : AtRest (s.setJob s.key (s.exited j)) s.key (s.exited j) := hr.retire _ _ fun _ => ⟨rfl, rfl⟩
  have hretired : s.modCore (fun _ => ((s.core j).goto ((s.core j).pc.toNat + 4)).retire) = s.setJob s.key (s.exited j) :=
    modCore_some hjob _
  have hwaits : (s.setJob s.key (s.exited j)).endWaits s.key = s.setJob s.key (s.exited j) := by
    rw [endWaits_rest (setJob_jobAt_same _ _ _) hrest, setJob_setJob]
  have hstop : (s.setJob s.key (s.exited j)).modCur Job.exitAll = s.setJob s.key (s.exited j).exitAll := by
    rw [modCur_some (setJob_jobAt_same _ _ _), setJob_key, setJob_setJob]
  have hat : ((s.setJob s.key (s.exited j).exitAll).freeMatrix s.key).jobAt s.key = some (s.exited j).exitAll := by
    rw [freeMatrix_jobAt, setJob_jobAt_same]
  have hst : (s.exited j).exitAll.st = j.st := modCore_st _ _ _
  refine coreExec_done h.1 nofun nofun ?_ fun i hi hrun => ?_
  · dsimp only
    rw [hretired, hwaits, hstop, setJob_key, freeMatrix_key, setJob_key, hat]
    exact congrArg Res.done (if_neg (by rw [hst]; exact h.2))
  · obtain rfl : (s.exited j).exitAll = i := Option.some.inj (hat.symm.trans hi)
    exact (modCore_deferred _ _ _).trans (h.1.calm j hjob (hst ▸ hrun))

/-! ### The obligation -/

/-- Settles O33: the forms of an allotment by what their operand names and what the core file holds; EXIT with `exit_ends`. -/
theorem allotmentAndExit : Obligations.AllotmentAndExit := by
  unfold Obligations.AllotmentAndExit
  refine ⟨?allots, ?illegal, ?exits⟩
  case allots =>
    intro s j d b h ha c n used hmod hlo hhi
    have hn : allotOk (bval j c b) = true := (allotOk_iff _).mpr ⟨hmod, hlo, hhi⟩
    have hfree : s.freeRegs s.fpkg s.ftile s.focus.kind = 256 - used := freeRegs_eq s _ _ _
    refine ⟨allot_kept h ha hn, fun hlt hroom => ?_, fun hlt hfull => allot_refused h ha hn hlt (hfree ▸ hfull), shrink_lowers h ha hn⟩
    rw [allot_grows h ha hn hlt (hfree ▸ hroom)]
    refine congrArg (fun x => Host.Outcome.next (State.wrote x d 1 (opdLen b))) (modCore_congr h.1 ?_)
    rw [zeroRegs_eq]
  case illegal =>
    intro s j d b h ha n hbad
    have hn : allotOk (bval j (s.core j) b) = false := Bool.eq_false_iff.mpr fun hok => by
      have := (allotOk_iff _).mp hok
      omega
    exact ⟨coreExec_raiseFree h ha (if_pos (by simp [hn])), coreExec_raiseFree h (ha.of_subset (by simp)) (if_pos (by simp [hn]))⟩
  case exits =>
    intro s j h hr stop i
    obtain ⟨ha, hx, -⟩ := hr.retire s.focus.kind (fun c => (c.goto (c.pc.toNat + 4)).retire) fun _ => ⟨rfl, rfl⟩
    have hcores : i.a.exit = { i.a with fin := true } ∧ i.x.exit = { i.x with fin := true } := ⟨exit_idle ha, exit_idle hx⟩
    have heng : ∀ e, i.eng e = j.eng e := modCore_eng j _ _
    rw [exit_ends h hr]
    refine congrArg (fun i => Host.Outcome.next ((s.setJob s.key i).freeMatrix s.key)) ?_
    show i.exitAll = _
    simp only [Job.exitAll, Bool.or_eq_true, hcores, show i.m = j.m from heng .M, show i.v = j.v from heng .V,
      show i.t = j.t from heng .T, show i.c = j.c from heng .C, show i.w = j.w from heng .W]
    rfl

end Sys2Proof.Machine
end

section
/-!
SUPPORT. Fields of a dword, and the record that SPAWN makes of an image (06 R165, R168).
-/

namespace Sys2Proof.Machine

/-! ### A field written, then read -/

section
variable {n : Nat} (x : BitVec n) {hi lo : Nat} (v : Nat)

/-- A field that is written stands between the bits above it and the bits below it. -/
theorem setBits_eq (h : lo ≤ hi + 1) : setBits x hi lo v = BitVec.ofNat n
    (2 ^ (hi + 1) * (x.toNat / 2 ^ (hi + 1)) + (2 ^ lo * (v % 2 ^ (hi + 1 - lo)) + x.toNat % 2 ^ lo)) := by
  have hsplit : 2 ^ (hi + 1) = 2 ^ lo * 2 ^ (hi + 1 - lo) := by rw [← Nat.pow_add, Nat.add_sub_cancel' h]
  have hlow := Nat.div_add_mod x.toNat (2 ^ lo)
  have hfield := Nat.div_add_mod (x.toNat / 2 ^ lo) (2 ^ (hi + 1 - lo))
  have hx : x.toNat = 2 ^ (hi + 1) * (x.toNat / 2 ^ (hi + 1)) + (2 ^ lo * bits x hi lo + x.toNat % 2 ^ lo) := by
    rw [hsplit, ← Nat.div_div_eq_div_mul, bits]
    calc x.toNat = 2 ^ lo * (x.toNat / 2 ^ lo) + x.toNat % 2 ^ lo := hlow.symm
      _ = _ := by rw [← add_assoc, mul_assoc, ← mul_add, hfield]
  rw [setBits]
  congr 1
  rw [mul_comm (bits x hi lo), mul_comm (v % _)]
  omega

theorem getLsbD_setBits (h : lo ≤ hi + 1) (i : Nat) : (setBits x hi lo v).getLsbD i =
    (decide (i < n) && if lo ≤ i ∧ i < hi + 1 then v.testBit (i - lo) else x.getLsbD i) := by
  have hsplit : 2 ^ (hi + 1) = 2 ^ lo * 2 ^ (hi + 1 - lo) := by rw [← Nat.pow_add, Nat.add_sub_cancel' h]
  have hc : x.toNat % 2 ^ lo < 2 ^ lo := Nat.mod_lt _ (by positivity)
  have hv : v % 2 ^ (hi + 1 - lo) < 2 ^ (hi + 1 - lo) := Nat.mod_lt _ (by positivity)
  have hlow : 2 ^ lo * (v % 2 ^ (hi + 1 - lo)) + x.toNat % 2 ^ lo < 2 ^ (hi + 1) := by
    rw [hsplit]
    calc _ < 2 ^ lo * (v % 2 ^ (hi + 1 - lo)) + 2 ^ lo := by omega
      _ = 2 ^ lo * (v % 2 ^ (hi + 1 - lo) + 1) := by ring
      _ ≤ _ := Nat.mul_le_mul_left _ hv
  rw [setBits_eq x v h, BitVec.getLsbD_ofNat, Nat.testBit_two_pow_mul_add _ hlow, Nat.testBit_two_pow_mul_add _ hc]
  congr 1
  simp only [Nat.testBit_mod_two_pow, Nat.testBit_div_two_pow, ← BitVec.getLsbD.eq_1]
  rcases lt_or_ge i lo with hbelow | hfrom
  · rw [if_pos (by omega), if_pos hbelow, if_neg (by omega), decide_eq_true hbelow, Bool.true_and]
  rcases lt_or_ge i (hi + 1) with hin | habove
  · rw [if_pos hin, if_neg (by omega), if_pos ⟨hfrom, hin⟩, decide_eq_true (by omega), Bool.true_and]
  · rw [if_neg (by omega), if_neg (by omega), Nat.sub_add_cancel habove]

theorem testBit_bits (hi lo i : Nat) : (bits x hi lo).testBit i = (decide (i < hi + 1 - lo) && x.getLsbD (i + lo)) := by
  rw [bits, Nat.testBit_mod_two_pow, Nat.testBit_div_two_pow, BitVec.getLsbD]

theorem bits_setBits_same (h : lo ≤ hi + 1) (hn : hi < n) : bits (setBits x hi lo v) hi lo = v % 2 ^ (hi + 1 - lo) := by
  refine Nat.eq_of_testBit_eq fun i => ?_
  rw [testBit_bits, getLsbD_setBits x v h, Nat.testBit_mod_two_pow]
  by_cases hi' : i < hi + 1 - lo
  · rw [if_pos (by omega), decide_eq_true (show i + lo < n by omega), Nat.add_sub_cancel, Bool.true_and]
  · rw [decide_eq_false hi', Bool.false_and, Bool.false_and]

theorem bits_setBits_apart (h : lo ≤ hi + 1) {hi' lo' : Nat} (hap : hi' < lo ∨ hi < lo') :
    bits (setBits x hi lo v) hi' lo' = bits x hi' lo' := by
  refine Nat.eq_of_testBit_eq fun i => ?_
  rw [testBit_bits, testBit_bits, getLsbD_setBits x v h]
  by_cases hin : i < hi' + 1 - lo'
  · rw [if_neg (by omega)]
    by_cases hn : i + lo' < n
    · rw [decide_eq_true hn, Bool.true_and]
    · rw [BitVec.getLsbD_of_ge x _ (Nat.not_lt.mp hn), Bool.and_false]
  · rw [decide_eq_false hin, Bool.false_and, Bool.false_and]

end

theorem vget_vset_ne {α : Type} {n : Nat} (v : Vector α (n + 1)) {i k : Nat} (x : α) (h : i % (n + 1) ≠ k % (n + 1)) :
    vget (vset v i x) k = vget v k :=
  Vector.getElem_set_ne _ _ h

/-! ### The record of an image (R165, R168) -/

section
variable (img : Dw8) (u : Tenant) (cls : Nat) (sup : Bool)

/-- Dword 0 of an image with tenant and class forced. -/
def spawnedHead (w : Word) (u : Tenant) (cls : Nat) : Word :=
  let d := setBits w 47 40 u.toNat
  setBits d 39 38 (max (bits d 39 38) cls)

theorem vget_spawned_zero : vget (spawned img u cls sup) 0 = setBits (spawnedHead (vget img 0) u cls) 34 34 (if sup then 1 else 0) := by
  rw [spawned, setLv, vget_vset_same, vget_vset_same]
  rfl

theorem vget_spawned_succ {k : Nat} (h0 : 0 < k) (h8 : k < 8) : vget (spawned img u cls sup) k = vget img k := by
  rw [spawned, setLv, vget_vset_ne _ _ (by omega), vget_vset_ne _ _ (by omega)]

theorem recTenant_spawned : recTenant (spawned img u cls sup) = u.toNat := by
  have hu := u.isLt
  rw [show recTenant _ = bits (vget (spawned img u cls sup) 0) 47 40 from rfl, vget_spawned_zero, spawnedHead,
    bits_setBits_apart _ _ (by omega) (by omega), bits_setBits_apart _ _ (by omega) (by omega),
    bits_setBits_same _ _ (by omega) (by omega)]
  omega

theorem recClass_spawned : recClass (spawned img u cls sup) = max (recClass img) cls % 4 := by
  rw [show recClass (spawned img u cls sup) = bits (vget (spawned img u cls sup) 0) 39 38 from rfl, vget_spawned_zero, spawnedHead,
    bits_setBits_apart _ _ (by omega) (by omega), bits_setBits_same _ _ (by omega) (by omega),
    bits_setBits_apart _ _ (by omega) (by omega)]
  rfl

theorem recLv_spawned : recLv (spawned img u cls sup) = sup := by
  rw [recLv, vget_spawned_zero, getLsbD_setBits _ _ (by omega)]
  cases sup <;> rfl

end

end Sys2Proof.Machine
end

section
/-!
SUPPORT. What the dispatcher moves as it reads and writes for a tenant, and where a record enters its class queue (06 R168; 14 R376).
-/

namespace Sys2Proof.Machine

/-! ### What the dispatcher moves -/

/-- `t` has the jobs of `s` and the same stream in focus. -/
def KeepsJobs (s t : State) : Prop := t.jobs = s.jobs ∧ t.focus = s.focus

theorem KeepsJobs.refl (s : State) : KeepsJobs s s := ⟨rfl, rfl⟩
theorem KeepsJobs.trans {s t u : State} (h1 : KeepsJobs s t) (h2 : KeepsJobs t u) : KeepsJobs s u :=
  ⟨h2.1.trans h1.1, h2.2.trans h1.2⟩
theorem MovesUnits.keepsJobs {s t : State} (h : MovesUnits s t) : KeepsJobs s t := ⟨h.jobs, h.focus⟩
theorem KeepsJobs.key {s t : State} (h : KeepsJobs s t) : t.key = s.key := by rw [State.key, State.key, h.2]
theorem KeepsJobs.calm {s t : State} (h : KeepsJobs s t) {k : Nat} (hc : Calm s k) : Calm t k :=
  hc.of_jobAt (congrArg (mget · k) h.1)
theorem keepsJobs_modTen (s : State) (p u : Nat) (f : TenantArea → TenantArea) : KeepsJobs s (s.modTen p u f) := ⟨rfl, rfl⟩

section
variable (s : State) (p u : Nat)

/-- An agent of the H-die has no TLB: its translation moves what its walk moves (03 R77). -/
theorem trFor_agent_state (va : Nat) (need : Perm) : (s.trFor (agent p u) va need).1 = (s.walk p 4 u va need).1 := by
  unfold State.trFor
  dsimp only [agent]
  obtain ⟨t, r⟩ := s.walk p 4 u va need
  cases r <;> rfl

theorem movesUnits_place1_agent (va : Nat) (need : Perm) : MovesUnits s (s.place1 (agent p u) va need).1 := by
  have htr : MovesUnits s (s.trFor (agent p u) va need).1 := trFor_agent_state s p u va need ▸ movesUnits_walk s p 4 u va need
  unfold State.place1
  split_ifs
  · exact .refl s
  generalize s.trFor (agent p u) va need = x at htr
  obtain ⟨t, r⟩ := x
  cases r with
  | ok e pa =>
    dsimp only
    split_ifs <;> exact htr
  | fault c => exact htr
  | wait => exact htr

theorem movesUnits_pieces_agent (need : Perm) (fuel va n : Nat) : MovesUnits s (s.pieces (agent p u) need fuel va n).1 := by
  induction fuel generalizing s va n with
  | zero => exact .refl s
  | succ fuel ih =>
    have hplace := movesUnits_place1_agent s p u va need
    unfold State.pieces
    split_ifs
    · exact .refl s
    generalize s.place1 (agent p u) va need = x at hplace
    obtain ⟨t, r⟩ := x
    cases r with
    | ok pa =>
      have hrest := hplace.trans (ih t (va + min n (pieceRoom pa)) (n - min n (pieceRoom pa)))
      dsimp only
      generalize State.pieces t (agent p u) need fuel _ _ = y at hrest
      obtain ⟨t', r'⟩ := y
      cases r' <;> exact hrest
    | fault c e => exact hplace
    | wait => exact hplace

/-- No tile counts what an agent requests, and nothing of it is lost on a link. -/
theorem travel_agent (va : Word) (l : List (Nat × Nat)) (count : List Place) (write : Bool) :
    s.travel (agent p u) va l count write = (s, .ok ()) := rfl

theorem movesUnits_sentPieces_agent (need : Perm) (va n : Nat) (write : Bool) :
    MovesUnits s (s.sentPieces (agent p u) need va n write).1 := by
  have hpieces := movesUnits_pieces_agent s p u need n va n
  unfold State.sentPieces
  generalize s.pieces (agent p u) need n va n = x at hpieces
  obtain ⟨t, r⟩ := x
  cases r with
  | ok l =>
    dsimp only
    rw [travel_agent]
    generalize t.failing (agent p u) va l = y
    obtain ⟨sent, _ | bad⟩ := y <;> exact hpieces
  | fault c e => exact hpieces
  | wait => exact hpieces

theorem request_agent (pa n : Nat) (h : Hint) : s.request (agent p u) pa n h = s.touchHome pa n h := rfl

theorem carryPieces_agent (write : Bool) (f : Nat) (l : List (Nat × Nat)) : s.carryPieces (agent p u) write f l = s := by
  induction l with
  | nil => rfl
  | cons x l ih => exact ih

theorem movesUnits_spanRead_agent (va n : Nat) (need : Perm) (h : Hint) : MovesUnits s (s.spanRead (agent p u) va n need h).1 := by
  have hsent := movesUnits_sentPieces_agent s p u need va n false
  unfold State.spanRead
  generalize s.sentPieces (agent p u) need va n false = x at hsent
  obtain ⟨t, r⟩ := x
  cases r with
  | ok l =>
    dsimp only
    rw [carryPieces_agent]
    simp only [request_agent]
    exact hsent.trans (movesUnits_foldl (fun t x => movesUnits_touchHome t x.1 x.2 h) l t)
  | fault c e => exact hsent
  | wait => exact hsent

theorem keepsJobs_putPieces_agent (h : Hint) (l : List (Nat × Nat)) (b : List Byte) : KeepsJobs s (s.putPieces (agent p u) h l b) := by
  induction l generalizing s b with
  | nil => exact .refl s
  | cons x l ih =>
    obtain ⟨pa, k⟩ := x
    have htouch : KeepsJobs s (s.touchHome pa k h) := (movesUnits_touchHome s pa k h).keepsJobs
    exact KeepsJobs.trans (t := { s.touchHome pa k h with mem := _ }) htouch (ih _ _)

theorem keepsJobs_spanWrite_agent (va : Nat) (b : List Byte) (h : Hint) : KeepsJobs s (s.spanWrite (agent p u) va b h).1 := by
  have hsent := (movesUnits_sentPieces_agent s p u permW va b.length true).keepsJobs
  unfold State.spanWrite
  generalize s.sentPieces (agent p u) permW va b.length true = x at hsent
  obtain ⟨t, r⟩ := x
  cases r with
  | ok l => exact hsent.trans (keepsJobs_putPieces_agent t p u h l b)
  | fault c e => exact hsent
  | wait => exact hsent

theorem keepsJobs_recall (c : Nat) (r : QRec) (onChip : Bool) : KeepsJobs s (s.recall p u c r onChip) := by
  unfold State.recall
  cases hslot : r.slot with
  | none => exact .refl s
  | some i =>
    have hread := (movesUnits_spanRead_agent s p u ((s.tenAt p u).backing c i) 64 permR .load).keepsJobs
    dsimp only
    generalize s.spanRead (agent p u) _ 64 permR .load = x at hread
    obtain ⟨t, r⟩ := x
    cases r with
    | ok b => exact hread.trans (keepsJobs_modTen _ _ _ _)
    | fault e a => exact hread.trans ((keepsJobs_modTen _ _ _ _).trans (keepsJobs_modTen _ _ _ _))
    | wait => exact hread

theorem keepsJobs_stow (c : Nat) : KeepsJobs s (s.stow p u c) := by
  unfold State.stow
  extract_lets q t a
  have ht : KeepsJobs s t := by
    dsimp only [t]
    split
    · exact keepsJobs_recall s p u c _ true
    · exact .refl s
  clear_value t
  split
  · exact ht
  · next r _ =>
    have hwrite := ht.trans (keepsJobs_spanWrite_agent t p u (a.backing c (a.freePlace c)) (dwordBytes r.dw.toList) .store)
    generalize t.spanWrite (agent p u) _ (dwordBytes r.dw.toList) .store = x at hwrite
    obtain ⟨t', res⟩ := x
    cases res with
    | ok _ => exact hwrite.trans (keepsJobs_modTen _ _ _ _)
    | fault e v => exact hwrite.trans ((keepsJobs_modTen _ _ _ _).trans (keepsJobs_modTen _ _ _ _))
    | wait => exact hwrite

theorem keepsJobs_enqueue (r : QRec) : KeepsJobs s (s.enqueue p u r) := by
  unfold State.enqueue
  split_ifs
  · exact .refl s
  · exact (keepsJobs_modTen s p u _).trans (keepsJobs_stow _ p u _)

end

/-- A queue that lies on chip stays as it is. -/
theorem stow_onChip {s : State} {p u c : Nat} (hlen : (vget (s.tenAt p u).queues c).length ≤ 64)
    (hslot : ∀ r ∈ vget (s.tenAt p u).queues c, r.slot = none) : s.stow p u c = s := by
  have hback : ((vget (s.tenAt p u).queues c).take 64).find? (fun r => r.slot.isSome) = none :=
    List.find?_eq_none.mpr fun r hr => by simp [hslot r (List.mem_of_mem_take hr)]
  have hover : (vget (s.tenAt p u).queues c).drop 64 = [] := List.drop_eq_nil_of_le hlen
  simp [State.stow, hback, hover]

/-- A record enters at the tail of a queue that lies on chip, and nothing else moves. -/
theorem enqueue_onChip {s : State} {p u : Nat} {r : QRec} (hq : (s.pkgAt p).quiesce = 0) (hr : r.slot = none)
    (hlen : (vget (s.tenAt p u).queues (recClass r.dw)).length < 64)
    (hslot : ∀ x ∈ vget (s.tenAt p u).queues (recClass r.dw), x.slot = none) :
    s.enqueue p u r = s.modTen p u (fun a => { a with
      queues := vset a.queues (recClass r.dw) (vget a.queues (recClass r.dw) ++ [{ r with since := s.phase p }]) }) := by
  refine (if_neg (not_not_intro hq)).trans (stow_onChip ?_ fun x hx => ?_)
  · rw [modTen_tenAt_same, vget_vset_same, List.length_append]
    exact hlen
  · rw [modTen_tenAt_same, vget_vset_same] at hx
    rcases List.mem_append.mp hx with hold | hnew
    · exact hslot x hold
    · rw [List.mem_singleton.mp hnew]
      exact hr

end Sys2Proof.Machine
end

section
/-!
SUPPORT. What seals a phase (10 R276), the instructions of jobs (06 R168 to R172; 10 R273 to R277), and O32.
-/

namespace Sys2Proof.Machine

/-! ### Phases (10 R276) -/

/-- `t` has the jobs, the memory, the stream in focus and the tenant's records of `s`. -/
structure KeepsRecords (p u : Nat) (s t : State) : Prop where
  jobs : KeepsJobs s t
  mem : t.mem = s.mem
  queues : (t.tenAt p u).queues = (s.tenAt p u).queues

theorem KeepsRecords.trans {p u : Nat} {s t r : State} (h1 : KeepsRecords p u s t) (h2 : KeepsRecords p u t r) : KeepsRecords p u s r :=
  ⟨h1.jobs.trans h2.jobs, h2.mem.trans h1.mem, h2.queues.trans h1.queues⟩

theorem keepsRecords_modTen (s : State) (p u : Nat) (f : TenantArea → TenantArea) (hf : ∀ a, (f a).queues = a.queues) :
    KeepsRecords p u s (s.modTen p u f) :=
  ⟨keepsJobs_modTen s p u f, rfl, by rw [modTen_tenAt_same, hf]⟩

theorem KeepsRecords.ofTag {p u : Nat} {s t : State} (h : KeepsRecords p u s t) (tag : Nat) :
    (t.tenAt p u).ofTag tag = (s.tenAt p u).ofTag tag := by
  rw [TenantArea.ofTag, TenantArea.ofTag, TenantArea.records, TenantArea.records, h.queues]

section
variable {s : State} {p u tag phase : Nat}

theorem PhaseInst.is_iff {i : PhaseInst} : i.is tag phase = true ↔ i.tag.toNat = tag ∧ i.phase.toNat = phase := by
  simp [PhaseInst.is]

/-- The instances of a tenant after a release: what is not sealed, or still holds a record or a job. -/
theorem mem_releasePhases {i : PhaseInst} : i ∈ ((s.releasePhases p u).tenAt p u).phases ↔
    i ∈ (s.tenAt p u).phases ∧ (i.sealed_ = true → s.phaseBusy p u i = true) := by
  rw [State.releasePhases, modTen_tenAt_same]
  simp only [List.mem_filter, List.contains_eq_mem, Bool.not_eq_true', decide_eq_false_iff_not, Bool.and_eq_true]
  constructor
  · exact fun ⟨hm, hg⟩ => ⟨hm, fun hs => by_contra fun hb => hg ⟨hm, hs, by simpa using hb⟩⟩
  · exact fun ⟨hm, hb⟩ => ⟨hm, fun ⟨_, hs, hn⟩ => by simp [hb hs] at hn⟩

/-- The instances of a tenant with those that `f` selects sealed. -/
def State.sealing (s : State) (p u : Nat) (f : PhaseInst → Bool) : State :=
  s.modTen p u (fun a => { a with phases := a.phases.map (fun i => if f i then { i with sealed_ := true } else i) })

/-- The state in which a phase all of whose records are queued has its entry. -/
def State.withInstance (s : State) (p u tag phase : Nat) : State :=
  if ((s.tenAt p u).phaseOf tag phase).isNone && ((s.tenAt p u).ofTag tag).any (fun r => recPhase r.dw == phase) then
    s.modTen p u (fun a => { a with phases := a.phases ++ [⟨BitVec.ofNat 12 tag, BitVec.ofNat 8 phase, 0, 0, true, false⟩] })
  else s

theorem sealInstance_eq : s.sealInstance p u tag phase =
    ((s.withInstance p u tag phase).sealing p u (fun i => i.is tag phase)).releasePhases p u := rfl

theorem keepsRecords_sealing (f : PhaseInst → Bool) : KeepsRecords p u s ((s.withInstance p u tag phase).sealing p u f) := by
  have hopen : KeepsRecords p u s (s.withInstance p u tag phase) := by
    unfold State.withInstance
    split
    · exact keepsRecords_modTen _ _ _ _ fun _ => rfl
    · exact ⟨.refl s, rfl, rfl⟩
  exact hopen.trans (keepsRecords_modTen _ _ _ _ fun _ => rfl)

theorem keepsRecords_releasePhases (s : State) (p u : Nat) : KeepsRecords p u s (s.releasePhases p u) := by
  unfold State.releasePhases
  exact keepsRecords_modTen _ _ _ _ fun _ => rfl

theorem keepsRecords_sealInstance : KeepsRecords p u s (s.sealInstance p u tag phase) := by
  rw [sealInstance_eq]
  exact (keepsRecords_sealing _).trans (keepsRecords_releasePhases _ p u)

/-- The phase of a queued record has its entry. -/
theorem withInstance_holds {tag : BitVec 12} {phase : Nat} (hphase : phase < 256) {r : QRec} (hr : r ∈ (s.tenAt p u).ofTag tag.toNat)
    (hp : recPhase r.dw = phase) : ∃ i ∈ ((s.withInstance p u tag.toNat phase).tenAt p u).phases, i.is tag.toNat phase = true := by
  have hany : ((s.tenAt p u).ofTag tag.toNat).any (fun r => recPhase r.dw == phase) = true :=
    List.any_eq_true.mpr ⟨r, hr, beq_iff_eq.mpr hp⟩
  rw [State.withInstance, hany, Bool.and_true]
  cases hfind : (s.tenAt p u).phaseOf tag.toNat phase with
  | none =>
    refine ⟨⟨BitVec.ofNat 12 tag.toNat, BitVec.ofNat 8 phase, 0, 0, true, false⟩, by simp, PhaseInst.is_iff.mpr ⟨by simp, ?_⟩⟩
    simpa using hphase
  | some i => exact ⟨i, List.mem_of_find?_eq_some hfind, by simpa using List.find?_some hfind⟩

theorem sealInstance_sealed {i : PhaseInst} (hi : i ∈ ((s.sealInstance p u tag phase).tenAt p u).phases)
    (his : i.is tag phase = true) : i.sealed_ = true := by
  rw [sealInstance_eq, mem_releasePhases, State.sealing, modTen_tenAt_same] at hi
  obtain ⟨y, -, rfl⟩ := List.mem_map.mp hi.1
  by_cases hy : y.is tag phase = true
  · rw [if_pos hy]
  · rw [if_neg hy] at his
    exact absurd his hy

theorem sealInstance_keeps {tag : BitVec 12} {phase : Nat} (hphase : phase < 256) {r : QRec} (hr : r ∈ (s.tenAt p u).ofTag tag.toNat)
    (hp : recPhase r.dw = phase) : ∃ i ∈ ((s.sealInstance p u tag.toNat phase).tenAt p u).phases, i.is tag.toNat phase = true := by
  obtain ⟨y, hy, his⟩ := withInstance_holds hphase hr hp
  refine ⟨{ y with sealed_ := true }, ?_, his⟩
  rw [sealInstance_eq, mem_releasePhases]
  refine ⟨?_, fun _ => ?_⟩
  · rw [State.sealing, modTen_tenAt_same]
    exact List.mem_map.mpr ⟨y, hy, if_pos his⟩
  · obtain ⟨htag, hph⟩ := PhaseInst.is_iff.mp his
    refine Bool.or_eq_true_iff.mpr (.inl (List.any_eq_true.mpr ⟨r, ?_, beq_iff_eq.mpr (hp.trans hph.symm)⟩))
    rw [(keepsRecords_sealing _).ofTag]
    exact htag.symm ▸ hr
end

/-! ### The instructions -/

theorem Translated.mem {s t : State} {j : Job} {va : Word} {need : Perm} {pa : Nat} (h : Translated s j va need t pa) :
    t.mem = s.mem := by
  obtain ⟨-, -, ⟨e, htr⟩, -⟩ := h
  obtain ⟨x, hx, rfl | rfl⟩ := coreTranslate_moves htr
  · exact hx.mem
  · exact (modCore_mem _ _).trans hx.mem

theorem keepsJobs_atomicNow (s : State) (pa n : Nat) (op : BitVec 4) (x cmp : Nat) : KeepsJobs s (s.atomicNow pa n op x cmp).1 :=
  ⟨(movesUnits_touchHome s pa n .store).jobs, (movesUnits_touchHome s pa n .store).focus⟩

theorem atomicNow_mem (s : State) (pa n : Nat) (op : BitVec 4) (x cmp : Nat) :
    (s.atomicNow pa n op x cmp).1.mem = atomMem s.mem pa n op x cmp :=
  congrArg (atomMem · pa n op x cmp) (movesUnits_touchHome s pa n .store).mem

theorem keepsJobs_keep (s : State) (p : Parcel) (seq : BitVec 16) (v : Word) (x : List Byte) : KeepsJobs s (s.keep p seq v x) := by
  unfold State.keep
  split
  · exact .refl s
  · exact ⟨rfl, rfl⟩

/-- What a schedule gives at a point, by the entry for it. -/
theorem schedTarget_eq {l : List SchedEntry} {kind point level : Nat} {e : Option SchedEntry}
    (h : l.find? (fun e => e.kind == kind && e.point == point) = e) : schedTarget l kind point level =
      e.bind (fun e => if e.tgt.getLsbD (24 * level + 23) then some (bits e.tgt (24 * level + 17) (24 * level)) else none) := by
  rw [schedTarget, h]
  cases e <;> rfl

section
variable {s : State} {j : Job} {a : Reg} {b : Opd} (h : Ready s j)
include h

theorem spawn_enqueues {dw : Dw8} (ha : Allowed (s.core j) [a]) (hin : ((s.core j).reg a).toNat + 64 ≤ padSize)
    (hal : ((s.core j).reg a).toNat % 64 = 0) (hfree : s.localFree false = true)
    (hsound : s.padFlawed ((s.core j).reg a).toNat 64 false = false)
    (hdw : spawned (dw8 (readDwords s.mem (apAddr s.fpkg s.ftile ((s.core j).reg a).toNat) 8)) j.tenant j.cls j.sup = dw)
    (hroom : (s.tenAt s.fpkg j.tenant.toNat).hasRoom (recClass dw) = true) (hrel : s.released .dom = true)
    (hserved : (s.tenAt s.fpkg j.tenant.toNat).refuses dw = false) :
    exec (.spawn a) s = .next ((s.enqueue s.fpkg j.tenant.toNat (qrec dw (some (dieOf s.ftile)) none false)).retired 4) := by
  subst hdw
  have hkeeps := keepsJobs_enqueue s s.fpkg j.tenant.toNat
    (qrec (spawned (dw8 (readDwords s.mem (apAddr s.fpkg s.ftile ((s.core j).reg a).toNat) 8)) j.tenant j.cls j.sup)
      (some (dieOf s.ftile)) none false)
  refine coreExec_next h nofun ha ?_ hkeeps.key (hkeeps.calm h.calm)
  dsimp only
  rw [withLocal_ok hin hal, inLocalQueue, if_pos hfree, soundPad, if_neg (by simp [hsound]), if_neg (by simp [hroom]),
    afterRelease_ok hrel, State.enqueueSpawn, if_neg (by simp [hserved])]

/-- JOIN performs its atomic at once and keeps the result at the place (02 R67; 10 R274). -/
theorem join_adds {t : State} {pa : Nat} (ha : Allowed (s.core j) (a :: opdRegs b)) (ht : Translated s j ((s.core j).reg a) permRW t pa)
    (hans : Answers t (.atomic 0 (some .dom)) pa 8) (hal : ((s.core j).reg a).toNat % 64 = 0) :
    let p := t.parcel (.atomic 0 (some .dom)) pa
    let o := (t.asked p).atomicNow pa 8 0 (bval j (s.core j) b).toNat 0
    exec (.join a b) s = .next ((o.1.keep p (t.askSeq p) o.2 []).retired (opdLen b)) ∧
      o.1.mem = atomMem s.mem pa 8 0 (bval j (s.core j) b).toNat 0 := by
  intro p o
  have hkeeps : KeepsJobs t (o.1.keep p (t.askSeq p) o.2 []) :=
    KeepsJobs.trans ⟨asked_jobs t p, asked_focus t p⟩ ((keepsJobs_atomicNow _ _ _ _ _ _).trans (keepsJobs_keep _ _ _ _ _))
  have hkey : t.key = s.key := by rw [State.key, State.key, ht.focus]
  refine ⟨coreExec_next h nofun ha ((dataAccess_translated ht hal).trans (hans.askPlace _ _ _)) (hkeeps.key.trans hkey)
    (hkeeps.calm (ht.calm h.calm)), ?_⟩
  rw [atomicNow_mem, asked_mem, ht.mem]

end

/-! ### The obligation -/

/-- Settles O32: each instruction of a job by the state it finds. -/
theorem jobOperations : Obligations.JobOperations := by
  unfold Obligations.JobOperations
  intro s j a b h hab c ad u v
  have ha : Allowed (s.core j) [a] := hab.of_subset (by simp)
  have hb : Allowed (s.core j) (opdRegs b) := hab.of_subset (by simp)
  refine ⟨?spawn, fun t pa ht hans hal => join_adds h hab ht hans hal, ?trigger, ?depMet, ?depWaits, ?rend, ?phase, ?swpt⟩
  case spawn =>
    intro img dw q t hin hal hfree hsound hroom hrel hserved
    refine ⟨spawn_enqueues h ha hin hal hfree hsound rfl hroom hrel hserved, recTenant_spawned _ _ _ _, recClass_spawned _ _ _ _,
      recLv_spawned _ _ _ _, fun k h0 h8 => vget_spawned_succ _ _ _ _ h0 h8, fun hlen hslot hq => ?_⟩
    have ht : t = _ := enqueue_onChip hq rfl hlen hslot
    rw [ht, modTen_tenAt_same]
    exact ⟨rfl, { qrec dw (some (dieOf s.ftile)) none false with since := s.phase s.fpkg }, rfl, vget_vset_same _ _ _⟩
  case trigger =>
    intro t
    refine ⟨fun hrel => ?_, fun hrel => coreExec_wait h nofun nofun (afterRelease_wait hrel _) rfl h.calm⟩
    have hcalm : Calm t s.key := h.calm.modCur _ (fun _ => rfl) (fun _ => rfl)
    exact coreExec_next h nofun nofun (afterRelease_ok hrel _) (modCur_key _ _) (hcalm.of_jobAt rfl)
  case depMet =>
    intro hmet
    exact coreExec_next h nofun nofun (if_pos (by simpa using hmet)) rfl h.calm
  case depWaits =>
    intro hdv hunmet
    have hnot : ¬ ((!recDv j.qrec.dw) = true ∨ s.depMet s.fpkg u (recPlaunch j.qrec.dw) = true) := by simp [hdv, hunmet]
    exact coreExec_wait h nofun nofun (if_neg hnot) rfl h.calm
  case rend =>
    intro hh hst hrel
    have hhandler : ¬ c.h = true := by simp [hh]
    exact coreExec_next h nofun nofun ((if_neg hhandler).trans ((if_neg hst).trans (afterRelease_ok hrel _))) (modCore_key _ _)
      (h.calm.modCore _)
  case phase =>
    intro hv
    have hkeeps : KeepsRecords s.fpkg u s (s.sealInstance s.fpkg u j.tag.toNat v.toNat) := keepsRecords_sealInstance
    refine ⟨_, coreExec_next h nofun hb (if_neg (Nat.not_lt.mpr hv)) hkeeps.jobs.key (hkeeps.jobs.calm h.calm), hkeeps.mem,
      hkeeps.jobs.1, fun x hx htag hphase => sealInstance_sealed hx (PhaseInst.is_iff.mpr ⟨congrArg _ htag, hphase⟩), fun r hr hp => ?_⟩
    obtain ⟨x, hx, his⟩ := sealInstance_keeps (by omega) hr hp
    obtain ⟨htag, hphase⟩ := PhaseInst.is_iff.mp his
    exact ⟨x, hx, BitVec.eq_of_toNat_eq htag, hphase⟩
  case swpt =>
    intro e lv
    refine ⟨fun he => ?_, fun x he hset hal => ?_⟩
    · have htarget : schedTarget j.sched s.focus.kind.code c.pc.toNat lv = none := schedTarget_eq he
      refine coreExec_next h nofun nofun ?_ rfl h.calm
      rw [htarget]
    · have htarget : schedTarget j.sched s.focus.kind.code c.pc.toNat lv = some (bits x.tgt (24 * lv + 17) (24 * lv)) :=
        (schedTarget_eq he).trans (if_pos hset)
      have hlt : bits x.tgt (24 * lv + 17) (24 * lv) < 2 ^ 18 := (bits_lt _ _ _).trans_eq (congrArg _ (by omega))
      have hval : (BitVec.ofNat 64 (bits x.tgt (24 * lv + 17) (24 * lv))).toNat = bits x.tgt (24 * lv + 17) (24 * lv) :=
        Nat.mod_eq_of_lt (by omega)
      rw [← hval]
      refine coreExec_goto h nofun nofun ?_ rfl h.calm
      rw [htarget]
      exact transfer_ok (by omega) (by omega)

end Sys2Proof.Machine
end

section
/-!
SUPPORT. A core word and its fields, format by format (08 R192 to R201), and where a core finds an instruction's words (08 R196).
-/

namespace Sys2Proof

/-! ### A word and its fields (08 R192) -/

/-- A field is its high and its low part. -/
theorem append_eq_field {k m n s : Nat} {hi : BitVec m} {lo : BitVec n} {w : BitVec k} :
    hi ++ lo = w.extractLsb' s (m + n) ↔ hi = w.extractLsb' (s + n) m ∧ lo = w.extractLsb' s n := by
  rw [← BitVec.extractLsb'_append_extractLsb'_eq_extractLsb' rfl]
  constructor
  · intro h
    have hhi := congrArg (BitVec.extractLsb' n m) h
    have hlo := congrArg (BitVec.extractLsb' 0 n) h
    simp only [BitVec.extractLsb'_append_eq_left, BitVec.extractLsb'_append_eq_right] at hhi hlo
    exact ⟨hhi, hlo⟩
  · rintro ⟨rfl, rfl⟩
    rfl

theorem eq_iff_eq_field {k : Nat} {x w : BitVec k} : x = w ↔ x = w.extractLsb' 0 k := by rw [BitVec.extractLsb'_eq_self]

theorem eq_field_comm {k m s : Nat} {x : BitVec m} {w : BitVec k} : x = w.extractLsb' s m ↔ w.extractLsb' s m = x := eq_comm

theorem encR_eq_iff {op : BitVec 6} {d a b : Reg} {s : BitVec 2} {fn : BitVec 6} {w : W32} :
    encR op d a b s fn = w ↔ fOp w = op ∧ fD w = d ∧ fA w = a ∧ fB w = b ∧ fBsel w = s ∧ fFn w = fn := by
  rw [eq_iff_eq_field]
  change op ++ d ++ a ++ b ++ s ++ fn = w.extractLsb' 0 (6 + 6 + 6 + 6 + 2 + 6) ↔ _
  simp only [append_eq_field, and_assoc]
  simp only [eq_field_comm]
  exact .rfl

/-! ### The words of an instruction where a core finds them (08 R196) -/

/-- The core words `e` stand at a fetch that gives the word `w`, and `l` after it. -/
def Enc.StandsAt (e : Enc) (w : W32) (l : LitFetch) : Prop :=
  e = .core w none ∨ ∃ x, l = .word true x ∧ e = .core w (some x)

/-- The fetch of `w`, with `l` after it, finds the words of `i`; an event has none. -/
def Instr.StandsAt (i : Instr) (w : W32) (l : LitFetch) : Prop := (encode i).elim False (fun e => e.StandsAt w l)

theorem Instr.standsAt_iff {i : Instr} {w : W32} {l : LitFetch} :
    i.StandsAt w l ↔ encode i = some (.core w none) ∨ ∃ x, l = .word true x ∧ encode i = some (.core w (some x)) := by
  unfold Instr.StandsAt Enc.StandsAt
  cases encode i <;> simp

/-- What is fetched is a well-formed instruction's words. -/
def Coded (i : Instr) (w : W32) (l : LitFetch) : Prop := i.wf = true ∧ i.StandsAt w l

variable {w : W32} {l : LitFetch} {op fn : BitVec 6} {d a b : Reg}

theorem standsAt_single {v : W32} : (Enc.core v none).StandsAt w l ↔ v = w := by simp [Enc.StandsAt]

theorem standsAt_literal {v x : W32} : (Enc.core v (some x)).StandsAt w l ↔ v = w ∧ l = .word true x := by
  simp [Enc.StandsAt, and_comm]

theorem not_standsAt_engine {e : BitVec 48} : ¬ (Enc.engine e).StandsAt w l := by simp [Enc.StandsAt]

theorem decodeOpd_reg {r : Reg} : decodeOpd w l = .ok (.reg r) ↔ fB w = r ∧ fBsel w = 0 := by
  unfold decodeOpd
  repeat' split
  all_goals simp_all

theorem decodeOpd_kbank {r : Reg} : decodeOpd w l = .ok (.kbank r) ↔ fB w = r ∧ fBsel w = 1 := by
  unfold decodeOpd
  repeat' split
  all_goals simp_all

theorem decodeOpd_lit {k : LitKind} {x : W32} :
    decodeOpd w l = .ok (.lit k x) ↔ fB w = k.code ∧ fBsel w = 2 ∧ l = .word true x := by
  unfold decodeOpd
  cases k
  all_goals
    repeat' split
    all_goals simp_all [LitKind.code]

theorem encV_standsAt {o : Opd} : (encV op d a o fn).StandsAt w l ↔
    fOp w = op ∧ fD w = d ∧ fA w = a ∧ fFn w = fn ∧ decodeOpd w l = .ok o := by
  cases o with
  | reg r => rw [decodeOpd_reg, encV, standsAt_single, encR_eq_iff]; tauto
  | kbank r => rw [decodeOpd_kbank, encV, standsAt_single, encR_eq_iff]; tauto
  | lit k x => rw [decodeOpd_lit, encV, standsAt_literal, encR_eq_iff]; tauto


theorem encZ_standsAt : (encZ op d a b fn).StandsAt w l ↔
    fOp w = op ∧ fD w = d ∧ fA w = a ∧ fB w = b ∧ fBsel w = 0 ∧ fFn w = fn := by
  rw [encZ, standsAt_single, encR_eq_iff]

theorem encI_standsAt {i : BitVec 14} : (encI op d a i).StandsAt w l ↔
    fOp w = op ∧ fD w = d ∧ fA w = a ∧ w.extractLsb' 0 14 = i := by
  rw [encI, standsAt_single, eq_iff_eq_field]
  change op ++ d ++ a ++ i = w.extractLsb' 0 (6 + 6 + 6 + 14) ↔ _
  simp only [append_eq_field, and_assoc]
  simp only [eq_field_comm]
  exact .rfl

theorem encF_standsAt {i : BitVec 20} : (encF op d i).StandsAt w l ↔ fOp w = op ∧ fD w = d ∧ w.extractLsb' 0 20 = i := by
  rw [encF, standsAt_single, eq_iff_eq_field]
  change op ++ d ++ i = w.extractLsb' 0 (6 + 6 + 20) ↔ _
  simp only [append_eq_field, and_assoc]
  simp only [eq_field_comm]
  exact .rfl

theorem encB_standsAt {c : BitVec 4} {i : BitVec 10} : (encB c a b i).StandsAt w l ↔ fOp w = 0x18 ∧ w.extractLsb' 22 4 = c ∧
    w.extractLsb' 16 6 = a ∧ w.extractLsb' 10 6 = b ∧ w.extractLsb' 0 10 = i := by
  rw [encB, standsAt_single, eq_iff_eq_field]
  change 0x18#6 ++ c ++ a ++ b ++ i = w.extractLsb' 0 (6 + 4 + 6 + 6 + 10) ↔ _
  simp only [append_eq_field, and_assoc]
  simp only [eq_field_comm]
  exact .rfl

theorem encJ_standsAt {i : BitVec 26} : (Enc.core (op ++ i) none).StandsAt w l ↔ fOp w = op ∧ w.extractLsb' 0 26 = i := by
  rw [standsAt_single, eq_iff_eq_field]
  change op ++ i = w.extractLsb' 0 (6 + 26) ↔ _
  simp only [append_eq_field]
  simp only [eq_field_comm]
  exact .rfl

theorem encM_standsAt {z : BitVec 3} {i : BitVec 11} : (encM op d a z i).StandsAt w l ↔
    fOp w = op ∧ fD w = d ∧ fA w = a ∧ w.extractLsb' 11 3 = z ∧ w.extractLsb' 0 11 = i := by
  rw [encM, standsAt_single, eq_iff_eq_field]
  change op ++ d ++ a ++ z ++ i = w.extractLsb' 0 (6 + 6 + 6 + 3 + 11) ↔ _
  simp only [append_eq_field, and_assoc]
  simp only [eq_field_comm]
  exact .rfl

theorem encS_standsAt {dir : BitVec 1} {i : BitVec 9} : (encS op d dir i).StandsAt w l ↔
    fOp w = op ∧ fD w = d ∧ w.extractLsb' 19 1 = dir ∧ w.extractLsb' 9 10 = 0 ∧ w.extractLsb' 0 9 = i := by
  rw [encS, standsAt_single, eq_iff_eq_field]
  change op ++ d ++ dir ++ 0#10 ++ i = w.extractLsb' 0 (6 + 6 + 1 + 10 + 9) ↔ _
  simp only [append_eq_field, and_assoc]
  simp only [eq_field_comm]
  exact .rfl

theorem encLoop_standsAt {c k : BitVec 2} {i : BitVec 10} : (encLoop c k a b i).StandsAt w l ↔
    fOp w = 0x1C ∧ w.extractLsb' 24 2 = c ∧ w.extractLsb' 22 2 = k ∧ w.extractLsb' 16 6 = a ∧ w.extractLsb' 10 6 = b ∧
      w.extractLsb' 0 10 = i := by
  rw [encLoop, standsAt_single, eq_iff_eq_field]
  change 0x1C#6 ++ c ++ k ++ a ++ b ++ i = w.extractLsb' 0 (6 + 2 + 2 + 6 + 6 + 10) ↔ _
  simp only [append_eq_field, and_assoc]
  simp only [eq_field_comm]
  exact .rfl

theorem encX_standsAt {z : BitVec 2} {k sc : BitVec 3} : (encX d a b z k sc).StandsAt w l ↔ fOp w = 0x28 ∧ fD w = d ∧ fA w = a ∧
    fB w = b ∧ w.extractLsb' 6 2 = z ∧ w.extractLsb' 3 3 = k ∧ w.extractLsb' 0 3 = sc := by
  rw [encX, standsAt_single, eq_iff_eq_field]
  change 0x28#6 ++ d ++ a ++ b ++ z ++ k ++ sc = w.extractLsb' 0 (6 + 6 + 6 + 6 + 2 + 3 + 3) ↔ _
  simp only [append_eq_field, and_assoc]
  simp only [eq_field_comm]
  exact .rfl

theorem encAt_standsAt {k : BitVec 4} {z : BitVec 1} {sp : AtomSpace} : (encAt k d a b z sp).StandsAt w l ↔ fOp w = 0x2C ∧
    fD w = d ∧ fA w = a ∧ fB w = b ∧ w.extractLsb' 4 4 = k ∧ w.extractLsb' 3 1 = z ∧ w.extractLsb' 0 3 = sp.code := by
  rw [encAt, standsAt_single, eq_iff_eq_field]
  change 0x2C#6 ++ d ++ a ++ b ++ k ++ z ++ sp.code = w.extractLsb' 0 (6 + 6 + 6 + 6 + 4 + 1 + 3) ↔ _
  simp only [append_eq_field, and_assoc]
  simp only [eq_field_comm]
  exact .rfl

theorem encRing_standsAt {k sub : BitVec 3} : (encRing d a b k sub).StandsAt w l ↔ fOp w = 0x31 ∧ fD w = d ∧ fA w = a ∧ fB w = b ∧
    w.extractLsb' 6 2 = 0 ∧ w.extractLsb' 3 3 = k ∧ w.extractLsb' 0 3 = sub := by
  rw [encRing, standsAt_single, eq_iff_eq_field]
  change 0x31#6 ++ d ++ a ++ b ++ 0#2 ++ k ++ sub = w.extractLsb' 0 (6 + 6 + 6 + 6 + 2 + 3 + 3) ↔ _
  simp only [append_eq_field, and_assoc]
  simp only [eq_field_comm]
  exact .rfl

theorem encSys_standsAt {n : BitVec 12} : (Enc.core (0#6 ++ d ++ n ++ 0#2 ++ fn) none).StandsAt w l ↔
    fOp w = 0 ∧ fD w = d ∧ w.extractLsb' 8 12 = n ∧ fBsel w = 0 ∧ fFn w = fn := by
  rw [standsAt_single, eq_iff_eq_field]
  change 0#6 ++ d ++ n ++ 0#2 ++ fn = w.extractLsb' 0 (6 + 6 + 12 + 2 + 6) ↔ _
  simp only [append_eq_field, and_assoc]
  simp only [eq_field_comm]
  exact .rfl

theorem encFcvt_standsAt {m : BitVec 2} {src dst : BitVec 3} :
    (Enc.core (0x11#6 ++ d ++ a ++ 0#4 ++ m ++ 0#2 ++ src ++ dst) none).StandsAt w l ↔ fOp w = 0x11 ∧ fD w = d ∧ fA w = a ∧
      w.extractLsb' 10 4 = 0 ∧ w.extractLsb' 8 2 = m ∧ w.extractLsb' 6 2 = 0 ∧ w.extractLsb' 3 3 = src ∧
      w.extractLsb' 0 3 = dst := by
  rw [standsAt_single, eq_iff_eq_field]
  change 0x11#6 ++ d ++ a ++ 0#4 ++ m ++ 0#2 ++ src ++ dst = w.extractLsb' 0 (6 + 6 + 6 + 4 + 2 + 2 + 3 + 3) ↔ _
  simp only [append_eq_field, and_assoc]
  simp only [eq_field_comm]
  exact .rfl

end Sys2Proof
end

section
/-!
SUPPORT. What decodes as a core word is well formed and is encoded by what was fetched, family by family (08 R203 to R206).
-/

namespace Sys2Proof

variable {w : W32} {l : LitFetch} {op fn : BitVec 6} {d a b : Reg}

/-! ### What a decoder's parts answer -/

theorem need_eq_ok {c : Bool} {e : DecodeError} {x : Dec} {i : Instr} : need c e x = .ok i ↔ c = true ∧ x = .ok i := by
  cases c <;> simp [need]

theorem withCode_eq_ok {α : Type} {o : Option α} {k : α → Dec} {i : Instr} :
    withCode o k = .ok i ↔ ∃ x, o = some x ∧ k x = .ok i := by
  cases o <;> simp [withCode]

theorem decScope_eq_some {c : BitVec 3} {sc : Scope} : decScope c = some sc ↔ c = sc.code := by
  cases sc <;> revert c <;> decide

theorem decLoadSize_eq_some {c : BitVec 3} {z : LoadSize} : decLoadSize c = some z ↔ c = z.code := by
  cases z <;> revert c <;> decide

theorem decStoreSize_eq_some {c : BitVec 3} {z : StoreSize} : decStoreSize c = some z ↔ c = z.code := by
  cases z <;> revert c <;> decide

theorem decWD2_eq_some {c : BitVec 2} {z : WD} : decWD2 c = some z ↔ c = z.bits2 := by
  cases z <;> revert c <;> decide

theorem decFence_eq_some {c : BitVec 2} {k : FenceKind} : decFence c = some k ↔ c = k.code := by
  cases k <;> revert c <;> decide

theorem decSpace_eq {c : BitVec 3} {sp : AtomSpace} : decSpace c = sp ↔ c = sp.code := by
  rcases sp with _ | (_ | _ | _ | _ | _) | _ | _ <;> revert c <;> decide

theorem wdBit_eq {c : BitVec 1} {z : WD} : (if c == 0#1 then WD.w else WD.d) = z ↔ c = z.bit := by
  cases z <;> revert c <;> decide

/-- A field that must be zero where `z` says so. -/
theorem zeroed_iff {z : Bool} {r : Reg} : (!z || r == 0) = true ↔ r = bif z then 0 else r := by cases z <;> simp

theorem decZ_eq_ok {zd za zb : Bool} {i i' : Instr} : decZ zd za zb w i' = .ok i ↔
    fBsel w = 0 ∧ (fD w = bif zd then 0 else fD w) ∧ (fA w = bif za then 0 else fA w) ∧ (fB w = bif zb then 0 else fB w) ∧
      i' = i := by
  simp only [decZ, need_eq_ok, beq_iff_eq, Bool.and_eq_true, zeroed_iff, Except.ok.injEq, and_assoc]

theorem decV_eq_ok {zd za : Bool} {k : Opd → Instr} {i : Instr} : decV zd za w l k = .ok i ↔
    (fD w = bif zd then 0 else fD w) ∧ (fA w = bif za then 0 else fA w) ∧ ∃ o, decodeOpd w l = .ok o ∧ k o = i := by
  cases ho : decodeOpd w l with
  | error e => simp [decV, ho]
  | ok o => simp only [decV, ho, need_eq_ok, Bool.and_eq_true, zeroed_iff, Except.ok.injEq, exists_eq_left', and_assoc]

theorem decDAV_eq (k : Reg → Reg → Opd → Instr) : decDAV w l k = decV false false w l (k (fD w) (fA w)) := by
  unfold decDAV decV
  split
  all_goals simp_all [need, Except.map]

/-! ### What decodes is encoded by its word: each family (08 R203, R204) -/

variable {i i' : Instr}

theorem Coded.intro {e : Enc} (he : encode i = some e) (hs : e.StandsAt w l) (hwf : i.wf = true) : Coded i w l :=
  ⟨hwf, by rwa [Instr.StandsAt, he]⟩

theorem Coded.plain {zd za zb : Bool} (hop : fOp w = op) (hfn : fFn w = fn) (h : decZ zd za zb w i' = .ok i)
    (he : encode i' = some (encZ op (bif zd then 0 else fD w) (bif za then 0 else fA w) (bif zb then 0 else fB w) fn))
    (hwf : i'.wf = true) : Coded i w l := by
  obtain ⟨hsel, hd, ha, hb, rfl⟩ := decZ_eq_ok.mp h
  exact .intro he (encZ_standsAt.mpr ⟨hop, hd, ha, hb, hsel, hfn⟩) hwf

theorem Coded.value {zd za : Bool} {k : Opd → Instr} (hop : fOp w = op) (hfn : fFn w = fn) (h : decV zd za w l k = .ok i)
    (he : ∀ o, encode (k o) = some (encV op (bif zd then 0 else fD w) (bif za then 0 else fA w) o fn))
    (hwf : ∀ o, (k o).wf = true) : Coded i w l := by
  obtain ⟨hd, ha, o, ho, rfl⟩ := decV_eq_ok.mp h
  exact .intro (he o) (encV_standsAt.mpr ⟨hop, hd, ha, hfn, ho⟩) (hwf o)

/-- A form with three operands. -/
theorem Coded.dav {k : Reg → Reg → Opd → Instr} (hop : fOp w = op) (hfn : fFn w = fn) (h : decDAV w l k = .ok i)
    (he : ∀ o, encode (k (fD w) (fA w) o) = some (encV op (fD w) (fA w) o fn))
    (hwf : ∀ o, (k (fD w) (fA w) o).wf = true) : Coded i w l :=
  .value (zd := false) (za := false) hop hfn (decDAV_eq k ▸ h) he hwf

theorem decodeInt_coded (hop : fOp w = 0x01) (h : decodeInt w l = .ok i) : Coded i w l := by
  unfold decodeInt at h
  split at h
  case h_22 => cases h
  all_goals exact .dav hop ‹_› h (fun _ => rfl) fun _ => rfl

theorem decodeMuldiv_coded (hop : fOp w = 0x02) (h : decodeMuldiv w l = .ok i) : Coded i w l := by
  unfold decodeMuldiv at h
  split at h
  case h_13 => cases h
  all_goals exact .dav hop ‹_› h (fun _ => rfl) fun _ => rfl

theorem decodeBits_coded (hop : fOp w = 0x03) (h : decodeBits w l = .ok i) : Coded i w l := by
  unfold decodeBits at h
  split at h
  case h_6 | h_7 | h_8 => exact .dav hop ‹_› h (fun _ => rfl) fun _ => rfl
  case h_9 => cases h
  all_goals exact .plain hop ‹_› h rfl rfl


theorem decodeAgen_coded (hop : fOp w = 0x0E) (h : decodeAgen w l = .ok i) : Coded i w l := by
  unfold decodeAgen at h
  split at h
  case h_5 | h_6 => exact .plain hop ‹_› h rfl rfl
  case h_7 => cases h
  all_goals exact .dav hop ‹_› h (fun _ => rfl) fun _ => rfl

theorem decodeFp_coded (hop : fOp w = 0x10) (h : decodeFp w l = .ok i) : Coded i w l := by
  unfold decodeFp at h
  split at h
  case h_5 | h_13 | h_14 | h_15 | h_16 | h_17 => exact .plain hop ‹_› h rfl rfl
  case h_18 => cases h
  all_goals exact .dav hop ‹_› h (fun _ => rfl) fun _ => rfl

theorem decQ_eq_ok : decQ w l = .ok i ↔
    fD w = 0 ∧ (fA w).toNat < 8 ∧ ∃ o, decodeOpd w l = .ok o ∧ .dqput (fA w) o = i := by
  cases ho : decodeOpd w l with
  | error e => simp [decQ, ho]
  | ok o => simp [decQ, ho, need_eq_ok]

theorem decodeQop_coded (hop : fOp w = 0x30) (h : decodeQop w l = .ok i) : Coded i w l := by
  unfold decodeQop at h
  split at h
  case h_1 =>
    obtain ⟨hd, hq, o, ho, rfl⟩ := decQ_eq_ok.mp h
    exact .intro rfl (encV_standsAt.mpr ⟨hop, hd, rfl, ‹_›, ho⟩) (decide_eq_true hq)
  case h_9 => cases h
  all_goals
    obtain ⟨hq, h⟩ := need_eq_ok.mp h
    exact .plain hop ‹_› h rfl hq

theorem decodeTag_coded (hop : fOp w = 0x32) (h : decodeTag w l = .ok i) : Coded i w l := by
  unfold decodeTag at h
  split at h
  case h_1 | h_2 => exact .dav hop ‹_› h (fun _ => rfl) fun _ => rfl
  case h_6 => cases h
  all_goals exact .plain hop ‹_› h rfl rfl

theorem decodeCa_coded (hop : fOp w = 0x33) (h : decodeCa w l = .ok i) : Coded i w l := by
  unfold decodeCa at h
  split at h
  case h_10 => cases h
  all_goals exact .plain hop ‹_› h rfl rfl

theorem decodeJob_coded (hop : fOp w = 0x34) (h : decodeJob w l = .ok i) : Coded i w l := by
  unfold decodeJob at h
  split at h
  case h_2 | h_8 | h_9 | h_10 => exact .value hop ‹_› h (fun _ => rfl) fun _ => rfl
  case h_12 => cases h
  all_goals exact .plain hop ‹_› h rfl rfl

theorem decodeFab_coded (hop : fOp w = 0x35) (h : decodeFab w l = .ok i) : Coded i w l := by
  unfold decodeFab at h
  split at h
  case h_1 | h_2 => exact .dav hop ‹_› h (fun _ => rfl) fun _ => rfl
  case h_3 | h_6 => exact .value hop ‹_› h (fun _ => rfl) fun _ => rfl
  case h_10 => cases h
  all_goals exact .plain hop ‹_› h rfl rfl

theorem decodePwc_coded (hop : fOp w = 0x36) (h : decodePwc w l = .ok i) : Coded i w l := by
  unfold decodePwc at h
  split at h
  case h_5 => cases h
  all_goals exact .plain hop ‹_› h rfl rfl

theorem decodeTlb_coded (hop : fOp w = 0x3C) (h : decodeTlb w l = .ok i) : Coded i w l := by
  unfold decodeTlb at h
  split at h
  case h_4 => cases h
  all_goals exact .plain hop ‹_› h rfl rfl

theorem decodePerf_coded (hop : fOp w = 0x3D) (h : decodePerf w l = .ok i) : Coded i w l := by
  unfold decodePerf at h
  split at h
  case h_3 => cases h
  all_goals exact .value hop ‹_› h (fun _ => rfl) fun _ => rfl

theorem decodeHost_coded (hop : fOp w = 0x3E) (h : decodeHost w l = .ok i) : Coded i w l := by
  unfold decodeHost at h
  split at h
  case h_3 => cases h
  all_goals exact .value hop ‹_› h (fun _ => rfl) fun _ => rfl

theorem decodeJreg_coded (hop : fOp w = 0x1B) (h : decodeJreg w l = .ok i) : Coded i w l := by
  unfold decodeJreg at h
  split at h
  case h_3 => cases h
  all_goals exact .plain hop ‹_› h rfl rfl

theorem decodeSys_coded (hop : fOp w = 0x00) (h : decodeSys w = .ok i) : Coded i w l := by
  unfold decodeSys at h
  split at h
  all_goals simp only [need_eq_ok, Bool.and_eq_true, beq_iff_eq, Except.ok.injEq, reduceCtorEq] at h
  case h_1 | h_5 =>
    obtain ⟨rfl, rfl⟩ := h
    exact .intro rfl (standsAt_single.mpr rfl) rfl
  case h_2 =>
    obtain ⟨⟨hd, hsel⟩, rfl⟩ := h
    exact .intro rfl (encSys_standsAt.mpr ⟨hop, hd, rfl, hsel, ‹_›⟩) rfl
  case h_3 | h_4 =>
    obtain ⟨hsel, hreg, rfl⟩ := h
    exact .intro rfl (encSys_standsAt.mpr ⟨hop, rfl, rfl, hsel, ‹_›⟩) hreg

theorem decodeFcvt_coded (hop : fOp w = 0x11) (h : decodeFcvt w = .ok i) : Coded i w l := by
  simp only [decodeFcvt, need_eq_ok, Bool.and_eq_true, beq_iff_eq, Except.ok.injEq] at h
  obtain ⟨⟨hsel, hzero⟩, hlegal, rfl⟩ := h
  exact .intro rfl (encFcvt_standsAt.mpr ⟨hop, rfl, rfl, hzero, rfl, hsel, rfl, rfl⟩) hlegal

theorem decodeBcc_coded (hop : fOp w = 0x18) (h : decodeBcc w = .ok i) : Coded i w l := by
  unfold decodeBcc at h
  dsimp only at h
  split at h
  case h_7 => cases h
  all_goals
    cases h
    exact .intro rfl (encB_standsAt.mpr ⟨hop, ‹_›, rfl, rfl, rfl⟩) rfl


/-- A field is zero where both its parts are. -/
theorem field_eq_zero {k m n s : Nat} {w : BitVec k} :
    w.extractLsb' s (m + n) = 0 ↔ w.extractLsb' (s + n) m = 0 ∧ w.extractLsb' s n = 0 := by
  have hzero : (0 : BitVec (m + n)) = 0#m ++ 0#n := by simp
  rw [eq_comm, hzero, append_eq_field, eq_field_comm, eq_field_comm]
  exact .rfl

theorem decodeLoop_coded (hop : fOp w = 0x1C) (h : decodeLoop w = .ok i) : Coded i w l := by
  unfold decodeLoop at h
  dsimp only at h
  split at h
  case h_4 => cases h
  all_goals
    simp only [need_eq_ok, beq_iff_eq, Except.ok.injEq] at h
    obtain ⟨hzero, rfl⟩ := h
  case h_1 =>
    obtain ⟨ha, hb⟩ := (field_eq_zero (m := 6) (n := 6)).mp hzero
    exact .intro rfl (encLoop_standsAt.mpr ⟨hop, rfl, ‹_›, ha, hb, rfl⟩) rfl
  case h_2 | h_3 =>
    obtain ⟨hb, hi⟩ := (field_eq_zero (m := 6) (n := 10)).mp hzero
    exact .intro rfl (encLoop_standsAt.mpr ⟨hop, rfl, ‹_›, rfl, hb, hi⟩) rfl

theorem decLoad_eq_ok {k : LoadSize → BitVec 11 → Instr} : decLoad w k = .ok i ↔
    ∃ z, w.extractLsb' 11 3 = z.code ∧ k z (w.extractLsb' 0 11) = i := by
  simp only [decLoad, withCode_eq_ok, decLoadSize_eq_some, Except.ok.injEq]

theorem decStore_eq_ok {k : StoreSize → BitVec 11 → Instr} : decStore w k = .ok i ↔
    ∃ z, w.extractLsb' 11 3 = z.code ∧ k z (w.extractLsb' 0 11) = i := by
  simp only [decStore, withCode_eq_ok, decStoreSize_eq_some, Except.ok.injEq]

theorem Coded.load {k : LoadSize → BitVec 11 → Instr} (hop : fOp w = op) (h : decLoad w k = .ok i)
    (he : ∀ z n, encode (k z n) = some (encM op (fD w) (fA w) z.code n)) (hwf : ∀ z n, (k z n).wf = true) : Coded i w l := by
  obtain ⟨z, hz, rfl⟩ := decLoad_eq_ok.mp h
  exact .intro (he _ _) (encM_standsAt.mpr ⟨hop, rfl, rfl, hz, rfl⟩) (hwf _ _)

theorem Coded.store {k : StoreSize → BitVec 11 → Instr} (hop : fOp w = op) (h : decStore w k = .ok i)
    (he : ∀ z n, encode (k z n) = some (encM op (fD w) (fA w) z.code n)) (hwf : ∀ z n, (k z n).wf = true) : Coded i w l := by
  obtain ⟨z, hz, rfl⟩ := decStore_eq_ok.mp h
  exact .intro (he _ _) (encM_standsAt.mpr ⟨hop, rfl, rfl, hz, rfl⟩) (hwf _ _)

theorem dir_ne_zero {c : BitVec 1} (h : c ≠ 0) : c = 1 := by revert c; decide

theorem decodeSpill_coded {kop : Bool} (hop : fOp w = bif kop then 0x25 else 0x24) (h : decodeSpill w kop = .ok i) :
    Coded i w l := by
  unfold decodeSpill at h
  dsimp only at h
  obtain ⟨hzero, h⟩ := need_eq_ok.mp h
  rw [beq_iff_eq] at hzero
  cases kop with
  | false =>
    rw [if_neg Bool.false_ne_true, Except.ok.injEq] at h
    subst h
    split
    next hdir => exact .intro rfl (encS_standsAt.mpr ⟨hop, rfl, beq_iff_eq.mp hdir, hzero, rfl⟩) rfl
    next hdir => exact .intro rfl (encS_standsAt.mpr ⟨hop, rfl, dir_ne_zero fun h => hdir (beq_iff_eq.mpr h), hzero, rfl⟩) rfl
  | true =>
    rw [if_pos rfl, need_eq_ok, Except.ok.injEq] at h
    obtain ⟨hlt, rfl⟩ := h
    split
    next hdir => exact .intro rfl (encS_standsAt.mpr ⟨hop, rfl, beq_iff_eq.mp hdir, hzero, rfl⟩) hlt
    next hdir => exact .intro rfl (encS_standsAt.mpr ⟨hop, rfl, dir_ne_zero fun h => hdir (beq_iff_eq.mpr h), hzero, rfl⟩) hlt

theorem decodeMemx_coded (hop : fOp w = 0x28) (h : decodeMemx w = .ok i) : Coded i w l := by
  unfold decodeMemx at h
  dsimp only at h
  split at h
  all_goals
    simp only [need_eq_ok, withCode_eq_ok, Bool.and_eq_true, beq_iff_eq, Except.ok.injEq, reduceCtorEq, decWD2_eq_some,
      decScope_eq_some, decFence_eq_some] at h
  case h_1 =>
    obtain ⟨hb, z, hz, sc, hsc, rfl⟩ := h
    exact .intro rfl (encX_standsAt.mpr ⟨hop, rfl, rfl, hb, hz, ‹_›, hsc⟩) rfl
  case h_2 =>
    obtain ⟨hd, z, hz, sc, hsc, rfl⟩ := h
    exact .intro rfl (encX_standsAt.mpr ⟨hop, hd, rfl, rfl, hz, ‹_›, hsc⟩) rfl
  case h_3 =>
    obtain ⟨⟨⟨hd, ha⟩, hb⟩, k, hk, sc, hsc, rfl⟩ := h
    exact .intro rfl (encX_standsAt.mpr ⟨hop, hd, ha, hb, hk, ‹_›, hsc⟩) rfl
  case h_4 =>
    obtain ⟨rfl, rfl⟩ := h
    exact .intro rfl (standsAt_single.mpr rfl) rfl
  case h_5 =>
    obtain ⟨⟨⟨⟨hd, hb⟩, hz⟩, hsc⟩, rfl⟩ := h
    exact .intro rfl (encX_standsAt.mpr ⟨hop, hd, rfl, hb, hz, ‹_›, hsc⟩) rfl
  case h_6 =>
    obtain ⟨⟨hb, hsc⟩, z, hz, rfl⟩ := h
    exact .intro rfl (encX_standsAt.mpr ⟨hop, rfl, rfl, hb, hz, ‹_›, hsc⟩) rfl
  case h_7 =>
    obtain ⟨⟨hd, hsc⟩, z, hz, rfl⟩ := h
    exact .intro rfl (encX_standsAt.mpr ⟨hop, hd, rfl, rfl, hz, ‹_›, hsc⟩) rfl

theorem decodeAtom_coded (hop : fOp w = 0x2C) (h : decodeAtom w = .ok i) : Coded i w l := by
  unfold decodeAtom at h
  dsimp only at h
  split at h
  case h_11 | h_12 =>
    simp only [need_eq_ok, beq_iff_eq, Except.ok.injEq] at h
    obtain ⟨hz, rfl⟩ := h
    exact .intro rfl (encAt_standsAt.mpr ⟨hop, rfl, rfl, rfl, ‹_›, hz, decSpace_eq.mp rfl⟩) rfl
  case h_13 => cases h
  all_goals
    cases h
    exact .intro rfl (encAt_standsAt.mpr ⟨hop, rfl, rfl, rfl, ‹_›, wdBit_eq.mp rfl, decSpace_eq.mp rfl⟩) rfl

theorem decodeRing_coded (hop : fOp w = 0x31) (h : decodeRing w = .ok i) : Coded i w l := by
  unfold decodeRing at h
  dsimp only at h
  obtain ⟨hsel, h⟩ := need_eq_ok.mp h
  rw [beq_iff_eq] at hsel
  split at h
  case h_1 | h_3 | h_4 =>
    simp only [withCode_eq_ok, Except.ok.injEq, decScope_eq_some] at h
    obtain ⟨sc, hsc, rfl⟩ := h
    exact .intro rfl (encRing_standsAt.mpr ⟨hop, rfl, rfl, rfl, hsel, ‹_›, hsc⟩) rfl
  case h_2 | h_5 =>
    simp only [need_eq_ok, withCode_eq_ok, Except.ok.injEq, beq_iff_eq, decScope_eq_some] at h
    obtain ⟨hb, sc, hsc, rfl⟩ := h
    exact .intro rfl (encRing_standsAt.mpr ⟨hop, rfl, rfl, hb, hsel, ‹_›, hsc⟩) rfl
  case h_6 =>
    split at h
    case h_6 => cases h
    all_goals
      cases h
      exact .intro rfl (encRing_standsAt.mpr ⟨hop, rfl, rfl, rfl, hsel, ‹_›, ‹_›⟩) rfl
  case h_7 => cases h

theorem Coded.shift {k : Reg → Reg → BitVec 6 → Instr} (hop : fOp w = op)
    (h : need (w.extractLsb' 6 8 == 0#8) .unusedField (.ok (k (fD w) (fA w) (w.extractLsb' 0 6))) = .ok i)
    (he : ∀ n, encode (k (fD w) (fA w) n) = some (encI op (fD w) (fA w) (0#8 ++ n)))
    (hwf : ∀ n, (k (fD w) (fA w) n).wf = true) : Coded i w l := by
  obtain ⟨hzero, h⟩ := need_eq_ok.mp h
  cases h
  have himm : 0#8 ++ w.extractLsb' 0 6 = w.extractLsb' 0 (8 + 6) := append_eq_field.mpr ⟨(beq_iff_eq.mp hzero).symm, rfl⟩
  exact .intro (he _) (encI_standsAt.mpr ⟨hop, rfl, rfl, himm.symm⟩) (hwf _)

/-- What decodes is well formed and is encoded by what was fetched. -/
theorem decode_coded (h : decode w l = .ok i) : Coded i w l := by
  unfold decode at h
  dsimp only at h
  split at h
  case h_1 => exact decodeSys_coded ‹_› h
  case h_2 => exact decodeInt_coded ‹_› h
  case h_3 => exact decodeMuldiv_coded ‹_› h
  case h_4 => exact decodeBits_coded ‹_› h
  case h_9 | h_10 | h_11 => exact .shift ‹_› h (fun _ => rfl) fun _ => rfl
  case h_15 => exact decodeAgen_coded ‹_› h
  case h_16 => exact decodeFp_coded ‹_› h
  case h_17 => exact decodeFcvt_coded ‹_› h
  case h_14 | h_18 | h_19 | h_20 => cases h; exact .intro rfl (encF_standsAt.mpr ⟨‹_›, rfl, rfl⟩) rfl
  case h_21 => exact decodeBcc_coded ‹_› h
  case h_22 | h_23 => cases h; exact .intro rfl (encJ_standsAt.mpr ⟨‹_›, rfl⟩) rfl
  case h_24 => exact decodeJreg_coded ‹_› h
  case h_25 => exact decodeLoop_coded ‹_› h
  case h_26 | h_28 => exact .load ‹_› h (fun _ _ => rfl) fun _ _ => rfl
  case h_27 | h_29 => exact .store ‹_› h (fun _ _ => rfl) fun _ _ => rfl
  case h_30 => exact decodeSpill_coded (kop := false) ‹_› h
  case h_31 => exact decodeSpill_coded (kop := true) ‹_› h
  case h_32 =>
    obtain ⟨hq, h⟩ := need_eq_ok.mp h
    exact .load ‹_› h (fun _ _ => rfl) fun _ _ => hq
  case h_33 =>
    obtain ⟨hq, h⟩ := need_eq_ok.mp h
    exact .store ‹_› h (fun _ _ => rfl) fun _ _ => hq
  case h_34 => exact decodeMemx_coded ‹_› h
  case h_35 => exact decodeAtom_coded ‹_› h
  case h_36 => exact decodeQop_coded ‹_› h
  case h_37 => exact decodeRing_coded ‹_› h
  case h_38 => exact decodeTag_coded ‹_› h
  case h_39 => exact decodeCa_coded ‹_› h
  case h_40 => exact decodeJob_coded ‹_› h
  case h_41 => exact decodeFab_coded ‹_› h
  case h_42 => exact decodePwc_coded ‹_› h
  case h_43 => exact decodeTlb_coded ‹_› h
  case h_44 => exact decodePerf_coded ‹_› h
  case h_45 => exact decodeHost_coded ‹_› h
  case h_46 => cases h
  all_goals cases h; exact .intro rfl (encI_standsAt.mpr ⟨‹_›, rfl, rfl, rfl⟩) rfl

end Sys2Proof
end

section
/-!
SUPPORT. Every well-formed core instruction decodes from its words, with every operand at every value (08 R203 to R206).
-/

namespace Sys2Proof

variable {w : W32} {l : LitFetch} {op fn : BitVec 6} {d a b : Reg} {i i' : Instr}

/-! ### Which family decodes a word (08 R203) -/

theorem decode_sys (hop : fOp w = 0x00) : decode w l = decodeSys w := by unfold decode; rw [hop]; rfl
theorem decode_int (hop : fOp w = 0x01) : decode w l = decodeInt w l := by unfold decode; rw [hop]; rfl
theorem decode_muldiv (hop : fOp w = 0x02) : decode w l = decodeMuldiv w l := by unfold decode; rw [hop]; rfl
theorem decode_bits (hop : fOp w = 0x03) : decode w l = decodeBits w l := by unfold decode; rw [hop]; rfl
theorem decode_agen (hop : fOp w = 0x0E) : decode w l = decodeAgen w l := by unfold decode; rw [hop]; rfl
theorem decode_fp (hop : fOp w = 0x10) : decode w l = decodeFp w l := by unfold decode; rw [hop]; rfl
theorem decode_bcc (hop : fOp w = 0x18) : decode w l = decodeBcc w := by unfold decode; rw [hop]; rfl
theorem decode_jreg (hop : fOp w = 0x1B) : decode w l = decodeJreg w l := by unfold decode; rw [hop]; rfl
theorem decode_loop (hop : fOp w = 0x1C) : decode w l = decodeLoop w := by unfold decode; rw [hop]; rfl
theorem decode_memx (hop : fOp w = 0x28) : decode w l = decodeMemx w := by unfold decode; rw [hop]; rfl
theorem decode_atom (hop : fOp w = 0x2C) : decode w l = decodeAtom w := by unfold decode; rw [hop]; rfl
theorem decode_qop (hop : fOp w = 0x30) : decode w l = decodeQop w l := by unfold decode; rw [hop]; rfl
theorem decode_ring (hop : fOp w = 0x31) : decode w l = decodeRing w := by unfold decode; rw [hop]; rfl
theorem decode_tag (hop : fOp w = 0x32) : decode w l = decodeTag w l := by unfold decode; rw [hop]; rfl
theorem decode_ca (hop : fOp w = 0x33) : decode w l = decodeCa w l := by unfold decode; rw [hop]; rfl
theorem decode_job (hop : fOp w = 0x34) : decode w l = decodeJob w l := by unfold decode; rw [hop]; rfl
theorem decode_fab (hop : fOp w = 0x35) : decode w l = decodeFab w l := by unfold decode; rw [hop]; rfl
theorem decode_pwc (hop : fOp w = 0x36) : decode w l = decodePwc w l := by unfold decode; rw [hop]; rfl
theorem decode_tlb (hop : fOp w = 0x3C) : decode w l = decodeTlb w l := by unfold decode; rw [hop]; rfl
theorem decode_perf (hop : fOp w = 0x3D) : decode w l = decodePerf w l := by unfold decode; rw [hop]; rfl
theorem decode_host (hop : fOp w = 0x3E) : decode w l = decodeHost w l := by unfold decode; rw [hop]; rfl
theorem decode_spill (hop : fOp w = 0x24) : decode w l = decodeSpill w false := by unfold decode; rw [hop]; rfl
theorem decode_kop (hop : fOp w = 0x25) : decode w l = decodeSpill w true := by unfold decode; rw [hop]; rfl

/-! ### The word of each format decodes (08 R195 to R201) -/

theorem decV_ok {zd za : Bool} {k : Opd → Instr} {o : Opd} (hd : fD w = bif zd then 0 else fD w)
    (ha : fA w = bif za then 0 else fA w) (ho : decodeOpd w l = .ok o) : decV zd za w l k = .ok (k o) :=
  decV_eq_ok.mpr ⟨hd, ha, o, ho, rfl⟩

theorem decDAV_ok {k : Reg → Reg → Opd → Instr} {o : Opd} (ho : decodeOpd w l = .ok o) :
    decDAV w l k = .ok (k (fD w) (fA w) o) := (decDAV_eq k).trans (decV_ok rfl rfl ho)

theorem decZ_ok {zd za zb : Bool} (hsel : fBsel w = 0) (hd : fD w = bif zd then 0 else fD w)
    (ha : fA w = bif za then 0 else fA w) (hb : fB w = bif zb then 0 else fB w) : decZ zd za zb w i = .ok i :=
  decZ_eq_ok.mpr ⟨hsel, hd, ha, hb, rfl⟩

theorem decScope_code (sc : Scope) : decScope sc.code = some sc := decScope_eq_some.mpr rfl
theorem decWD2_code (z : WD) : decWD2 z.bits2 = some z := decWD2_eq_some.mpr rfl
theorem decFence_code (k : FenceKind) : decFence k.code = some k := decFence_eq_some.mpr rfl

theorem need_true {c : Bool} {e : DecodeError} {x : Dec} (h : c = true) : need c e x = x := if_pos h

theorem decode_of_standsAt (hwf : i.wf = true) (h : i.StandsAt w l) : decode w l = .ok i := by
  cases i
  case nop | eret =>
    obtain rfl := standsAt_single.mp h
    rfl
  case trap =>
    obtain ⟨hop, hd, rfl, hsel, hfn⟩ := encSys_standsAt.mp h
    rw [decode_sys hop, decodeSys, hfn]
    exact need_true (by rw [hsel, Bool.and_eq_true]; exact ⟨beq_iff_eq.mpr hd, rfl⟩)
  case mfsr | mtsr =>
    obtain ⟨hop, rfl, rfl, hsel, hfn⟩ := encSys_standsAt.mp h
    rw [decode_sys hop, decodeSys, hfn]
    exact (need_true (beq_iff_eq.mpr hsel)).trans (need_true hwf)
  case add | sub | and | or | xor | shl | shr | sar | slt | sltu | min | max | minu | maxu | andn | rotl | addw | subw
      | shlw | shrw | sarw =>
    obtain ⟨hop, rfl, rfl, hfn, ho⟩ := encV_standsAt.mp h
    rw [decode_int hop, decodeInt, hfn]
    exact decDAV_ok ho
  case mul | mulh | mulhu | div | divu | rem | remu | mulw | divw | divuw | remw | remuw =>
    obtain ⟨hop, rfl, rfl, hfn, ho⟩ := encV_standsAt.mp h
    rw [decode_muldiv hop, decodeMuldiv, hfn]
    exact decDAV_ok ho
  case clz | ctz | popc | brev | bswap =>
    obtain ⟨hop, rfl, rfl, hb, hsel, hfn⟩ := encZ_standsAt.mp h
    rw [decode_bits hop, decodeBits, hfn]
    exact decZ_ok hsel rfl rfl hb
  case extu | exts | ins =>
    obtain ⟨hop, rfl, rfl, hfn, ho⟩ := encV_standsAt.mp h
    rw [decode_bits hop, decodeBits, hfn]
    exact decDAV_ok ho
  case shadd1 | shadd2 | shadd3 | shadd4 =>
    obtain ⟨hop, rfl, rfl, hfn, ho⟩ := encV_standsAt.mp h
    rw [decode_agen hop, decodeAgen, hfn]
    exact decDAV_ok ho
  case lndiv | lnmod =>
    obtain ⟨hop, rfl, rfl, hb, hsel, hfn⟩ := encZ_standsAt.mp h
    rw [decode_agen hop, decodeAgen, hfn]
    exact decZ_ok hsel rfl rfl hb
  case fadd | fsub | fmul | fdiv | fmin | fmax | fmad | fsgn | feq | flt | fle =>
    obtain ⟨hop, rfl, rfl, hfn, ho⟩ := encV_standsAt.mp h
    rw [decode_fp hop, decodeFp, hfn]
    exact decDAV_ok ho
  case fsqrt | fclass | fexp2 | flog2 | frcp | frsq =>
    obtain ⟨hop, rfl, rfl, hb, hsel, hfn⟩ := encZ_standsAt.mp h
    rw [decode_fp hop, decodeFp, hfn]
    exact decZ_ok hsel rfl rfl hb
  case addi | andi | ori | xori | slti | sltui =>
    obtain ⟨hop, rfl, rfl, rfl⟩ := encI_standsAt.mp h
    unfold decode
    rw [hop]
    rfl
  case shli | shri | sari =>
    obtain ⟨hop, rfl, rfl, hi⟩ := encI_standsAt.mp h
    obtain ⟨hzero, rfl⟩ := (append_eq_field (m := 8) (n := 6)).mp hi.symm
    unfold decode
    rw [hop]
    exact need_true (beq_iff_eq.mpr hzero.symm)
  case lhi | fli | faddi | fmuli =>
    obtain ⟨hop, rfl, rfl⟩ := encF_standsAt.mp h
    unfold decode
    rw [hop]
    rfl
  case fcvt =>
    obtain ⟨hop, rfl, rfl, hzero, rfl, hsel, rfl, rfl⟩ := encFcvt_standsAt.mp h
    unfold decode
    rw [hop]
    exact (need_true (by rw [hsel, hzero]; rfl)).trans (need_true hwf)
  case beq | bne | blt | bge | bltu | bgeu =>
    obtain ⟨hop, hc, rfl, rfl, rfl⟩ := encB_standsAt.mp h
    rw [decode_bcc hop, decodeBcc, hc]
    rfl
  case j | jal =>
    obtain ⟨hop, rfl⟩ := encJ_standsAt.mp h
    unfold decode
    rw [hop]
    rfl
  case jr =>
    obtain ⟨hop, hd, rfl, hb, hsel, hfn⟩ := encZ_standsAt.mp h
    rw [decode_jreg hop, decodeJreg, hfn]
    exact decZ_ok hsel hd rfl hb
  case jalr =>
    obtain ⟨hop, rfl, rfl, hb, hsel, hfn⟩ := encZ_standsAt.mp h
    rw [decode_jreg hop, decodeJreg, hfn]
    exact decZ_ok hsel rfl rfl hb
  case loopb =>
    obtain ⟨hop, rfl, hk, ha, hb, rfl⟩ := encLoop_standsAt.mp h
    rw [decode_loop hop, decodeLoop, hk]
    exact need_true (beq_iff_eq.mpr ((field_eq_zero (m := 6) (n := 6)).mpr ⟨ha, hb⟩))
  case lcset | lcget =>
    obtain ⟨hop, rfl, hk, rfl, hb, hi⟩ := encLoop_standsAt.mp h
    rw [decode_loop hop, decodeLoop, hk]
    exact need_true (beq_iff_eq.mpr ((field_eq_zero (m := 6) (n := 10)).mpr ⟨hb, hi⟩))
  case ld | ldl =>
    obtain ⟨hop, rfl, rfl, hz, rfl⟩ := encM_standsAt.mp h
    unfold decode
    rw [hop]
    exact decLoad_eq_ok.mpr ⟨_, hz, rfl⟩
  case st | stl =>
    obtain ⟨hop, rfl, rfl, hz, rfl⟩ := encM_standsAt.mp h
    unfold decode
    rw [hop]
    exact decStore_eq_ok.mpr ⟨_, hz, rfl⟩
  case ldq =>
    obtain ⟨hop, rfl, rfl, hz, rfl⟩ := encM_standsAt.mp h
    unfold decode
    rw [hop]
    exact (need_true hwf).trans (decLoad_eq_ok.mpr ⟨_, hz, rfl⟩)
  case stq =>
    obtain ⟨hop, rfl, rfl, hz, rfl⟩ := encM_standsAt.mp h
    unfold decode
    rw [hop]
    exact (need_true hwf).trans (decStore_eq_ok.mpr ⟨_, hz, rfl⟩)
  case lds | sts =>
    obtain ⟨hop, rfl, hdir, hzero, rfl⟩ := encS_standsAt.mp h
    rw [decode_spill hop, decodeSpill, hzero, hdir]
    rfl
  case kld | kst =>
    obtain ⟨hop, rfl, hdir, hzero, rfl⟩ := encS_standsAt.mp h
    rw [decode_kop hop, decodeSpill, hzero, hdir]
    exact need_true hwf
  case ldacq =>
    obtain ⟨hop, rfl, rfl, hb, hz, hk, hsc⟩ := encX_standsAt.mp h
    rw [decode_memx hop, decodeMemx, hk]
    simp only [hb, hz, hsc, decWD2_code, decScope_code]
    rfl
  case strel =>
    obtain ⟨hop, hd, rfl, rfl, hz, hk, hsc⟩ := encX_standsAt.mp h
    rw [decode_memx hop, decodeMemx, hk]
    simp only [hd, hz, hsc, decWD2_code, decScope_code]
    rfl
  case fence =>
    obtain ⟨hop, hd, ha, hb, hz, hk, hsc⟩ := encX_standsAt.mp h
    rw [decode_memx hop, decodeMemx, hk]
    simp only [hd, ha, hb, hz, hsc, decFence_code, decScope_code]
    rfl
  case qmark =>
    obtain rfl := standsAt_single.mp h
    rfl
  case pref =>
    obtain ⟨hop, hd, rfl, hb, hz, hk, hsc⟩ := encX_standsAt.mp h
    rw [decode_memx hop, decodeMemx, hk]
    simp only [hd, hb, hz, hsc]
    rfl
  case ldby =>
    obtain ⟨hop, rfl, rfl, hb, hz, hk, hsc⟩ := encX_standsAt.mp h
    rw [decode_memx hop, decodeMemx, hk]
    simp only [hb, hz, hsc, decWD2_code]
    rfl
  case stna =>
    obtain ⟨hop, hd, rfl, rfl, hz, hk, hsc⟩ := encX_standsAt.mp h
    rw [decode_memx hop, decodeMemx, hk]
    simp only [hd, hz, hsc, decWD2_code]
    rfl
  case aadd | aand | aor | axor | amin | amax | aminu | amaxu | aswap | acas =>
    obtain ⟨hop, rfl, rfl, rfl, hk, hz, hsp⟩ := encAt_standsAt.mp h
    rw [decode_atom hop, decodeAtom, hk, wdBit_eq.mpr hz, decSpace_eq.mpr hsp]
    rfl
  case afadd | afmax =>
    obtain ⟨hop, rfl, rfl, rfl, hk, hz, hsp⟩ := encAt_standsAt.mp h
    rw [decode_atom hop, decodeAtom, hk, hz, decSpace_eq.mpr hsp]
    rfl
  case dqput =>
    obtain ⟨hop, hd, rfl, hfn, ho⟩ := encV_standsAt.mp h
    rw [decode_qop hop, decodeQop, hfn]
    exact decQ_eq_ok.mpr ⟨hd, of_decide_eq_true hwf, _, ho, rfl⟩
  case dqget | dqpeek | dqstat | tktry | tkstat =>
    obtain ⟨hop, rfl, rfl, hb, hsel, hfn⟩ := encZ_standsAt.mp h
    rw [decode_qop hop, decodeQop, hfn]
    exact (need_true hwf).trans (decZ_ok hsel rfl rfl hb)
  case tksend | tkwait =>
    obtain ⟨hop, hd, rfl, hb, hsel, hfn⟩ := encZ_standsAt.mp h
    rw [decode_qop hop, decodeQop, hfn]
    exact (need_true hwf).trans (decZ_ok hsel hd rfl hb)
  case rgclaim | rgtake | rgtakeObs =>
    obtain ⟨hop, rfl, rfl, rfl, hsel, hk, hsc⟩ := encRing_standsAt.mp h
    rw [decode_ring hop, decodeRing, hsel, hk]
    simp only [hsc, decScope_code]
    rfl
  case rgfill | rgfree =>
    obtain ⟨hop, rfl, rfl, hb, hsel, hk, hsc⟩ := encRing_standsAt.mp h
    rw [decode_ring hop, decodeRing, hsel, hk]
    simp only [hb, hsc, decScope_code]
    rfl
  case rginit | rgstat | rgreset | rgjoin | rgleave =>
    obtain ⟨hop, rfl, rfl, rfl, hsel, hk, hsc⟩ := encRing_standsAt.mp h
    rw [decode_ring hop, decodeRing, hsel, hk, hsc]
    rfl
  case tglook | tgset =>
    obtain ⟨hop, rfl, rfl, hfn, ho⟩ := encV_standsAt.mp h
    rw [decode_tag hop, decodeTag, hfn]
    exact decDAV_ok ho
  case tginv | tgrd =>
    obtain ⟨hop, rfl, rfl, hb, hsel, hfn⟩ := encZ_standsAt.mp h
    rw [decode_tag hop, decodeTag, hfn]
    exact decZ_ok hsel rfl rfl hb
  case tgclr =>
    obtain ⟨hop, hd, rfl, hb, hsel, hfn⟩ := encZ_standsAt.mp h
    rw [decode_tag hop, decodeTag, hfn]
    exact decZ_ok hsel hd rfl hb
  case caput | canode | caget | caroot | carootRef | caswap | cacas =>
    obtain ⟨hop, rfl, rfl, rfl, hsel, hfn⟩ := encZ_standsAt.mp h
    rw [decode_ca hop, decodeCa, hfn]
    exact decZ_ok hsel rfl rfl rfl
  case caref | cadrop =>
    obtain ⟨hop, rfl, rfl, hb, hsel, hfn⟩ := encZ_standsAt.mp h
    rw [decode_ca hop, decodeCa, hfn]
    exact decZ_ok hsel rfl rfl hb
  case spawn =>
    obtain ⟨hop, hd, rfl, hb, hsel, hfn⟩ := encZ_standsAt.mp h
    rw [decode_job hop, decodeJob, hfn]
    exact decZ_ok hsel hd rfl hb
  case join =>
    obtain ⟨hop, hd, rfl, hfn, ho⟩ := encV_standsAt.mp h
    rw [decode_job hop, decodeJob, hfn]
    exact decV_ok hd rfl ho
  case rend | trigger | waitdep | yield | exit | swpt =>
    obtain ⟨hop, hd, ha, hb, hsel, hfn⟩ := encZ_standsAt.mp h
    rw [decode_job hop, decodeJob, hfn]
    exact decZ_ok hsel hd ha hb
  case allot =>
    obtain ⟨hop, rfl, ha, hfn, ho⟩ := encV_standsAt.mp h
    rw [decode_job hop, decodeJob, hfn]
    exact decV_ok rfl ha ho
  case shrink | phase =>
    obtain ⟨hop, hd, ha, hfn, ho⟩ := encV_standsAt.mp h
    rw [decode_job hop, decodeJob, hfn]
    exact decV_ok hd ha ho
  case copen | cland =>
    obtain ⟨hop, rfl, rfl, hfn, ho⟩ := encV_standsAt.mp h
    rw [decode_fab hop, decodeFab, hfn]
    exact decDAV_ok ho
  case chold | dmset =>
    obtain ⟨hop, hd, rfl, hfn, ho⟩ := encV_standsAt.mp h
    rw [decode_fab hop, decodeFab, hfn]
    exact decV_ok hd rfl ho
  case cclose | dmready =>
    obtain ⟨hop, hd, rfl, hb, hsel, hfn⟩ := encZ_standsAt.mp h
    rw [decode_fab hop, decodeFab, hfn]
    exact decZ_ok hsel hd rfl hb
  case cstat | dmwait | dmstat =>
    obtain ⟨hop, rfl, rfl, hb, hsel, hfn⟩ := encZ_standsAt.mp h
    rw [decode_fab hop, decodeFab, hfn]
    exact decZ_ok hsel rfl rfl hb
  case pwsave | pwrest =>
    obtain ⟨hop, hd, rfl, hb, hsel, hfn⟩ := encZ_standsAt.mp h
    rw [decode_pwc hop, decodePwc, hfn]
    exact decZ_ok hsel hd rfl hb
  case pwrdy | pwstat =>
    obtain ⟨hop, rfl, ha, hb, hsel, hfn⟩ := encZ_standsAt.mp h
    rw [decode_pwc hop, decodePwc, hfn]
    exact decZ_ok hsel rfl ha hb
  case tlbinv =>
    obtain ⟨hop, hd, rfl, hb, hsel, hfn⟩ := encZ_standsAt.mp h
    rw [decode_tlb hop, decodeTlb, hfn]
    exact decZ_ok hsel hd rfl hb
  case tlbinvt =>
    obtain ⟨hop, hd, ha, hb, hsel, hfn⟩ := encZ_standsAt.mp h
    rw [decode_tlb hop, decodeTlb, hfn]
    exact decZ_ok hsel hd ha hb
  case tlbprb =>
    obtain ⟨hop, rfl, rfl, hb, hsel, hfn⟩ := encZ_standsAt.mp h
    rw [decode_tlb hop, decodeTlb, hfn]
    exact decZ_ok hsel rfl rfl hb
  case perfrd =>
    obtain ⟨hop, rfl, ha, hfn, ho⟩ := encV_standsAt.mp h
    rw [decode_perf hop, decodePerf, hfn]
    exact decV_ok rfl ha ho
  case perfclr =>
    obtain ⟨hop, hd, ha, hfn, ho⟩ := encV_standsAt.mp h
    rw [decode_perf hop, decodePerf, hfn]
    exact decV_ok hd ha ho
  case hostint =>
    obtain ⟨hop, hd, ha, hfn, ho⟩ := encV_standsAt.mp h
    rw [decode_host hop, decodeHost, hfn]
    exact decV_ok hd ha ho
  case hostsig =>
    obtain ⟨hop, hd, rfl, hfn, ho⟩ := encV_standsAt.mp h
    rw [decode_host hop, decodeHost, hfn]
    exact decV_ok hd rfl ho
  case enop | ewait | eloop | ejmp | emark | eswpt | swlink | swcut | mldb | mma | mmaz | mclr | mthr | mrdc | mout
      | vld | vst | vlda | vsta | vadd | vsub | vmul | vfma | vmax | vmin | vexp2 | vlog2 | vrcp | vrsq | vcvt | vqnt
      | vdq | vrsum | vrmax | vscan | vcmp | vsel | vperm | vbcst | vgath | vscat | vsmx | txblk | txcvt | txgat | cpy
      | cpyred | cpypk | cpyck | cpycode | cpyout | wpatch | wloady | wrun | wsamp | wsave | wrest | wdom =>
    exact absurd h not_standsAt_engine
  all_goals exact h.elim

end Sys2Proof
end

section
/-!
SUPPORT. Engine words both ways (08 R207 to R209; 11 R290, R295), and O57.
-/

namespace Sys2Proof

variable {w : BitVec 48} {cls : BitVec 3} {opn : BitVec 5} {e : EW} {i : Instr}

/-! ### The fields of an engine word (08 R207) -/

theorem encTq_eq_field {q : Option (BitVec 4)} {s : Nat} :
    encTq q = w.extractLsb' s 5 ↔ decTq (w.extractLsb' (s + 4) 1) (w.extractLsb' s 4) = some q := by
  have hfield : ∀ (en : BitVec 1) (t : BitVec 4),
      en ++ t = w.extractLsb' s 5 ↔ en = w.extractLsb' (s + 4) 1 ∧ t = w.extractLsb' s 4 :=
    fun en t => append_eq_field (m := 1) (n := 4)
  have hen : ∀ en : BitVec 1, en ≠ 1#1 ↔ 0#1 = en := by decide
  unfold decTq
  cases q with
  | none =>
    rw [show encTq none = 0#1 ++ 0#4 from rfl, hfield, ← hen, eq_comm (a := 0#4)]
    split_ifs <;> simp_all
  | some t =>
    rw [show encTq (some t) = 1#1 ++ t from rfl, hfield, eq_comm (a := 1#1), eq_comm (a := t)]
    split_ifs <;> simp_all

theorem decChain_eq_some {x : BitVec 2} {c : Chain} : decChain x = some c ↔ x = c.code := by
  cases c <;> revert x <;> decide

theorem decEW_eq_some : decEW w = some e ↔
    decTq (w.extractLsb' 39 1) (w.extractLsb' 35 4) = some e.pop ∧ decTq (w.extractLsb' 34 1) (w.extractLsb' 30 4) = some e.push ∧
      w.extractLsb' 24 6 = e.rep ∧ w.extractLsb' 12 12 = e.step ∧ w.extractLsb' 10 2 = e.chain.code ∧
      w.extractLsb' 0 10 = e.desc := by
  rw [← decChain_eq_some]
  unfold decEW
  obtain ⟨pop, push, rep, step, chain, desc⟩ := e
  split
  all_goals simp_all

theorem encE_eq_iff : encE cls opn e = .engine w ↔ w.extractLsb' 45 3 = cls ∧ w.extractLsb' 40 5 = opn ∧ decEW w = some e := by
  rw [encE, Enc.engine.injEq, eq_iff_eq_field, decEW_eq_some]
  change cls ++ opn ++ encTq e.pop ++ encTq e.push ++ e.rep ++ e.step ++ e.chain.code ++ e.desc =
    w.extractLsb' 0 (3 + 5 + 5 + 5 + 6 + 12 + 2 + 10) ↔ _
  simp only [append_eq_field, and_assoc, encTq_eq_field]
  simp only [eq_field_comm]


theorem loopField_iff {k : BitVec 1} : w.extractLsb' 24 6 = 0#5 ++ k ↔ w.extractLsb' 25 5 = 0 ∧ w.extractLsb' 24 1 = k := by
  rw [eq_comm]
  change 0#5 ++ k = w.extractLsb' 24 (5 + 1) ↔ _
  simp only [append_eq_field]
  simp only [eq_field_comm]
  exact .rfl

theorem jumpField_iff {set : Bool} :
    w.extractLsb' 0 10 = (if set then 1 else 0) ↔ w.extractLsb' 1 9 = 0 ∧ (w.extractLsb' 0 1 == 1#1) = set := by
  have hbit : (w.extractLsb' 0 1 == 1#1) = set ↔ w.extractLsb' 0 1 = BitVec.ofBool set := by
    generalize w.extractLsb' 0 1 = x
    revert x set
    decide
  have hfield : (if set then 1 else 0 : BitVec 10) = 0#9 ++ BitVec.ofBool set := by cases set <;> rfl
  rw [hbit, hfield, eq_comm]
  change 0#9 ++ BitVec.ofBool set = w.extractLsb' 0 (9 + 1) ↔ _
  simp only [append_eq_field]
  simp only [eq_field_comm]
  exact .rfl

theorem linkField_iff {n p q : BitVec 3} : w.extractLsb' 0 10 = 0#1 ++ q ++ p ++ n ↔
    w.extractLsb' 9 1 = 0 ∧ w.extractLsb' 6 3 = q ∧ w.extractLsb' 3 3 = p ∧ w.extractLsb' 0 3 = n := by
  rw [eq_comm]
  change 0#1 ++ q ++ p ++ n = w.extractLsb' 0 (1 + 3 + 3 + 3) ↔ _
  simp only [append_eq_field, and_assoc]
  simp only [eq_field_comm]
  exact .rfl

theorem cutField_iff {n : BitVec 3} : w.extractLsb' 0 10 = 0#7 ++ n ↔ w.extractLsb' 3 7 = 0 ∧ w.extractLsb' 0 3 = n := by
  rw [eq_comm]
  change 0#7 ++ n = w.extractLsb' 0 (7 + 3) ↔ _
  simp only [append_eq_field]
  simp only [eq_field_comm]
  exact .rfl

/-! ### Engine words both ways (08 R207 to R209; 11 R290, R295) -/

/-- A well-formed instruction whose engine word is `w`. -/
def EngineCoded (i : Instr) (w : BitVec 48) : Prop := i.wf = true ∧ encode i = some (.engine w)

theorem EngineCoded.intro (he : encode i = some (encE cls opn e)) (hcls : w.extractLsb' 45 3 = cls) (hopn : w.extractLsb' 40 5 = opn)
    (hew : decEW w = some e) (hwf : i.wf = true) : EngineCoded i w :=
  ⟨hwf, he.trans (congrArg some (encE_eq_iff.mpr ⟨hcls, hopn, hew⟩))⟩

theorem needE_eq_ok {c : Bool} {i' : Instr} : needE c i' = .ok i ↔ c = true ∧ i' = i := by cases c <;> simp [needE]

section
variable (hew : decEW w = some e)
include hew

theorem decodeM_coded (hcls : w.extractLsb' 45 3 = 1) (h : decodeM w e = .ok i) : EngineCoded i w := by
  unfold decodeM at h
  split at h
  case h_8 => cases h
  all_goals cases h; exact .intro rfl hcls ‹_› hew rfl

theorem decodeV_coded (hcls : w.extractLsb' 45 3 = 2) (h : decodeV w e = .ok i) : EngineCoded i w := by
  unfold decodeV at h
  split at h
  case h_28 => cases h
  all_goals cases h; exact .intro rfl hcls ‹_› hew rfl

theorem decodeT_coded (hcls : w.extractLsb' 45 3 = 3) (h : decodeT w e = .ok i) : EngineCoded i w := by
  unfold decodeT at h
  split at h
  case h_4 => cases h
  all_goals cases h; exact .intro rfl hcls ‹_› hew rfl

theorem decodeC_coded (hcls : w.extractLsb' 45 3 = 4) (h : decodeC w e = .ok i) : EngineCoded i w := by
  unfold decodeC at h
  split at h
  case h_7 => cases h
  all_goals cases h; exact .intro rfl hcls ‹_› hew rfl

theorem decodeW_coded (hcls : w.extractLsb' 45 3 = 5) (h : decodeW w e = .ok i) : EngineCoded i w := by
  unfold decodeW at h
  split at h
  case h_8 => cases h
  all_goals cases h; exact .intro rfl hcls ‹_› hew rfl

theorem decodeCommon_coded (hcls : w.extractLsb' 45 3 = 0) (h : decodeCommon w e = .ok i) : EngineCoded i w := by
  obtain ⟨-, -, hrep, -, -, hdesc⟩ := decEW_eq_some.mp hew
  obtain ⟨pop, push, rep, step, chain, desc⟩ := e
  unfold decodeCommon at h
  dsimp only at h
  split at h
  case h_7 => cases h
  all_goals
    simp only [needE_eq_ok, Bool.and_eq_true, beq_iff_eq] at h
  case h_1 =>
    obtain ⟨⟨rfl, rfl⟩, rfl⟩ := h
    exact .intro rfl hcls ‹_› hew rfl
  case h_2 | h_6 =>
    obtain ⟨⟨⟨rfl, rfl⟩, rfl⟩, rfl⟩ := h
    exact .intro rfl hcls ‹_› hew rfl
  case h_3 =>
    obtain ⟨⟨hzero, rfl⟩, rfl⟩ := h
    obtain rfl : rep = 0#5 ++ w.extractLsb' 24 1 := hrep.symm.trans (loopField_iff.mpr ⟨hzero, rfl⟩)
    exact .intro rfl hcls ‹_› hew rfl
  case h_4 =>
    obtain ⟨⟨⟨rfl, hzero⟩, rfl⟩, rfl⟩ := h
    obtain rfl : desc = if w.extractLsb' 0 1 == 1#1 then 1 else 0 := hdesc.symm.trans (jumpField_iff.mpr ⟨hzero, rfl⟩)
    exact .intro rfl hcls ‹_› hew rfl
  case h_5 =>
    obtain ⟨⟨rfl, rfl⟩, rfl⟩ := h
    exact .intro rfl hcls ‹_› hew rfl

theorem decodeSwitch_coded (hcls : w.extractLsb' 45 3 = 6) (h : decodeSwitch w e = .ok i) : EngineCoded i w := by
  obtain ⟨-, -, -, -, -, hdesc⟩ := decEW_eq_some.mp hew
  obtain ⟨pop, push, rep, step, chain, desc⟩ := e
  unfold decodeSwitch at h
  dsimp only at h
  split at h
  case h_3 => cases h
  all_goals
    simp only [needE_eq_ok, Bool.and_eq_true, beq_iff_eq] at h
    obtain ⟨⟨⟨rfl, rfl⟩, hzero⟩, rfl⟩ := h
  case h_1 =>
    obtain rfl := hdesc.symm.trans (linkField_iff.mpr ⟨hzero, rfl, rfl, rfl⟩)
    exact .intro rfl hcls ‹_› hew rfl
  case h_2 =>
    obtain rfl := hdesc.symm.trans (cutField_iff.mpr ⟨hzero, rfl⟩)
    exact .intro rfl hcls ‹_› hew rfl
end


/-- What decodes as an engine word is well formed and is encoded by that word. -/
theorem decodeEngine_coded (h : decodeEngine w = .ok i) : EngineCoded i w := by
  unfold decodeEngine at h
  split at h
  next => cases h
  next hew =>
    split at h
    case h_1 => exact decodeCommon_coded hew ‹_› h
    case h_2 => exact decodeM_coded hew ‹_› h
    case h_3 => exact decodeV_coded hew ‹_› h
    case h_4 => exact decodeT_coded hew ‹_› h
    case h_5 => exact decodeC_coded hew ‹_› h
    case h_6 => exact decodeW_coded hew ‹_› h
    case h_7 => exact decodeSwitch_coded hew ‹_› h
    case h_8 => cases h

theorem encV_ne_engine {op fn : BitVec 6} {d a : Reg} {o : Opd} : encV op d a o fn ≠ .engine w := by cases o <;> nofun

/-! ### Which class decodes an engine word (08 R208) -/

theorem decodeEngine_common (hcls : w.extractLsb' 45 3 = 0) (hew : decEW w = some e) : decodeEngine w = decodeCommon w e := by
  rw [decodeEngine, hew, hcls]; rfl
theorem decodeEngine_m (hcls : w.extractLsb' 45 3 = 1) (hew : decEW w = some e) : decodeEngine w = decodeM w e := by
  rw [decodeEngine, hew, hcls]; rfl
theorem decodeEngine_v (hcls : w.extractLsb' 45 3 = 2) (hew : decEW w = some e) : decodeEngine w = decodeV w e := by
  rw [decodeEngine, hew, hcls]; rfl
theorem decodeEngine_t (hcls : w.extractLsb' 45 3 = 3) (hew : decEW w = some e) : decodeEngine w = decodeT w e := by
  rw [decodeEngine, hew, hcls]; rfl
theorem decodeEngine_c (hcls : w.extractLsb' 45 3 = 4) (hew : decEW w = some e) : decodeEngine w = decodeC w e := by
  rw [decodeEngine, hew, hcls]; rfl
theorem decodeEngine_w (hcls : w.extractLsb' 45 3 = 5) (hew : decEW w = some e) : decodeEngine w = decodeW w e := by
  rw [decodeEngine, hew, hcls]; rfl
theorem decodeEngine_switch (hcls : w.extractLsb' 45 3 = 6) (hew : decEW w = some e) : decodeEngine w = decodeSwitch w e := by
  rw [decodeEngine, hew, hcls]; rfl

theorem decodeEngine_of_encode (h : encode i = some (.engine w)) : decodeEngine w = .ok i := by
  cases i
  case enop | ewait | emark | eswpt =>
    obtain ⟨hcls, hopn, hew⟩ := encE_eq_iff.mp (Option.some.inj h)
    rw [decodeEngine_common hcls hew, decodeCommon, hopn]
    rfl
  case eloop =>
    obtain ⟨hcls, hopn, hew⟩ := encE_eq_iff.mp (Option.some.inj h)
    obtain ⟨-, -, hrep, -⟩ := decEW_eq_some.mp hew
    obtain ⟨hzero, rfl⟩ := loopField_iff.mp hrep
    rw [decodeEngine_common hcls hew, decodeCommon, hopn, hzero]
    rfl
  case ejmp =>
    obtain ⟨hcls, hopn, hew⟩ := encE_eq_iff.mp (Option.some.inj h)
    obtain ⟨-, -, -, -, -, hdesc⟩ := decEW_eq_some.mp hew
    obtain ⟨hzero, rfl⟩ := jumpField_iff.mp hdesc
    rw [decodeEngine_common hcls hew, decodeCommon, hopn, hzero]
    rfl
  case swlink =>
    obtain ⟨hcls, hopn, hew⟩ := encE_eq_iff.mp (Option.some.inj h)
    obtain ⟨-, -, -, -, -, hdesc⟩ := decEW_eq_some.mp hew
    obtain ⟨hzero, rfl, rfl, rfl⟩ := linkField_iff.mp hdesc
    rw [decodeEngine_switch hcls hew, decodeSwitch, hopn, hzero]
    rfl
  case swcut =>
    obtain ⟨hcls, hopn, hew⟩ := encE_eq_iff.mp (Option.some.inj h)
    obtain ⟨-, -, -, -, -, hdesc⟩ := decEW_eq_some.mp hew
    obtain ⟨hzero, rfl⟩ := cutField_iff.mp hdesc
    rw [decodeEngine_switch hcls hew, decodeSwitch, hopn, hzero]
    rfl
  case mldb | mma | mmaz | mclr | mthr | mrdc | mout =>
    obtain ⟨hcls, hopn, hew⟩ := encE_eq_iff.mp (Option.some.inj h)
    rw [decodeEngine_m hcls hew, decodeM, hopn]
    rfl
  case vld | vst | vlda | vsta | vadd | vsub | vmul | vfma | vmax | vmin | vexp2 | vlog2 | vrcp | vrsq | vcvt | vqnt | vdq
      | vrsum | vrmax | vscan | vcmp | vsel | vperm | vbcst | vgath | vscat | vsmx =>
    obtain ⟨hcls, hopn, hew⟩ := encE_eq_iff.mp (Option.some.inj h)
    rw [decodeEngine_v hcls hew, decodeV, hopn]
    rfl
  case txblk | txcvt | txgat =>
    obtain ⟨hcls, hopn, hew⟩ := encE_eq_iff.mp (Option.some.inj h)
    rw [decodeEngine_t hcls hew, decodeT, hopn]
    rfl
  case cpy | cpyred | cpypk | cpyck | cpycode | cpyout =>
    obtain ⟨hcls, hopn, hew⟩ := encE_eq_iff.mp (Option.some.inj h)
    rw [decodeEngine_c hcls hew, decodeC, hopn]
    rfl
  case wpatch | wloady | wrun | wsamp | wsave | wrest | wdom =>
    obtain ⟨hcls, hopn, hew⟩ := encE_eq_iff.mp (Option.some.inj h)
    rw [decodeEngine_w hcls hew, decodeW, hopn]
    rfl
  case add | sub | and | or | xor | shl | shr | sar | slt | sltu | min | max | minu | maxu | andn | rotl | addw | subw
      | shlw | shrw | sarw | mul | mulh | mulhu | div | divu | rem | remu | mulw | divw | divuw | remw | remuw | extu
      | exts | ins | shadd1 | shadd2 | shadd3 | shadd4 | fadd | fsub | fmul | fdiv | fmin | fmax | fmad | fsgn | feq | flt
      | fle | dqput | tglook | tgset | join | allot | shrink | phase | copen | cland | chold | dmset | perfrd | perfclr
      | hostint | hostsig =>
    exact absurd (Option.some.inj h) encV_ne_engine
  all_goals cases h

/-! ### The obligation -/

/-- A core word decodes to just the instruction whose words stand there. -/
theorem decode_eq_ok_iff {w : W32} {l : LitFetch} : decode w l = .ok i ↔ Coded i w l :=
  ⟨decode_coded, fun ⟨hwf, h⟩ => decode_of_standsAt hwf h⟩

theorem decodeEngine_eq_ok_iff : decodeEngine w = .ok i ↔ EngineCoded i w :=
  ⟨decodeEngine_coded, fun ⟨_, h⟩ => decodeEngine_of_encode h⟩

/-- Settles O57: a fetch decodes to an instruction exactly when it finds that instruction's words. -/
theorem codecRoundTrip : Obligations.CodecRoundTrip := by
  unfold Obligations.CodecRoundTrip
  refine ⟨fun i w hwf => ⟨fun he l => ?single, fun x he => ?literal, fun e he => decodeEngine_of_encode he⟩,
    fun w l i h => ?decoded, fun w i h => decodeEngine_eq_ok_iff.mp h⟩
  case single => exact decode_of_standsAt hwf (Instr.standsAt_iff.mpr (.inl he))
  case literal => exact decode_of_standsAt hwf (Instr.standsAt_iff.mpr (.inr ⟨x, rfl, he⟩))
  case decoded =>
    obtain ⟨hwf, hwords⟩ := decode_eq_ok_iff.mp h
    exact ⟨hwf, Instr.standsAt_iff.mp hwords⟩

end Sys2Proof
end

section
/-!
SUPPORT. Every instruction completes on a stream of its kind and every event always (08 R202, R203, R209), and O59.
-/

namespace Sys2Proof.Machine

/-- A step that has a next state. -/
def Completes (o : Host.Outcome State Fault Refusal) : Prop := ∃ t, o = .next t

variable {s : State} {i : Instr}

theorem completes_next (t : State) : Completes (.next t) := ⟨t, rfl⟩

/-- The stream in focus is a core stream, or an engine stream, of a job. -/
def State.FocusIsCore (s : State) (core : Bool) : Prop := (s.jobAt s.key).isSome = true ∧ s.focus.kind.isCore = core

/-- The stream in focus is of the kind that runs an instruction with these words; an event needs none. -/
def State.Suits (s : State) : Option Enc → Prop
  | some (.core _ _) => s.FocusIsCore true
  | some (.engine _) => s.FocusIsCore false
  | none => True

theorem suits_value {op fn : BitVec 6} {d a : Reg} {b : Opd} : s.Suits (some (encV op d a b fn)) ↔ s.FocusIsCore true := by
  cases b <;> exact .rfl

theorem coreExec_completes {len : Nat} {sup : Bool} {regs : List Reg} {body : Job → Core → State → Res}
    (h : s.FocusIsCore true) : Completes (coreExec len sup regs body s) := by
  obtain ⟨hjob, hkind⟩ := h
  obtain ⟨j, hj⟩ := Option.isSome_iff_exists.mp hjob
  unfold coreExec
  simp only [hj, hkind, Bool.not_true, Bool.false_eq_true, if_false]
  split_ifs
  all_goals exact completes_next _

theorem engineExec_completes {own : Option Kind} {hold : Hold} {pop push : Option (BitVec 4)} {chain : Chain} {d : BitVec 10}
    {plan : Job → State → Option Plan} (h : s.FocusIsCore false) : Completes (engineExec own hold pop push chain d plan s) := by
  obtain ⟨hjob, hkind⟩ := h
  obtain ⟨j, hj⟩ := Option.isSome_iff_exists.mp hjob
  unfold engineExec
  simp only [hj, hkind, Bool.false_eq_true, if_false]
  repeat' split
  all_goals exact completes_next _

theorem execMfsr_completes {d : Reg} {n : BitVec 12} (h : s.FocusIsCore true) : Completes (execMfsr d n s) := by
  unfold execMfsr
  split
  all_goals exact coreExec_completes h

theorem execFcvt_completes {d a : Reg} {mode : BitVec 2} {src dst : BitVec 3} (h : s.FocusIsCore true) :
    Completes (execFcvt d a mode src dst s) := by
  unfold execFcvt
  split
  all_goals exact coreExec_completes h

section
variable {w : EW} (h : s.FocusIsCore false)
include h

theorem plainWord_completes {pop push : Option (BitVec 4)} {chain : Chain} {f : Job → Engine → State → State × Option Nat} :
    Completes (plainWord pop push chain f s) := engineExec_completes h

theorem mmaExec_completes {zero : Bool} : Completes (mmaExec zero w s) := engineExec_completes h

theorem vecExec_completes {u : VUses} {f : VDesc → List Bool → List W32 → List W32 → List W32 → List W32 × List Bool} :
    Completes (vecExec u w f s) := engineExec_completes h

theorem vloadExec_completes {acc : Bool} : Completes (vloadExec acc w s) := engineExec_completes h

theorem vstoreExec_completes {acc : Bool} : Completes (vstoreExec acc w s) := engineExec_completes h

theorem gatherExec_completes {gather : Bool} : Completes (gatherExec gather w s) := engineExec_completes h

theorem pwWord_completes {plan : Job → State → Option Plan} : Completes (pwWord w plan s) := engineExec_completes h

theorem cellRead_completes {spaces : List Nat} {esize : Nat} {f : Nat → Nat → Word → Run → Got Unit} :
    Completes (cellRead w spaces esize f s) := pwWord_completes h

/-- MLDB forgets the B operand held before a Data-Error of 15 R404. -/
theorem execMldb_completes : Completes (execMldb w s) := by
  unfold execMldb
  refine engineExec_completes ?_
  split
  · obtain ⟨hjob, hkind⟩ := h
    refine ⟨?_, by rwa [modCur_focus]⟩
    rwa [modCur_key, modCur_jobAt, Option.isSome_map]
  · exact h

end

/-- An instruction completes on a stream of its kind, and an event always. -/
theorem exec_completes (h : s.Suits (encode i)) (hcore : i ≠ .illegalInstruction) (hengine : i ≠ .engineDecodeFailure) :
    Completes (exec i s) := by
  cases i
  case add | sub | and | or | xor | shl | shr | sar | slt | sltu | min | max | minu | maxu | andn | rotl | addw | subw
      | shlw | shrw | sarw | mul | mulh | mulhu | div | divu | rem | remu | mulw | divw | divuw | remw | remuw | extu
      | exts | ins | shadd1 | shadd2 | shadd3 | shadd4 | fadd | fsub | fmul | fdiv | fmin | fmax | fmad | fsgn | feq | flt
      | fle | dqput | tglook | tgset | join | allot | shrink | phase | copen | cland | chold | dmset | perfrd | perfclr
      | hostint | hostsig =>
    exact coreExec_completes (suits_value.mp h)
  case nop | trap | mtsr | eret | clz | ctz | popc | brev | bswap | addi | andi | ori | xori | slti | sltui | shli | shri
      | sari | lhi | lndiv | lnmod | fsqrt | fclass | fexp2 | flog2 | frcp | frsq | fli | faddi | fmuli | beq | bne | blt
      | bge | bltu | bgeu | j | jal | jr | jalr | loopb | lcset | lcget | ld | st | ldl | stl | lds | sts | kld | kst
      | ldq | stq | ldacq | strel | fence | qmark | pref | ldby | stna | aadd | aand | aor | axor | amin | amax | aminu
      | amaxu | aswap | acas | afadd | afmax | dqget | dqpeek | dqstat | tksend | tkwait | tktry | tkstat | rgclaim
      | rgfill | rgtake | rgtakeObs | rgfree | rginit | rgstat | rgreset | rgjoin | rgleave | tginv | tgclr | tgrd | caput
      | canode | caget | caref | cadrop | caroot | carootRef | caswap | cacas | spawn | rend | trigger | waitdep | yield
      | exit | swpt | cclose | cstat | dmready | dmwait | dmstat | pwsave | pwrest | pwrdy | pwstat | tlbinv | tlbinvt
      | tlbprb =>
    exact coreExec_completes h
  case mfsr => exact execMfsr_completes h
  case fcvt => exact execFcvt_completes h
  case swlink | swcut | mclr | mthr | mrdc | mout | vsmx | txblk | txcvt | txgat | cpy | cpyred | cpypk | cpyck | cpycode
      | cpyout =>
    delta exec
    exact engineExec_completes h
  case mldb => exact execMldb_completes h
  case enop | ewait | eloop | ejmp | emark | eswpt =>
    delta exec
    exact plainWord_completes h
  case mma | mmaz =>
    delta exec
    exact mmaExec_completes h
  case vadd | vsub | vmul | vfma | vmax | vmin | vexp2 | vlog2 | vrcp | vrsq | vcvt | vqnt | vdq | vrsum | vrmax | vscan
      | vcmp | vsel | vperm | vbcst =>
    delta exec
    exact vecExec_completes h
  case vld | vlda =>
    delta exec
    exact vloadExec_completes h
  case vst | vsta =>
    delta exec
    exact vstoreExec_completes h
  case vgath | vscat =>
    delta exec
    exact gatherExec_completes h
  case wpatch | wloady | wrest =>
    delta exec
    exact cellRead_completes h
  case wrun | wsamp | wsave | wdom =>
    delta exec
    exact pwWord_completes h
  case quoteRequest | measExtend | homeRequest | tileAddressedRequest | requestReissue | requestTimeout | deferredFault
      | capEvaluate | sensorSample | mmioImemWrite | mmioTagWindowWrite | mmioSysregWrite | mmioRegisterWrite
      | laneFailure | circuitBeatLand | breakSignalArrival | breakNotice | leaseExpiry | flowMeterWindowEnd | flowProbe
      | flowPromote | holdoffExpire | flowIdleClose | launchSubmit | xcoreStopTimeout | scaleQueueTimeout | droopReexecute =>
    delta exec
    dsimp only [execQuoteRequest, execMeasExtend, execHomeRequest, execTileAddressedRequest, execRequestReissue,
      execRequestTimeout, execDeferredFault, execCapEvaluate, execSensorSample, execMmioImemWrite, execMmioTagWindowWrite,
      execMmioSysregWrite, execMmioRegisterWrite, execLaneFailure, execCircuitBeatLand, execBreakSignalArrival,
      execBreakNotice, execLeaseExpiry, execFlowMeterWindowEnd, execFlowProbe, execFlowPromote, execHoldoffExpire,
      execFlowIdleClose, execLaunchSubmit, execXcoreStopTimeout, execScaleQueueTimeout, execDroopReexecute]
    repeat' split
    all_goals exact completes_next _
  case illegalInstruction => exact absurd rfl hcore
  case engineDecodeFailure => exact absurd rfl hengine
  all_goals exact completes_next _

theorem Completes.of_encode {e : Enc} (he : encode i = some e) (h : s.Suits (some e)) : Completes (exec i s) :=
  exec_completes (he ▸ h) (fun hi => by rw [hi] at he; cases he) fun hi => by rw [hi] at he; cases he

/-! ### What a stream runs (08 R202, R209) -/

theorem exec_completes_of_decode {w : W32} {l : LitFetch} (hd : decode w l = .ok i) (h : s.FocusIsCore true) :
    Completes (exec i s) := by
  obtain ⟨-, hwords⟩ := decode_eq_ok_iff.mp hd
  rcases Instr.standsAt_iff.mp hwords with he | ⟨x, -, he⟩
  · exact .of_encode he h
  · exact .of_encode he h

theorem exec_completes_of_decodeEngine {w : BitVec 48} (hd : decodeEngine w = .ok i) (h : s.FocusIsCore false) :
    Completes (exec i s) := .of_encode (decodeEngine_eq_ok_iff.mp hd).2 h

/-- A fetch that fails raises its cause. -/
theorem execIllegalInstruction_completes (h : s.FocusIsCore true) : Completes (execIllegalInstruction s) := by
  obtain ⟨j, hj⟩ := Option.isSome_iff_exists.mp h.1
  unfold execIllegalInstruction
  simp only [hj]
  split
  · exact completes_next _
  · exact coreExec_completes h

theorem execEngineDecodeFailure_completes (h : s.FocusIsCore false) : Completes (execEngineDecodeFailure s) := by
  obtain ⟨j, hj⟩ := Option.isSome_iff_exists.mp h.1
  unfold execEngineDecodeFailure
  simp only [hj]
  split
  all_goals exact completes_next _

theorem coreFetch_eq_run {p t pc : Nat} (h : s.coreFetch p t pc = .run i) : ∃ w l, decode w l = .ok i := by
  unfold State.coreFetch at h
  split_ifs at h
  split at h
  next hd => cases h; exact ⟨_, _, hd⟩
  all_goals cases h

theorem engineFetch_eq_run {p t : Nat} {e : Engine} (h : s.engineFetch p t e = .run i) : ∃ w, decodeEngine w = .ok i := by
  have hdec : ∀ w : BitVec 48, (match decodeEngine w with
      | .ok i => EngineFetch.run i
      | .error _ => .fail .engineWord (BitVec.ofNat 64 e.pc)) = .run i → decodeEngine w = .ok i := by
    intro w hw
    split at hw
    next hd => cases hw; exact hd
    next => cases hw
  unfold State.engineFetch at h
  dsimp only at h
  split at h
  · exact ⟨_, hdec _ h⟩
  · split_ifs at h
    exact ⟨_, hdec _ h⟩

theorem coreTurn_completes {j : Job} (h : s.FocusIsCore true) : Completes (s.coreTurn j) := by
  unfold State.coreTurn
  split
  next hf =>
    obtain ⟨w, l, hd⟩ := coreFetch_eq_run hf
    exact exec_completes_of_decode hd h
  next => exact execIllegalInstruction_completes h

theorem engineTurn_completes {j : Job} (h : s.FocusIsCore false) : Completes (s.engineTurn j) := by
  unfold State.engineTurn
  dsimp only
  split
  · exact completes_next _
  · split_ifs
    · exact completes_next _
    · split
      next hf =>
        obtain ⟨w, hd⟩ := engineFetch_eq_run hf
        exact exec_completes_of_decodeEngine hd h
      next => exact execEngineDecodeFailure_completes h

/-! ### A move and a step -/

theorem Completes.unfrozen {o : Host.Outcome State Fault Refusal} {key : Nat} (h : Completes o) : Completes (unfrozen key o) := by
  obtain ⟨t, rfl⟩ := h
  exact completes_next _

theorem Completes.ticked {o : Host.Outcome State Fault Refusal} {ends : Bool} {p : Nat} (h : Completes o) :
    Completes (ticked ends p o) := by
  obtain ⟨t, rfl⟩ := h
  exact completes_next _

theorem streamMove_completes (s : State) : Completes s.streamMove := by
  unfold State.streamMove
  split
  · exact completes_next _
  next j hj =>
    have hjob : (s.jobAt s.key).isSome = true := Option.isSome_iff_exists.mpr ⟨j, hj⟩
    split_ifs with _ hkind
    · exact completes_next _
    · exact coreTurn_completes ⟨hjob, hkind⟩
    · exact .unfrozen (engineTurn_completes ⟨hjob, Bool.eq_false_iff.mpr hkind⟩)

theorem eventMove_completes (s : State) (i : Instr) (a : Args) : Completes (s.eventMove i a) := by
  unfold State.eventMove
  split_ifs with hfits
  · obtain ⟨hnone, hcore, hengine⟩ := (isEvent_iff i).mp (Bool.and_eq_true_iff.mp hfits).1
    exact exec_completes (hnone ▸ trivial) hcore hengine
  · exact completes_next _

theorem move_completes (s : State) (m : Turn) : Completes (s.move m) := by
  cases m with
  | stream => exact .ticked (streamMove_completes _)
  | streamIn => exact streamMove_completes _
  | event => exact .ticked (eventMove_completes _ _ _)
  | eventIn => exact eventMove_completes _ _ _
  | _ => exact completes_next _

/-- Settles O59: whatever a stream fetches completes on that stream, an undecodable word as a fault of it, and an event always. -/
theorem everyStepCompletes : Obligations.EveryStepCompletes := by
  unfold Obligations.EveryStepCompletes
  exact fun s => move_completes _ _

end Sys2Proof.Machine
end

section
/-!
SUPPORT. A tile's scratchpad within the scopes of its queue, local loads and stores, spill and constant bank (10 R255; 08 R199), and O14.
-/

namespace Sys2Proof.Machine

/-! ### Where the scratchpad's bytes lie (01 R22; 05 R127) -/

theorem regionOf_aperture {ddr t a : Nat} (ht : t < 256) (ha : a < padSize)
    (h : ddrBase + ddr * 16 * gib ≤ apBase + t * 0x80_0000 + a) : regionOf ddr (apBase + t * 0x80_0000 + a) = .aperture t a := by
  have hpad : a < 0x60_0000 := ha
  have hsub : apBase + t * 0x80_0000 + a - apBase = t * 0x80_0000 + a := by omega
  have hdiv : (t * 0x80_0000 + a) / 0x80_0000 = t := by omega
  have hmod : (t * 0x80_0000 + a) % 0x80_0000 = a := by omega
  unfold regionOf
  rw [if_neg (by simp only [apBase, hbmTop]; omega), if_neg (by simp only [apBase, ddrBase]; omega), if_neg (by omega),
    if_neg (by omega), if_pos (by omega), hsub]
  dsimp only
  rw [hdiv, hmod, if_pos ha]

theorem placeOf_aperture {s : State} {pa t a : Nat} (h : s.region pa = .aperture t a) : s.placeOf pa = .tile (paPkg pa) t := by
  simp [State.placeOf, h]

/-- A scope that reaches the first byte of a tile's scratchpad reaches every byte, however far the DDR-5 reaches. -/
theorem inScope_apAddr {s : State} {sc : Scope} {p t a : Nat} (ht : t < 256) (ha : a < padSize)
    (h : inScope sc p t (s.placeOf (apAddr p t 0)) = true) : inScope sc p t (s.placeOf (apAddr p t a)) = true := by
  have haddr : ∀ b, apAddr p t b = p * 2 ^ 48 + (apBase + t * 0x80_0000 + b) := fun b => by rw [apAddr]; omega
  have hoff : ∀ b, b < padSize → apBase + t * 0x80_0000 + b < 2 ^ 48 := fun b hb => by
    simp only [apBase, padSize] at *
    omega
  have hbase : ∀ b, ddrBase ≤ apBase + t * 0x80_0000 + b := fun b => by simp only [apBase, ddrBase]; omega
  have hddr : ∀ b, b < padSize → apBase + t * 0x80_0000 + b < ddrBase + (s.pkgAt p).ddr * 16 * gib →
      s.placeOf (apAddr p t b) = .hdie p := fun b hb hfar => by
    have hplace := placeOf_ddr ((region_offset (s := s) (hoff b hb)).trans (regionOf_ddr hfar (hbase b)))
    rwa [paPkg_offset (hoff b hb), ← haddr] at hplace
  by_cases hnear : ddrBase + (s.pkgAt p).ddr * 16 * gib ≤ apBase + t * 0x80_0000 + a
  · rw [haddr, placeOf_aperture ((region_offset (hoff a ha)).trans (regionOf_aperture ht ha hnear)), paPkg_offset (hoff a ha)]
    exact inScope_ownTile sc p t
  · have hfar := Nat.not_le.mp hnear
    rw [hddr a ha hfar]
    rwa [hddr 0 (by decide) (by omega)] at h

/-! ### Loads and stores of the scratchpad (10 R255) -/

section
variable {s : State} {j : Job} {d a : Reg} {i : BitVec 11}

section
variable {y : StoreSize} {at_ : Word} (h : Ready s j) (ha : Allowed (s.core j) [d, a])
  (hat : effAddr ((s.core j).reg a) i (storeBytes y) = at_) (hrange : at_.toNat < padSize) (halign : at_.toNat % storeBytes y = 0)
  (hsound : s.padFlawed at_.toNat (storeBytes y) true = false)
include h ha hat hrange halign hsound

/-- A local store whose bank is free. -/
theorem exec_stl_performs (hfree : s.localFree true = true) : exec (.stl d a y i) s = .next (({ s with
    mem := writeLe s.mem (apAddr s.fpkg s.ftile at_.toNat) (storeBytes y) ((s.core j).reg d).toNat } : State).retired 4) :=
  coreExec_performs (op := .store) rfl rfl h ha
    (by simp [hat, withLocal, localFault, Nat.not_lt.mpr (Nat.succ_le_of_lt hrange), halign, hsound]) hfree

/-- A local store behind a fence or a QMARK stands in its queue. -/
theorem exec_stl_queues (hfree : s.localFree true = false) : exec (.stl d a y i) s =
    .next ((s.queueUp s.issuer j.tenant (.own .store) at_ (apAddr s.fpkg s.ftile at_.toNat) (s.core j).pc.toNat (storeBytes y)
      ((s.core j).reg d) false).2.retired 4) := by
  refine (coreExec_queues (op := .store) (a := at_.toNat) rfl rfl h ha
    (by simp [hat, withLocal, localFault, Nat.not_lt.mpr (Nat.succ_le_of_lt hrange), halign, hsound]; rfl) hfree
    (fun sc hsc => inScope_apAddr s.focus.tile.isLt hrange hsc)).trans ?_
  rw [BitVec.ofNat_toNat, BitVec.setWidth_eq]
  rfl

end

theorem exec_ldl {z : LoadSize} {at_ : Word} (h : Ready s j) (ha : Allowed (s.core j) [d, a])
    (hat : effAddr ((s.core j).reg a) i (loadBytes z) = at_) (hrange : at_.toNat < padSize) (halign : at_.toNat % loadBytes z = 0)
    (hfree : s.localFree false = true) (hsound : s.padFlawed at_.toNat (loadBytes z) false = false) :
    exec (.ldl d a z i) s = .next (s.wrote d (extend (loadBytes z) (loadSigned z) (s.readL at_.toNat (loadBytes z))) 4) := by
  subst hat
  exact coreExec_next h nofun ha (withPad_ok hrange halign hfree hsound _) (setReg_key _ _ _) (h.calm.setReg _ _)

/-- A local load behind a fence or a QMARK waits (log 5). -/
theorem exec_ldl_waits {z : LoadSize} {at_ : Word} (h : Ready s j) (ha : Allowed (s.core j) [d, a])
    (hat : effAddr ((s.core j).reg a) i (loadBytes z) = at_) (hrange : at_.toNat < padSize) (halign : at_.toNat % loadBytes z = 0)
    (hfree : s.localFree false = false) : exec (.ldl d a z i) s = .next s.stalled := by
  subst hat
  exact coreExec_wait h nofun ha (withPad_wait hrange halign hfree _) rfl h.calm

end

/-! ### Spill and constant bank (08 R199) -/

/-- Spill storage with dword `n` set to `v`: a zero is kept as an unlisted entry. -/
def spillSet (m : Map Word) (n : Nat) (v : Word) : Map Word := if v = 0 then mdel m n else mput m n v

theorem spillSet_same (m : Map Word) (n : Nat) (v : Word) : (mget (spillSet m n v) n).getD 0 = v := by
  unfold spillSet
  split
  next hv => simp [mget_mdel_same, hv]
  next => simp

theorem spillSet_ne (m : Map Word) {n k : Nat} (v : Word) (h : k ≠ n) : mget (spillSet m n v) k = mget m k := by
  unfold spillSet
  split
  · exact mget_mdel_ne _ _ _ h
  · exact mget_mput_ne _ _ _ _ h

section
variable {s : State} {j : Job} {d : Reg} {m : BitVec 9} (h : Ready s j) (ha : Allowed (s.core j) [d])
include h ha

theorem exec_sts : exec (.sts d m) s =
    .next ((s.modCore fun _ => { s.core j with spill := spillSet (s.core j).spill m.toNat ((s.core j).reg d) }).retired 4) := by
  refine coreExec_next h nofun ha ?_ (modCore_key _ _) (h.calm.modCore _)
  simp only [State.modCore, modCur_some h.1]
  rfl

theorem exec_kst : exec (.kst d m) s =
    .next ((s.modCur fun k => { k with kbank := vset k.kbank m.toNat ((s.core j).reg d) }).retired 4) :=
  coreExec_next h nofun ha rfl (modCur_key _ _) (h.calm.modCur _ (fun _ => rfl) (fun _ => rfl))

end

/-- Settles O14: each form where its queue is free and where it is not, and the two banks. -/
theorem localStorage : Obligations.LocalStorage := by
  unfold Obligations.LocalStorage
  intro s j d a z y i m h hda
  have hd : Allowed (s.core j) [d] := hda.of_subset (by simp)
  refine ⟨?ldl, ?stl, ?ldlWaits, ?stlQueues, coreWrite_ready h hd, ?sts, coreWrite_ready h hd, exec_kst h hd⟩
  case ldl =>
    rintro ⟨hrange, halign, hfree, hsound⟩
    exact exec_ldl h hda rfl hrange halign hfree hsound
  case stl =>
    rintro ⟨hrange, halign, hfree, hsound⟩
    exact exec_stl_performs h hda rfl hrange halign hsound hfree
  case ldlWaits =>
    intro n hrange halign hfree
    exact exec_ldl_waits h hda rfl hrange halign hfree
  case stlQueues =>
    intro n hrange halign hfree hsound
    exact exec_stl_queues h hda rfl hrange halign hsound hfree
  case sts => exact ⟨_, exec_sts h hd, spillSet_same _ _ _, fun k hk => spillSet_ne _ _ hk, rfl⟩

end Sys2Proof.Machine
end

section
/-!
SUPPORT. The frame of a retirement and of a local store (08 R193; 09 R219, R248; 15 R387; 10 R255), and O60.
-/

namespace Sys2Proof.Machine

/-! ### What a retirement changes (09 R219, R248; 15 R387) -/

/-- A retirement in the core in focus, which runs job `j`, led from `s` to `t`, which holds the job as `j'`: of the machine only that
core moved, and of the core only its registers, program counter, counters and request. -/
def RetiresFrame (s : State) (j : Job) (t : State) (j' : Job) : Prop :=
  let c := s.core j
  ({ t with jobs := s.jobs } : State) = s ∧ (∀ k, k ≠ s.key → t.jobAt k = s.jobAt k) ∧
    t.jobAt s.key = some j' ∧ j'.modCore s.focus.kind (fun _ => c) = j ∧
    { t.core j' with g := c.g, pc := c.pc, instret := c.instret, issuecyc := c.issuecyc, seq := c.seq, asked := c.asked
                     reply := c.reply, missed := c.missed, fin := c.fin, leaving := c.leaving } = c ∧
    (t.core j').instret = c.instret + 1 ∧ (t.core j').issuecyc = c.issuecyc + (if c.asked = none then 1 else 0) ∧
    (t.core j').seq = c.seq + 1 ∧ (t.core j').asked = none ∧ (t.core j').fin = (c.fin || c.leaving)

/-- The core with registers `g` retires at program counter `x`. -/
def Core.landed (c : Core) (g : Vector Word 64) (x : Nat) : Core := (({ c with g := g } : Core).goto x).retire

theorem setCore_self (j : Job) (k : Kind) : j.setCore k (j.core k) = j := by cases k <;> rfl

theorem setReg_eq_withG (c : Core) (d : Reg) (v : Word) : c.setReg d v = { c with g := (c.setReg d v).g } := by
  unfold Core.setReg
  split <;> rfl

/-- The core retires an instruction of `len` bytes whose result goes to register `d`. -/
def Core.resulted (d : Reg) (v : Word) (len : Nat) (c : Core) : Core := ((c.setReg d v).goto (c.pc.toNat + len)).retire

theorem wrote_eq (s : State) (d : Reg) (v : Word) (len : Nat) : s.wrote d v len = s.modCore (Core.resulted d v len) := by
  rw [State.wrote, State.retired, State.setReg, modCore_modCore]
  exact congrArg _ (funext fun c => by rw [setReg_pc, Core.resulted])

theorem resulted_eq_landed (c : Core) (d : Reg) (v : Word) (len : Nat) :
    c.resulted d v len = c.landed (c.setReg d v).g (c.pc.toNat + len) := by rw [Core.resulted, Core.landed, ← setReg_eq_withG]

theorem landed_setReg_reg (c : Core) (d r : Reg) (v : Word) (x : Nat) :
    (c.landed (c.setReg d v).g x).reg r = (c.setReg d v).reg r := rfl

theorem retire_issuecyc (c : Core) : c.retire.issuecyc = c.issuecyc + (if c.asked = none then 1 else 0) := by
  cases h : c.asked <;> simp [Core.retire, h]

section
variable {s : State} {j : Job} (h : s.jobAt s.key = some j)
include h

/-- The update that makes a core land is a retirement. -/
theorem retiresFrame_landed {f : Core → Core} {g : Vector Word 64} {x : Nat} (hf : f (s.core j) = (s.core j).landed g x) :
    ∃ j', RetiresFrame s j (s.modCore f) j' ∧ (s.modCore f).core j' = (s.core j).landed g x := by
  have hstate : s.modCore f = s.setJob s.key (j.setCore s.focus.kind ((s.core j).landed g x)) := by
    rw [modCore_some h, ← hf]
    rfl
  have hcore : (s.setJob s.key (j.setCore s.focus.kind ((s.core j).landed g x))).core
      (j.setCore s.focus.kind ((s.core j).landed g x)) = (s.core j).landed g x := setCore_core ..
  refine ⟨j.setCore s.focus.kind ((s.core j).landed g x), ?_, ?_⟩
  all_goals rw [hstate]
  · refine ⟨rfl, fun k hk => setJob_jobAt_ne _ _ _ _ hk, setJob_jobAt_same _ _ _, ?_, ?_⟩
    · rw [Job.modCore, setCore_setCore]
      exact setCore_self j _
    · rw [hcore]
      exact ⟨rfl, rfl, retire_issuecyc _, rfl, rfl, rfl⟩
  · exact hcore

/-- A register result changes its destination alone, and g0 not at all. -/
theorem wrote_frame (d : Reg) (v : Word) (len : Nat) : ∃ j', RetiresFrame s j (s.wrote d v len) j' ∧
    (((s.wrote d v len).core j').pc = BitVec.ofNat 19 ((s.core j).pc.toNat + len)) ∧
    (∀ r, r ≠ d → ((s.wrote d v len).core j').reg r = (s.core j).reg r) ∧ ((s.wrote d v len).core j').reg 0 = 0 ∧
    (d ≠ 0 → ((s.wrote d v len).core j').reg d = v) := by
  obtain ⟨j', hframe, hcore⟩ := retiresFrame_landed h (resulted_eq_landed (s.core j) d v len)
  rw [wrote_eq]
  refine ⟨j', hframe, ?_⟩
  simp only [hcore, landed_setReg_reg]
  exact ⟨rfl, fun r hr => setReg_reg_ne _ _ _ _ hr, reg_zero _, fun hd => setReg_reg_same _ _ _ hd⟩

theorem retired_frame (len : Nat) : ∃ j', RetiresFrame s j (s.retired len) j' ∧
    (s.retired len).core j' = (s.core j).landed (s.core j).g ((s.core j).pc.toNat + len) := retiresFrame_landed h rfl

theorem jumped_frame (x : Nat) : ∃ j', RetiresFrame s j (s.jumped x) j' ∧
    (s.jumped x).core j' = (s.core j).landed (s.core j).g x := retiresFrame_landed h rfl

/-- Retirement alone leaves the registers and the loop counters. -/
theorem retired_regs {len : Nat} {j' : Job} (hj' : (s.retired len).jobAt s.key = some j') :
    ((s.retired len).core j').g = (s.core j).g ∧ ((s.retired len).core j').lc = (s.core j).lc := by
  obtain ⟨j'', ⟨-, -, hjob, -⟩, hcore⟩ := retired_frame h len
  obtain rfl : j'' = j' := Option.some.inj (hjob.symm.trans hj')
  rw [hcore]
  exact ⟨rfl, rfl⟩

end

/-! ### What a local store changes (10 R255) -/

/-- A local store over sound storage writes the bytes it names, or stands in its queue. -/
theorem exec_stl_sound {s t : State} {j : Job} {d a : Reg} {y : StoreSize} {i : BitVec 11} {at_ : Word} (h : Ready s j)
    (ha : Allowed (s.core j) [d, a]) (hat : effAddr ((s.core j).reg a) i (storeBytes y) = at_) (hrange : at_.toNat < padSize)
    (halign : at_.toNat % storeBytes y = 0) (hsound : Sound s) (ht : exec (.stl d a y i) s = .next t) :
    ∃ m f l, t = ({ s with mem := m, fresh := f, reqs := l } : State).retired 4 ∧
      ∀ k, k < apAddr s.fpkg s.ftile at_.toNat ∨ apAddr s.fpkg s.ftile at_.toNat + storeBytes y ≤ k →
        readByte m k = readByte s.mem k := by
  have hflawed := hsound.padFlawed at_.toNat (storeBytes y) true
  cases hfree : s.localFree true with
  | true =>
    rw [exec_stl_performs h ha hat hrange halign hflawed hfree] at ht
    injection ht with ht
    exact ⟨_, s.fresh, s.reqs, ht.symm, fun k hk => readByte_writeLe_out _ _ _ _ _ hk⟩
  | false =>
    rw [exec_stl_queues h ha hat hrange halign hflawed hfree] at ht
    injection ht with ht
    obtain ⟨r, hqueued⟩ := queueUp_blocked (s := s) (op := .store) (u := j.tenant) (va := at_) (v := (s.core j).reg d)
      (pa := apAddr s.fpkg s.ftile at_.toNat) (point := (s.core j).pc.toNat) (n := storeBytes y) (noalloc := false) hfree rfl rfl
      (fun sc hsc => inScope_apAddr s.focus.tile.isLt hrange hsc)
    rw [hqueued] at ht
    exact ⟨s.mem, _, _, ht.symm, fun _ _ => rfl⟩

/-- Settles O60: the frame of each of the three ways to retire, and the forms that retire so. -/
theorem frames : Obligations.Frames := by
  unfold Obligations.Frames
  intro s j d a b o y i m n c same hjob _
  refine ⟨fun v len => wrote_frame hjob d v len, fun len => ?retired, fun x => ?jumped,
    fun h hall => ⟨fun x hx => ?operand, fun x hx => ?immediate, ?stl⟩⟩
  case retired =>
    obtain ⟨j', hframe, hcore⟩ := retired_frame hjob len
    exact ⟨j', hframe, by rw [hcore]; rfl, by rw [hcore]; rfl⟩
  case jumped =>
    obtain ⟨j', hframe, hcore⟩ := jumped_frame hjob x
    exact ⟨j', hframe, by rw [hcore]; rfl, by rw [hcore]; rfl⟩
  case operand =>
    have hregs : Allowed (s.core j) (d :: a :: opdRegs o) :=
      hall.of_subset (List.cons_subset_cons _ (List.cons_subset_cons _ (List.subset_cons_self _ _)))
    fin_cases hx
    all_goals exact ⟨_, coreWrite_ready h hregs⟩
  case immediate =>
    have hda : Allowed (s.core j) [d, a] := hall.of_subset (by simp)
    fin_cases hx
    all_goals exact ⟨_, coreWrite_ready h (hda.of_subset (by simp))⟩
  case stl =>
    intro at_ hrange halign hsound t ht
    obtain ⟨mem, fresh, reqs, rfl, hmem⟩ := exec_stl_sound h (hall.of_subset (by simp)) rfl hrange halign hsound ht
    refine ⟨fun k hk => ?_, modCore_tiles _ _, modCore_pkgs _ _, modCore_tenants _ _,
      fun j' hj' => retired_regs (s := { s with mem := mem, fresh := fresh, reqs := reqs }) hjob hj'⟩
    rw [retired_mem]
    exact hmem k hk

end Sys2Proof.Machine
end

section
/-!
SUPPORT. Words of the encoding tables, decoded (08 R192 to R210; 09, Example 5), and O55.
-/

namespace Sys2Proof

/-- Settles O55: each word decodes by evaluation. -/
theorem decodedWords : Obligations.DecodedWords := by
  unfold Obligations.DecodedWords
  refine ⟨?legal, rfl, rfl, rfl, rfl, ?illegal, rfl, rfl, rfl, ⟨_, rfl⟩, ⟨_, rfl⟩⟩
  case legal => decide
  case illegal =>
    simp only [List.forall_mem_cons]
    exact ⟨⟨_, rfl⟩, ⟨_, rfl⟩, ⟨_, rfl⟩, ⟨_, rfl⟩, by simp⟩

end Sys2Proof
end

section
/-!
SUPPORT. Forms whose one effect is a register computed from their operands (09 R219, R223, R224, R227, R228), and O1 and O2.
-/

namespace Sys2Proof.Machine

/-! ### The shapes -/

section
variable {s : State} {j : Job} {d a : Reg} {b : Opd}

theorem coreWrite_writes {len : Nat} {regs : List Reg} {f : Job → Core → Word} {v : Word} (h : Ready s j)
    (ha : Allowed (s.core j) (d :: regs)) (hv : f j (s.core j) = v) : coreWrite len regs d f s = .next (s.wrote d v len) :=
  hv ▸ coreWrite_ready h ha

theorem opValue_writes {f : Word → Word → Word} {v : Word} (h : Ready s j) (ha : Allowed (s.core j) (d :: a :: opdRegs b))
    (hv : f ((s.core j).reg a) (bval j (s.core j) b) = v) : opValue f d a b s = .next (s.wrote d v (opdLen b)) :=
  coreWrite_writes h ha hv

/-- A division whose divisor is not zero writes its result (R228). -/
theorem opDivide_writes {zero : Word → Bool} {f : Word → Word → Word} {v : Word} (h : Ready s j)
    (ha : Allowed (s.core j) (d :: a :: opdRegs b)) (hzero : zero (bval j (s.core j) b) = false)
    (hv : f ((s.core j).reg a) (bval j (s.core j) b) = v) : opDivide zero f d a b s = .next (s.wrote d v (opdLen b)) :=
  hv ▸ coreExec_next h nofun ha (if_neg (by simp [hzero])) (setReg_key _ _ _) (h.calm.setReg _ _)

end

/-! ### The pure operations -/

section
variable (x y : Word)

theorem flag_slt64 : flag (slt64 x y) = if x.toInt < y.toInt then 1 else 0 := by simp [flag, slt64]

theorem flag_ult64 : flag (ult64 x y) = if x.toNat < y.toNat then 1 else 0 := by simp [flag, ult64]

theorem min64_eq : min64 x y = if y.toInt < x.toInt then y else x := by simp [min64, slt64]

theorem max64_eq : max64 x y = if x.toInt < y.toInt then y else x := by simp [max64, slt64]

theorem minu64_eq : minu64 x y = if y.toNat < x.toNat then y else x := by simp [minu64, ult64]

theorem maxu64_eq : maxu64 x y = if x.toNat < y.toNat then y else x := by simp [maxu64, ult64]

theorem toNat_lo32_mod : (lo32 y).toNat % 32 = y.toNat % 32 := by
  rw [lo32, BitVec.toNat_setWidth]
  omega

/-- The low word of the count gives the same shift (R224). -/
theorem shlw_eq : shlw x y = sx (lo32 x <<< ((lo32 y).toNat % 32)) := by rw [toNat_lo32_mod, shlw]

theorem shrw_eq : shrw x y = sx (lo32 x >>> ((lo32 y).toNat % 32)) := by rw [toNat_lo32_mod, shrw]

theorem sarw_eq : sarw x y = sx ((lo32 x).sshiftRight ((lo32 y).toNat % 32)) := by rw [toNat_lo32_mod, sarw]

/-- The high half of the signed product is that of the product of the operands extended to 128 bits. -/
theorem mulh64_eq : mulh64 x y = ((x.signExtend 128 * y.signExtend 128) >>> 64).setWidth 64 := by
  have hproduct : ((x.signExtend 128 * y.signExtend 128).toNat : Int) = x.toInt * y.toInt % 2 ^ 128 := by
    rw [BitVec.signExtend, BitVec.signExtend, ← BitVec.ofInt_mul, BitVec.toNat_ofInt, Int.toNat_of_nonneg (Int.emod_nonneg _ (by decide))]
    rfl
  apply BitVec.eq_of_toNat_eq
  rw [mulh64, BitVec.toNat_ofInt, BitVec.toNat_setWidth, BitVec.toNat_ushiftRight, Nat.shiftRight_eq_div_pow]
  omega

theorem mulhu64_eq : mulhu64 x y = ((x.setWidth 128 * y.setWidth 128) >>> 64).setWidth 64 := by
  have hproduct : (x.setWidth 128 * y.setWidth 128).toNat = x.toNat * y.toNat := by
    rw [BitVec.toNat_mul, BitVec.toNat_setWidth_of_le (by decide), BitVec.toNat_setWidth_of_le (by decide)]
    exact Nat.mod_eq_of_lt (lt_of_lt_of_eq (Nat.mul_lt_mul'' x.isLt y.isLt) (by norm_num))
  apply BitVec.eq_of_toNat_eq
  rw [mulhu64, BitVec.toNat_ofNat, BitVec.toNat_setWidth, BitVec.toNat_ushiftRight, hproduct, Nat.shiftRight_eq_div_pow]

end

/-! ### Quotients and remainders of every width (R227, R228) -/

section
variable {n : Nat} (x y : BitVec n)

/-- The one quotient out of range, of the most negative value by −1, wraps in both. -/
theorem ofInt_tdiv : BitVec.ofInt n (x.toInt.tdiv y.toInt) = x.sdiv y :=
  BitVec.eq_of_toInt_eq (by rw [BitVec.toInt_ofInt, BitVec.toInt_sdiv])

theorem ofInt_tmod : BitVec.ofInt n (x.toInt.tmod y.toInt) = x.srem y := by
  rw [← BitVec.toInt_srem, BitVec.ofInt_toInt]

theorem ofNat_div : BitVec.ofNat n (x.toNat / y.toNat) = x.udiv y := (BitVec.udiv_def ..).symm

theorem ofNat_mod : BitVec.ofNat n (x.toNat % y.toNat) = x.umod y := (BitVec.umod_def ..).symm

end

/-! ### The obligations -/

/-- Settles O1: each form is `opValue` of its pure operation. -/
theorem integerResults : Obligations.IntegerResults := by
  unfold Obligations.IntegerResults
  refine ⟨?dword, ?word⟩
  case dword =>
    intro s j d a b h ha x y r
    have writes : ∀ f {v}, f x y = v → opValue f d a b s = r v := fun _ _ => opValue_writes h ha
    exact ⟨writes (· + ·) rfl, writes (· - ·) rfl, writes (· &&& ·) rfl, writes (· ||| ·) rfl, writes (· ^^^ ·) rfl,
      writes (fun x y => x &&& ~~~y) rfl, writes shl64 rfl, writes shr64 rfl, writes sar64 rfl, writes rotl64 rfl,
      writes (fun x y => flag (slt64 x y)) (flag_slt64 x y), writes (fun x y => flag (ult64 x y)) (flag_ult64 x y),
      writes min64 (min64_eq x y), writes max64 (max64_eq x y), writes minu64 (minu64_eq x y), writes maxu64 (maxu64_eq x y)⟩
  case word =>
    intro s j d a b h ha x y r
    have writes : ∀ f {v : W32}, f ((s.core j).reg a) (bval j (s.core j) b) = sx v → opValue f d a b s = r v :=
      fun _ _ => opValue_writes h ha
    exact ⟨writes addw rfl, writes subw rfl, writes shlw (shlw_eq _ _), writes shrw (shrw_eq _ _), writes sarw (sarw_eq _ _)⟩

/-- Settles O2: a product is `opValue` of its operation, and a division with a divisor that is not zero `opDivide` of its own. -/
theorem mulDivResults : Obligations.MulDivResults := by
  unfold Obligations.MulDivResults
  intro s j d a b h ha x y xw yw r w
  refine ⟨?products, fun hy => ?dword, fun hy => ?word⟩
  case products =>
    have writes : ∀ f {v}, f x y = v → opValue f d a b s = r v := fun _ _ => opValue_writes h ha
    exact ⟨writes (· * ·) rfl, writes mulh64 (mulh64_eq x y), writes mulhu64 (mulhu64_eq x y), writes mulw rfl⟩
  case dword =>
    have divides : ∀ f {v}, f x y = v → opDivide zero64 f d a b s = r v := fun _ _ =>
      opDivide_writes h ha (beq_eq_false_iff_ne.mpr hy)
    exact ⟨divides div64 (ofInt_tdiv x y), divides divu64 (ofNat_div x y), divides rem64 (ofInt_tmod x y),
      divides remu64 (ofNat_mod x y)⟩
  case word =>
    have divides : ∀ f {v : W32}, f x y = sx v → opDivide zero32 f d a b s = w v := fun _ _ =>
      opDivide_writes h ha (beq_eq_false_iff_ne.mpr hy)
    exact ⟨divides divw (congrArg sx (ofInt_tdiv xw yw)), divides divuw (congrArg sx (ofNat_div xw yw)),
      divides remw (congrArg sx (ofInt_tmod xw yw)), divides remuw (congrArg sx (ofNat_mod xw yw))⟩

end Sys2Proof.Machine
end

section
/-!
SUPPORT. Counts, reversals and fields of a register, bit by bit (09 R229), and O3.
-/

namespace Sys2Proof.Machine

/-! ### The list of the bits of a register -/

section
variable (x : Word)

theorem reverse_bitList : (bitList x).reverse = (List.range 64).map (fun i => x.getLsbD (63 - i)) :=
  List.ext_getElem (by simp [bitList]) (by simp [bitList])

/-- How far a run of zeros from the front of a list of 64 bits goes. -/
theorem length_takeWhile_bits (f : Nat → Bool) {n : Nat} (hn : (((List.range 64).map f).takeWhile (fun b => !b)).length = n) :
    n ≤ 64 ∧ (∀ i, i < n → f i = false) ∧ (n < 64 → f n = true) := by
  have hfind : ((List.range 64).map f).findIdx (fun b => b) = n := by
    rw [← hn, List.takeWhile_eq_take_findIdx_not, List.length_take, min_eq_left List.findIdx_le_length]
    simp
  subst hfind
  refine ⟨by simpa using List.findIdx_le_length (p := fun b => b) (xs := (List.range 64).map f), fun i hi => ?_, fun hlt => ?_⟩
  · simpa using List.not_of_lt_findIdx hi
  · simpa using List.findIdx_getElem (p := fun b => b) (xs := (List.range 64).map f) (w := by simpa using hlt)

theorem popc64_eq : popc64 x = BitVec.ofNat 64 ((List.range 64).countP (fun i => x.getLsbD i)) := by
  rw [popc64, bitList, ← List.countP_eq_length_filter, List.countP_map]
  rfl

/-! ### Reversals -/

theorem testBit_ofBits : ∀ (l : List Bool) (i : Nat), (ofBits l).testBit i = l[i]?.getD false
  | [], i => by simp [ofBits]
  | b :: l, 0 => by cases b <;> simp [ofBits, Nat.testBit_zero]
  | b :: l, i + 1 => by
    have hhalf : ofBits (b :: l) / 2 = ofBits l := by
      simp only [ofBits]
      split <;> omega
    rw [Nat.testBit_succ, hhalf, testBit_ofBits l i, List.getElem?_cons_succ]

theorem getLsbD_brev64 {i : Nat} (hi : i < 64) : (brev64 x).getLsbD i = x.getLsbD (63 - i) := by
  rw [brev64, BitVec.getLsbD_ofNat, testBit_ofBits, reverse_bitList]
  simp [hi]

theorem testBit_leNat : ∀ (l : List Byte) (k i : Nat), i < 8 → (leNat l).testBit (8 * k + i) = (l[k]?.getD 0).getLsbD i
  | [], k, i, _ => by simp [leNat]
  | b :: l, 0, i, hi => by
    rw [leNat, Nat.add_comm, Nat.testBit_two_pow_mul_add (i := 8) _ b.isLt]
    simp [hi, BitVec.getLsbD]
  | b :: l, k + 1, i, hi => by
    rw [leNat, Nat.add_comm, Nat.testBit_two_pow_mul_add (i := 8) _ b.isLt, if_neg (by omega),
      show 8 * (k + 1) + i - 8 = 8 * k + i by omega, testBit_leNat l k i hi, List.getElem?_cons_succ]

theorem getElem_leBytes : ∀ (n v k : Nat) (h : k < (leBytes n v).length), (leBytes n v)[k] = BitVec.ofNat 8 (v / 256 ^ k)
  | 0, _, _, h => by simp [leBytes] at h
  | n + 1, v, 0, _ => by simp [leBytes]
  | n + 1, v, k + 1, h => by
    simp only [leBytes, List.getElem_cons_succ]
    rw [getElem_leBytes n, Nat.div_div_eq_div_mul, Nat.pow_succ']

theorem getLsbD_bswap64 {k i : Nat} (hk : k < 8) (hi : i < 8) : (bswap64 x).getLsbD (8 * k + i) = x.getLsbD (8 * (7 - k) + i) := by
  have hbyte : (leBytes 8 x.toNat).reverse[k]?.getD 0 = BitVec.ofNat 8 (x.toNat / 256 ^ (7 - k)) := by
    rw [List.getElem?_eq_getElem (by simpa using hk), Option.getD_some, List.getElem_reverse, getElem_leBytes, leBytes_length]
  rw [bswap64, BitVec.getLsbD_ofNat, decide_eq_true (by omega), Bool.true_and, testBit_leNat _ _ _ hi, hbyte, BitVec.getLsbD_ofNat,
    decide_eq_true hi, Bool.true_and, show 256 = 2 ^ 8 by rfl, ← Nat.pow_mul, Nat.testBit_div_two_pow, Nat.add_comm i]
  rfl

/-! ### Fields -/

theorem fieldLo_eq (spec : Word) : fieldLo spec = spec.toNat % 64 := by simp [fieldLo, bits]

theorem fieldW_eq (spec : Word) : fieldW spec = min (spec.toNat / 64 % 64 + 1) (64 - spec.toNat % 64) := by
  simp [fieldW, fieldLo_eq, bits]

theorem getLsbD_extu64 (spec : Word) {i : Nat} (hi : i < 64) :
    (extu64 x spec).getLsbD i = (decide (i < fieldW spec) && x.getLsbD (fieldLo spec + i)) := by
  rw [extu64, BitVec.getLsbD_ofNat, decide_eq_true hi, Bool.true_and, Nat.testBit_mod_two_pow, Nat.testBit_div_two_pow, Nat.add_comm i]
  rfl

theorem fieldW_pos (spec : Word) : 0 < fieldW spec := by
  rw [fieldW_eq]
  omega

/-- `toInt` of a number is the integer that its low bits stand for. -/
theorem toInt_eq {w : Nat} (hw : 0 < w) (v : Nat) : toInt w v = (BitVec.ofNat w v).toInt := by
  have hpow : 2 ^ w = 2 * 2 ^ (w - 1) := by rw [← Nat.pow_succ', Nat.succ_eq_add_one, Nat.sub_add_cancel hw]
  have hsign : v % 2 ^ w < 2 ^ (w - 1) ↔ 2 * (v % 2 ^ w) < 2 ^ w := by omega
  simp only [toInt, BitVec.toInt_eq_toNat_cond, BitVec.toNat_ofNat, hsign]
  push_cast
  rfl

theorem getLsbD_exts64 (spec : Word) {i : Nat} (hi : i < 64) :
    (exts64 x spec).getLsbD i = x.getLsbD (fieldLo spec + min i (fieldW spec - 1)) := by
  have hw := fieldW_pos spec
  have hbit : ∀ k, k < fieldW spec →
      (BitVec.ofNat (fieldW spec) (x.toNat / 2 ^ fieldLo spec % 2 ^ fieldW spec)).getLsbD k = x.getLsbD (fieldLo spec + k) :=
    fun k hk => by
      rw [BitVec.getLsbD_ofNat, Nat.testBit_mod_two_pow, Nat.testBit_div_two_pow, Nat.add_comm k, decide_eq_true hk]
      rfl
  rw [exts64, toInt_eq hw, ← BitVec.signExtend, BitVec.getLsbD_signExtend, decide_eq_true hi, Bool.true_and]
  split
  case isTrue hin => rw [hbit i hin, min_eq_left (by omega)]
  case isFalse hout => rw [BitVec.msb_eq_getLsbD_last, hbit _ (by omega), min_eq_right (by omega)]

theorem getLsbD_ins64 (old spec : Word) {i : Nat} (hi : i < 64) : (ins64 old x spec).getLsbD i =
    if fieldLo spec ≤ i ∧ i < fieldLo spec + fieldW spec then x.getLsbD (i - fieldLo spec) else old.getLsbD i := by
  have hw := fieldW_pos spec
  rw [ins64, getLsbD_setBits _ _ (by omega), decide_eq_true hi, Bool.true_and, Nat.sub_add_cancel (by omega)]
  rfl

end

/-! ### The obligation -/

/-- Settles O3: each form is `opOne` or `opValue` of its operation (INS reads g[d] too), which the lemmas give bit by bit. -/
theorem bitResults : Obligations.BitResults := by
  unfold Obligations.BitResults
  intro s j d a b h ha x y lo w2 r4 r
  have hlo : fieldLo y = lo := fieldLo_eq y
  have hw : fieldW y = w2 := fieldW_eq y
  have one : ∀ f, opOne f d a s = r4 (f x) := fun _ => coreWrite_ready h (ha.of_subset (by simp))
  have value : ∀ f, opValue f d a b s = r (f x y) := fun _ => opValue_writes h ha rfl
  refine ⟨⟨_, one clz64, ?clz⟩, ⟨_, one ctz64, length_takeWhile_bits (fun i => x.getLsbD i) rfl⟩,
    (one popc64).trans (congrArg r4 (popc64_eq x)), ⟨_, one brev64, fun i hi => getLsbD_brev64 x hi⟩,
    ⟨_, one bswap64, fun k i hk hi => getLsbD_bswap64 x hk hi⟩, ⟨_, value extu64, fun i hi => ?extu⟩,
    ⟨_, value exts64, fun i hi => ?exts⟩, ⟨_, coreWrite_ready h ha, fun i hi => ?ins⟩⟩
  case clz => exact length_takeWhile_bits (fun i => x.getLsbD (63 - i)) (by rw [reverse_bitList])
  case extu => rw [getLsbD_extu64 x y hi, hlo, hw]
  case exts => rw [getLsbD_exts64 x y hi, hlo, hw]
  case ins => rw [getLsbD_ins64 x _ y hi, hlo, hw]

end Sys2Proof.Machine
end

section
/-!
SUPPORT. Exact floating-point values (07 R175, R176, R179, R182): what an FP32 word stands for, what an operation on a NaN gives, and
the order of values; and O5.
-/

namespace Sys2Proof.Machine

/-! ### The value of an FP32 word (R175) -/

section
variable {x : W32} {e f : Nat} (he : x.toNat / 2 ^ 23 % 256 = e) (hf : x.toNat % 2 ^ 23 = f)
include he hf

/-- An FP32 word by its sign, its exponent field and its fraction field. -/
theorem f32_eq : f32 x =
    if e = 255 then (if f = 0 then .inf (x.getLsbD 31) else .nan)
    else if e = 0 then .fin (x.getLsbD 31) f (-149) else .fin (x.getLsbD 31) (f + 2 ^ 23) (e - 150) := by
  have hsign : (x.toNat / 2 ^ 31 % 2 == 1) = x.getLsbD 31 := by
    rw [BitVec.getLsbD, Nat.testBit_eq_decide_div_mod_eq, beq_eq_decide]
  have hdecode : f32 x =
      if e = 255 ∧ true = true then (if f = 0 then .inf (x.toNat / 2 ^ 31 % 2 == 1) else .nan)
      else if e = 255 ∧ f = 2 ^ 23 - 1 then .nan
      else if e = 0 then .fin (x.toNat / 2 ^ 31 % 2 == 1) f (-149)
      else .fin (x.toNat / 2 ^ 31 % 2 == 1) (f + 2 ^ 23) ((e : Int) - 127 - 23) := by
    subst he hf
    rfl
  rw [hdecode, hsign, show (e : Int) - 127 - 23 = e - 150 by omega]
  by_cases htop : e = 255 <;> simp [htop]

end

theorem f32_neg {x : W32} (h : (f32 x).isNan = false) : (f32 x).neg = x.getLsbD 31 := by
  rw [f32_eq rfl rfl] at h ⊢
  split_ifs at h ⊢
  case neg => simp [FpVal.isNan] at h
  all_goals rfl

/-! ### NaNs (R176, R179) -/

theorem isNan_iff {v : FpVal} : v.isNan = true ↔ v = .nan := by cases v <;> simp [FpVal.isNan]

section
variable (v : FpVal)

@[simp] theorem fpAdd_nan_left : fpAdd .nan v = .nan := by rw [fpAdd]

@[simp] theorem fpAdd_nan_right : fpAdd v .nan = .nan := by cases v <;> rfl

@[simp] theorem fpMul_nan_left : fpMul .nan v = .nan := by rw [fpMul]

@[simp] theorem fpMul_nan_right : fpMul v .nan = .nan := by cases v <;> rfl

@[simp] theorem fpDiv_nan_left : fpDiv .nan v = .nan := by rw [fpDiv]

@[simp] theorem fpDiv_nan_right : fpDiv v .nan = .nan := by cases v <;> rfl

@[simp] theorem fpLt_nan_left : fpLt .nan v = false := by rw [fpLt]

@[simp] theorem fpLt_nan_right : fpLt v .nan = false := by cases v <;> rfl

end

@[simp] theorem fpNeg_nan : fpNeg .nan = .nan := rfl

@[simp] theorem fpSqrt_nan : fpSqrt .nan = .nan := rfl

@[simp] theorem fpExp2_nan : fpExp2 .nan = .nan := rfl

@[simp] theorem fpLog2_nan : fpLog2 .nan = .nan := rfl

@[simp] theorem fpRcp_nan : fpRcp .nan = .nan := rfl

@[simp] theorem fpRsq_nan : fpRsq .nan = .nan := rfl

@[simp] theorem rne32_nan : rne32 .nan = 0x7FC00000 := rfl

/-! ### The order of values (R179) -/

/-- An order that holds excludes NaNs and the opposite order. -/
theorem fpLt_excludes {v w : FpVal} (h : fpLt v w = true) : v.isNan = false ∧ w.isNan = false ∧ fpLt w v = false := by
  cases v with
  | nan => simp at h
  | inf a => cases w <;> simp_all [fpLt, FpVal.isNan]
  | fin a m d =>
    cases w with
    | nan => simp at h
    | inf b => simp_all [fpLt, FpVal.isNan]
    | fin b n e =>
      have hscale : (if e < d then e else d) = if d < e then d else e := by split_ifs <;> omega
      simp only [fpLt, decide_eq_true_eq, hscale, decide_eq_false_iff_not] at h ⊢
      exact ⟨rfl, rfl, h.le.not_gt⟩

/-- FLE is FLT turned round, for operands that are not NaNs. -/
theorem f32Le_eq (x y : W32) : f32Le x y = (!(f32 x).isNan && !(f32 y).isNan && !fpLt (f32 y) (f32 x)) := by
  rw [f32Le, f32Lt, f32Eq]
  cases hlt : fpLt (f32 x) (f32 y) with
  | false => simp
  | true =>
    obtain ⟨hx, hy, hgt⟩ := fpLt_excludes hlt
    simp [hx, hy, hgt]

/-! ### Signs -/

theorem getLsbD_f32Sgn_sign (x y : W32) : (f32Sgn x y).getLsbD 31 = (x.getLsbD 31 ^^ y.getLsbD 31) := by
  simp [f32Sgn]

theorem getLsbD_f32Sgn (x y : W32) {n : Nat} (hn : n < 31) : (f32Sgn x y).getLsbD n = x.getLsbD n := by
  have hmask : (0x80000000 : W32).getLsbD n = false := by
    rw [show (0x80000000 : W32) = BitVec.twoPow 32 31 by rfl, BitVec.getLsbD_twoPow]
    simp [hn.ne']
  rw [f32Sgn, BitVec.getLsbD_xor, BitVec.getLsbD_and, hmask, Bool.and_false, Bool.xor_false]

/-! ### Division by a zero, and negative operands (R179, R182) -/

/-- A finite value that is not zero, divided by a zero, is an infinity with the sign of the quotient. -/
theorem fpDiv_zero {v : FpVal} (hnan : v.isNan = false) (hinf : v.isInf = false) (hzero : v.isZero = false) (b : Bool) (e : Int) :
    fpDiv v (.fin b 0 e) = .inf (v.neg != b) := by
  cases v with
  | nan => simp [FpVal.isNan] at hnan
  | inf a => simp [FpVal.isInf] at hinf
  | fin a m d =>
    have hm : m ≠ 0 := by simpa [FpVal.isZero] using hzero
    simp [fpDiv, hm, FpVal.neg]

/-- The functions that a negative value has no result of. -/
theorem nan_of_negative {v : FpVal} (hzero : v.isZero = false) (hneg : v.neg = true) :
    fpSqrt v = .nan ∧ fpLog2 v = .nan ∧ fpRsq v = .nan := by
  cases v with
  | nan => simp [FpVal.neg] at hneg
  | inf a => simp_all [FpVal.neg, fpSqrt, fpLog2, fpRsq]
  | fin a m d =>
    have hm : m ≠ 0 := by simpa [FpVal.isZero] using hzero
    have ha : a = true := hneg
    simp [fpSqrt, fpLog2, fpRsq, hm, ha]

section
variable {x : W32}

theorem f32Div_zero (hnan : (f32 x).isNan = false) (hinf : (f32 x).isInf = false) (hzero : (f32 x).isZero = false) :
    f32Div x 0 = (if x.getLsbD 31 then 0xFF800000 else 0x7F800000) ∧
      f32Div x 0x80000000 = (if x.getLsbD 31 then 0x7F800000 else 0xFF800000) := by
  have hplus : f32 0 = .fin false 0 (-149) := rfl
  have hminus : f32 0x80000000 = .fin true 0 (-149) := rfl
  rw [f32Div, f32Div, hplus, hminus, fpDiv_zero hnan hinf hzero, fpDiv_zero hnan hinf hzero, f32_neg hnan]
  cases x.getLsbD 31 <;> exact ⟨rfl, rfl⟩

theorem f32_negative (hnan : (f32 x).isNan = false) (hzero : (f32 x).isZero = false) (hneg : x.getLsbD 31 = true) :
    f32Sqrt x = 0x7FC00000 ∧ f32Log2 x = 0x7FC00000 ∧ f32Rsq x = 0x7FC00000 := by
  obtain ⟨hsqrt, hlog, hrsq⟩ := nan_of_negative hzero ((f32_neg hnan).trans hneg)
  rw [f32Sqrt, f32Log2, f32Rsq, hsqrt, hlog, hrsq]
  exact ⟨rfl, rfl, rfl⟩

end

/-! ### The obligation -/

/-- Settles O5: what the forms write, then what their operations give for special operands. -/
theorem floatResults : Obligations.FloatResults := by
  unfold Obligations.FloatResults
  refine ⟨?forms, ?nans, ?constants, fun x => f32Div_zero, fun x => f32_negative, ?table⟩
  case forms =>
    intro s j d a b i h ha xw x yw y z k w t
    have one : ∀ f, fpOne f d a s = w 4 (f xw) := fun _ => coreWrite_ready h (ha.of_subset (by simp))
    have value : ∀ f, fpValue f d a b s = w (opdLen b) (f xw yw) := fun _ => coreWrite_ready h ha
    have test : ∀ f, fpTest f d a b s = t (f xw yw) := fun _ => coreWrite_ready h ha
    have immediate : ∀ f : Job → Core → W32, coreWrite 4 [] d (fun j c => zx (f j c)) s = w 4 (f j (s.core j)) := fun _ =>
      coreWrite_ready h (ha.of_subset (by simp))
    exact ⟨value f32Add, value f32Sub, value f32Mul, value f32Div, coreWrite_ready h ha, one f32Sqrt, one f32Exp2, one f32Log2,
      one f32Rcp, one f32Rsq, immediate fun _ _ => fimm i, immediate fun _ c => f32Add (lo32 (c.reg d)) (fimm i),
      immediate fun _ c => f32Mul (lo32 (c.reg d)) (fimm i), value f32Min, value f32Max,
      ⟨_, value f32Sgn, getLsbD_f32Sgn_sign xw yw, fun n hn => getLsbD_f32Sgn xw yw hn⟩, test f32Lt, test f32Eq,
      (test f32Le).trans (congrArg t (f32Le_eq xw yw))⟩
  case nans =>
    intro x y z hx
    have hv : f32 x = .nan := isNan_iff.mp hx
    simp [f32Add, f32Sub, f32Mul, f32Div, f32Fma, f32Min, f32Max, f32Nan, f32Sqrt, f32Exp2, f32Log2, f32Rcp, f32Rsq, f32Lt, f32Le,
      f32Eq, hv, FpVal.isNan]
  case constants => decide
  case table => decide

end Sys2Proof.Machine
end

section
/-!
SUPPORT. The class of an FP32 word and conversions between formats (09 R232, R233; 07 R180, R181; 08 R206), and O6.
-/

namespace Sys2Proof.Machine

/-! ### FCLASS (R232) -/

/-- The bit that FCLASS sets for exponent field `e`, fraction field `f` and sign `n`. -/
def classBit (e f : Nat) (n : Bool) : Nat :=
  if e = 255 then (if f ≠ 0 then 8 else if n then 0 else 7)
  else if e = 0 then (if f = 0 then (if n then 3 else 4) else if n then 2 else 5)
  else if n then 1 else 6

theorem f32Class_eq (x : W32) :
    f32Class x = BitVec.ofNat 64 (2 ^ classBit (x.toNat / 2 ^ 23 % 256) (x.toNat % 2 ^ 23) (x.getLsbD 31)) := by
  have hbits : bits x 30 23 = x.toNat / 2 ^ 23 % 256 := rfl
  rw [f32Class, f32_eq rfl rfl, hbits]
  generalize x.toNat / 2 ^ 23 % 256 = e, x.toNat % 2 ^ 23 = f, x.getLsbD 31 = n
  by_cases htop : e = 255
  · by_cases hf : f = 0 <;> cases n <;> simp [classBit, htop, hf]
  by_cases hlow : e = 0
  · by_cases hf : f = 0 <;> cases n <;> simp [classBit, hlow, hf]
  · cases n <;> simp [classBit, htop, hlow]

/-! ### FCVT (R233) -/

section
variable {s : State} {j : Job} {d a : Reg} {m : BitVec 2} {f t : BitVec 3}

theorem fcvt_writes {v : Word} (h : Ready s j) (ha : Allowed (s.core j) [d, a]) (hlegal : fcvtLegal f t = true)
    (hv : fcvt64 m f t ((s.core j).reg a) = v) : exec (.fcvt d a m f t) s = .next (s.wrote d v 4) :=
  (if_pos hlegal).trans (coreWrite_writes h ha hv)

/-- A pair of formats with no conversion (08 R206). -/
theorem fcvt_illegal (h : Steady s j) (hlegal : fcvtLegal f t = false) :
    exec (.fcvt d a m f t) s = .next (s.take.2.faulted j .illegal (Config.unstatedEva s.fresh)) :=
  (if_neg (by simp [hlegal])).trans (coreExec_raiseFree h nofun rfl)

end

section
variable {m : BitVec 2} {f t : BitVec 3} {ff ft : FpFmt} (x : Word)

theorem fcvt64_float (hf : fmtOf f.toNat = some ff) (ht : fmtOf t.toNat = some ft) :
    fcvt64 m f t x = BitVec.ofNat 64 (fpRound ft (rmode m) (fpDecode ff (x.toNat % 2 ^ ff.width))) := by
  simp only [fcvt64, hf, ht, fpConvert]

theorem fcvt64_toInt (hf : fmtOf f.toNat = some ff) (ht : fmtOf t.toNat = none) :
    fcvt64 m f t x = intResult t.toNat (rmode m) (fpDecode ff (x.toNat % 2 ^ ff.width)) := by
  simp only [fcvt64, hf, ht]

theorem fcvt64_ofInt (hf : fmtOf f.toNat = none) (ht : fmtOf t.toNat = some ft) :
    fcvt64 m f t x = BitVec.ofNat 64 (fpRound ft (rmode m) (fpOfInt (intSource f.toNat x))) := by
  simp only [fcvt64, hf, ht]

end

/-! ### The obligation -/

/-- Settles O6: the class by the fields of the word, a conversion by the kinds of its two formats. -/
theorem classAndConvert : Obligations.ClassAndConvert := by
  unfold Obligations.ClassAndConvert
  refine ⟨?fclass, ?fcvt, fun s j d a m f t h hlegal => fcvt_illegal h hlegal⟩
  case fclass =>
    intro s j d a h ha x e f n k
    exact coreWrite_writes h ha (f32Class_eq x)
  case fcvt =>
    intro s j d a m f t h ha hlegal x r
    have converts : ∀ {v}, fcvt64 m f t x = v → exec (.fcvt d a m f t) s = r v := fcvt_writes h ha hlegal
    refine ⟨fun ff ft hf ht => converts (fcvt64_float x hf ht), ?w, ?d, ?u, ?ofW, ?ofD, ?ofU⟩
    case w | d | u =>
      rintro ff hf rfl
      exact converts (fcvt64_toInt x hf rfl)
    case ofW | ofD | ofU =>
      rintro ft ht rfl
      exact converts (fcvt64_ofInt x rfl ht)

end Sys2Proof.Machine
end

section
/-!
SUPPORT. A word of MLDB that droop leaves with Data-Error (11 R296; 15 R404), and the refutation of O37.
-/

namespace Sys2Proof.Machine

/-- A job that holds a resident B and whose matrix stream is inside a word that has been suspect eight times in a row. -/
def suspectJob : Job :=
  { loneJob .M with
    resB := some ⟨1, 0, false, false, 32, 1, []⟩
    m := { (loneJob .M).m with pos := some WordPos.first, suspect := Config.droopRetries } }

/-- That job in slot 0 of tile 0, its matrix stream to move. -/
def suspectState : State := { State.reset with jobs := [(0, suspectJob)], focus := ⟨0, 0, 0, .M⟩ }

theorem suspectState_jobAt : suspectState.jobAt suspectState.key = some suspectJob := by
  have hkey : suspectState.key = 0 := by decide
  rw [hkey]
  rfl

/-- The fields of a word without pop, push and repetitions. -/
def bareWord : EW := ⟨none, none, 0, 0, .next, 0⟩

/-- The Data-Error as the statement has it for every class of words: it moves the stream alone. -/
def suspectStop : State :=
  (suspectState.modEng (fun e => { e with suspect := 0 })).take.2.engineFault
    (some { WordPos.first with scales := WordPos.first.scales }) .dataError (Config.unstatedEva suspectState.fresh) suspectJob.m.pc

theorem suspectStop_keepsB : (suspectStop.jobAt 0).map (fun j => j.resB.isSome) = some true := by decide +kernel

/-- MLDB forgets the resident B before that fault. -/
theorem mldb_suspect_forgetsB :
    (match exec (.mldb bareWord) suspectState with
      | .next t => (t.jobAt 0).map (fun j => j.resB.isSome)
      | _ => none) = some false := by decide +kernel

/-- Refutes O37: of the words that raise Data-Error after eight suspect executions MLDB leaves no resident B, where the statement has
the fault move nothing but the stream. -/
theorem not_wordCourse : ¬ Obligations.WordCourse := by
  unfold Obligations.WordCourse
  rintro ⟨hcourse, -⟩
  obtain ⟨-, -, -, hsuspect, -⟩ := hcourse suspectState suspectJob bareWord .M (.mldb bareWord)
    suspectState_jobAt rfl (by simp)
  have hstop : exec (.mldb bareWord) suspectState = .next suspectStop :=
    hsuspect WordPos.first rfl (by decide +kernel) (by decide +kernel) rfl le_rfl
  have hforgets := mldb_suspect_forgetsB
  rw [hstop] at hforgets
  exact absurd (suspectStop_keepsB.symm.trans hforgets) (by decide)

end Sys2Proof.Machine
end

section
/-!
SUPPORT. The course of an engine word that starts with nothing in its way (11 R278 to R282; 14 R381): the state in which its effect
begins, what it comes to, and its repetitions and elements one after another.
-/

namespace Sys2Proof.Machine

/-! ### The state in which a word's effect begins -/

/-- The job after its pop. -/
def Job.popped (j : Job) : Option (BitVec 4) → Job
  | none => j
  | some q => { j with tq := vset j.tq q.toNat { vget j.tq q.toNat with count := (vget j.tq q.toNat).count - 1 } }

section
variable (j : Job) (pop : Option (BitVec 4))
@[simp] theorem popped_eng (k : Kind) : (j.popped pop).eng k = j.eng k := by cases pop <;> cases k <;> rfl
@[simp] theorem popped_m : (j.popped pop).m = j.m := by cases pop <;> rfl
@[simp] theorem popped_kern : (j.popped pop).kern = j.kern := by cases pop <;> rfl
@[simp] theorem popped_vreg : (j.popped pop).vreg = j.vreg := by cases pop <;> rfl
@[simp] theorem popped_sw : (j.popped pop).sw = j.sw := by cases pop <;> rfl
@[simp] theorem popped_sq : (j.popped pop).sq = j.sq := by cases pop <;> rfl
@[simp] theorem popped_traps : (j.popped pop).traps = j.traps := by cases pop <;> rfl
@[simp] theorem popped_send : (j.popped pop).send = j.send := by cases pop <;> rfl
@[simp] theorem popped_tenant : (j.popped pop).tenant = j.tenant := by cases pop <;> rfl
end

section
variable (s : State) (j : Job) (h : Hold) (pop : Option (BitVec 4))
@[simp] theorem begun_mem : (s.begun j h pop).mem = s.mem := by
  cases pop with
  | none => rfl
  | some q => exact modCur_mem _ _
@[simp] theorem begun_focus : (s.begun j h pop).focus = s.focus := by
  cases pop with
  | none => rfl
  | some q => exact modCur_focus _ _
@[simp] theorem begun_errs : (s.begun j h pop).errs = s.errs := by
  cases pop with
  | none => rfl
  | some q => exact modCur_errs _ _
@[simp] theorem begun_pkgs : (s.begun j h pop).pkgs = s.pkgs := by
  cases pop with
  | none => rfl
  | some q => exact modCur_pkgs _ _
@[simp] theorem begun_wall : (s.begun j h pop).wall = s.wall := by
  cases pop with
  | none => rfl
  | some q => exact modCur_wall _ _
@[simp] theorem begun_tenants : (s.begun j h pop).tenants = s.tenants := by
  cases pop with
  | none => rfl
  | some q => exact modCur_tenants _ _
@[simp] theorem begun_circuits : (s.begun j h pop).circuits = s.circuits := by
  cases pop with
  | none => rfl
  | some q => exact modCur_circuits _ _
end

/-! ### Parts of the state that name the stream and its word -/

section
variable {s t : State}

theorem key_focus (h : t.focus = s.focus) : t.key = s.key := by rw [State.key, State.key, h]
theorem fpkg_focus (h : t.focus = s.focus) : t.fpkg = s.fpkg := by rw [State.fpkg, State.fpkg, h]
theorem ftile_focus (h : t.focus = s.focus) : t.ftile = s.ftile := by rw [State.ftile, State.ftile, h]

theorem desc_congr (hf : t.focus = s.focus) (hm : t.mem = s.mem) (i : Nat) : t.desc i = s.desc i := by
  simp only [State.desc, State.fpkg, State.ftile, hf, hm]

theorem engAsked_of_jobAt {j : Job} (h : s.jobAt s.key = some j) : s.engAsked = (j.eng s.focus.kind).asked := by
  simp [State.engAsked, h]

theorem window_of_jobAt {j : Job} (h : s.jobAt s.key = some j) : s.window = (j.kern.accbase, j.kern.acccount) := by
  simp [State.window, h]

end

section
variable {s : State} {j : Job} {own : Option Kind} {hold : Hold} {pop push : Option (BitVec 4)} {chain : Chain}

theorem begun_jobAt (hj : s.jobAt s.key = some j) (h : Hold) : (s.begun j h pop).jobAt s.key = some (j.popped pop) := by
  cases pop with
  | none => exact hj
  | some q =>
    have hcur : (s.popToken (some q)).jobAt s.key = some (j.popped (some q)) := by
      rw [State.popToken, State.modTq, modCur_some hj, setJob_jobAt_same]
      rfl
    exact hcur

namespace EngineReady

theorem jobAt (h : EngineReady s j own hold pop) : s.jobAt s.key = some j := h.1

theorem kind {k : Kind} (h : EngineReady s j (some k) hold pop) : s.focus.kind = k := h.2.2.1 k rfl

theorem outside (h : EngineReady s j own hold pop) : (j.eng s.focus.kind).pos = none := h.2.2.2.1

theorem unasked (h : EngineReady s j own hold pop) : (j.eng s.focus.kind).asked = none := h.2.2.2.2.1

variable (h : EngineReady s j own hold pop)
include h

theorem begun_jobAt_key : (s.begun j hold pop).jobAt (s.begun j hold pop).key = some (j.popped pop) := by
  rw [key_focus (begun_focus ..)]
  exact begun_jobAt h.jobAt hold

theorem begun_engAsked : (s.begun j hold pop).engAsked = none := by
  rw [engAsked_of_jobAt h.begun_jobAt_key, popped_eng, begun_focus]
  exact h.unasked

theorem begun_window : (s.begun j hold pop).window = s.window := by
  rw [window_of_jobAt h.begun_jobAt_key, window_of_jobAt h.jobAt, popped_kern]

theorem desc1_self (w : EW) : s.desc1 w = s.desc w.desc.toNat := by
  simp [State.desc1, State.heldDesc, h.jobAt, h.outside]

theorem desc1_begun (w : EW) : (s.begun j hold pop).desc1 w = s.desc w.desc.toNat := by
  simp [State.desc1, State.heldDesc, h.begun_jobAt_key, h.outside, desc_congr (begun_focus s j hold pop) (begun_mem ..)]

theorem desc2_self {w : EW} (hw : w.desc.toNat ≠ 1023) : s.desc2 w = some (s.desc (w.desc.toNat + 1)) := by
  simp [State.desc2, State.heldDesc, h.jobAt, h.outside, hw]

theorem desc2_begun {w : EW} (hw : w.desc.toNat ≠ 1023) :
    (s.begun j hold pop).desc2 w = some (s.desc (w.desc.toNat + 1)) := by
  simp [State.desc2, State.heldDesc, h.begun_jobAt_key, h.outside, desc_congr (begun_focus s j hold pop) (begun_mem ..), hw]

theorem not_droopDue : s.droopDue = false := by
  simp [State.droopDue, h.jobAt, h.outside]

end EngineReady

/-! ### What a word comes to that starts with nothing in its way -/

/-- The position in which a word starts, its word and descriptors fetched. -/
def WordPos.fetchedAs (x : BitVec 48 × List Word) : WordPos := { WordPos.first with fetched := some x }

/-- `t` holds what the plan of word `w` is made of as `s` does: its descriptors and the packages. -/
structure Fetches (s : State) (w : EW) (t : State) : Prop where
  desc1 : t.desc1 w = s.desc w.desc.toNat
  desc2 : w.desc.toNat ≠ 1023 → t.desc2 w = some (s.desc (w.desc.toNat + 1))
  pkgs : t.pkgs = s.pkgs
  focus : t.focus = s.focus

theorem EngineReady.fetches_self (h : EngineReady s j own hold pop) (w : EW) : Fetches s w s :=
  ⟨h.desc1_self w, h.desc2_self, rfl, rfl⟩

theorem EngineReady.fetches_begun (h : EngineReady s j own hold pop) (w : EW) : Fetches s w (s.begun j hold pop) :=
  ⟨h.desc1_begun w, h.desc2_begun, begun_pkgs .., begun_focus ..⟩

/-- A word whose plan stands, whose channels are bound and whose inputs are there makes its run and is complete. -/
theorem engineExec_reaches {d : BitVec 10} {plan : Job → State → Option Plan} {p : Plan} {v : State} {nxt : Option Nat}
    (h : EngineReady s j own hold pop) (hplan : plan j s = some p) (hbegun : plan j (s.begun j hold pop) = some p)
    (hbound : p.bound j s.focus.kind = true) (hready : p.ready j = true)
    (hrun : ∀ x, ∃ t, p.run (.fetchedAs x) (s.begun j hold pop) = .done t nxt ∧ t.completeWord push chain nxt = v) :
    engineExec own hold pop push chain d plan s = .next v := by
  obtain ⟨hjob, hcore, hown, hpos, hasked, htaken, hbank, hdroop, hpop, hfree⟩ := id h
  have hbegins : s.beginWord j.jid hold pop = s.begun j hold pop := rfl
  have hanyOwn : own.any (fun k => k != s.focus.kind) = false := by
    cases own with
    | none => rfl
    | some k => simp [hown k rfl]
  have hstill : (s.begun j hold pop).drooping = false := by
    rw [← hdroop, State.drooping, State.drooping, pkgAt_pkgs (begun_pkgs ..), begun_focus, fpkg_focus (begun_focus ..)]
  have hbound' : p.bound (j.popped pop) s.focus.kind = true := by rwa [Plan.bound, popped_sw]
  have hsettled : (s.begun j hold pop).settleAsked (s.begun j hold pop).party = (s.begun j hold pop, .ok ()) := by
    rw [State.settleAsked, h.begun_engAsked]
  have hstarts : s.startWord j hold pop push chain d plan = v := by
    unfold State.startWord
    simp only [hfree, hplan, hbound, hready, hbegins, hstill, hbegun, Bool.not_true, Bool.false_or, Bool.false_eq_true, if_false]
    unfold State.goOn
    simp only [hsettled, h.begun_jobAt_key, begun_focus, hbound', Bool.not_true, Bool.false_eq_true, if_false]
    obtain ⟨t, hgoes, rfl⟩ := hrun ((s.begun j hold pop).emem (s.begun j hold pop).fpkg (s.begun j hold pop).ftile (s.begun j hold pop).epc,
      (s.begun j hold pop).desc d.toNat ++ (s.begun j hold pop).desc (d.toNat + 1))
    simp only [State.holdWord, WordPos.first, WordPos.fetchedAs, Option.isSome_none, Bool.false_eq_true, if_false] at hgoes ⊢
    rw [hgoes]
  unfold engineExec
  simp only [hjob, hcore, hanyOwn, htaken, hbank, h.not_droopDue, hpos, hpop, hstarts, Bool.not_true, Bool.or_self, Bool.false_eq_true,
    if_false]

theorem engineExec_starts {d : BitVec 10} {plan : Job → State → Option Plan} {p : Plan} {t : State} {nxt : Option Nat}
    (h : EngineReady s j own hold pop) (hplan : plan j s = some p) (hbegun : plan j (s.begun j hold pop) = some p)
    (hbound : p.bound j s.focus.kind = true) (hready : p.ready j = true)
    (hrun : ∀ x, p.run (.fetchedAs x) (s.begun j hold pop) = .done t nxt) :
    engineExec own hold pop push chain d plan s = .next (t.completeWord push chain nxt) :=
  engineExec_reaches h hplan hbegun hbound hready fun x => ⟨t, hrun x, rfl⟩

/-- The same of a word whose plan is made of its descriptors. -/
theorem engineExec_ends {w : EW} {plan : Job → State → Option Plan} {p : Plan} {v : State} {nxt : Option Nat}
    (h : EngineReady s j own hold w.pop) (hplan : ∀ t, Fetches s w t → plan j t = some p) (hbound : p.bound j s.focus.kind = true)
    (hready : p.ready j = true)
    (hrun : ∀ x, ∃ t, p.run (.fetchedAs x) (s.begun j hold w.pop) = .done t nxt ∧ t.completeWord w.push w.chain nxt = v) :
    engineExec own hold w.pop w.push w.chain w.desc plan s = .next v :=
  engineExec_reaches h (hplan s (h.fetches_self w)) (hplan _ (h.fetches_begun w)) hbound hready hrun

theorem engineExec_runs {w : EW} {plan : Job → State → Option Plan} {p : Plan} {t : State} {nxt : Option Nat}
    (h : EngineReady s j own hold w.pop) (hplan : ∀ t, Fetches s w t → plan j t = some p) (hbound : p.bound j s.focus.kind = true)
    (hready : p.ready j = true) (hrun : ∀ x, p.run (.fetchedAs x) (s.begun j hold w.pop) = .done t nxt) :
    engineExec own hold w.pop w.push w.chain w.desc plan s = .next (t.completeWord w.push w.chain nxt) :=
  engineExec_starts h (hplan s (h.fetches_self w)) (hplan _ (h.fetches_begun w)) hbound hready hrun

end

theorem plan_bound_none {p : Plan} (h : p.uses = []) (j : Job) (k : Kind) : p.bound j k = true := by simp [Plan.bound, h]

theorem plan_ready_none {p : Plan} (h : p.uses = []) {j : Job} (hs : p.scale ≤ (scaleFront j.sq).length) : p.ready j = true := by
  simp [Plan.ready, h, hs]

end Sys2Proof.Machine
end

section
/-!
SUPPORT. Words element by element (11 R278, R285; 15 R394): a run in which every element completes is a fold over the elements, and
what an element of a local pattern reads and writes.
-/

namespace Sys2Proof.Machine

/-! ### Parts of a run, one after another -/

@[simp] theorem got_bind_ok {α β : Type} (r : Run) (v : α) (f : Run → α → Got β) : (Got.ok r v).bind f = f r v := rfl

@[simp] theorem got_bind_unit (x : Got Unit) : x.bind (fun r _ => .ok r ()) = x := by cases x <;> rfl

/-! ### Repetitions and elements one after another -/

/-- What a position holds beside the counts and runs that the loop over the elements keeps. -/
def WordPos.content (w : WordPos) : WordPos :=
  { w with rep := 0, elem := 0, left := 0, made := 0, a := Touch.start, b := Touch.start }

/-- `At rep k r x`: the run `r` stands before element `k` of repetition `rep` with `x` made of the elements before it. It says nothing of what
the loop itself keeps, no answer is awaited, and no element has been done ahead. -/
structure LoopState {α : Type} (At : Nat → Nat → Run → α → Prop) : Prop where
  content : ∀ {rep k r x w}, At rep k r x → w.content = r.w.content → At rep k ⟨r.s, w⟩ x
  answered : ∀ {rep k r x}, At rep k r x → r.unanswered = false
  undone : ∀ {rep k r x}, At rep k r x → r.w.done = 0

section
variable {α : Type} {At : Nat → Nat → Run → α → Prop} (hat : LoopState At) {g : Nat → Nat → α → α}
include hat

theorem elemsFrom_folds {f : Nat → Run → Got Unit} {free : Nat → Nat → State → Bool} {rep n : Nat}
    (hstep : ∀ k r x, k < n → At rep k r x → ∃ r', f k r = .ok r' () ∧ At rep (k + 1) r' (g rep k x)) :
    ∀ m k r x, k + m = n → At rep k r x →
      ∃ r', elemsFrom f free rep m k false r = .ok r' () ∧ At rep n r' ((List.range' k m).foldl (fun x k => g rep k x) x) := by
  intro m
  induction m with
  | zero =>
    intro k r x hk hr
    obtain rfl : k = n := hk
    unfold elemsFrom
    rw [hat.answered hr]
    exact ⟨_, rfl, hat.content hr rfl⟩
  | succ m ih =>
    intro k r x hk hr
    obtain ⟨r', hf, hr'⟩ := hstep k _ x (by omega) (hat.content (w := { r.w with rep := rep, elem := k, made := 0 }) hr rfl)
    have hafter : At rep (k + 1) (r'.after k) (g rep k x) := by
      have hshift : r'.w.done >>> 1 = r'.w.done := by rw [hat.undone hr']; rfl
      refine hat.content (w := (r'.after k).w) hr' ?_
      simp only [WordPos.content, Run.after, hshift]
    obtain ⟨r'', hrest, hr''⟩ := ih (k + 1) _ _ (by omega) hafter
    refine ⟨r'', ?_, by rwa [List.range'_succ, List.foldl_cons]⟩
    unfold elemsFrom
    have hunanswered : (Run.mk r.s { r.w with rep := rep, elem := k, made := 0 }).unanswered = false :=
      hat.answered (hat.content hr rfl)
    simp only [hunanswered, hf, Bool.false_eq_true, if_false, hat.undone hr']
    exact hrest

theorem atElem_at {rep k : Nat} {r : Run} {x : α} (h : At rep k r x) (e : Nat) : At rep k (r.atElem e) x := by
  unfold Run.atElem
  split
  · exact hat.content h rfl
  · exact h

theorem repsFrom_folds {f : Nat → Nat → Run → Got Unit} {free : Nat → Nat → Nat → State → Bool} {n reps : Nat}
    (hstep : ∀ rep k r x, rep < reps → k < n → At rep k r x → ∃ r', f rep k r = .ok r' () ∧ At rep (k + 1) r' (g rep k x))
    (hnext : ∀ rep r x, At rep n r x → At (rep + 1) 0 r x) :
    ∀ m rep r x, rep + m = reps → At rep 0 r x → ∃ r', repsFrom f free n m rep 0 r = .ok r' () ∧
      At reps 0 r' ((List.range' rep m).foldl (fun x r => (List.range n).foldl (fun x k => g r k x) x) x) := by
  intro m
  induction m with
  | zero =>
    intro rep r x hrep hr
    obtain rfl : rep = reps := hrep
    exact ⟨r, rfl, hr⟩
  | succ m ih =>
    intro rep r x hrep hr
    obtain ⟨r', helems, hr'⟩ := elemsFrom_folds hat (free := free rep) (fun k r x => hstep rep k r x (by omega)) n 0 _ x (Nat.zero_add n)
      (atElem_at hat hr 0)
    rw [← List.range_eq_range'] at hr'
    obtain ⟨r'', hrest, hr''⟩ := ih (rep + 1) r' _ (by omega) (hnext _ _ _ hr')
    refine ⟨r'', ?_, by rwa [List.range'_succ, List.foldl_cons]⟩
    rw [repsFrom, Nat.sub_zero, helems]
    exact hrest

/-- A word whose elements all complete ends as its last part does behind them. -/
theorem loopAhead_folds {f : Nat → Nat → Run → Got Unit} {last : Run → Got Unit} {free : Nat → Nat → Nat → State → Bool} {n reps : Nat}
    (hstep : ∀ rep k r x, rep < reps → k < n → At rep k r x → ∃ r', f rep k r = .ok r' () ∧ At rep (k + 1) r' (g rep k x))
    (hnext : ∀ rep r x, At rep n r x → At (rep + 1) 0 r x) {s : State} {w : WordPos} {x : α} (hrep : w.rep = 0) (helem : w.elem = 0)
    (hstart : At 0 0 ⟨s, w⟩ x) {P : State → Prop}
    (hlast : ∀ r, At reps 0 r (foldWord reps n g x) → ∃ r', last r = .ok r' () ∧ P r'.s) :
    ∃ t, loopAhead free reps n f last w s = .done t none ∧ P t := by
  obtain ⟨r, hreps, hr⟩ := repsFrom_folds hat (f := f) (free := free) hstep hnext reps 0 ⟨s, w⟩ x (Nat.zero_add reps) hstart
  rw [← List.range_eq_range'] at hr
  obtain ⟨r', hend, hP⟩ := hlast r hr
  refine ⟨r'.s, ?_, hP⟩
  simp only [loopAhead, hrep, helem, Nat.sub_zero, hreps, Got.bind, hend]

end

/-- A word whose elements move the state alone, which is `enc x` for the `x` that the elements before have made. -/
theorem loopAhead_clean {α : Type} {enc : α → State} {g : Nat → Nat → α → α} {f : Nat → Nat → Run → Got Unit} {last : Run → Got Unit}
    {free : Nat → Nat → Nat → State → Bool} {n reps : Nat} {w : WordPos} {t : State} {x : α} (hrep : w.rep = 0) (helem : w.elem = 0)
    (hdone : w.done = 0) (hasked : ∀ x, (enc x).engAsked = none)
    (hstep : ∀ rep k x v, rep < reps → k < n → v.content = w.content → f rep k ⟨enc x, v⟩ = .ok ⟨enc (g rep k x), v⟩ ())
    (hlast : ∀ v, v.content = w.content → ∃ v', last ⟨enc (foldWord reps n g x), v⟩ = .ok ⟨t, v'⟩ ()) :
    loopAhead free reps n f last w (enc x) = .done t none := by
  have hat : LoopState (fun (_ _ : Nat) (r : Run) x => r.s = enc x ∧ r.w.content = w.content) :=
    { content := fun h hw => ⟨h.1, hw.trans h.2⟩
      answered := fun h => by rw [Run.unanswered, h.1, hasked]; rfl
      undone := fun h => (congrArg WordPos.done h.2).trans hdone }
  obtain ⟨t', hloop, rfl⟩ := loopAhead_folds hat (f := f) (last := last) (free := free) (n := n) (reps := reps) (g := g) (P := (· = t))
    (fun rep k r x hr hk h => by
      obtain ⟨s, v⟩ := r
      obtain ⟨rfl, hv⟩ := h
      exact ⟨_, hstep rep k x v hr hk hv, rfl, hv⟩)
    (fun _ _ _ h => h) hrep helem ⟨rfl, rfl⟩
    (fun r h => by
      obtain ⟨s, v⟩ := r
      obtain ⟨rfl, hv⟩ := h
      obtain ⟨v', hend⟩ := hlast v hv
      exact ⟨_, hend, rfl⟩)
  exact hloop

/-- Elements without effect at the end of each repetition leave the fold. -/
theorem foldWord_succ_of_idle {α : Type} {reps n : Nat} {g : Nat → Nat → α → α} (h : ∀ rep x, g rep n x = x) (x : α) :
    foldWord reps (n + 1) g x = foldWord reps n g x := by
  simp only [foldWord, List.range_succ, List.foldl_append, List.foldl_cons, List.foldl_nil, h]

/-- Folds of functions that agree on the elements of the word are equal. -/
theorem foldWord_congr {α : Type} {reps n : Nat} {f g : Nat → Nat → α → α} (h : ∀ rep k x, rep < reps → k < n → f rep k x = g rep k x) (x : α) :
    foldWord reps n f x = foldWord reps n g x := by
  unfold foldWord
  refine List.foldl_ext _ _ _ fun x rep hrep => List.foldl_ext _ _ _ fun x k hk => ?_
  exact h rep k x (List.mem_range.mp hrep) (List.mem_range.mp hk)

/-- A fold maps along a function that commutes with its steps. -/
theorem foldWord_map {α β : Type} {reps n : Nat} {f : Nat → Nat → α → α} {g : Nat → Nat → β → β} {e : α → β}
    (h : ∀ rep k x, e (f rep k x) = g rep k (e x)) (x : α) : e (foldWord reps n f x) = foldWord reps n g (e x) := by
  unfold foldWord
  refine (List.foldl_hom e fun x rep => ?_).symm
  exact (List.foldl_hom e fun x k => (h rep k x).symm)

/-! ### Elements of local patterns (01 R16, R19; 11 R284 to R288) -/

/-- A descriptor read as a pattern in a space that the operation accepts. -/
theorem parsePat_of_mem {d : List Word} {l l' : List Nat} {p : Pat} (h : parsePat d l = some p) (hs : p.space ∈ l') :
    parsePat d l' = some p := by
  unfold parsePat at h ⊢
  dsimp only at h ⊢
  split_ifs at h with h1 h2
  obtain rfl := Option.some.inj h
  have hspaces : l'.contains (bits (dw d 0) 63 61) = true := List.contains_iff_mem.mpr hs
  rw [if_neg, if_neg h2]
  simp only [not_or, hspaces, Bool.not_true, Bool.false_eq_true, not_false_eq_true, true_and] at h1 ⊢
  exact h1.2

theorem parsePat_space {d : List Word} {l : List Nat} {p : Pat} (h : parsePat d l = some p) : p.space ∈ l := by
  unfold parsePat at h
  extract_lets d0 d1 code q at h
  split_ifs at h with h1 h2
  obtain rfl : q = p := Option.some.inj h
  simp only [not_or, Bool.not_eq_true'] at h1
  simpa using h1.1

/-- Accumulator elements are words (R284). -/
theorem parsePat_acc {d : List Word} {l : List Nat} {p : Pat} (h : parsePat d l = some p) (hs : p.space = 2) : p.esize = 4 := by
  unfold parsePat at h
  extract_lets d0 d1 code q at h
  split_ifs at h with h1 h2
  obtain rfl : q = p := Option.some.inj h
  by_contra hne
  exact h2 ⟨hs, .inl hne⟩

theorem localPlace_congr {s t : State} (hf : t.focus = s.focus) (he : t.errs = s.errs) (hw : t.window = s.window) (p : Pat) (ad : Word) :
    t.localPlace p ad = s.localPlace p ad := by
  simp only [State.localPlace, State.accAddr, State.padFlawed, State.padFlawedAt, fpkg_focus hf, ftile_focus hf, hw, flawed_errs he]

section
variable {p : Pat} {u : Use} {rep k : Nat} {r : Run} {a : Nat}

/-- An element of a local pattern lies at its place. -/
theorem place_local (hacc : p.space = 2 → p.esize = 4) (h : r.s.localPlace p (p.addr u.step rep k) = some a) :
    p.place u rep k r = .ok r [(a, p.bytes)] ∧ p.space ≠ 0 ∧ p.space ≠ 3 := by
  unfold State.localPlace at h
  extract_lets at_ size bad at h
  split_ifs at h with hin
  obtain ⟨hspace, hsize, hbad⟩ := hin
  obtain rfl : at_ = a := Option.some.inj h
  unfold Pat.place Pat.placeAt
  rcases hspace with hs | hs
  · have hflaw : r.s.padFlawed (p.addr u.step rep k).toNat p.bytes (!u.src) = false := by
      have hwrite : r.s.padFlawed (p.addr u.step rep k).toNat p.bytes true = false := by simpa [bad, hs] using hbad
      cases u.src
      · exact hwrite
      · exact padFlawed_sub hwrite
    have hroom : ¬ padSize < (p.addr u.step rep k).toNat + p.bytes := by simpa [size, hs] using hsize
    simp [hs, hroom, hflaw, at_]
  · have hbytes : p.bytes = 4 := by rw [Pat.bytes, hacc hs]; rfl
    have hroom : ¬ r.s.window.2 * 8192 < (p.addr u.step rep k).toNat + 4 := by simpa [size, hs, hbytes] using hsize
    have hsound : r.s.flawedAt [(r.s.accAddr (p.addr u.step rep k).toNat, 4)] = false := by
      simpa [bad, hs, hbytes, State.flawedAt, at_] using hbad
    simp [hs, hroom, Run.sound_ok hsound, hbytes, at_]

theorem bytesAt_one (s : State) (a n : Nat) : s.bytesAt [(a, n)] = readBytes s.mem a n := List.append_nil _

theorem putBytes_one (m : Memory) (a n v : Nat) : putBytes m [(a, n)] (leBytes n v) = writeLe m a n v := by
  rw [putBytes, putBytes, List.take_of_length_le (leBytes_length n v).le, writeLe]

variable (hacc : p.space = 2 → p.esize = 4) (h : (r.s.localPlace p (p.addr u.step rep k)).isSome = true)
include hacc h

theorem read_local : p.read u rep k r = .ok r (p.value r.s u.step rep k r.s.mem) := by
  obtain ⟨a, ha⟩ := Option.isSome_iff_exists.mp h
  obtain ⟨hplace, -, -⟩ := place_local hacc ha
  rw [Pat.read, hplace, Pat.value, ha]
  simp only [Got.bind, bytesAt_one, ← readLe.eq_1]

theorem write_local (f : Nat → Nat) : p.write u f rep k r =
    .ok ⟨{ r.s with mem := p.store r.s u.step rep k (f (p.value r.s u.step rep k r.s.mem)) r.s.mem }, r.w⟩ () := by
  obtain ⟨a, ha⟩ := Option.isSome_iff_exists.mp h
  obtain ⟨hplace, hglobal, -⟩ := place_local hacc ha
  rw [Pat.write, hplace, Pat.store, Pat.value, ha]
  simp only [Got.bind, bytesAt_one, putBytes_one, ← readLe.eq_1, if_neg hglobal]
  split_ifs <;> rfl

end

end Sys2Proof.Machine
end

section
/-!
SUPPORT. Words between local patterns and memory (11 R284 to R288, R313): an element of either side where storage lies in the tile, and
a word whose elements move memory alone.
-/

namespace Sys2Proof.Machine

/-! ### A state with the local places of another -/

/-- Local patterns have the same places in `t` as in `s`. -/
def SamePlaces (s t : State) : Prop := t.focus = s.focus ∧ t.errs = s.errs ∧ t.window = s.window

/-- A pattern in the scratchpad or the accumulator window, whose elements in bound lie inside it. -/
structure LocalPat (s : State) (p : Pat) (step : BitVec 12) (reps : Nat) : Prop where
  space : p.space = 1 ∨ p.space = 2
  acc : p.space = 2 → p.esize = 4
  places : LocalPattern s p step reps

section
variable {s : State} {p pd : Pat} {step : BitVec 12} {reps : Nat}

theorem LocalPat.of_parse {d : List Word} {l : List Nat} (hp : parsePat d l = some p) (hs : p.space = 1 ∨ p.space = 2)
    (h : LocalPattern s p step reps) : LocalPat s p step reps := ⟨hs, parsePat_acc hp, h⟩

theorem LocalPat.no_chan (h : LocalPat s p step reps) : p.space ≠ 3 := by
  rcases h.space with hs | hs <;> simp [hs]

theorem LocalPat.chan (h : LocalPat s p step reps) (reads : Bool) : p.chan reads = [] := if_neg h.no_chan

theorem EngineReady.samePlaces {j : Job} {own : Option Kind} {hold : Hold} {pop : Option (BitVec 4)} (h : EngineReady s j own hold pop) :
    SamePlaces s (s.begun j hold pop) := ⟨begun_focus .., begun_errs .., h.begun_window⟩

variable {u : Use} {r : Run} {rep k g : Nat} {wanted : Bool} (hp : LocalPat s p step reps) (hu : u.step = step) (hs : SamePlaces s r.s)
include hp

theorem fetch_local : p.fetch r = .ok r () := if_neg hp.no_chan
theorem room_local : p.room g r = .ok r () := if_neg fun h => hp.no_chan h.1
theorem used_local : p.used g r = r := if_neg fun h => hp.no_chan h.1

include hu hs

theorem read_place (hl : (s.localPlace p (p.addr step rep k)).isSome = true) :
    p.read u rep k r = .ok r (p.value s step rep k r.s.mem) := by
  subst hu
  have hplace := localPlace_congr hs.1 hs.2.1 hs.2.2 p (p.addr u.step rep k)
  have hvalue : p.value r.s u.step rep k r.s.mem = p.value s u.step rep k r.s.mem := by rw [Pat.value, Pat.value, hplace]
  rw [read_local hp.acc (by rwa [hplace]), hvalue]

theorem write_place (hl : (s.localPlace p (p.addr step rep k)).isSome = true) (f : Nat → Nat) : p.write u f rep k r =
    .ok ⟨{ r.s with mem := p.store s step rep k (f (p.value s step rep k r.s.mem)) r.s.mem }, r.w⟩ () := by
  subst hu
  have hplace := localPlace_congr hs.1 hs.2.1 hs.2.2 p (p.addr u.step rep k)
  have hvalue : p.value r.s u.step rep k r.s.mem = p.value s u.step rep k r.s.mem := by rw [Pat.value, Pat.value, hplace]
  have hstore : ∀ v, p.store r.s u.step rep k v r.s.mem = p.store s u.step rep k v r.s.mem := fun v => by
    rw [Pat.store, Pat.store, hplace]
  rw [write_local hp.acc (by rwa [hplace]), hvalue, hstore]

theorem get_local (hl : wanted = true → (s.localPlace p (p.addr step rep k)).isSome = true) :
    p.get u wanted rep k g r = .ok r (if wanted then p.value s step rep k r.s.mem else 0) := by
  rw [Pat.get, if_neg hp.no_chan]
  cases wanted with
  | true => exact read_place hp hu hs (hl rfl)
  | false => rfl

theorem put_local (hl : wanted = true → (s.localPlace p (p.addr step rep k)).isSome = true) (f : Nat → Nat) :
    p.put u wanted f rep k g r =
      .ok ⟨{ r.s with mem := if wanted then p.store s step rep k (f (p.value s step rep k r.s.mem)) r.s.mem else r.s.mem }, r.w⟩ () := by
  rw [Pat.put, if_neg hp.no_chan]
  cases wanted with
  | true => exact write_place hp hu hs (hl rfl) f
  | false => rfl

/-- One element moved between local patterns. -/
theorem moveElem_local {ud : Use} {ks kd : Nat} (hd : LocalPat s pd step reps) (hud : ud.step = step) (hrep : rep < reps)
    (hks : wanted = true → ks < p.n ∧ p.inB ks = true) (hkd : kd < pd.n) (f : Nat → Nat → Nat) :
    moveElem p pd u ud f wanted rep ks kd g r = .ok ⟨{ r.s with mem := (if pd.inB kd then
        pd.store s step rep kd (f (if wanted then p.value s step rep ks r.s.mem else 0) (pd.value s step rep kd r.s.mem)) r.s.mem
      else r.s.mem) }, r.w⟩ () := by
  rw [moveElem, fetch_local hp, Got.bind, room_local hd, Got.bind,
    get_local hp hu hs (fun hw => hp.places rep ks hrep (hks hw).1 (hks hw).2), Got.bind,
    put_local hd hud hs (fun hb => hd.places rep kd hrep hkd hb), Got.bind, used_local hp]

end

/-! ### Words that move memory alone -/

/-- A word that has moved memory alone, to `m`, is complete. -/
def State.memoryWord (s : State) (j : Job) (hold : Hold) (w : EW) (m : Memory) : Host.Outcome State Fault Refusal :=
  .next (({ s.begun j hold w.pop with mem := m } : State).completeWord w.push w.chain none)

theorem engineExec_memory {s : State} {j : Job} {own : Option Kind} {hold : Hold} {w : EW} {plan : Job → State → Option Plan}
    {uses : List (Nat × Bool)} {free : Nat → Nat → Nat → State → Bool} {n : Nat} {last : Run → Got Unit} (f : Nat → Nat → Run → Got Unit)
    {g : Nat → Nat → Memory → Memory} (h : EngineReady s j own hold w.pop)
    (hplan : ∀ t, Fetches s w t → plan j t = some ⟨uses, 0, loopAhead free (ewReps w) n f last⟩) (huses : uses = [])
    (hstep : ∀ rep k m v, rep < ewReps w → k < n → SamePlaces s { s.begun j hold w.pop with mem := m } →
      f rep k ⟨{ s.begun j hold w.pop with mem := m }, v⟩ = .ok ⟨{ s.begun j hold w.pop with mem := g rep k m }, v⟩ ())
    (hlast : ∀ r, last r = .ok r ()) :
    engineExec own hold w.pop w.push w.chain w.desc plan s =
      s.memoryWord j hold w (foldWord (w.rep.toNat + 1) n g s.mem) := by
  subst huses
  refine engineExec_runs h hplan (plan_bound_none rfl ..) (plan_ready_none rfl (Nat.zero_le _)) fun x => ?_
  have hself : ({ s.begun j hold w.pop with mem := s.mem } : State) = s.begun j hold w.pop :=
    congrArg (fun m => ({ s.begun j hold w.pop with mem := m } : State)) (begun_mem s j hold w.pop).symm
  have hloop := loopAhead_clean (enc := fun m => ({ s.begun j hold w.pop with mem := m } : State)) (g := g) (free := free)
    (reps := ewReps w) (w := .fetchedAs x) (x := s.mem) (last := last) rfl rfl rfl (fun _ => h.begun_engAsked)
    (fun rep k m v hr hk _ => hstep rep k m v hr hk h.samePlaces) (fun v _ => ⟨v, hlast _⟩)
  rw [hself] at hloop
  exact hloop

end Sys2Proof.Machine
end

section
/-!
SUPPORT. The common words and the switch words (11 R290 to R292, R295), and O38.
-/

namespace Sys2Proof.Machine

section
variable {s : State} {j : Job} {pop push : Option (BitVec 4)} {chain : Chain} (h : EngineReady s j none .none pop)
include h

/-- A word without inputs that completes with state `t` and next PC `nxt`. -/
theorem engineExec_plain {run : WordPos → State → WRes} {t : State} {nxt : Option Nat}
    (hrun : ∀ w, run w (s.begun j .none pop) = .done t nxt) (plan : Job → State → Option Plan)
    (hplan : ∀ u, plan j u = some (Plan.of run)) :
    engineExec none .none pop push chain 0 plan s = .next (t.completeWord push chain nxt) :=
  engineExec_starts h (hplan _) (hplan _) (plan_bound_none rfl ..) (plan_ready_none rfl (Nat.zero_le _)) fun _ => hrun _

theorem plainWord_runs (f : Job → Engine → State → State × Option Nat) : plainWord pop push chain f s =
    .next ((f j (j.eng s.focus.kind) (s.begun j .none pop)).1.completeWord push chain
      (f j (j.eng s.focus.kind) (s.begun j .none pop)).2) :=
  engineExec_plain h (run := fun _ u => .done (f j (j.eng u.focus.kind) u).1 (f j (j.eng u.focus.kind) u).2)
    (fun _ => by rw [begun_focus]) _ fun _ => rfl

/-- A channel that is not bound takes two different engine streams. -/
theorem swlink_binds {c p q : BitVec 3} {kp kq : Kind} (hp : kindOf p.toNat = some kp) (hq : kindOf q.toNat = some kq)
    (hcp : kp.isCore = false) (hcq : kq.isCore = false) (hne : kp ≠ kq) (hfree : (vget j.sw c.toNat).bind = none) (w : CW)
    (hpop : w.pop = pop) : execSwlink w c p q s =
      .next (((s.begun j .none pop).modSw c.toNat (fun x => { x with bind := some (kp, kq) })).completeWord w.push w.chain none) := by
  subst hpop
  refine engineExec_plain h (fun w => ?_) _ fun _ => rfl
  simp [hp, hq, hcp, hcq, hfree, hne]

/-- An empty channel of the stream is unbound. -/
theorem swcut_unbinds {c : BitVec 3} {y : Kind × Kind} (hbind : (vget j.sw c.toNat).bind = some y)
    (hmine : y.1 = s.focus.kind ∨ y.2 = s.focus.kind) (hempty : (vget j.sw c.toNat).q = []) (w : CW) (hpop : w.pop = pop) :
    execSwcut w c s =
      .next (((s.begun j .none pop).modSw c.toNat (fun x => { x with bind := none })).completeWord w.push w.chain none) := by
  subst hpop
  refine engineExec_plain h (fun w => ?_) _ fun _ => rfl
  have hbound : ((vget j.sw c.toNat).boundAs s.focus.kind true || (vget j.sw c.toNat).boundAs s.focus.kind false) = true := by
    rcases hmine with hk | hk <;> simp [Channel.boundAs, hbind, hk]
  simp [hbound, hempty]

end

/-- Settles O38: each word is complete in the turn in which it starts, with its own effect and next PC. -/
theorem commonWords : Obligations.CommonWords := by
  unfold Obligations.CommonWords
  intro s j k e
  refine ⟨fun c n v ch p q h => ⟨?enop, ?ewait, ?emark, ?eswpt, ?swlink, ?swcut⟩, fun c i disp n link h => ⟨?eloop, ?ejmp⟩⟩
  case enop =>
    show execEnop c n s = _
    exact plainWord_runs h _
  case ewait =>
    show execEwait c s = _
    exact plainWord_runs h _
  case emark =>
    show execEmark c v s = _
    exact plainWord_runs h _
  case eswpt =>
    have hgoes : execEswpt c s = _ := plainWord_runs h _
    rw [begun_focus, fpkg_focus (begun_focus ..), pkgAt_pkgs (begun_pkgs ..)] at hgoes
    refine ⟨fun hx => ?unlisted, fun y hy => ?listed⟩
    case unlisted =>
      show execEswpt c s = _
      rw [hgoes, schedTarget_eq hx]
      rfl
    case listed =>
      show execEswpt c s = _
      rw [hgoes, schedTarget_eq hy, Option.bind_some]
      split_ifs <;> rfl
  case swlink =>
    intro kp kq hp hq hcp hcq hne hfree
    show execSwlink c ch p q s = _
    exact swlink_binds h hp hq hcp hcq hne hfree c rfl
  case swcut =>
    intro y hy hmine hempty
    show execSwcut c ch s = _
    exact swcut_unbinds h hy hmine hempty c rfl
  case eloop =>
    show execEloop c i disp n s = _
    refine (plainWord_runs h _).trans ?_
    simp only [loopStep, bne_iff_ne, ne_eq, ite_not]
    rfl
  case ejmp =>
    show execEjmp c disp link s = _
    exact plainWord_runs h _

end Sys2Proof.Machine
end

section
/-!
SUPPORT. Copies, reductions, transposes and conversions inside a tile (11 R313 to R315), and O42.
-/

namespace Sys2Proof.Machine

section
variable {s : State} {ps pd : Pat} {w : EW}

theorem copyPair_eq {d1 d2 : List Word} {from_ into : List Nat} (h1 : s.desc1 w = d1) (h2 : s.desc2 w = some d2)
    (hs : parsePat d1 from_ = some ps) (hd : parsePat d2 into = some pd) (hn : ps.n = pd.n) (hsize : ps.esize = pd.esize)
    (haux : ps.aux = 0) : copyPair s w from_ into = some (ps, pd) := by
  simp [copyPair, h1, h2, hs, hd, hn, hsize, haux]

theorem endPair_local {step : BitVec 12} {reps : Nat} (hs : LocalPat s ps step reps) (hd : LocalPat s pd step reps) (r : Run) :
    endPair ps pd r = .ok r () := by
  rw [endPair, if_neg hs.no_chan, Got.bind, if_neg hd.no_chan]

theorem chans_local {step : BitVec 12} {reps : Nat} (hs : LocalPat s ps step reps) (hd : LocalPat s pd step reps) :
    ps.chan true ++ pd.chan false = [] := by rw [hs.chan, hd.chan, List.append_nil]

/-- What a destination element is made, where it is in bound. -/
def Pat.made (pd : Pat) (s : State) (step : BitVec 12) (f : Nat → Nat → Memory → Nat) (r k : Nat) (m : Memory) : Memory :=
  if pd.inB k then pd.store s step r k (f r k m) m else m

/-- The value of a source element, zero where it is not in bound. -/
def Pat.valueIf (ps : Pat) (s : State) (step : BitVec 12) (ok : Bool) (r k : Nat) (m : Memory) : Nat :=
  if ok then ps.value s step r k m else 0

/-! ### Element k to element k (R314) -/

/-- Element k of the source to element k of the destination through `f`. -/
theorem moveElem_made {us ud : Use} {r : Run} {rep k g reps : Nat} {step : BitVec 12} (hs : LocalPat s ps step reps)
    (hd : LocalPat s pd step reps) (hus : us.step = step) (hud : ud.step = step) (hn : ps.n = pd.n) (hrep : rep < reps) (hk : k < pd.n)
    (hr : SamePlaces s r.s) (f : Nat → Nat → Nat) : moveElem ps pd us ud f (ps.inB k && pd.inB k) rep k k g r =
      .ok ⟨{ r.s with mem := pd.made s step (fun r k m => f (ps.valueIf s step (ps.inB k) r k m) (pd.value s step r k m)) rep k r.s.mem },
        r.w⟩ () := by
  rw [moveElem_local hs hus hr hd hud hrep (fun hw => ⟨hn ▸ hk, (Bool.and_eq_true_iff.mp hw).1⟩) hk]
  cases hb : pd.inB k <;> simp [Pat.made, Pat.valueIf, hb]

/-- A word that moves each element of the source to that of the destination through `f`. -/
theorem engineExec_pair {j : Job} {own : Option Kind} {plan : Job → State → Option Plan} {uses : List (Nat × Bool)}
    {free : Nat → Nat → Nat → State → Bool} (ud : Use) (f : Nat → Nat → Nat) (h : EngineReady s j own .none w.pop)
    (hs : LocalPat s ps w.step (ewReps w)) (hd : LocalPat s pd w.step (ewReps w)) (hn : ps.n = pd.n) (hud : ud.step = w.step)
    (huses : uses = []) (hplan : ∀ t, Fetches s w t → plan j t = some ⟨uses, 0, loopAhead free (ewReps w) pd.n
      (fun rep k r => moveElem ps pd (ewUse w true) ud f (ps.inB k && pd.inB k) rep k k (rep * pd.n + k) r) (endPair ps pd)⟩) :
    engineExec own .none w.pop w.push w.chain w.desc plan s = s.memoryWord j .none w (foldWord (w.rep.toNat + 1) pd.n
      (pd.made s w.step (fun r k m => f (ps.valueIf s w.step (ps.inB k) r k m) (pd.value s w.step r k m))) s.mem) :=
  engineExec_memory _ h hplan huses (fun _ _ _ _ hr hk hm => moveElem_made hs hd rfl hud hn hr hk hm f) (endPair_local hs hd)

/-! ### Elements of transposes (R313) -/

theorem Pat.i0_at {p : Pat} {x : Nat} (hx : x < p.e0) (y z : Nat) : p.i0 (p.at_ x y z) = x := by
  rw [Pat.i0, Pat.at_, Nat.add_mul_mod_self_left, Nat.mod_eq_of_lt hx]

theorem Pat.i1_at {p : Pat} {x y : Nat} (hx : x < p.e0) (hy : y < p.e1) (z : Nat) : p.i1 (p.at_ x y z) = y := by
  rw [Pat.i1, Pat.at_, Nat.add_mul_div_left _ _ (by omega), Nat.div_eq_of_lt hx, Nat.zero_add, Nat.add_mul_mod_self_left,
    Nat.mod_eq_of_lt hy]

theorem Pat.at_lt {p : Pat} {x y z : Nat} (hx : x < p.e0) (hy : y < p.e1) (hz : z < p.e2) : p.at_ x y z < p.n := by
  have hrow : p.at_ 0 y z + p.e0 ≤ p.n := by
    have hyz : y + p.e1 * z + 1 ≤ p.e1 * p.e2 := by
      have := Nat.mul_le_mul_left p.e1 hz
      rw [Nat.mul_succ] at this
      omega
    have := Nat.mul_le_mul_left p.e0 hyz
    rwa [Nat.mul_succ, ← Nat.mul_assoc, ← Pat.n, ← Nat.zero_add (p.e0 * _), ← Pat.at_] at this
  have hsplit : p.at_ x y z = x + p.at_ 0 y z := by simp [Pat.at_]
  omega

section
/-- The element past the last has no effect between local patterns. -/
theorem txgatElem_idle {us ud : Use} {reps : Nat} {step : BitVec 12} (hs : LocalPat s ps step reps) (at_ rep : Nat) (r : Run) :
    txgatElem ps pd us ud at_ rep pd.n r = .ok r () := by
  simp only [txgatElem, Pat.gather, Pat.release, if_neg hs.no_chan, got_bind_ok, if_true]

variable {u us ud : Use} {r : Run} {rep k g reps : Nat} {step : BitVec 12} (hs : LocalPat s ps step reps) (hr : SamePlaces s r.s)
include hs

theorem gather_local (g0 n : Nat) : ps.gather g0 n r = .ok r () := if_neg hs.no_chan
theorem release_local (g0 n : Nat) : ps.release g0 n r = r := if_neg hs.no_chan

include hr

theorem pick_local {ok : Bool} (hu : u.step = step) (hl : ok = true → (s.localPlace ps (ps.addr step rep k)).isSome = true) (g0 : Nat) :
    ps.pick u ok rep k g0 r = .ok r (ps.valueIf s step ok rep k r.s.mem) := by
  cases ok with
  | false => rfl
  | true => exact (if_neg hs.no_chan).trans (read_place hs hu hr (hl rfl))

variable (hd : LocalPat s pd step reps) (hus : us.step = step) (hud : ud.step = step) (hrep : rep < reps) (hk : k < pd.n)
include hd hus hud hrep hk

/-- Destination element `k` takes source element `i` where both are in bound. -/
theorem pick_put {i g0 : Nat} {ok : Bool} (hi : ok = true → pd.inB k = true → i < ps.n ∧ ps.inB i = true) :
    (ps.pick us (ok && pd.inB k) rep i g0 r).bind (fun r v => pd.put ud (pd.inB k) (fun _ => v) rep k g r) =
      .ok ⟨{ r.s with mem := pd.made s step (fun r _ m => ps.valueIf s step ok r i m) rep k r.s.mem }, r.w⟩ () := by
  have hplace : (ok && pd.inB k) = true → (s.localPlace ps (ps.addr step rep i)).isSome = true := fun hw => by
    obtain ⟨ho, hb⟩ := Bool.and_eq_true_iff.mp hw
    exact hs.places rep i hrep (hi ho hb).1 (hi ho hb).2
  rw [pick_local hs hr hus hplace, Got.bind, put_local hd hud hr (fun hb => hd.places rep k hrep hk hb)]
  cases hb : pd.inB k <;> simp [Pat.made, Pat.valueIf, hb]

theorem txblkElem_made (hs0 : ps.e0 = 32) (hs1 : ps.e1 = 32) (hd0 : pd.e0 = 32) (hd1 : pd.e1 = 32) (he2 : ps.e2 = pd.e2) :
    txblkElem ps pd us ud rep k r = .ok ⟨{ r.s with mem := (pd.made s step (fun r k m =>
      ps.valueIf s step (ps.inB (k / 32 % 32 + 32 * (k % 32 + 32 * (k / 1024)))) r (k / 32 % 32 + 32 * (k % 32 + 32 * (k / 1024))) m)
      rep k r.s.mem) }, r.w⟩ () := by
  have hat : ps.at_ (pd.i1 k) (pd.i0 k) (pd.i2 k) = k / 32 % 32 + 32 * (k % 32 + 32 * (k / 1024)) := by
    rw [Pat.at_, Pat.i0, Pat.i1, Pat.i2, hs0, hs1, hd0, hd1, Nat.div_div_eq_div_mul]
  have hsrc : k / 32 % 32 + 32 * (k % 32 + 32 * (k / 1024)) < ps.n := by
    have hkn : k < 32 * 32 * pd.e2 := by rwa [Pat.n, hd0, hd1] at hk
    rw [Pat.n, hs0, hs1, he2]
    omega
  have helem := pick_put (g := rep * pd.n + k) (g0 := rep * ps.n + k / 1024 * 1024) hs hr hd hus hud hrep hk
    (ok := ps.inB (k / 32 % 32 + 32 * (k % 32 + 32 * (k / 1024)))) (fun ho _ => ⟨hsrc, ho⟩)
  rw [txblkElem]
  simp only [gather_local hs, room_local hd, got_bind_ok, hat, release_local hs, ite_self, got_bind_unit]
  exact helem

theorem txgatElem_made {at_ : Nat} (hsound : Sound s) (he0 : ps.e0 = pd.e0) (he2 : ps.e2 = pd.e2) (hat : at_ + 2 * pd.e1 ≤ 0x60_0000) :
    txgatElem ps pd us ud at_ rep k r = .ok ⟨{ r.s with mem := (pd.made s step (fun r k m =>
      let i := readLe m (apAddr s.fpkg s.ftile (at_ + 2 * pd.i1 k)) 2
      ps.valueIf s step (decide (i < ps.b1) && decide (i < ps.e1) && decide (pd.i0 k < ps.b0)) r (pd.i0 k + ps.e0 * (i + ps.e1 * pd.i2 k)) m)
      rep k r.s.mem) }, r.w⟩ () := by
  have hkn : k < pd.e0 * pd.e1 * pd.e2 := hk
  have hpos : 0 < pd.e0 ∧ 0 < pd.e1 := by
    constructor <;> refine Nat.pos_of_ne_zero fun h0 => ?_ <;> simp [h0] at hkn
  have hi0 : pd.i0 k < pd.e0 := Nat.mod_lt _ hpos.1
  have hi1 : pd.i1 k < pd.e1 := Nat.mod_lt _ hpos.2
  have hi2 : pd.i2 k < pd.e2 := by
    rw [Pat.i2, Nat.div_div_eq_div_mul]
    exact Nat.div_lt_of_lt_mul hkn
  have hrow : r.s.rowIndex at_ (pd.i1 k) = .ok (readLe r.s.mem (apAddr s.fpkg s.ftile (at_ + 2 * pd.i1 k)) 2) := by
    have hroom : ¬ padSize < at_ + 2 * pd.i1 k + 2 := by simp only [padSize]; omega
    rw [State.rowIndex, if_neg hroom, flawed_errs hr.2.1, hsound.flawed, State.readL, fpkg_focus hr.1, ftile_focus hr.1]
    rfl
  rw [txgatElem]
  simp only [gather_local hs, room_local hd, got_bind_ok, if_neg (Nat.ne_of_lt hk), hrow]
  cases hb : pd.inB k with
  | false =>
    rw [Bool.not_false, if_pos rfl, put_local hd hud hr (fun h => absurd h Bool.false_ne_true)]
    simp [Pat.made, hb]
  | true =>
    have helem := fun i => pick_put hs hr hd hus hud hrep hk (g := rep * pd.n + k) (g0 := rep * ps.n) (i := ps.at_ (pd.i0 k) i (pd.i2 k))
      (ok := decide (i < ps.b1) && decide (i < ps.e1) && decide (pd.i0 k < ps.b0)) (fun hlive _ => by
        simp only [Bool.and_eq_true, decide_eq_true_eq] at hlive
        obtain ⟨⟨hb1, he1⟩, hb0⟩ := hlive
        refine ⟨Pat.at_lt (he0 ▸ hi0) he1 (he2 ▸ hi2), ?_⟩
        simp [Pat.inB, Pat.i0_at (he0 ▸ hi0 : pd.i0 k < ps.e0), Pat.i1_at (he0 ▸ hi0 : pd.i0 k < ps.e0) he1, hb0, hb1])
    simp only [hb, Bool.and_true] at helem
    exact helem _

end

section
variable {j : Job} {d1 d2 : List Word} (hw : w.desc.toNat ≠ 1023) (h1 : s.desc w.desc.toNat = d1)
  (h2 : s.desc (w.desc.toNat + 1) = d2) (hs : LocalPat s ps w.step (ewReps w)) (hd : LocalPat s pd w.step (ewReps w))
include hw h1 h2 hs hd

section
variable (h : EngineReady s j (some .C) .none w.pop) (hn : ps.n = pd.n) (hsize : ps.esize = pd.esize) (haux : ps.aux = 0)
include h hn hsize haux

theorem cpy_copies (hps : parsePat d1 [0, 1, 2, 3] = some ps) (hpd : parsePat d2 [0, 1, 2, 3] = some pd) (hdaux : pd.aux = 0) :
    execCpy w s = s.memoryWord j .none w (foldWord (w.rep.toNat + 1) pd.n
      (pd.made s w.step (fun r k m => ps.valueIf s w.step (ps.inB k) r k m)) s.mem) := by
  refine engineExec_pair (free := copyFree ps pd w.step) (ewUse w false) (fun v _ => v) h hs hd hn rfl (chans_local hs hd) fun t ht => ?_
  rw [copyPair_eq (ht.desc1.trans h1) ((ht.desc2 hw).trans (congrArg some h2)) hps hpd hn hsize haux]
  exact if_neg (not_not.mpr hdaux)

theorem cpyred_reduces (hps : parsePat d1 [0, 1, 2, 3] = some ps) (hpd : parsePat d2 [0, 1] = some pd) (hbits : bits pd.aux 31 3 = 0)
    (hop : bits pd.aux 2 0 ≤ 4) (hbytes : pd.esize = redBytes (bits pd.aux 2 0)) :
    execCpyred w s = s.memoryWord j .none w (foldWord (w.rep.toNat + 1) pd.n (pd.made s w.step (fun r k m =>
      reduceStep (bits pd.aux 2 0) (pd.value s w.step r k m) (ps.valueIf s w.step (ps.inB k) r k m))) s.mem) := by
  refine engineExec_pair (free := copyFree ps pd w.step) { ewUse w false with need := permRW, red := true }
    (fun v old => reduceStep (bits pd.aux 2 0) old v) h hs hd hn rfl (hs.chan true) fun t ht => ?_
  rw [copyPair_eq (ht.desc1.trans h1) ((ht.desc2 hw).trans (congrArg some h2)) hps hpd hn hsize haux]
  refine if_neg ?_
  simp only [not_or, not_not]
  exact ⟨hbits, by omega, hbytes⟩

end

/-! ### Transpose words (R313) -/

variable (h : EngineReady s j (some .T) .none w.pop) (hps : parsePat d1 [0, 1, 3] = some ps) (hpd : parsePat d2 [0, 1, 3] = some pd)
include h hps hpd

theorem txcvt_converts {src dst : BitVec 3} (hsrc : src = BitVec.ofNat 3 (bits ps.aux 2 0)) (hdst : dst = BitVec.ofNat 3 (bits ps.aux 5 3))
    (hbits : bits ps.aux 31 8 = 0) (haux : pd.aux = 0) (hn : ps.n = pd.n) (hlegal : fcvtLegal src dst = true)
    (hssize : ps.esize = fmtBytes src.toNat) (hdsize : pd.esize = fmtBytes dst.toNat) :
    execTxcvt w s = s.memoryWord j .none w (foldWord (w.rep.toNat + 1) pd.n (pd.made s w.step (fun r k m =>
      (fcvt64 (BitVec.ofNat 2 (bits ps.aux 7 6)) src dst (BitVec.ofNat 64 (ps.valueIf s w.step (ps.inB k) r k m))).toNat
        % 2 ^ (8 * pd.esize))) s.mem) := by
  subst hsrc hdst
  refine engineExec_pair (free := fun _ _ _ _ => false) (ewUse w false) (fun v _ =>
    (fcvt64 (BitVec.ofNat 2 (bits ps.aux 7 6)) _ _ (BitVec.ofNat 64 v)).toNat % 2 ^ (8 * pd.esize)) h hs hd hn rfl (chans_local hs hd) fun t ht => ?_
  simp only [ht.desc1.trans h1, (ht.desc2 hw).trans (congrArg some h2), Option.bind_some, hps, hpd]
  refine if_neg ?_
  simp only [not_or, not_not]
  exact ⟨hbits, haux, hn, by simp [hlegal], hssize, hdsize⟩

theorem txblk_transposes (hs0 : ps.e0 = 32) (hs1 : ps.e1 = 32) (hd0 : pd.e0 = 32) (hd1 : pd.e1 = 32) (he2 : ps.e2 = pd.e2)
    (hsize : ps.esize = pd.esize) (hnarrow : ps.esize ≤ 4) (haux : ps.aux = 0) (hdaux : pd.aux = 0) :
    execTxblk w s = s.memoryWord j .none w (foldWord (w.rep.toNat + 1) pd.n (fun r k m => pd.made s w.step (fun r _ m =>
      ps.valueIf s w.step (ps.inB (k / 32 % 32 + 32 * (k % 32 + 32 * (k / 1024)))) r
        (k / 32 % 32 + 32 * (k % 32 + 32 * (k / 1024))) m) r k m) s.mem) := by
  refine engineExec_memory (free := fun _ _ _ _ => false) (last := endPair ps pd) (txblkElem ps pd (ewUse w true) (ewUse w false)) h
    (fun t ht => ?_) (chans_local hs hd)
    (fun _ _ _ _ hr hk hm => txblkElem_made hs hm hd rfl rfl hr hk hs0 hs1 hd0 hd1 he2) (endPair_local hs hd)
  simp only [ht.desc1.trans h1, (ht.desc2 hw).trans (congrArg some h2), Option.bind_some, hps, hpd]
  refine if_neg ?_
  simp only [not_or, not_not]
  exact ⟨hs0, hs1, hd0, hd1, he2, hsize, by omega, haux, hdaux⟩

/-- What the elements of TXGAT make, the one past the last included. -/
def txgatMade (s : State) (ps pd : Pat) (step : BitVec 12) (at_ r k : Nat) (m : Memory) : Memory :=
  pd.made s step (fun r k m =>
    let i := readLe m (apAddr s.fpkg s.ftile (at_ + 2 * pd.i1 k)) 2
    ps.valueIf s step (decide (i < ps.b1) && decide (i < ps.e1) && decide (pd.i0 k < ps.b0)) r (pd.i0 k + ps.e0 * (i + ps.e1 * pd.i2 k)) m)
    r k m

theorem txgat_gathers (hsound : Sound s) (he0 : ps.e0 = pd.e0) (he2 : ps.e2 = pd.e2) (hsize : ps.esize = pd.esize) (haux : ps.aux = 0)
    (hbits : bits pd.aux 31 23 = 0) (heven : bits pd.aux 0 0 = 0) (hat : bits pd.aux 22 0 + 2 * pd.e1 ≤ 0x60_0000) :
    execTxgat w s = s.memoryWord j .none w (foldWord (w.rep.toNat + 1) pd.n (txgatMade s ps pd w.step (bits pd.aux 22 0)) s.mem) := by
  have hword : execTxgat w s = s.memoryWord j .none w (foldWord (w.rep.toNat + 1) (pd.n + 1)
      (fun r k m => if k = pd.n then m else txgatMade s ps pd w.step (bits pd.aux 22 0) r k m) s.mem) := by
    refine engineExec_memory (free := fun _ _ _ _ => false) (last := endPair ps pd)
      (txgatElem ps pd (ewUse w true) (ewUse w false) (bits pd.aux 22 0)) h (fun t ht => ?_) (chans_local hs hd)
      (fun rep k m v hr hk hm => ?_) (endPair_local hs hd)
    · simp only [ht.desc1.trans h1, (ht.desc2 hw).trans (congrArg some h2), Option.bind_some, hps, hpd]
      refine if_neg ?_
      simp only [not_or, not_not]
      exact ⟨he0, he2, hsize, haux, hbits, heven⟩
    · split_ifs with hlast
      · rw [hlast, txgatElem_idle hs]
      · exact txgatElem_made hs hm hd rfl rfl hr (by omega) hsound he0 he2 hat
  rw [hword, foldWord_succ_of_idle (fun _ _ => if_pos rfl),
    foldWord_congr fun r k m _ hk => if_neg (Nat.ne_of_lt hk)]

end

end

/-- Settles O42: between local patterns an element moves memory alone, so that each word is the fold of what its elements make. -/
theorem localCopies : Obligations.LocalCopies := by
  unfold Obligations.LocalCopies
  intro s j w ps pd hw hsound
  refine ⟨fun h hn hsize haux => ⟨?cpy, ?cpyred⟩, fun h hlocal => ⟨?txcvt, ?txblk, ?txgat⟩⟩
  case cpy =>
    rintro ⟨hps, hpd, hss, hsd, hls, hld⟩ hdaux
    show execCpy w s = _
    exact cpy_copies hw rfl rfl (.of_parse hps hss hls) (.of_parse hpd hsd hld) h hn hsize haux hps hpd hdaux
  case cpyred =>
    intro op hlocal hspace hbits hop hbytes
    obtain ⟨hps, hpd, hss, hsd, hls, hld⟩ := hlocal
    have hwidth : redBytes op = if op = 1 then 2 else 4 := by interval_cases op <;> rfl
    show execCpyred w s = _
    refine cpyred_reduces hw rfl rfl (.of_parse hps hss hls) (.of_parse hpd hsd hld) h hn hsize haux hps
      (parsePat_of_mem hpd (by simp [hspace])) hbits hop (hbytes.trans hwidth.symm)
  all_goals obtain ⟨hps, hpd, hss, hsd, hls, hld⟩ := hlocal
  case txcvt =>
    intro src dst hbits haux hn hlegal hssize hdsize
    show execTxcvt w s = _
    exact txcvt_converts hw rfl rfl (.of_parse hps hss hls) (.of_parse hpd hsd hld) h hps hpd rfl rfl hbits haux hn hlegal hssize hdsize
  case txblk =>
    intro hs0 hs1 hd0 hd1 he2 hsize hnarrow haux hdaux
    show execTxblk w s = _
    exact txblk_transposes hw rfl rfl (.of_parse hps hss hls) (.of_parse hpd hsd hld) h hps hpd hs0 hs1 hd0 hd1 he2 hsize hnarrow haux hdaux
  case txgat =>
    intro at_ he0 he2 hsize haux hbits heven hat
    show execTxgat w s = _
    exact txgat_gathers hw rfl rfl (.of_parse hps hss hls) (.of_parse hpd hsd hld) h hps hpd hsound he0 he2 hsize haux hbits heven hat

end Sys2Proof.Machine
end

section
/-!
SUPPORT. Words that move the job in focus beside memory (11 R282): a state up to what the map of jobs held of it, which the completion of
the word writes anew.
-/

namespace Sys2Proof.Machine

theorem modCur_modCur (s : State) (f g : Job → Job) : (s.modCur f).modCur g = s.modCur (fun j => g (f j)) := by
  cases hj : s.jobAt s.key with
  | none =>
    have hidle : ∀ f, s.modCur f = s := modJob_none hj
    rw [hidle, hidle, hidle]
  | some j =>
    rw [modCur_some (j := f j) (by rw [modCur_key, modCur_jobAt, hj]; rfl), modCur_some hj, modCur_some hj, setJob_key, setJob_setJob]

/-- `b` with `y` as the job in focus and memory `m`. -/
def State.workOf (b : State) (y : Job) (m : Memory) : State := { b.setJob b.key y with mem := m }

/-- `t` is `b` but for the job in focus, which is `y`, and for memory, which is `m`. -/
structure State.Holds (t b : State) (y : Job) (m : Memory) : Prop where
  jobAt : t.jobAt b.key = some y
  setJob : ∀ z, t.setJob b.key z = b.workOf z m

namespace State.Holds

variable {t b : State} {y : Job} {m : Memory}

theorem self (h : b.jobAt b.key = some y) : b.Holds b y b.mem := ⟨h, fun _ => rfl⟩

theorem workOf (b : State) (y : Job) (m : Memory) : (b.workOf y m).Holds b y m :=
  ⟨setJob_jobAt_same _ _ _, fun z => by
    show ({ (b.setJob b.key y).setJob b.key z with mem := m } : State) = _
    rw [setJob_setJob, State.workOf]⟩

section
variable (h : t.Holds b y m)
include h

theorem focus : t.focus = b.focus := (congrArg State.focus (h.setJob y) :)
theorem key : t.key = b.key := key_focus h.focus
theorem mem : t.mem = m := (congrArg State.mem (h.setJob y) :)
theorem errs : t.errs = b.errs := (congrArg State.errs (h.setJob y) :)
theorem pkgs : t.pkgs = b.pkgs := (congrArg State.pkgs (h.setJob y) :)
theorem fpkg : t.fpkg = b.fpkg := fpkg_focus h.focus
theorem ftile : t.ftile = b.ftile := ftile_focus h.focus

theorem jobAt_key : t.jobAt t.key = some y := by rw [h.key, h.jobAt]

theorem engAsked : t.engAsked = (y.eng b.focus.kind).asked := by rw [engAsked_of_jobAt h.jobAt_key, h.focus]

theorem window : t.window = (y.kern.accbase, y.kern.acccount) := window_of_jobAt h.jobAt_key

/-- The local patterns of a state that holds another's job window have its places. -/
theorem samePlaces {s : State} (hf : b.focus = s.focus) (he : b.errs = s.errs) (hw : (y.kern.accbase, y.kern.acccount) = s.window) :
    SamePlaces s t := ⟨h.focus.trans hf, h.errs.trans he, h.window.trans hw⟩

theorem withMem (m' : Memory) : ({ t with mem := m' } : State).Holds b y m' :=
  ⟨h.jobAt, fun z => congrArg (fun u : State => { u with mem := m' }) (h.setJob z)⟩

theorem modCur (f : Job → Job) : (t.modCur f).Holds b (f y) m := by
  refine ⟨?_, fun z => ?_⟩
  · rw [← h.key, modCur_jobAt, h.jobAt_key, Option.map_some]
  · rw [modCur_some h.jobAt_key, h.key, setJob_setJob, h.setJob]

theorem modEng (f : Engine → Engine) : (t.modEng f).Holds b (y.modEng b.focus.kind f) m := by
  rw [State.modEng, h.focus]
  exact h.modCur _

/-- A word completes alike from two states of which the job in focus is all that may differ. -/
theorem completeWord_eq {u : State} (hu : u.Holds b y m) (push : Option (BitVec 4)) (chain : Chain) (nxt : Option Nat) :
    t.completeWord push chain nxt = u.completeWord push chain nxt := by
  have heng : ∀ f, t.modEng f = u.modEng f := fun f => by
    rw [State.modEng, State.modEng, modCur_some h.jobAt_key, modCur_some hu.jobAt_key, h.key, hu.key, h.setJob, hu.setJob, h.focus, hu.focus]
  simp only [State.completeWord, heng]

end

end State.Holds

theorem SamePlaces.accAddr {s t : State} (h : SamePlaces s t) (o : Nat) : t.accAddr o = s.accAddr o := by
  rw [State.accAddr, State.accAddr, fpkg_focus h.1, ftile_focus h.1, h.2.2]

theorem SamePlaces.sound {s t : State} (h : SamePlaces s t) (hs : Sound s) : Sound t := h.2.1.trans hs

section
variable {b : State} {w : WordPos}

section
variable {α : Type} {J : α → Job} {M : α → Memory} {g : Nat → Nat → α → α} {f : Nat → Nat → Run → Got Unit}
  {free : Nat → Nat → Nat → State → Bool} {n reps : Nat} {x : α} (hrep : w.rep = 0) (helem : w.elem = 0) (hdone : w.done = 0)
  (hasked : ∀ x, ((J x).eng b.focus.kind).asked = none)
  (hstep : ∀ rep k x t v, rep < reps → k < n → t.Holds b (J x) (M x) → v.content = w.content →
    ∃ t', f rep k ⟨t, v⟩ = .ok ⟨t', v⟩ () ∧ t'.Holds b (J (g rep k x)) (M (g rep k x))) {last : Run → Got Unit}
include hrep helem hdone hasked hstep

/-- A word whose elements move the job in focus and memory, as `J x` and `M x` for the `x` that the elements before have made. -/
theorem loopAhead_holds_last {P : State → Prop} (hlast : ∀ t v, t.Holds b (J (foldWord reps n g x)) (M (foldWord reps n g x)) →
    v.content = w.content → ∃ r', last ⟨t, v⟩ = .ok r' () ∧ P r'.s) {s : State} (hs : s.Holds b (J x) (M x)) :
    ∃ t, loopAhead free reps n f last w s = .done t none ∧ P t := by
  have hat : LoopState (fun (_ _ : Nat) (r : Run) x => r.s.Holds b (J x) (M x) ∧ r.w.content = w.content) :=
    { content := fun h hw => ⟨h.1, hw.trans h.2⟩
      answered := fun h => by rw [Run.unanswered, h.1.engAsked, hasked]; rfl
      undone := fun h => (congrArg WordPos.done h.2).trans hdone }
  refine loopAhead_folds hat (g := g) (fun rep k r x hr hk h => ?_) (fun _ _ _ h => h) hrep helem ⟨hs, rfl⟩
    (fun r h => hlast r.s r.w h.1 h.2)
  obtain ⟨t', hf, ht'⟩ := hstep rep k x r.s r.w hr hk h.1 h.2
  exact ⟨_, hf, ht', h.2⟩

/-- The same of a word with nothing behind its last element. -/
theorem loopAhead_holds (hlast : ∀ r, last r = .ok r ()) {s : State} (hs : s.Holds b (J x) (M x)) :
    ∃ t, loopAhead free reps n f last w s = .done t none ∧ t.Holds b (J (foldWord reps n g x)) (M (foldWord reps n g x)) :=
  loopAhead_holds_last hrep helem hdone hasked hstep (fun t v ht _ => ⟨⟨t, v⟩, hlast _, ht⟩) hs

end

end

section
variable {s : State} {j : Job} {own : Option Kind} {hold : Hold} {pop : Option (BitVec 4)} (h : EngineReady s j own hold pop)
include h

theorem EngineReady.begun_holds : (s.begun j hold pop).Holds (s.begun j hold pop) (j.popped pop) s.mem := by
  have hself := State.Holds.self h.begun_jobAt_key
  rwa [begun_mem] at hself

theorem EngineReady.popped_unasked : ((j.popped pop).eng (s.begun j hold pop).focus.kind).asked = none := by
  rw [popped_eng, begun_focus]
  exact h.unasked

end

end Sys2Proof.Machine
end

section
/-!
SUPPORT. The matrix words (11 R296 to R303), and O44.
-/

namespace Sys2Proof.Machine

/-! ### MLDB (R296, R297) -/

theorem mapM_getElem {ε α β : Type} {f : α → Except ε β} {l : List α} {l' : List β} {i : Nat} {y : β} (h : l.mapM f = .ok l')
    (hy : l'[i]? = some y) : ∃ x, l[i]? = some x ∧ f x = .ok y := by
  induction l generalizing l' i with
  | nil =>
    rw [List.mapM_nil] at h
    obtain rfl : [] = l' := Except.ok.inj h
    simp at hy
  | cons a l ih =>
    rw [List.mapM_cons] at h
    cases hf : f a with
    | error e => rw [hf] at h; exact nomatch h
    | ok z =>
      cases hl : l.mapM f with
      | error e => rw [hf, hl] at h; exact nomatch h
      | ok l2 =>
        rw [hf, hl] at h
        obtain rfl : z :: l2 = l' := Except.ok.inj h
        cases i with
        | zero => exact ⟨a, rfl, hf.trans (congrArg Except.ok (Option.some.inj hy))⟩
        | succ i => exact ih hl hy

theorem nth_eq_getD {α : Type} (l : List α) (i : Nat) (d : α) : nth l i d = l.getD i d := by
  induction l generalizing i with
  | nil => rfl
  | cons a l ih =>
    cases i with
    | zero => rfl
    | succ i => exact ih i

section
variable {s t : State}

theorem local?_congr (hf : t.focus = s.focus) (he : t.errs = s.errs) (hm : t.mem = s.mem) : t.local? = s.local? := by
  funext a n
  simp only [State.local?, fpkg_focus hf, ftile_focus hf, flawed_errs he, hm]

theorem sparseRows_congr (hl : t.local? = s.local?) (mbase first : Nat) (got : List Byte) (l : List Nat) :
    sparseRows t mbase first got l = sparseRows s mbase first got l := by
  induction l with
  | nil => rfl
  | cons g l ih => rw [sparseRows, sparseRows, hl, ih]

theorem columns_congr (hl : t.local? = s.local?) (m : Mldb) : m.columns t = m.columns s := by
  have hblock : m.block t = m.block s := by
    funext c kb
    simp only [Mldb.block, hl, sparseRows_congr hl]
  rw [Mldb.columns, Mldb.columns, hblock]

theorem local?_ok (hsound : Sound s) {a n : Nat} (h : a + n ≤ 0x60_0000) :
    s.local? a n = .ok (readBytes s.mem (apAddr s.fpkg s.ftile a) n) := by
  have hroom : ¬ padSize < a + n := by simpa [padSize] using h
  rw [State.local?, if_neg hroom, hsound.flawed]
  rfl

theorem local?_eq_readBytes {a n : Nat} {l : List Byte} (h : s.local? a n = .ok l) :
    l = readBytes s.mem (apAddr s.fpkg s.ftile a) n := by
  unfold State.local? at h
  split_ifs at h
  exact (Except.ok.inj h).symm

theorem nth_readBytes (m : Memory) (a : Nat) {n i : Nat} (h : i < n) : nth (readBytes m a n) i 0 = readByte m (a + i) := by
  simp [nth_eq_getD, readBytes, h]

theorem except_bind_ok {ε α β : Type} {x : Except ε α} {f : α → Except ε β} {y : β} (h : (x >>= f) = .ok y) :
    ∃ a, x = .ok a ∧ f a = .ok y := by
  cases x with
  | error e => exact nomatch h
  | ok a => exact ⟨a, rfl, h⟩

theorem codesOf_bytes {n : Nat} {l : List Byte} (h : l.length ≤ n) : codesOf false n l = l :=
  (if_neg Bool.false_ne_true).trans (List.take_of_length_le h)

/-- A block of dense bytes without a valid map is as read. -/
theorem block_dense {m : Mldb} {c kb : Nat} {blk : BBlock} (hsp : m.sp = false) (hcv : m.cv = false) (htype : m.btype ≠ 0)
    (h : m.block s c kb = .ok blk) :
    blk.live = true ∧ blk.codes = readBytes s.mem (apAddr s.fpkg s.ftile (m.base + c * m.cstride + 32 * kb)) 32 := by
  have hbytes : (m.btype == 0) = false := beq_eq_false_iff_ne.mpr htype
  unfold Mldb.block at h
  simp only [hsp, hcv, hbytes, Bool.false_eq_true, if_false] at h
  obtain ⟨live, hlive, h⟩ := except_bind_ok h
  obtain rfl : true = live := Except.ok.inj hlive
  rw [Bool.not_true, if_neg Bool.false_ne_true] at h
  have hread : ∃ scale raw, s.local? (m.base + c * m.cstride + kb * 32) 32 = .ok raw ∧
      blk = ⟨true, 0xFFFF_FFFF, scale, codesOf false 32 raw⟩ := by
    split_ifs at h with hscl
    · obtain ⟨b, -, h⟩ := except_bind_ok h
      obtain ⟨scale, -, h⟩ := except_bind_ok h
      obtain ⟨raw, hraw, h⟩ := except_bind_ok h
      exact ⟨scale, raw, hraw, (Except.ok.inj h).symm⟩
    · obtain ⟨scale, -, h⟩ := except_bind_ok h
      obtain ⟨raw, hraw, h⟩ := except_bind_ok h
      exact ⟨scale, raw, hraw, (Except.ok.inj h).symm⟩
  obtain ⟨scale, raw, hraw, rfl⟩ := hread
  obtain rfl := local?_eq_readBytes hraw
  rw [Nat.mul_comm 32 kb]
  exact ⟨rfl, codesOf_bytes (readBytes_length ..).le⟩

theorem columns_block {m : Mldb} {cols : List (List BBlock)} {c kb : Nat} {col : List BBlock} {blk : BBlock} (h : m.columns s = .ok cols)
    (hc : cols[c]? = some col) (hk : col[kb]? = some blk) : m.block s c kb = .ok blk := by
  obtain ⟨c', hc', hcol⟩ := mapM_getElem h hc
  obtain ⟨kb', hk', hblk⟩ := mapM_getElem hcol hk
  obtain ⟨_, hcc⟩ := List.getElem?_eq_some_iff.mp hc'
  obtain ⟨_, hkk⟩ := List.getElem?_eq_some_iff.mp hk'
  rwa [← hcc, ← hkk, List.getElem_range, List.getElem_range] at hblk

end

/-- The run of MLDB with the fields `m` of its descriptor. -/
def mldbRun (w : EW) (m : Option Mldb) (p : WordPos) (s : State) : WRes :=
  let s := s.modCur (fun j => { j with resB := none })
  match if w.rep ≠ 0 then none else m with
  | none => .fault s p .engineWord s.eidx
  | some m =>
    match m.columns s with
    | .error (c, a) => .fault s p c (BitVec.ofNat 64 a)
    | .ok cols =>
      .done (s.modCur (fun j => { j with resB := some ⟨BitVec.ofNat 2 m.btype, BitVec.ofNat 2 m.layout, m.sp, m.bscl, m.k, m.n, cols⟩ })) none

/-! ### MRDC (R302) -/

theorem mrdcElem_writes {b t : State} {y : Job} {m : Memory} {base rep i : Nat} {clear : Bool} {step : BitVec 12} {v : WordPos} (hsound : Sound b)
    (ht : t.Holds b y m) (hroom : (BitVec.ofInt 64 (base + rep * step.toInt * 16 + 4 * i)).toNat + 4 ≤ 0x60_0000) :
    ∃ t', mrdcElem base clear step rep i ⟨t, v⟩ = .ok ⟨t', v⟩ () ∧
      t'.Holds b { y with traps := if clear ∧ i = 5 then { y.traps with count := Vector.replicate 3 0 } else y.traps }
        (write32 m (apAddr b.fpkg b.ftile (BitVec.ofInt 64 (base + rep * step.toInt * 16 + 4 * i)).toNat) (trapWord y.traps i)) := by
  have hin : ¬ padSize < (BitVec.ofInt 64 (base + rep * step.toInt * 16 + 4 * i)).toNat + 4 := not_lt.mpr hroom
  have hsoft : Sound t := ht.errs.trans hsound
  simp only [mrdcElem, Bool.and_eq_true, beq_iff_eq, ht.jobAt_key, if_neg hin, hsoft.flawed, Bool.false_eq_true, if_false, ht.fpkg, ht.ftile, ht.mem]
  refine ⟨_, rfl, ?_⟩
  split_ifs with hlast
  · exact (ht.withMem _).modCur _
  · exact ht.withMem _

/-- What word `i` of repetition `r` of MRDC makes of memory and the counts. -/
def mrdcStep (s : State) (base : Nat) (clear : Bool) (step : BitVec 12) (r i : Nat) (y : Memory × MatrixTraps) : Memory × MatrixTraps :=
  (write32 y.1 (apAddr s.fpkg s.ftile (BitVec.ofInt 64 (base + r * step.toInt * 16 + 4 * i)).toNat) (trapWord y.2 i),
    if clear ∧ i = 5 then { y.2 with count := Vector.replicate 3 0 } else y.2)

/-- The job with the trap limits of descriptor `d`, its counts cleared where it says so. -/
def Job.limited (d : List Word) (j : Job) : Job :=
  { j with traps := ⟨if (nth d 3 0).getLsbD 0 then Vector.replicate 3 0 else j.traps.count,
                     #v[(nth d 0 0).setWidth 32, (nth d 1 0).setWidth 32, (nth d 2 0).setWidth 32]⟩ }

/-! ### MMA and MMAZ (R298 to R301, R303) -/

theorem scaleFront_drop {q : List SqEntry} {n : Nat} (h : n ≤ (scaleFront q).length) : scaleFront (q.drop n) = (scaleFront q).drop n := by
  induction n generalizing q with
  | zero => rfl
  | succ n ih =>
    cases q with
    | nil => rfl
    | cons e q =>
      cases e with
      | byte b => exact ih (Nat.le_of_succ_le_succ h)
      | _ => exact absurd h (Nat.not_succ_le_zero n)

/-- Scale bytes that a repetition takes (R300). -/
def Mma.need (m : Mma) : Nat := if m.ascl then m.k / 32 else 0

/-- Scale bytes of repetition `i` among those at the head of the queue. -/
def Mma.front (m : Mma) (q : List Byte) (i : Nat) : List Byte := (q.drop (i * m.need)).take m.need

/-- The accumulator row of repetition `i`, its first source byte, and the bytes it reads there. -/
def Mma.accRow (m : Mma) (i : Nat) : Int := m.arow + i * m.ainc
def Mma.source (m : Mma) (step : BitVec 12) (i : Nat) : Nat := (BitVec.ofInt 64 (m.base + i * step.toInt * m.gran)).toNat
def Mma.len (m : Mma) : Nat := if m.atype = 0 then (m.kb + 1) / 2 else m.kb

/-- Repetition `i` lies in the window and in the scratchpad. -/
def Mma.fits (m : Mma) (s : State) (step : BitVec 12) (i : Nat) : Prop :=
  0 ≤ m.accRow i ∧ m.accRow i < s.window.2 ∧ m.source step i + m.len ≤ 0x60_0000

/-- What repetition `i` makes of memory and the trap counts. -/
def Mma.made (m : Mma) (s : State) (r : ResidentB) (zero : Bool) (step : BitVec 12) (q : List Byte) (i _ : Nat)
    (y : Memory × Vector W32 3) : Memory × Vector W32 3 :=
  rowOut r.btype.toNat r.bscl zero (m.row (readBytes y.1 (apAddr s.fpkg s.ftile (m.source step i)) m.len) (m.front q i)) r.cols
    (s.accAddr (m.accRow i * 8192 + 4 * m.acol).toNat) y.1 y.2

/-- The job after `i` repetitions with trap counts `c`. -/
def Mma.job (m : Mma) (y : Job) (i : Nat) (c : Vector W32 3) : Job :=
  { y with traps := { y.traps with count := c }, sq := y.sq.drop (i * m.need)
           m := { y.m with starved := if m.ascl ∧ 0 < i then none else y.m.starved } }

/-- The job as an MMA leaves it after `reps` repetitions, with the trap counts it made: it notes a threshold that they crossed. -/
def Mma.ended (m : Mma) (reps : Nat) (traps : MatrixTraps) (y : Job) : Job :=
  { y with traps := traps, sq := y.sq.drop (reps * m.need)
           m := { y.m with threshold := crossed y.traps.count.toList traps, starved := if m.ascl then none else y.m.starved } }

/-- A run of MMA before repetition `rep + k`. -/
def MmaAt (b : State) (y : Job) (m : Mma) (before : List W32) (rep k : Nat) (r : Run) (x : Memory × Vector W32 3) : Prop :=
  r.s.Holds b (m.job y (rep + k) x.2) x.1 ∧ r.w.header = before ∧ r.w.scales = [] ∧ r.w.done = 0

section
variable {b t : State} {y : Job} {m : Mma} {mem : Memory} {v : WordPos}

theorem mmaAt_loops {before : List W32} (hkind : b.focus.kind = .M) (hasked : y.m.asked = none) : LoopState (MmaAt b y m before) where
  content := fun ⟨hs, hh, hsc, hd⟩ hw => ⟨hs, (congrArg WordPos.header hw).trans hh, (congrArg WordPos.scales hw).trans hsc,
    (congrArg WordPos.done hw).trans hd⟩
  answered := fun ⟨hs, _⟩ => by rw [Run.unanswered, hs.engAsked, hkind]; exact congrArg (Option.any Asked.held) hasked
  undone := fun ⟨_, _, _, hd⟩ => hd

theorem unstarved_holds (ht : t.Holds b y mem) (hkind : b.focus.kind = .M) :
    (t.modEng (fun e => { e with starved := none })).Holds b { y with m := { y.m with starved := none } } mem := by
  have hmod := ht.modEng (fun e => { e with starved := none })
  rw [hkind] at hmod
  exact hmod

/-- The scale bytes of a repetition are there: it takes them. -/
theorem scales_taken {n : Nat} (ht : t.Holds b y mem) (hkind : b.focus.kind = .M) (hv : v.scales = []) (hn : n ≤ (scaleFront y.sq).length)
    (hascl : m.ascl = true) : ∃ t', m.scales n ⟨t, v⟩ = .ok ⟨t', { v with scales := (scaleFront y.sq).take n }⟩ () ∧
      t'.Holds b { y with sq := y.sq.drop n, m := { y.m with starved := none } } mem := by
  have hlen : ((scaleFront y.sq).take n).length = n := List.length_take_of_le hn
  have hqueue := ht.modCur (fun j => { j with sq := j.sq.drop n })
  have hfew : ¬ (!m.ascl) = true := by simp [hascl]
  simp only [Mma.scales, if_neg hfew, takeScales, ht.jobAt_key, hv, List.length_nil, Nat.sub_zero, List.nil_append, hlen, le_refl, if_true]
  refine ⟨_, rfl, ?_⟩
  split_ifs
  · exact unstarved_holds hqueue hkind
  · exact unstarved_holds (unstarved_holds hqueue hkind) hkind

/-- Repetition `i` has its scale bytes at the head of the queue, or takes none. -/
theorem scales_front {i : Nat} {c : Vector W32 3} (ht : t.Holds b (m.job y i c) mem) (hkind : b.focus.kind = .M) (hv : v.scales = [])
    (hq : i * m.need + m.need ≤ (scaleFront y.sq).length) :
    ∃ t', m.scales (m.k / 32) ⟨t, v⟩ = .ok ⟨t', { v with scales := m.front (scaleFront y.sq) i }⟩ () ∧
      t'.Holds b (m.job y (i + 1) c) mem := by
  cases hascl : m.ascl with
  | false =>
    have hnone : m.need = 0 := by simp [Mma.need, hascl]
    have hfront : m.front (scaleFront y.sq) i = v.scales := by simp [Mma.front, hnone, hv]
    have hjob : m.job y (i + 1) c = m.job y i c := by simp [Mma.job, hnone, hascl]
    refine ⟨t, ?_, by rwa [hjob]⟩
    rw [Mma.scales, hascl, hfront]
    rfl
  | true =>
    have hneed : m.need = m.k / 32 := by simp [Mma.need, hascl]
    have hdrop : scaleFront (m.job y i c).sq = (scaleFront y.sq).drop (i * m.need) := scaleFront_drop (by omega)
    obtain ⟨t', hrun, ht'⟩ := scales_taken (n := m.need) ht hkind hv (by rw [hdrop, List.length_drop]; omega) hascl
    have hjob : m.job y (i + 1) c =
        { m.job y i c with sq := (m.job y i c).sq.drop m.need, m := { (m.job y i c).m with starved := none } } := by
      simp [Mma.job, hascl, Nat.succ_mul]
    refine ⟨t', ?_, by rwa [hjob]⟩
    rw [← hneed, hrun, hdrop, Mma.front]

theorem mma_rep {r : ResidentB} {zero : Bool} {step : BitVec 12} {before : List W32} {i : Nat} {ru : Run} {x : Memory × Vector W32 3}
    (hkind : b.focus.kind = .M) (hsound : Sound b) (hfits : m.fits b step i) (hw : b.window = (y.kern.accbase, y.kern.acccount))
    (hq : i * m.need + m.need ≤ (scaleFront y.sq).length) (hat : MmaAt b y m before i 0 ru x) :
    ∃ r', m.rep r zero step i ru = .ok r' () ∧ MmaAt b y m before i 1 r' (m.made b r zero step (scaleFront y.sq) i 0 x) := by
  obtain ⟨t, v⟩ := ru
  obtain ⟨ht, hheader, hscales, hdone⟩ := hat
  obtain ⟨hpos, hrow, hsource⟩ := hfits
  obtain ⟨t', htake, ht'⟩ := scales_front ht hkind hscales hq
  have hfront : (m.front (scaleFront y.sq) i).length = m.need := by
    rw [Mma.front, List.length_take, List.length_drop]
    omega
  have hin : ¬ (m.accRow i < 0 ∨ (t.window.2 : Int) ≤ m.accRow i) := by
    have hwindow : t.window = b.window := ht.window.trans hw.symm
    rw [hwindow]
    omega
  have hlocal := local?_ok (s := t') (ht'.errs.trans hsound) hsource
  have hsoft : Sound t' := ht'.errs.trans hsound
  have hacc : ∀ o, t'.accAddr o = b.accAddr o := (ht'.samePlaces rfl rfl hw.symm).accAddr
  rw [Mma.accRow] at hin
  rw [Mma.source, Mma.len] at hlocal
  simp only [Mma.rep, if_neg hin, htake, got_bind_ok, hlocal, hsoft.flawed, Bool.and_false, Bool.false_eq_true, if_false, ht'.jobAt_key]
  refine ⟨_, rfl, ?_, hheader, ?_, hdone⟩
  · rw [hacc, ht'.fpkg, ht'.ftile, ht'.mem]
    exact (ht'.withMem _).modCur _
  · rw [← Mma.need]
    exact List.drop_eq_nil_of_le hfront.le

theorem threshold_noted {reps : Nat} {ru : Run} {x : Memory × Vector W32 3} (hkind : b.focus.kind = .M) (hreps : 0 < reps)
    (hat : MmaAt b y m y.traps.count.toList reps 0 ru x) :
    ∃ r', noteThreshold ru = .ok r' () ∧ r'.s.Holds b (m.ended reps { y.traps with count := x.2 } y) x.1 := by
  obtain ⟨ht, hheader, -, -⟩ := hat
  refine ⟨_, by rw [noteThreshold, ht.jobAt_key], ?_⟩
  have hnoted := ht.modEng (fun e => { e with threshold := crossed ru.w.header (m.job y reps x.2).traps })
  have hended : m.ended reps { y.traps with count := x.2 } y = (m.job y reps x.2).modEng .M (fun e => { e with threshold := crossed ru.w.header (m.job y reps x.2).traps }) := by
    simp [Mma.ended, Mma.job, Job.modEng, Job.setEng, Job.eng, hheader, hreps]
  rwa [hended, ← hkind]

theorem mmaAt_start (hb : t.Holds b y mem) (hscales : v.scales = []) (hdone : v.done = 0) :
    MmaAt b y m v.header 0 0 ⟨t, v⟩ (mem, y.traps.count) := by
  have hjob : m.job y 0 y.traps.count = y := by simp [Mma.job]
  exact ⟨by rwa [Nat.add_zero, hjob], rfl, hscales, hdone⟩

theorem made_congr {s : State} (h : SamePlaces s b) (r : ResidentB) (zero : Bool) (step : BitVec 12) : m.made b r zero step = m.made s r zero step := by
  funext q i k y
  rw [Mma.made, Mma.made, fpkg_focus h.1, ftile_focus h.1, h.accAddr]

end

section
variable {s : State} {j : Job} {w : EW} {d : List Word} (h : EngineReady s j (some .M) .matrix w.pop) (hd : s.desc w.desc.toNat = d)
include h hd

theorem mldb_loads {m : Mldb} {cols : List (List BBlock)} (hm : parseMldb ((s.pkgAt s.fpkg).svc == 0) d = some m) (hrep : w.rep = 0)
    (hcols : m.columns s = .ok cols) : execMldb w s = .next (((s.begun j .matrix w.pop).modCur (fun j => { j with
      resB := some ⟨BitVec.ofNat 2 m.btype, BitVec.ofNat 2 m.layout, m.sp, m.bscl, m.k, m.n, cols⟩ })).completeWord w.push w.chain none) := by
  subst hd
  rw [execMldb, h.not_droopDue, if_neg Bool.false_ne_true]
  have hparse : ∀ t, Fetches s w t → parseMldb t.pilot (t.desc1 w) = some m := fun t ht => by
    rw [State.pilot, pkgAt_pkgs ht.pkgs, fpkg_focus ht.focus, ht.desc1, hm]
  refine engineExec_runs h (fun t ht => congrArg (fun m => some (Plan.of (mldbRun w m))) (hparse t ht)) (plan_bound_none rfl ..)
    (plan_ready_none rfl (Nat.zero_le _)) fun x => ?_
  have hcols' : m.columns ((s.begun j .matrix w.pop).modCur (fun j => { j with resB := none })) = .ok cols :=
    (columns_congr (local?_congr (by simp) (by simp) (by simp)) m).trans hcols
  show mldbRun w (some m) _ _ = _
  rw [mldbRun]
  simp only [hrep, ne_eq, not_true_eq_false, if_false, hcols', modCur_modCur]

theorem mthr_sets (h0 : bits (nth d 0 0) 63 32 = 0) (h1 : bits (nth d 1 0) 63 32 = 0) (h2 : bits (nth d 2 0) 63 32 = 0)
    (h3 : bits (nth d 3 0) 63 1 = 0) :
    execMthr w s = .next (((s.begun j .matrix w.pop).modCur (Job.limited d)).completeWord w.push w.chain none) := by
  subst hd
  refine engineExec_runs h (p := Plan.of fun _ u => .done (u.modCur (Job.limited _)) none) (fun t ht => ?_) (plan_bound_none rfl ..)
    (plan_ready_none rfl (Nat.zero_le _)) fun x => rfl
  simp only [ht.desc1]
  refine if_neg ?_
  simp only [not_or, not_not]
  exact ⟨h0, h1, h2, h3⟩

theorem mclr_clears {p : Pat} (hp : parsePat d [2] = some p) (haux : p.aux = 0) (hl : LocalPattern s p w.step (ewReps w)) :
    execMclr w s = s.memoryWord j .matrix w (foldWord (w.rep.toNat + 1) p.n
      (fun r k m => if p.inB k then p.store s w.step r k 0 m else m) s.mem) := by
  subst hd
  have hlocal : LocalPat s p w.step (ewReps w) := .of_parse hp (.inr (by simpa using parsePat_space hp)) hl
  refine engineExec_memory (free := fun _ _ _ _ => false) (uses := []) (last := noEnd)
    (fun rep k r => if p.inB k then p.write (ewUse w false) (fun _ => 0) rep k r else .ok r ()) h (fun t ht => ?_) rfl
    (fun rep k m v hr hk hm => ?_) fun _ => rfl
  · simp only [ht.desc1, hp]
    exact if_neg (not_not.mpr haux)
  · split_ifs with hb
    · exact write_place hlocal rfl hm (hl rep k hr hk hb) _
    · rfl

theorem mout_writes {p : Pat} {f : FpFmt} {n : Nat} (hsound : Sound s) (hp : parsePat d [1, 3] = some p) (hspace : p.space = 1)
    (hbits : bits p.aux 31 22 = 0) (hfmt : moutFmt (bits p.aux 21 20) = some (f, n)) (hsize : p.esize = n)
    (hcols : bits p.aux 19 9 + p.n ≤ 2048) (hl : LocalPattern s p w.step (ewReps w))
    (hrows : ∀ r, r < ewReps w → bits p.aux 8 0 + r < s.window.2) :
    execMout w s = s.memoryWord j .matrix w (foldWord (w.rep.toNat + 1) p.n (fun r k m => if p.inB k then p.store s w.step r k
      (fpConvert fp32 f .rne (read32 m (s.accAddr ((bits p.aux 8 0 + r) * 8192 + 4 * (bits p.aux 19 9 + k)))).toNat) m else m) s.mem) := by
  subst hd
  have hlocal : LocalPat s p w.step (ewReps w) := .of_parse hp (.inl hspace) hl
  refine engineExec_memory (free := fun _ _ _ _ => false) (uses := p.chan false)
    (last := fun r => if p.space = 3 then endWrite p.base r else .ok r ())
    (moutElem p (ewUse w false) f (bits p.aux 8 0) (bits p.aux 19 9)) h (fun t ht => ?_) (hlocal.chan false)
    (fun rep k m v hr hk hm => ?_) fun _ => if_neg hlocal.no_chan
  · simp only [ht.desc1, hp, hfmt]
    refine if_neg ?_
    simp only [not_or, not_not]
    exact ⟨hbits, hsize, by omega⟩
  · have hrow : ¬ ({ s.begun j .matrix w.pop with mem := m } : State).window.2 ≤ bits p.aux 8 0 + rep :=
      not_le.mpr (by rw [hm.2.2]; exact hrows rep hr)
    rw [moutElem, room_local hlocal, got_bind_ok, if_neg hrow, (hm.sound hsound).flawed, if_neg Bool.false_ne_true, hm.accAddr]
    cases hb : p.inB k with
    | false => exact put_local hlocal rfl hm (fun h => absurd h Bool.false_ne_true) _
    | true => exact put_local hlocal rfl hm (fun _ => hl rep k hr hk hb) _

theorem mrdc_writes {p : Pat} (hsound : Sound s) (hp : parsePat [nth d 0 0, 0, 0, 0] [1] = some p) (h1 : nth d 1 0 = 0) (h2 : nth d 2 0 = 0)
    (h3 : bits (nth d 3 0) 63 1 = 0) (halign : p.base % 4 = 0)
    (hroom : ∀ r i : Nat, r < ewReps w → i < 6 → (BitVec.ofInt 64 (p.base + r * w.step.toInt * 16 + 4 * i)).toNat + 4 ≤ 0x60_0000) :
    let o := foldWord (w.rep.toNat + 1) 6 (mrdcStep s p.base ((nth d 3 0).getLsbD 0) w.step) (s.mem, j.traps)
    execMrdc w s = .next ((({ s.begun j .matrix w.pop with mem := o.1 } : State).modCur (fun j => { j with traps := o.2 })).completeWord
      w.push w.chain none) := by
  subst hd
  intro o
  refine engineExec_ends (nxt := none) h (p := Plan.of (loopWord (ewReps w) 6 (mrdcElem p.base ((nth (s.desc w.desc.toNat) 3 0).getLsbD 0) w.step) noEnd)) (fun t ht => ?_) (plan_bound_none rfl ..)
    (plan_ready_none rfl (Nat.zero_le _)) fun x => ?_
  · simp only [ht.desc1, dw, hp]
    refine if_neg ?_
    simp only [not_or, not_not]
    exact ⟨h1, h2, h3, halign⟩
  · have hsb : Sound (s.begun j .matrix w.pop) := (begun_errs ..).trans hsound
    have hstart : (s.begun j .matrix w.pop).Holds (s.begun j .matrix w.pop) { j.popped w.pop with traps := j.traps } s.mem := by
      rw [← popped_traps j w.pop]
      exact h.begun_holds
    obtain ⟨t, hrun, ht⟩ := loopAhead_holds (J := fun x : Memory × MatrixTraps => { j.popped w.pop with traps := x.2 })
      (M := fun x : Memory × MatrixTraps => x.1)
      (g := mrdcStep s p.base ((nth (s.desc w.desc.toNat) 3 0).getLsbD 0) w.step)
      (f := mrdcElem p.base ((nth (s.desc w.desc.toNat) 3 0).getLsbD 0) w.step) (free := fun _ _ _ _ => false) (n := 6)
      (reps := ewReps w) (x := (s.mem, j.traps)) (w := .fetchedAs x) (last := noEnd) rfl rfl rfl
      (fun y => h.popped_unasked)
      (fun rep i y t v hr hi ht _ => by
        obtain ⟨t', hf, ht'⟩ := mrdcElem_writes (v := v) hsb ht (hroom rep i hr hi)
        rw [fpkg_focus (begun_focus ..), ftile_focus (begun_focus ..)] at ht'
        exact ⟨t', hf, ht'⟩)
      (fun _ => rfl) hstart
    refine ⟨t, hrun, ht.completeWord_eq ?_ ..⟩
    exact (h.begun_holds.withMem _).modCur _

theorem mma_adds {r : ResidentB} {m : Mma} (zero : Bool) (hsound : Sound s) (hres : j.resB = some r)
    (hm : parseMma ((s.pkgAt s.fpkg).svc == 0) (some r) d = some m) (hrows : ∀ i, i < ewReps w → m.fits s w.step i)
    (hscales : ewReps w * m.need ≤ (scaleFront j.sq).length) :
    let o := foldWord (w.rep.toNat + 1) 1 (m.made s r zero w.step (scaleFront j.sq)) (s.mem, j.traps.count)
    mmaExec zero w s = .next ((({ s.begun j .matrix w.pop with mem := o.1 } : State).modCur (m.ended (ewReps w) { j.traps with count := o.2 })).completeWord
      w.push w.chain none) := by
  subst hd
  intro o
  have hplan : ∀ t, Fetches s w t → parseMma t.pilot (some r) (t.desc1 w) = some m := fun t ht => by
    rw [State.pilot, pkgAt_pkgs ht.pkgs, fpkg_focus ht.focus, ht.desc1, hm]
  refine engineExec_ends (nxt := none) h (p := ⟨[], m.need, fun p s =>
    loopWord (ewReps w) 1 (fun rep _ r' => m.rep r zero w.step rep r') noteThreshold
      (if p.header = [] then { p with header := j.traps.count.toList } else p) s⟩) (fun t ht => ?_) (plan_bound_none rfl ..)
    (plan_ready_none rfl ?_) fun x => ?_
  · simp only [hres, hplan t ht]
    rfl
  · exact le_trans (Nat.le_mul_of_pos_left _ (Nat.succ_pos _)) hscales
  · have hkind : (s.begun j .matrix w.pop).focus.kind = .M := by rw [begun_focus, h.kind]
    have hasked : (j.popped w.pop).m.asked = none := by
      have := h.popped_unasked
      rwa [hkind] at this
    have hplaces := h.samePlaces
    obtain ⟨t, hrun, ht⟩ := loopAhead_folds (mmaAt_loops (before := (j.popped w.pop).traps.count.toList) (m := m) hkind hasked)
      (g := m.made s r zero w.step (scaleFront j.sq)) (f := fun rep _ r' => m.rep r zero w.step rep r') (last := noteThreshold)
      (free := fun _ _ _ _ => false) (n := 1) (reps := ewReps w) (x := (s.mem, j.traps.count)) (s := s.begun j .matrix w.pop)
      (w := { WordPos.fetchedAs x with header := j.traps.count.toList })
      (P := fun t => t.Holds (s.begun j .matrix w.pop) (m.ended (ewReps w) { j.traps with count := o.2 } (j.popped w.pop)) o.1)
      (fun i k ru y hi hk hat => by
        obtain rfl : k = 0 := by omega
        rw [← popped_sq j w.pop, ← made_congr hplaces]
        refine mma_rep hkind (hplaces.sound hsound) ?_ (window_of_jobAt h.begun_jobAt_key) ?_ hat
        · obtain ⟨hpos, hrow, hsource⟩ := hrows i hi
          exact ⟨hpos, by rwa [hplaces.2.2], hsource⟩
        · rw [popped_sq, ← Nat.succ_mul]
          exact le_trans (Nat.mul_le_mul_right _ hi) hscales)
      (fun _ _ _ hat => hat) rfl rfl
      (by
        rw [← popped_traps j w.pop]
        exact mmaAt_start h.begun_holds rfl rfl)
      (fun ru hat => by
        rw [← popped_traps j w.pop]
        exact threshold_noted hkind (Nat.succ_pos _) hat)
    exact ⟨t, hrun, ht.completeWord_eq ((h.begun_holds.withMem _).modCur _) ..⟩

end

/-- Settles O44: each word is the fold of what its repetitions or elements make of memory and of the stream's job. -/
theorem matrixWords : Obligations.MatrixWords := by
  unfold Obligations.MatrixWords
  intro s j w h hsound
  refine ⟨fun m cols hm hrep hcols => ⟨?mldb, ?bytes⟩, ?mma, fun p hp haux hl => ?mclr, fun h0 h1 h2 h3 => ?mthr, ?mrdc,
    fun p f n hp hspace hbits hfmt hsize hcols hl hrows => ?mout⟩
  case mldb =>
    show execMldb w s = _
    exact mldb_loads h rfl hm hrep hcols
  case bytes =>
    intro hsp hcv htype c kb i col blk hi hc hk
    obtain ⟨hlive, hcodes⟩ := block_dense hsp hcv htype (columns_block hcols hc hk)
    refine ⟨hlive, ?_⟩
    rw [hcodes, nth_readBytes _ _ hi]
    simp only [apAddr, Nat.add_assoc]
  case mma =>
    intro r m zero hres hm row a0 len need hrows hscales
    cases zero with
    | false =>
      show exec (.mma w) s = _
      show mmaExec false w s = _
      exact mma_adds h rfl false hsound hres hm hrows hscales
    | true =>
      show exec (.mmaz w) s = _
      show mmaExec true w s = _
      exact mma_adds h rfl true hsound hres hm hrows hscales
  case mclr =>
    show execMclr w s = _
    exact mclr_clears h rfl hp haux hl
  case mthr =>
    show execMthr w s = _
    exact mthr_sets h rfl h0 h1 h2 h3
  case mrdc =>
    intro p hp h1 h2 h3 halign at_ hroom
    show execMrdc w s = _
    exact mrdc_writes h rfl hsound hp h1 h2 h3 halign hroom
  case mout =>
    show execMout w s = _
    exact mout_writes h rfl hsound hp hspace hbits hfmt hsize hcols hl hrows

end Sys2Proof.Machine
end

section
/-!
SUPPORT. The stream switch (11 R293, R294): what taking and sending a beat or a mark comes to, and two channels of the job in focus.
-/

namespace Sys2Proof.Machine

/-! ### Beats and marks -/

section
variable {c n : Nat} {r : Run} {l : List Beat}

section
variable (hshort : r.w.held.length < n) (hopen : r.w.ended c = false)
include hshort hopen

theorem beat_needed : ¬ (n ≤ r.w.held.length ∨ r.w.ended c = true) := by simp [hopen, hshort]

theorem takeBeat_empty (h : r.s.beats c = []) : takeBeat c n r = .wait (r.awaits c) := by
  rw [takeBeat, if_neg (beat_needed hshort hopen), h]

theorem takeBeat_beat {x : List Byte} (h : r.s.beats c = .beat x :: l) : takeBeat c n r =
    .ok ⟨r.s.modSw c (fun k => { k with q := k.q.drop 1 }), { r.w with held := r.w.held ++ x }⟩ () := by
  rw [takeBeat, if_neg (beat_needed hshort hopen), h]

theorem takeBeat_mark (h : r.s.beats c = .mark :: l) : takeBeat c n r =
    .ok ⟨r.s.modSw c (fun k => { k with q := k.q.drop 1 }), { r.w with marked := addChan r.w.marked c }⟩ () := by
  rw [takeBeat, if_neg (beat_needed hshort hopen), h]

end

theorem endRead_mark (hopen : r.w.ended c = false) (h : r.s.beats c = .mark :: l) : endRead c r =
    .ok ⟨r.s.modSw c (fun k => { k with q := k.q.drop 1 }), { r.w with marked := addChan r.w.marked c }⟩ () := by
  rw [endRead, hopen, h]
  rfl

theorem putBeat_room {b : Beat} (h : (r.s.beats c).length < 8) :
    putBeat c b r = .ok ⟨r.s.modSw c (fun k => { k with q := k.q ++ [b] }), r.w⟩ () := if_neg (not_le.mpr h)

theorem flushFull_empty (h : r.w.packed = []) : flushFull c r = .ok r () := by
  rw [flushFull, h]
  rfl

/-- A full beat goes at once where there is room. -/
theorem tryFlush_beat (hfull : r.w.packed.length = 1024) (h : (r.s.beats c).length < 8) : tryFlush c r =
    ⟨r.s.modSw c (fun k => { k with q := k.q ++ [.beat r.w.packed] }), { r.w with packed := [] }⟩ := by
  have htake : r.w.packed.take 1024 = r.w.packed := List.take_of_length_le hfull.le
  have hdrop : r.w.packed.drop 1024 = [] := List.drop_eq_nil_of_le hfull.le
  rw [tryFlush, flushFull, hfull, Nat.div_self (by decide), flushBeats, hfull, if_neg (Nat.lt_irrefl 1024), putBeat_room h, got_bind_ok, htake,
    hdrop, flushBeats]

/-- A producer that has nothing packed sends its mark. -/
theorem endWrite_mark (hnone : r.w.packed = []) (h : (r.s.beats c).length < 8) :
    endWrite c r = .ok ⟨r.s.modSw c (fun k => { k with q := k.q ++ [.mark] }), r.w⟩ () := by
  simp only [endWrite, flushFull_empty hnone, got_bind_ok, hnone, if_true, putBeat_room h]

end

/-! ### Two channels of the job in focus -/

theorem vset_comm {α : Type} {n : Nat} {v : Vector α (n + 1)} {i k : Nat} {x y : α} (h : i % (n + 1) ≠ k % (n + 1)) :
    vset (vset v i x) k y = vset (vset v k y) i x := Vector.set_comm _ _ h

theorem vset_vget_self {α : Type} {n : Nat} (v : Vector α (n + 1)) (i : Nat) : vset v i (vget v i) = v := Vector.set_getElem_self _

/-- The job with channels `c` and `e`. -/
def Job.twoChans (y : Job) (c e : Nat) (k1 k2 : Channel) : Job := { y with sw := vset (vset y.sw c k1) e k2 }

section
variable {t b : State} {y : Job} {c e : Nat} {k1 k2 : Channel} {mem : Memory} (hc : c < 8) (he : e < 8) (hne : c ≠ e)
  (ht : t.Holds b (y.twoChans c e k1 k2) mem)

theorem twoChans_self : y.twoChans c e (vget y.sw c) (vget y.sw e) = y := by
  rw [Job.twoChans, vset_vget_self, vset_vget_self]

include ht

theorem beats_right : t.beats e = k2.q := by
  rw [State.beats, ht.jobAt_key]
  exact congrArg Channel.q (vget_vset_same _ _ _)

theorem modSw_right (f : Channel → Channel) : (t.modSw e f).Holds b (y.twoChans c e k1 (f k2)) mem := by
  have hset : vset (vset (vset y.sw c k1) e k2) e (f (vget (vset (vset y.sw c k1) e k2) e)) = vset (vset y.sw c k1) e (f k2) := by
    rw [vget_vset_same]
    exact Vector.set_set ..
  rw [Job.twoChans, ← hset]
  exact ht.modCur _

include hc he hne

theorem beats_left : t.beats c = k1.q := by
  rw [State.beats, ht.jobAt_key]
  have hleft : vget (vset (vset y.sw c k1) e k2) c = k1 :=
    (vget_vset_ne _ _ (by omega)).trans (vget_vset_same _ _ _)
  exact congrArg Channel.q hleft

theorem modSw_left (f : Channel → Channel) : (t.modSw c f).Holds b (y.twoChans c e (f k1) k2) mem := by
  have hleft : vget (vset (vset y.sw c k1) e k2) c = k1 :=
    (vget_vset_ne _ _ (by omega)).trans (vget_vset_same _ _ _)
  have hset : vset (vset (vset y.sw c k1) e k2) c (f (vget (vset (vset y.sw c k1) e k2) c)) = vset (vset y.sw c (f k1)) e k2 := by
    rw [hleft, vset_comm (by omega : e % 8 ≠ c % 8)]
    exact congrArg (fun v => vset v e k2) (Vector.set_set ..)
  rw [Job.twoChans, ← hset]
  exact ht.modCur _

end

/-! ### A word of one element -/

/-- A word of one repetition and one element ends as its element and its last part do. -/
theorem loopAhead_once {f : Nat → Nat → Run → Got Unit} {last : Run → Got Unit} {free : Nat → Nat → Nat → State → Bool} {w : WordPos}
    {s : State} {P : State → Prop} {Q : Run → Prop} (hrep : w.rep = 0) (helem : w.elem = 0) (hdone : w.done = 0) (hasked : s.engAsked = none)
    (hQ : LoopState fun _ _ r (_ : Unit) => Q r) (hstep : ∀ v, v.content = w.content → ∃ r', f 0 0 ⟨s, v⟩ = .ok r' () ∧ Q r')
    (hlast : ∀ r, Q r → ∃ r', last r = .ok r' () ∧ P r'.s) : ∃ t, loopAhead free 1 1 f last w s = .done t none ∧ P t := by
  have hat : LoopState (fun rep k r (_ : Unit) => if rep + k = 0 then r.s = s ∧ r.w.content = w.content else Q r) :=
    { content := fun h hw => by
        split_ifs at h ⊢
        · exact ⟨h.1, hw.trans h.2⟩
        · exact hQ.content (rep := 0) (k := 0) (x := ()) h hw
      answered := fun h => by
        split_ifs at h
        · rw [Run.unanswered, h.1, hasked]
          rfl
        · exact hQ.answered (rep := 0) (k := 0) (x := ()) h
      undone := fun h => by
        split_ifs at h
        · exact (congrArg WordPos.done h.2).trans hdone
        · exact hQ.undone (rep := 0) (k := 0) (x := ()) h }
  refine loopAhead_folds hat (n := 1) (reps := 1) (g := fun _ _ _ => ()) (x := ()) (fun rep k r _ hr hk h => ?_)
    (fun rep r _ h => ?_) hrep helem ?_ (fun r h => hlast r ?_)
  · obtain rfl : rep = 0 := by omega
    obtain rfl : k = 0 := by omega
    obtain ⟨s', v⟩ := r
    obtain ⟨rfl, hv⟩ := h
    exact hstep v hv
  · exact h
  · exact ⟨rfl, rfl⟩
  · exact h

end Sys2Proof.Machine
end

section
/-!
SUPPORT. Vector operations on registers and channels (11 R304 to R312), and O40.
-/

namespace Sys2Proof.Machine

/-- The job with vector registers `m`. -/
def Job.withVregs (j : Job) (m : Map W32) : Job := { j with vreg := m }

theorem State.Holds.modVregs {t b : State} {y : Job} {m : Map W32} {mem : Memory} (h : t.Holds b (y.withVregs m) mem) (f : Map W32 → Map W32) :
    (t.modVregs f).Holds b (y.withVregs (f m)) mem := h.modCur _

/-! ### Operands (R304, R305) -/

theorem regs_not_channel {code : Option Nat} (h : notChannel code) (l : List (Option Nat)) : chansOf (code :: l) = chansOf l := by
  cases code with
  | none => rfl
  | some c =>
    have hout : ¬ (32 ≤ c ∧ c < 40) := by
      rcases h with h | h <;> omega
    simp [chansOf, hout]

theorem chansOf_first_channel {code : Option Nat} {c : Nat} (h : code = some (32 + c)) (hc : c < 8) {l : List (Option Nat)}
    (hl : chansOf l = []) : chansOf (code :: l) = [c] := by
  subst h
  have hin : 32 + c < 40 := by omega
  have hrest : ((l.filterMap id).filter (fun c => decide (32 ≤ c) && decide (c < 40))).map (· - 32) = [] := by
    cases hm : ((l.filterMap id).filter (fun c => decide (32 ≤ c) && decide (c < 40))).map (· - 32) with
    | nil => rfl
    | cons a m =>
      rw [chansOf, hm, List.eraseDups_cons] at hl
      exact absurd hl (List.cons_ne_nil _ _)
  rw [chansOf, List.filterMap_cons_some (f := id) (a := some (32 + c)) rfl, List.filter_cons_of_pos (by simpa using hin), List.map_cons, hrest,
    Nat.add_sub_cancel_left]
  rfl

theorem chansOf_register {d : Nat} (h : d < 32) : chansOf [some d] = [] :=
  regs_not_channel (code := some d) (.inl h) []

section
variable {v : VDesc} {step : BitVec 12} {f : List Bool → List W32 → List W32 → List W32 → List W32 × List Bool}

theorem reads_none (ha : notChannel v.oa) (hb : notChannel v.ob) (hc : notChannel v.oc) : v.reads = [] := by
  rw [VDesc.reads, regs_not_channel ha, regs_not_channel hb, regs_not_channel hc]
  rfl

theorem writes_none {d : Nat} (hod : v.od = some d) (hd : d < 32) : v.writes = [] := by
  rw [VDesc.writes, hod, chansOf_register hd]

section
variable {t b : State} {y : Job} {mem : Memory} {p : WordPos} (ht : t.Holds b y mem)
include ht

theorem vregs_holds : t.vregs = y.vreg := by rw [State.vregs, ht.jobAt_key]; rfl

theorem active_holds : v.active ⟨t, p⟩ = v.activeIn y.vreg := by rw [VDesc.active, VDesc.activeIn, vregs_holds ht]

/-- An operand that no channel gives has its lanes in the register file. -/
theorem src_holds {code : Option Nat} (h : notChannel code) (rep : Nat) (adv : Bool) :
    v.src step rep code adv ⟨t, p⟩ = v.lanesIn y.vreg step rep code adv := by
  cases code with
  | none => rfl
  | some c =>
    rw [VDesc.src, VDesc.lanesIn, vregs_holds ht]
    split_ifs with hconst hreg
    · rfl
    · rfl
    · exact absurd h (not_or.mpr ⟨hreg, hconst⟩)

/-- A repetition from registers to a register. -/
theorem rep_registers {d : Nat} (ha : notChannel v.oa) (hb : notChannel v.ob) (hc : notChannel v.oc) (hod : v.od = some d) (hd : d < 32)
    (hheld : p.held = []) (rep : Nat) : ∃ t', v.rep step f rep ⟨t, p⟩ = .ok ⟨t', p⟩ () ∧
      t'.Holds b (y.withVregs (v.after d step f rep y.vreg)) mem := by
  have hp : ({ p with held := [] } : WordPos) = p := by rw [← hheld]
  simp only [VDesc.rep, reads_none ha hb hc, takeBeats, got_bind_ok, VDesc.room, writes_none hod hd, VDesc.dst, hod, if_pos hd,
    active_holds ht, src_holds ht ha, src_holds ht hb, src_holds ht hc, hp]
  exact ⟨_, rfl, ht.modCur _⟩

end

end

/-! ### Words from registers to a register -/

section
variable {s : State} {j : Job} {w : EW} {v : VDesc} {d : Nat} (hod : v.od = some d) (hd : d < 32)
  (ha : notChannel v.oa) (hb : notChannel v.ob) (hc : notChannel v.oc)
include hod hd ha hb hc

theorem ends_registers (r : Run) : v.ends r = .ok r () := by
  rw [VDesc.ends, reads_none ha hb hc, writes_none hod hd]
  rfl

theorem uses_registers : v.uses = [] := by
  rw [VDesc.uses, reads_none ha hb hc, writes_none hod hd]
  rfl

variable (h : EngineReady s j (some .V) .none w.pop)
include h

/-- The run of a register operation whose last part goes from what its repetitions made to `P`. -/
theorem registers_run {f : List Bool → List W32 → List W32 → List W32 → List W32 × List Bool} {body : Nat → Nat → Run → Got Unit}
    {last : Run → Got Unit} {p : WordPos} {P : State → Prop} (hfirst : p.rep = 0 ∧ p.elem = 0 ∧ p.done = 0 ∧ p.held = [])
    (hbody : ∀ rep k t q, q.content = p.content → body rep k ⟨t, q⟩ = v.rep w.step f rep ⟨t, q⟩)
    (hlast : ∀ t q, t.Holds (s.begun j .none w.pop)
      ((j.popped w.pop).withVregs (foldWord (ewReps w) 1 (fun r _ => v.after d w.step f r) j.vreg)) s.mem → q.content = p.content →
      ∃ r', last ⟨t, q⟩ = .ok r' () ∧ P r'.s) :
    ∃ t, loopWord (ewReps w) 1 body last p (s.begun j .none w.pop) = .done t none ∧ P t := by
  obtain ⟨hrep, helem, hdone, hheld⟩ := hfirst
  refine loopAhead_holds_last (J := fun m => (j.popped w.pop).withVregs m) (M := fun _ => s.mem)
    (g := fun r _ => v.after d w.step f r) hrep helem hdone (fun m => h.popped_unasked) (fun rep k m t q _ _ ht hq => ?_) hlast
    (x := j.vreg) ?_
  · rw [hbody rep k t q hq]
    have hq' : q.held = [] := (congrArg WordPos.held hq).trans hheld
    exact rep_registers ht ha hb hc hod hd hq' rep
  · rw [← popped_vreg j w.pop]
    exact h.begun_holds

theorem vecExec_registers {u : VUses} (f : VDesc → List Bool → List W32 → List W32 → List W32 → List W32 × List Bool)
    (hv : parseV u (s.desc w.desc.toNat) = some v) : vecExec u w f s = .next (((s.begun j .none w.pop).modVregs
      (foldWord (w.rep.toNat + 1) 1 (fun r _ => v.after d w.step (f v) r))).completeWord w.push w.chain none) := by
  refine engineExec_ends (nxt := none) h (p := ⟨v.uses, 0, loopWord (ewReps w) 1 (fun rep _ r => v.rep w.step (f v) rep r) v.ends⟩)
    (fun t ht => by rw [ht.desc1, hv]) (plan_bound_none (uses_registers hod hd ha hb hc) ..)
    (plan_ready_none (uses_registers hod hd ha hb hc) (Nat.zero_le _)) fun x => ?_
  obtain ⟨t, hrun, ht⟩ := registers_run hod hd ha hb hc h (f := f v) (body := fun rep _ r => v.rep w.step (f v) rep r) (last := v.ends)
    (P := fun t => t.Holds (s.begun j .none w.pop)
      ((j.popped w.pop).withVregs (foldWord (ewReps w) 1 (fun r _ => v.after d w.step (f v) r) j.vreg)) s.mem)
    (p := .fetchedAs x) ⟨rfl, rfl, rfl, rfl⟩ (fun _ _ _ _ _ => rfl)
    (fun t q ht _ => ⟨_, ends_registers hod hd ha hb hc _, ht⟩)
  refine ⟨t, hrun, ht.completeWord_eq ?_ ..⟩
  rw [← popped_vreg j w.pop]
  exact h.begun_holds.modCur _

/-- VSMX merges under the header that its register held before the first repetition, and leaves the merged header. -/
theorem vsmx_merges {c : Nat} (hv : parseV { ob := true, oc := true, mask := false, hdr := true } (s.desc w.desc.toNat) = some v)
    (hoc : v.oc = some c) (hc32 : c < 32) : execVsmx w s = .next (((s.begun j .none w.pop).modVregs (fun m => vregPut
      (foldWord (w.rep.toNat + 1) 1 (fun r _ => v.after d w.step (fun act x y _ => (smxLanes ((vregLanes j.vreg c).take 4) x y, act)) r) m)
      v.vm (smxHeader ((vregLanes j.vreg c).take 4)))).completeWord w.push w.chain none) := by
  refine engineExec_ends (nxt := none) h (p := ⟨v.uses, 0, fun p s =>
    loopWord (ewReps w) 1 (fun rep _ r => v.rep w.step (fun act a b _ => (smxLanes r.w.header a b, act)) rep r)
      (fun r => (v.ends r).bind (fun r _ => .ok { r with s := r.s.modVregs (fun m => vregPut m v.vm (smxHeader r.w.header)) } ()))
      (if p.header = [] then { p with header := (vregLanes s.vregs c).take 4 } else p) s⟩)
    (fun t ht => by simp only [ht.desc1, hv, hoc, if_neg (not_le.mpr hc32)])
    (plan_bound_none (uses_registers hod hd ha hb hc) ..)
    (plan_ready_none (uses_registers hod hd ha hb hc) (Nat.zero_le _)) fun x => ?_
  have hheader : (vregLanes (s.begun j .none w.pop).vregs c).take 4 = (vregLanes j.vreg c).take 4 := by
    rw [vregs_holds h.begun_holds, popped_vreg]
  obtain ⟨t, hrun, ht⟩ := registers_run hod hd ha hb hc h
    (f := fun act a b _ => (smxLanes ((vregLanes j.vreg c).take 4) a b, act))
    (body := fun rep _ r => v.rep w.step (fun act a b _ => (smxLanes r.w.header a b, act)) rep r)
    (last := fun r => (v.ends r).bind (fun r _ => .ok { r with s := r.s.modVregs (fun m => vregPut m v.vm (smxHeader r.w.header)) } ()))
    (P := fun t => t.Holds (s.begun j .none w.pop) ((j.popped w.pop).withVregs (vregPut
      (foldWord (ewReps w) 1 (fun r _ => v.after d w.step (fun act x y _ => (smxLanes ((vregLanes j.vreg c).take 4) x y, act)) r) j.vreg)
      v.vm (smxHeader ((vregLanes j.vreg c).take 4)))) s.mem)
    (p := { WordPos.fetchedAs x with header := (vregLanes j.vreg c).take 4 }) ⟨rfl, rfl, rfl, rfl⟩
    (fun rep k t q hq => by
      have hq' : q.header = (vregLanes j.vreg c).take 4 := (congrArg WordPos.header hq :)
      simp only [hq'])
    (fun t q ht hq => by
      have hq' : q.header = (vregLanes j.vreg c).take 4 := (congrArg WordPos.header hq :)
      simp only [ends_registers hod hd ha hb hc, got_bind_ok, hq']
      exact ⟨_, rfl, ht.modVregs (fun m => vregPut m v.vm (smxHeader ((vregLanes j.vreg c).take 4)))⟩)
  rw [← hheader] at hrun
  refine ⟨t, hrun, ht.completeWord_eq ?_ ..⟩
  rw [← popped_vreg j w.pop]
  exact h.begun_holds.modCur _

end

/-! ### Words of one repetition from channel to channel (R293, R294) -/

theorem lanesBytes_length {l : List W32} (h : l.length = 256) : (lanesBytes l).length = 1024 := by
  rw [lanesBytes, List.take_of_length_le h.le, List.length_flatMap]
  simp only [leBytes_length, List.map_const', List.sum_replicate, h, smul_eq_mul]

theorem lanesOf_length (l : List Byte) : (lanesOf l).length = 256 := by simp [lanesOf]

theorem vregLanes_length (m : Map W32) (n : Nat) : (vregLanes m n).length = 256 := by simp [vregLanes]

theorem activeIn_length (v : VDesc) (m : Map W32) : (v.activeIn m).length = 256 := by
  rw [VDesc.activeIn]
  split_ifs
  · rw [List.length_map, vregLanes_length]
  · exact List.length_replicate

theorem lanesIn_length {v : VDesc} {m : Map W32} {step : BitVec 12} {r : Nat} {code : Option Nat} {adv : Bool} (h : code.isSome = true) :
    (v.lanesIn m step r code adv).length = 256 := by
  obtain ⟨c, rfl⟩ := Option.isSome_iff_exists.mp h
  rw [VDesc.lanesIn]
  split_ifs
  · exact List.length_replicate
  · exact vregLanes_length ..

/-- A descriptor gives every operand that its operation uses. -/
theorem parseV_operands {u : VUses} {d : List Word} {v : VDesc} (h : parseV u d = some v) :
    v.od.isSome = u.od ∧ v.oa.isSome = u.oa ∧ v.ob.isSome = u.ob ∧ v.oc.isSome = u.oc := by
  unfold parseV at h
  extract_lets d0 opd x srcs zero at h
  have hopd : ∀ used hi lo, (opd used hi lo).isSome = used := fun used hi lo => by cases used <;> rfl
  split_ifs at h
  all_goals
    obtain rfl : x = v := Option.some.inj h
    exact ⟨hopd .., hopd .., hopd .., hopd ..⟩

section
variable {s : State} {j : Job} {w : EW} {v : VDesc} {c e : Nat} {x : List Byte} {l : List Beat} (hoa : v.oa = some (32 + c))
  (hod : v.od = some (32 + e)) (hc : c < 8) (he : e < 8) (hne : c ≠ e) (hb : notChannel v.ob) (hcc : notChannel v.oc)
include hoa hc hb hcc

theorem reads_channel : v.reads = [c] := by
  refine chansOf_first_channel hoa hc ?_
  rw [regs_not_channel hb, regs_not_channel hcc]
  rfl

theorem src_channel {r : Run} {step : BitVec 12} {adv : Bool} (rep : Nat) (hheld : r.w.held = x) (hx : x.length = 1024) :
    v.src step rep v.oa adv r = lanesOf x := by
  have h40 : ¬ 32 + c = 40 := by omega
  unfold VDesc.src
  simp only [hoa, if_neg h40, if_neg (by omega : ¬ 32 + c < 32), Nat.add_sub_cancel_left, reads_channel hoa hc hb hcc, List.idxOf_cons_self,
    Nat.mul_zero, List.drop_zero, hheld, List.take_of_length_le hx.le]

omit hoa hc hb hcc in
include hod he in
theorem writes_channel : v.writes = [e] :=
  chansOf_first_channel hod he rfl

/-- What a repetition from channel `c` sends for the beat `x`. -/
def VDesc.sent (v : VDesc) (m : Map W32) (step : BitVec 12)
    (f : List Bool → List W32 → List W32 → List W32 → List W32 × List Bool) (x : List Byte) : List W32 :=
  let o := f (v.activeIn m) (lanesOf x) (v.lanesIn m step 0 v.ob v.advB) (v.lanesIn m step 0 v.oc v.advC)
  List.zipWith (fun (a : Bool) (y : W32) => if a then y else 0) o.2 o.1

section
variable {t b : State} {y : Job} {k1 k2 : Channel} {mem : Memory} {p : WordPos}
  {f : List Bool → List W32 → List W32 → List W32 → List W32 × List Bool} {step : BitVec 12}

include hod he hne in
/-- A repetition from a channel to a channel takes a beat and sends one. -/
theorem rep_channels (ht : t.Holds b (y.twoChans c e k1 k2) mem) (hheld : p.held = []) (hpacked : p.packed = []) (hopen : p.marked = 0)
    (hx : x.length = 1024) (hq : k1.q = .beat x :: l) (hroom : k2.q.length < 8) (hsent : (v.sent y.vreg step f x).length = 256) :
    ∃ t', v.rep step f 0 ⟨t, p⟩ = .ok ⟨t', p⟩ () ∧ t'.Holds b (y.twoChans c e { k1 with q := l }
      { k2 with q := k2.q ++ [.beat (lanesBytes (v.sent y.vreg step f x))] }) mem := by
  have hbeats : t.beats c = .beat x :: l := (beats_left hc he hne ht).trans hq
  have ht1 := modSw_left hc he hne ht (fun k => { k with q := k.q.drop 1 })
  have hclosed : p.ended c = false := by rw [WordPos.ended, hopen]; exact BitVec.getLsbD_zero
  have hshort : p.held.length < 1024 := by rw [hheld]; decide
  have htake : takeBeats v.reads 0 ⟨t, p⟩ = .ok ⟨t.modSw c (fun k => { k with q := k.q.drop 1 }), { p with held := x }⟩ () := by
    rw [reads_channel hoa hc hb hcc, takeBeats, if_neg (not_le.mpr hshort), takeBeat_beat hshort hclosed hbeats, got_bind_ok]
    simp only [hheld, List.nil_append]
    exact congrArg (fun r => Got.ok r ()) (if_neg (Bool.eq_false_iff.mp hclosed))
  have hfirst := fun adv => src_channel (r := ⟨t.modSw c (fun k => { k with q := k.q.drop 1 }), { p with held := x }⟩) (step := step)
    (adv := adv) hoa hc hb hcc 0 rfl hx
  have hempty : flushFull e ⟨t.modSw c (fun k => { k with q := k.q.drop 1 }), { p with held := x }⟩ = .ok _ () := flushFull_empty hpacked
  have hsrc := fun code (hcode : notChannel code) adv =>
    src_holds (v := v) (step := step) (p := { p with held := x }) ht1 hcode 0 adv
  have hsend : (lanesBytes (v.sent y.vreg step f x)).length = 1024 := lanesBytes_length hsent
  have hsink : ¬ 32 + e < 32 := by omega
  have hp : ({ p with held := [], packed := [] } : WordPos) = p := by
    cases p
    cases hheld
    cases hpacked
    rfl
  have hspace : ((t.modSw c (fun k => { k with q := k.q.drop 1 })).beats e).length < 8 := by rwa [beats_right ht1]
  have hflush := tryFlush_beat (c := e) (r := ⟨t.modSw c (fun k => { k with q := k.q.drop 1 }),
    { p with held := [], packed := lanesBytes (v.sent y.vreg step f x) }⟩) hsend hspace
  simp only [VDesc.rep, htake, got_bind_ok, VDesc.room, writes_channel hod he, hempty, active_holds ht1, hfirst,
    hsrc _ hb, hsrc _ hcc, VDesc.dst, hod, if_neg hsink, Nat.add_sub_cancel_left, Run.pack]
  simp only [hpacked, List.nil_append]
  refine ⟨_, congrArg (fun r => Got.ok r ()) (hflush.trans (congrArg (Run.mk _) hp)), ?_⟩
  have ht2 := modSw_right ht1 (fun k => { k with q := k.q ++ [.beat (lanesBytes (v.sent y.vreg step f x))] })
  rwa [hq] at ht2

include hod he hne in
/-- Behind its last repetition the word takes the mark and sends its own. -/
theorem ends_channels (ht : t.Holds b (y.twoChans c e k1 k2) mem) (hpacked : p.packed = []) (hopen : p.marked = 0) (hq : k1.q = .mark :: l)
    (hroom : k2.q.length < 8) : ∃ r', v.ends ⟨t, p⟩ = .ok r' () ∧
      r'.s.Holds b (y.twoChans c e { k1 with q := l } { k2 with q := k2.q ++ [.mark] }) mem := by
  have hbeats : t.beats c = .mark :: l := (beats_left hc he hne ht).trans hq
  have hclosed : p.ended c = false := by rw [WordPos.ended, hopen]; exact BitVec.getLsbD_zero
  have ht1 := modSw_left hc he hne ht (fun k => { k with q := k.q.drop 1 })
  have hspace : ((t.modSw c (fun k => { k with q := k.q.drop 1 })).beats e).length < 8 := by rwa [beats_right ht1]
  have hmark := endWrite_mark (c := e) (r := ⟨t.modSw c (fun k => { k with q := k.q.drop 1 }), { p with marked := addChan p.marked c }⟩)
    hpacked hspace
  rw [VDesc.ends, reads_channel hoa hc hb hcc, endReads, endRead_mark hclosed hbeats, got_bind_ok, endReads, got_bind_ok, writes_channel hod he]
  refine ⟨_, hmark, ?_⟩
  have ht2 := modSw_right ht1 (fun k => { k with q := k.q ++ [.mark] })
  rwa [hq] at ht2

end

variable (h : EngineReady s j (some .V) .none w.pop) (hrep : w.rep = 0)
include h hrep

include hod he hne in
theorem vecExec_channels {u : VUses} {p q : Kind}
    (f : VDesc → List Bool → List W32 → List W32 → List W32 → List W32 × List Bool) (hbc : (vget j.sw c).bind = some (p, .V))
    (hbe : (vget j.sw e).bind = some (.V, q)) (hq : (vget j.sw c).q = .beat x :: .mark :: l) (hx : x.length = 1024)
    (hroom : (vget j.sw e).q.length ≤ 6) (hv : parseV u (s.desc w.desc.toNat) = some v)
    (hsent : (v.sent j.vreg w.step (f v) x).length = 256) :
    vecExec u w f s = .next ((((s.begun j .none w.pop).modSw c (fun k => { k with q := l })).modSw e
      (fun k => { k with q := k.q ++ [.beat (lanesBytes (v.sent j.vreg w.step (f v) x)), .mark] })).completeWord w.push w.chain none) := by
  have huses : v.uses = [(c, true), (e, false)] := by
    rw [VDesc.uses, reads_channel hoa hc hb hcc, writes_channel hod he]
    rfl
  have hreps : ewReps w = 1 := by rw [ewReps, hrep]; rfl
  refine engineExec_ends (nxt := none) h (p := ⟨v.uses, 0, loopWord (ewReps w) 1 (fun rep _ r => v.rep w.step (f v) rep r) v.ends⟩)
    (fun t ht => by rw [ht.desc1, hv]) ?bound ?ready fun y => ?run
  case bound => simp [Plan.bound, huses, Channel.boundAs, hbc, hbe, h.kind]
  case ready =>
    have hfew : (vget j.sw e).q.length < 8 := by omega
    simp [Plan.ready, huses, Channel.ready, hq, hfew]
  case run =>
    have hstart : (s.begun j .none w.pop).Holds (s.begun j .none w.pop)
        ((j.popped w.pop).twoChans c e (vget j.sw c) (vget j.sw e)) s.mem := by
      rw [← popped_sw j w.pop, twoChans_self]
      exact h.begun_holds
    rw [hreps]
    obtain ⟨t, hrun, ht⟩ := loopAhead_once (free := fun _ _ _ _ => false) (f := fun rep _ r => v.rep w.step (f v) rep r) (last := v.ends)
      (w := .fetchedAs y) (P := fun t => t.Holds (s.begun j .none w.pop) ((j.popped w.pop).twoChans c e { vget j.sw c with q := l }
        { vget j.sw e with q := (vget j.sw e).q ++ [.beat (lanesBytes (v.sent j.vreg w.step (f v) x))] ++ [.mark] }) s.mem)
      (Q := fun r => r.s.Holds (s.begun j .none w.pop) ((j.popped w.pop).twoChans c e { vget j.sw c with q := .mark :: l }
        { vget j.sw e with q := (vget j.sw e).q ++ [.beat (lanesBytes (v.sent j.vreg w.step (f v) x))] }) s.mem ∧
        r.w.content = (WordPos.fetchedAs y).content) rfl rfl rfl h.begun_engAsked
      { content := fun h hw => ⟨h.1, hw.trans h.2⟩
        answered := fun hr => by
          rw [Run.unanswered, hr.1.engAsked]
          exact congrArg (Option.any Asked.held) h.popped_unasked
        undone := fun h => congrArg WordPos.done h.2 }
      (fun v' hv' => by
        have hpos : v'.held = [] ∧ v'.packed = [] ∧ v'.marked = 0 :=
          ⟨(congrArg WordPos.held hv' :), (congrArg WordPos.packed hv' :), (congrArg WordPos.marked hv' :)⟩
        obtain ⟨hheld, hpacked, hopen⟩ := hpos
        obtain ⟨t', hf, ht'⟩ := rep_channels hoa hod hc he hne hb hcc (step := w.step) (f := f v) hstart hheld hpacked hopen hx hq (by omega)
          (by rwa [popped_vreg])
        rw [popped_vreg] at ht'
        exact ⟨_, hf, ht', hv'⟩)
      (fun r hr => by
        obtain ⟨hs, hw⟩ := hr
        refine ends_channels hoa hod hc he hne hb hcc hs (congrArg WordPos.packed hw :) (congrArg WordPos.marked hw :) rfl ?_
        simp only [List.length_append, List.length_cons, List.length_nil]
        omega)
    refine ⟨t, hrun, ht.completeWord_eq ?_ ..⟩
    have hend := modSw_right (modSw_left hc he hne hstart (fun k => { k with q := l }))
      (fun k => { k with q := k.q ++ [.beat (lanesBytes (v.sent j.vreg w.step (f v) x)), .mark] })
    simpa only [List.append_assoc, List.singleton_append] using hend

end

theorem vcmp_eq (c : Nat) : vcmp c = fun x y => if (if c = 0 then f32Eq x y else if c = 1 then f32Lt x y else f32Le x y) then 1 else 0 := by
  funext x y
  unfold vcmp
  split <;> rename_i h <;> simp_all

/-- Settles O40: a repetition makes one step of the registers, or takes one beat and sends one (`registers_run`, `rep_channels`). -/
theorem vectorResults : Obligations.VectorResults := by
  unfold Obligations.VectorResults
  refine ⟨fun s j w v d h hod hd ha hb hc => ?registers, ?channels⟩
  case registers =>
    intro b form ab abc two one all
    have hword : ∀ {i u f} (e : Host.Outcome State Fault Refusal), exec i s = e → e = vecExec u w f s → form i u (f v) :=
      fun e hi he hv => (hi.trans he).trans (vecExec_registers hod hd ha hb hc h _ hv)
    clear_value form
    refine ⟨hword (execVadd w s) rfl rfl, hword (execVsub w s) rfl rfl, hword (execVmul w s) rfl rfl, hword (execVmax w s) rfl rfl,
      hword (execVmin w s) rfl rfl, hword (execVfma w s) rfl rfl, hword (execVexp2 w s) rfl rfl, hword (execVlog2 w s) rfl rfl,
      hword (execVrcp w s) rfl rfl, hword (execVrsq w s) rfl rfl, hword (execVcvt w s) rfl rfl, ?vcmp, hword (execVsel w s) rfl rfl,
      hword (execVperm w s) rfl rfl, hword (execVbcst w s) rfl rfl, hword (execVrsum w s) rfl rfl, hword (execVrmax w s) rfl rfl,
      hword (execVscan w s) rfl rfl, hword (execVqnt w s) rfl rfl, hword (execVdq w s) rfl rfl, fun c hv hoc hc32 => ?vsmx⟩
    case vcmp =>
      have hvcmp : form (.vcmp w) { ob := true, cond := true } (two (vcmp v.cond)) :=
        hword (f := fun v => lanes2 (vcmp v.cond)) (execVcmp w s) rfl rfl
      rwa [vcmp_eq] at hvcmp
    case vsmx =>
      show execVsmx w s = _
      exact vsmx_merges hod hd ha hb hc h hv hoc hc32
  case channels =>
    intro s j w v c e x l p q h hrep hoa hod hc he hne hb hcc hbc hbe hq hx hroom form
    have hword : ∀ {u : VUses} {i f} (e' : Host.Outcome State Fault Refusal), exec i s = e' → e' = vecExec u w (fun _ => f) s →
        (parseV u (s.desc w.desc.toNat) = some v → (v.sent j.vreg w.step f x).length = 256) → form i u f := fun {u i f} e' hi he' hlen hv =>
      (hi.trans he').trans (vecExec_channels hoa hod hc he hne hb hcc h hrep (fun _ => f) hbc hbe hq hx hroom hv (hlen hv))
    clear_value form
    refine ⟨hword (execVadd w s) rfl rfl fun hv => ?add, hword (execVmul w s) rfl rfl fun hv => ?mul,
      hword (execVfma w s) rfl rfl fun hv => ?fma, hword (execVexp2 w s) rfl rfl fun _ => ?exp2, hword (execVrsum w s) rfl rfl fun _ => ?rsum⟩
    case add | mul =>
      obtain ⟨-, -, hob, -⟩ := parseV_operands hv
      simp only [VDesc.sent, List.length_zipWith, lanesOf_length, activeIn_length, lanesIn_length hob, min_self]
    case fma =>
      obtain ⟨-, -, hob, hoc⟩ := parseV_operands hv
      simp only [VDesc.sent, List.length_zipWith, List.length_zip, lanesOf_length, activeIn_length, lanesIn_length hob, lanesIn_length hoc, min_self]
    case exp2 => simp only [VDesc.sent, List.length_zipWith, List.length_map, lanesOf_length, activeIn_length, min_self]
    case rsum => simp only [VDesc.sent, List.length_zipWith, List.length_replicate, min_self]

end Sys2Proof.Machine
end

section
/-!
SUPPORT. Vector loads, stores, gathers and scatters (11 R308, R310), and O41.
-/

namespace Sys2Proof.Machine

/-! ### Loads and stores (R308) -/

theorem parseMove_pat {acc : Bool} {d : List Word} {v : VMove} (h : parseMove acc d = some v) :
    parsePat d (if acc then [2] else [1, 3]) = some v.p := by
  unfold parseMove at h
  split at h
  · exact nomatch h
  · rename_i p hp
    extract_lets v' at h
    split_ifs at h
    obtain rfl : v' = v := Option.some.inj h
    exact hp

theorem live_iff {v : VMove} {k : Nat} {r : Run} : v.live k r = true ↔ v.me = false ∨ vlane r.s.vregs v.vm (v.lane k) ≠ 0 := by
  simp [VMove.live]

section
variable {s : State} {j : Job} {w : EW} {v : VMove} {acc : Bool} (h : EngineReady s j (some .V) .none w.pop)
  (hv : parseMove acc (s.desc w.desc.toNat) = some v) (hspace : acc = true ∨ v.p.space = 1) (hl : LocalPattern s v.p w.step (ewReps w))
include hv hspace hl

theorem parseMove_local : LocalPat s v.p w.step (ewReps w) := by
  refine .of_parse (parseMove_pat hv) ?_ hl
  rcases hspace with rfl | h1
  · exact .inr (by simpa using parsePat_space (parseMove_pat hv))
  · exact .inl h1

include h

/-- An element of a load moves its lane alone. -/
theorem load_elem {rep k : Nat} {t : State} {q : WordPos} {m : Map W32} (hr : rep < ewReps w) (hk : k < v.p.n)
    (ht : t.Holds (s.begun j .none w.pop) ((j.popped w.pop).withVregs m) s.mem) :
    ∃ t', v.load (ewUse w true) rep k ⟨t, q⟩ = .ok ⟨t', q⟩ () ∧ t'.Holds (s.begun j .none w.pop) ((j.popped w.pop).withVregs
      (if v.me = false ∨ vlane m v.vm (v.lane k) ≠ 0 then
        vlanePut m (v.reg rep k) (v.lane k) (BitVec.ofNat 32 (if v.p.inB k then v.p.value s w.step rep k s.mem else 0))
      else m)) s.mem := by
  have hp := parseMove_local hv hspace hl
  have hplaces : SamePlaces s t := ht.samePlaces (begun_focus ..) (begun_errs ..) (by
    rw [window_of_jobAt h.jobAt, ← popped_kern j w.pop]
    rfl)
  have hget := get_local (r := ⟨t, q⟩) (rep := rep) (k := k) (g := rep * v.p.n + k) (wanted := v.live k ⟨t, q⟩ && v.p.inB k) (u := ewUse w true)
    hp rfl hplaces (fun hb => hp.places rep k hr hk (Bool.and_eq_true_iff.mp hb).2)
  have hregs : t.vregs = m := vregs_holds ht
  simp only [VMove.load, fetch_local hp, got_bind_ok, hget, used_local hp, ht.mem]
  by_cases hlive : v.me = false ∨ vlane m v.vm (v.lane k) ≠ 0
  · rw [if_pos hlive, live_iff.mpr (by rwa [hregs])]
    exact ⟨_, rfl, ht.modVregs _⟩
  · have hmasked : v.live k ⟨t, q⟩ = false := by
      rw [← Bool.not_eq_true, live_iff]
      rwa [hregs]
    rw [if_neg hlive, hmasked]
    exact ⟨t, rfl, ht⟩

/-- What a load makes of the registers. -/
theorem vload_loads : vloadExec acc w s = .next (((s.begun j .none w.pop).modVregs (foldWord (ewReps w) v.p.n (fun r k m =>
    if v.me = false ∨ vlane m v.vm (v.lane k) ≠ 0 then
      vlanePut m (v.reg r k) (v.lane k) (BitVec.ofNat 32 (if v.p.inB k then v.p.value s w.step r k s.mem else 0))
    else m))).completeWord w.push w.chain none) := by
  have hp := parseMove_local hv hspace hl
  refine engineExec_ends (nxt := none) h (p := ⟨v.p.chan true, 0, loopWord (ewReps w) v.p.n (v.load (ewUse w true))
    (fun r => if v.p.space = 3 then endRead v.p.base r else .ok r ())⟩) (fun t ht => by rw [ht.desc1, hv])
    (plan_bound_none (hp.chan true) ..) (plan_ready_none (hp.chan true) (Nat.zero_le _)) fun x => ?_
  have hstart : (s.begun j .none w.pop).Holds (s.begun j .none w.pop) ((j.popped w.pop).withVregs j.vreg) s.mem := by
    rw [← popped_vreg j w.pop]
    exact h.begun_holds
  obtain ⟨t, hrun, ht⟩ := loopAhead_holds (free := fun _ _ _ _ => false) (J := (j.popped w.pop).withVregs) (M := fun _ => s.mem) (reps := ewReps w)
    (n := v.p.n) (w := .fetchedAs x) rfl rfl rfl (fun _ => h.popped_unasked)
    (fun rep k m t q hr hk ht _ => load_elem h hv hspace hl hr hk ht) (fun _ => if_neg hp.no_chan) hstart
  exact ⟨t, hrun, ht.completeWord_eq (hstart.modVregs _) ..⟩

theorem vstore_stores : vstoreExec acc w s = s.memoryWord j .none w (foldWord (w.rep.toNat + 1) v.p.n (fun r k m =>
    if (v.me = false ∨ vlane j.vreg v.vm (v.lane k) ≠ 0) ∧ v.p.inB k = true then
      v.p.store s w.step r k ((vlane j.vreg (v.reg r k) (v.lane k)).toNat % 2 ^ (8 * v.p.esize)) m
    else m) s.mem) := by
  have hp := parseMove_local hv hspace hl
  refine engineExec_memory (free := fun _ _ _ _ => false) (uses := v.p.chan false)
    (last := fun r => if v.p.space = 3 then endWrite v.p.base r else .ok r ()) (v.store (ewUse w false)) h
    (fun t ht => by rw [ht.desc1, hv]; rfl) (hp.chan false) (fun rep k m q hr hk hm => ?_) fun _ => if_neg hp.no_chan
  have hput := fun f => put_local (r := ⟨{ s.begun j .none w.pop with mem := m }, q⟩) (rep := rep) (k := k) (g := rep * v.p.n + k)
    (wanted := v.live k ⟨{ s.begun j .none w.pop with mem := m }, q⟩ && v.p.inB k) (u := ewUse w false) hp rfl hm
    (fun hb => hp.places rep k hr hk (Bool.and_eq_true_iff.mp hb).2) f
  have hregs : ({ s.begun j .none w.pop with mem := m } : State).vregs = j.vreg :=
    (vregs_holds (h.begun_holds.withMem m)).trans (popped_vreg ..)
  rw [VMove.store, room_local hp, got_bind_ok, hput, hregs]
  simp only [Bool.and_eq_true, live_iff, hregs]

end

/-! ### Gathers and scatters (R310) -/

theorem flatMap_slice {α β : Type} {f : α → List β} {n : Nat} (hf : ∀ a, (f a).length = n) (l : List α) (rest : List β) {i : Nat} (d : α)
    (h : i < l.length) : ((l.flatMap f ++ rest).drop (n * i)).take n = f (nth l i d) := by
  induction l generalizing i with
  | nil => exact absurd h (Nat.not_lt_zero i)
  | cons a l ih =>
    rw [List.flatMap_cons, List.append_assoc]
    cases i with
    | zero => exact List.take_left' (hf a)
    | succ i =>
      rw [Nat.mul_succ, Nat.add_comm, ← List.drop_drop, List.drop_left' (hf a)]
      exact ih (Nat.lt_of_succ_lt_succ h)

theorem lanesBytes_slice {l : List W32} (hl : l.length = 256) (rest : List Byte) {i : Nat} (h : i < 256) :
    leNat (((lanesBytes l ++ rest).drop (4 * i)).take 4) = (nth l i 0).toNat := by
  rw [lanesBytes, List.take_of_length_le hl.le, flatMap_slice (fun x => leBytes_length 4 _) l rest 0 (hl ▸ h), leNat_leBytes]
  exact Nat.mod_eq_of_lt (nth l i 0).isLt

section
variable {act : List Bool} {l a : List W32} (hact : act.length = 256) (hl : l.length = 256) {i : Nat} (hi : i < 256)
include hact hl hi

/-- A lane of what a repetition holds has its index when it is active. -/
theorem heldIndex_holdLanes : heldIndex (holdLanes act l a) i = if nth act i false then some (nth l i 0).toNat else none := by
  have hflag : nth (holdLanes act l a) i 0 = if nth act i false then 1 else 0 := by
    rw [holdLanes, List.append_assoc, nth_eq_getD, List.getD_append _ _ _ _ (by simpa [hact] using hi), nth_eq_getD]
    exact List.getD_map act false (fun x : Bool => if x then (1 : Byte) else 0)
  have hskip : (holdLanes act l a).drop (256 + 4 * i) = (lanesBytes l ++ lanesBytes a).drop (4 * i) := by
    rw [holdLanes, List.append_assoc, ← List.drop_drop, List.drop_left' (by simp [hact])]
  rw [heldIndex, hflag, hskip, lanesBytes_slice hl _ hi]
  cases nth act i false <;> rfl

theorem heldValue_holdLanes (ha : a.length = 256) : heldValue (holdLanes act l a) i = (nth a i 0).toNat := by
  have hskip : (holdLanes act l a).drop (1280 + 4 * i) = (lanesBytes a ++ []).drop (4 * i) := by
    rw [holdLanes, ← List.drop_drop, List.drop_left' (by simp [hact, lanesBytes_length hl]), List.append_nil]
  rw [heldValue, hskip, lanesBytes_slice ha _ hi]

end

/-- Before lane `k` of a repetition of VGATH or VSCAT the word holds `l`, from its first lane on. -/
def LaneAt (l : List Byte) (k : Nat) (q : WordPos) : Prop :=
  q.done = 0 ∧ if k % 256 = 0 then q.taken = false else q.taken = true ∧ q.held = l

/-- The run after lane `i`. -/
def Run.laneDone (r : Run) (i : Nat) : Run := if i = 255 then { r with w := { r.w with taken := false, held := [] } } else r

section
variable {v : VDesc} {p : Pat} {l : List Byte} {i ibound rep : Nat} {q : WordPos} {t : State} {u : Use}

theorem laneDone_state (r : Run) : (r.laneDone i).s = r.s := by
  rw [Run.laneDone]
  split_ifs <;> rfl

theorem laneDone_at (hi : i < 256) (hdone : q.done = 0) (htaken : q.taken = true) (hheld : q.held = l) :
    LaneAt l (i + 1) ((Run.mk t q).laneDone i).w := by
  rw [Run.laneDone]
  split_ifs with hlast
  · subst hlast
    exact ⟨hdone, rfl⟩
  · have hnext : (i + 1) % 256 ≠ 0 := by omega
    exact ⟨hdone, by rw [if_neg hnext]; exact ⟨htaken, hheld⟩⟩

/-- The inputs of a repetition are taken at its first lane. -/
theorem begin_holds (hreads : v.reads = []) (hwrites : v.writes = []) (hi : i < 256) (hq : LaneAt l i q)
    (hfirst : i = 0 → holdLanes (v.active ⟨t, q⟩) (v.src u.step rep v.ob v.advB ⟨t, q⟩) (v.src u.step rep v.oa v.advA ⟨t, q⟩) = l) :
    ∃ q', v.begin u.step rep ⟨t, q⟩ = .ok ⟨t, q'⟩ () ∧ q'.done = 0 ∧ q'.taken = true ∧ q'.held = l := by
  obtain ⟨hdone, hlane⟩ := hq
  by_cases h0 : i = 0
  · subst h0
    have htaken : q.taken = false := hlane
    have hnew : ¬ q.taken = true := by simp [htaken]
    simp only [VDesc.begin, if_neg hnew, hreads, takeBeats, got_bind_ok, VDesc.room, hwrites, hfirst rfl]
    exact ⟨_, rfl, hdone, rfl, rfl⟩
  · rw [if_neg (by omega)] at hlane
    obtain ⟨htaken, hheld⟩ := hlane
    exact ⟨q, if_pos htaken, hdone, htaken, hheld⟩

theorem gatherAddr_eq (n : Nat) : gatherAddr p ibound n =
    if ibound = 0 ∨ n < ibound then some (BitVec.ofNat 64 (p.base + 4 * n)) else none := by
  rw [gatherAddr]
  by_cases h : ibound = 0 ∨ n < ibound
  · rw [if_pos h, if_neg (by omega)]
  · rw [if_neg h, if_pos (by omega)]

/-- A word in the scratchpad lies at its place. -/
theorem placeAt_pad {r : Run} {ad : Word} (hsound : Sound r.s) (hspace : p.space = 1) (hsize : p.esize = 4) (h : ad.toNat + 4 ≤ 0x60_0000)
    (high : Bool) (later : Nat → Nat → Option Nat) :
    p.placeAt u ad high later r = .ok r [(apAddr r.s.fpkg r.s.ftile ad.toNat, 4)] := by
  have hbytes : p.bytes = 4 := by rw [Pat.bytes, hsize]; rfl
  have hroom : ¬ padSize < ad.toNat + 4 := not_lt.mpr h
  unfold Pat.placeAt
  simp only [hspace, hbytes, if_neg hroom, hsound.padFlawed, Bool.false_eq_true, if_false]

variable {q' : WordPos} (hbegin : v.begin u.step rep ⟨t, q⟩ = .ok ⟨t, q'⟩ ()) (hheld : q'.held = l)
include hbegin hheld

theorem laneMem_inactive (hidx : heldIndex l i = none) :
    v.laneMem p ibound u rep i ⟨t, q⟩ = .ok ((v.lanePut u.step rep i false 0 ⟨t, q'⟩).laneDone i) () := by
  subst hheld
  simp only [VDesc.laneMem, hbegin, got_bind_ok, hidx]
  rfl

theorem laneMem_outside {n : Nat} (hidx : heldIndex l i = some n) (hn : ¬ (ibound = 0 ∨ n < ibound)) :
    v.laneMem p ibound u rep i ⟨t, q⟩ = .ok ((v.lanePut u.step rep i true 0 ⟨t, q'⟩).laneDone i) () := by
  subst hheld
  simp only [VDesc.laneMem, hbegin, got_bind_ok, hidx, gatherAddr_eq, if_neg hn]
  rfl

variable {n : Nat} (hidx : heldIndex l i = some n) (hn : ibound = 0 ∨ n < ibound) (hsound : Sound t) (hspace : p.space = 1) (hsize : p.esize = 4)
  (hroom : p.base + 4 * n + 4 ≤ 0x60_0000)
include hidx hn hsound hspace hsize hroom

theorem laneMem_gathers (hu : u.src = true) : v.laneMem p ibound u rep i ⟨t, q⟩ =
    .ok ((v.lanePut u.step rep i true (read32 t.mem (apAddr t.fpkg t.ftile (p.base + 4 * n))) ⟨t, q'⟩).laneDone i) () := by
  subst hheld
  have haddr : (BitVec.ofNat 64 (p.base + 4 * n)).toNat = p.base + 4 * n := Nat.mod_eq_of_lt (by omega)
  have hplace := placeAt_pad (u := u) (r := ⟨t, q'⟩) hsound hspace hsize (haddr.symm ▸ hroom : (BitVec.ofNat 64 (p.base + 4 * n)).toNat + 4 ≤ _) false
  simp only [VDesc.laneMem, hbegin, got_bind_ok, hidx, gatherAddr_eq, if_pos hn, hplace, haddr, hu, if_true, bytesAt_one]
  rfl

theorem laneMem_scatters (hu : u.src = false) : v.laneMem p ibound u rep i ⟨t, q⟩ =
    .ok ((Run.mk { t with mem := writeLe t.mem (apAddr t.fpkg t.ftile (p.base + 4 * n)) 4 (heldValue l i) } q').laneDone i) () := by
  subst hheld
  have haddr : (BitVec.ofNat 64 (p.base + 4 * n)).toNat = p.base + 4 * n := Nat.mod_eq_of_lt (by omega)
  have hplace := placeAt_pad (u := u) (r := ⟨t, q'⟩) hsound hspace hsize (haddr.symm ▸ hroom : (BitVec.ofNat 64 (p.base + 4 * n)).toNat + 4 ≤ _) false
  simp only [VDesc.laneMem, hbegin, got_bind_ok, hidx, gatherAddr_eq, if_pos hn, hplace, haddr, hu, Bool.false_eq_true, if_false, putBytes_one]
  rfl

end

/-- A run of VGATH or VSCAT before lane `k` of repetition `rep`. -/
def GatherAt {α : Type} (b : State) (J : α → Job) (M : α → Memory) (l : List Byte) (x0 : α) (rep k : Nat) (r : Run) (x : α) : Prop :=
  r.s.Holds b (J x) (M x) ∧ LaneAt l k r.w ∧ (rep + k = 0 → x = x0)

/-- A word of one repetition whose lanes move the job in focus and memory, as `J x` and `M x` for the `x` that the lanes before have made. -/
theorem lanes_run {α : Type} {b s : State} {J : α → Job} {M : α → Memory} {l : List Byte} {x0 : α} {g : Nat → α → α}
    {body : Nat → Nat → Run → Got Unit} {last : Run → Got Unit} {p : WordPos} (hfirst : p.rep = 0 ∧ p.elem = 0 ∧ p.done = 0 ∧ p.taken = false)
    (hasked : ∀ x, ((J x).eng b.focus.kind).asked = none) (hs : s.Holds b (J x0) (M x0))
    (hlane : ∀ i x t q, i < 256 → t.Holds b (J x) (M x) → LaneAt l i q → (i = 0 → x = x0) →
      ∃ r', body 0 i ⟨t, q⟩ = .ok r' () ∧ r'.s.Holds b (J (g i x)) (M (g i x)) ∧ LaneAt l (i + 1) r'.w) (hlast : ∀ r, last r = .ok r ()) :
    ∃ t, loopWord 1 256 body last p s = .done t none ∧
      t.Holds b (J (foldWord 1 256 (fun _ => g) x0)) (M (foldWord 1 256 (fun _ => g) x0)) := by
  obtain ⟨hrep, helem, hdone, htaken⟩ := hfirst
  have hat : LoopState (GatherAt b J M l x0) :=
    { content := fun {rep k r x w} h hw => by
        obtain ⟨hs, ⟨hdone, hlane⟩, h0⟩ := h
        have htaken : w.taken = r.w.taken := (congrArg WordPos.taken hw :)
        have hheld : w.held = r.w.held := (congrArg WordPos.held hw :)
        exact ⟨hs, ⟨(congrArg WordPos.done hw).trans hdone, by rwa [htaken, hheld]⟩, h0⟩
      answered := fun h => by rw [Run.unanswered, h.1.engAsked, hasked]; rfl
      undone := fun h => h.2.1.1 }
  refine loopAhead_folds hat (g := fun _ => g) (fun rep k r x hr hk h => ?_) (fun rep r x h => ?_) hrep helem
    ⟨hs, ⟨hdone, htaken⟩, fun _ => rfl⟩ (fun r h => ⟨r, hlast r, h.1⟩)
  · obtain rfl : rep = 0 := by omega
    obtain ⟨hs, hlaneAt, h0⟩ := h
    obtain ⟨r', hf, hs', hnext⟩ := hlane k x r.s r.w hk hs hlaneAt (fun hk0 => h0 (by omega))
    exact ⟨r', hf, hs', hnext, fun h => absurd h (by omega)⟩
  · obtain ⟨hs, hlaneAt, -⟩ := h
    exact ⟨hs, hlaneAt, fun h => absurd h (by omega)⟩

/-- The index of lane `i`, and what a repetition holds, over registers `m`. -/
def VDesc.index (v : VDesc) (m : Map W32) (step : BitVec 12) (i : Nat) : Nat := (nth (v.lanesIn m step 0 v.ob v.advB) i 0).toNat
def VDesc.heldFor (v : VDesc) (m : Map W32) (step : BitVec 12) : List Byte :=
  holdLanes (v.activeIn m) (v.lanesIn m step 0 v.ob v.advB) (v.lanesIn m step 0 v.oa v.advA)

/-- What lane `i` of VGATH makes of registers `m`. -/
def VDesc.gathered (v : VDesc) (s : State) (p : Pat) (ibound c : Nat) (step : BitVec 12) (x0 : Map W32) (i : Nat) (m : Map W32) : Map W32 :=
  if nth (v.activeIn x0) i false then vlanePut m (regAt c v.advD step 0) i
    (if ibound = 0 ∨ v.index x0 step i < ibound then read32 s.mem (apAddr s.fpkg s.ftile (p.base + 4 * v.index x0 step i)) else 0)
  else m

/-- What lane `i` of VSCAT makes of memory. -/
def VDesc.scattered (v : VDesc) (s : State) (p : Pat) (ibound : Nat) (step : BitVec 12) (x0 : Map W32) (i : Nat) (m : Memory) : Memory :=
  if nth (v.activeIn x0) i false = true ∧ (ibound = 0 ∨ v.index x0 step i < ibound) then
    write32 m (apAddr s.fpkg s.ftile (p.base + 4 * v.index x0 step i)) (nth (v.lanesIn x0 step 0 v.oa v.advA) i 0)
  else m

theorem gathered_congr {s t : State} {v : VDesc} (hf : t.focus = s.focus) (hm : t.mem = s.mem) : v.gathered t = v.gathered s := by
  funext p ibound c step x0 i m
  rw [VDesc.gathered, VDesc.gathered, fpkg_focus hf, ftile_focus hf, hm]

theorem scattered_congr {s t : State} {v : VDesc} (hf : t.focus = s.focus) : v.scattered t = v.scattered s := by
  funext p ibound step x0 i m
  rw [VDesc.scattered, VDesc.scattered, fpkg_focus hf, ftile_focus hf]

/-- A VGATH or VSCAT of the scratchpad whose sources are registers or the constant: lane indices `x0` lie inside it. -/
structure LaneWord (b : State) (v : VDesc) (p : Pat) (ibound : Nat) (step : BitVec 12) (x0 : Map W32) : Prop where
  sound : Sound b
  space : p.space = 1
  size : p.esize = 4
  value : notChannel v.oa
  index : notChannel v.ob
  indexed : v.ob.isSome = true
  reads : v.reads = []
  writes : v.writes = []
  inside : ∀ i, i < 256 → nth (v.activeIn x0) i false = true → ibound = 0 ∨ v.index x0 step i < ibound →
    p.base + 4 * v.index x0 step i + 4 ≤ 0x60_0000

section
variable {b t : State} {y : Job} {mem : Memory} {v : VDesc} {p : Pat} {x0 m : Map W32} {i ibound : Nat} {q : WordPos} {u : Use}
  (hw : LaneWord b v p ibound u.step x0) (hi : i < 256) (ht : t.Holds b (y.withVregs m) mem) (hq : LaneAt (v.heldFor x0 u.step) i q)
  (h0 : i = 0 → m = x0)
include hw hi

theorem heldIndex_heldFor :
    heldIndex (v.heldFor x0 u.step) i = if nth (v.activeIn x0) i false then some (v.index x0 u.step i) else none :=
  heldIndex_holdLanes (activeIn_length v x0) (lanesIn_length hw.indexed) hi

include ht hq h0

/-- The first lane of a repetition takes its inputs. -/
theorem begin_lanes : ∃ q', v.begin u.step 0 ⟨t, q⟩ = .ok ⟨t, q'⟩ () ∧ q'.done = 0 ∧ q'.taken = true ∧ q'.held = v.heldFor x0 u.step :=
  begin_holds hw.reads hw.writes hi hq fun hfirst => by
    rw [active_holds ht, src_holds ht hw.value, src_holds ht hw.index, VDesc.heldFor, ← h0 hfirst]
    rfl

theorem gather_lane {c : Nat} (hu : u.src = true) (hod : v.od = some c) (hc : c < 32) (hmem : mem = b.mem) :
    ∃ r', v.laneMem p ibound u 0 i ⟨t, q⟩ = .ok r' () ∧ r'.s.Holds b (y.withVregs (v.gathered b p ibound c u.step x0 i m)) mem ∧
      LaneAt (v.heldFor x0 u.step) (i + 1) r'.w := by
  subst hmem
  obtain ⟨q', hbegin, hdone, htaken, hheld⟩ := begin_lanes hw hi ht hq h0
  have hput : ∀ x, v.lanePut u.step 0 i true x ⟨t, q'⟩ = ⟨t.modVregs (fun m => vlanePut m (regAt c v.advD u.step 0) i x), q'⟩ := fun x => by
    simp only [VDesc.lanePut, hod, if_pos hc, if_true]
  have hputs : ∀ x, ((v.lanePut u.step 0 i true x ⟨t, q'⟩).laneDone i).s.Holds b
      (y.withVregs (vlanePut m (regAt c v.advD u.step 0) i x)) b.mem := fun x => by
    rw [laneDone_state, hput]
    exact ht.modVregs (fun m => vlanePut m (regAt c v.advD u.step 0) i x)
  have hskip : v.lanePut u.step 0 i false 0 ⟨t, q'⟩ = ⟨t, q'⟩ := by
    simp only [VDesc.lanePut, hod, if_pos hc, Bool.false_eq_true, if_false]
  have hat : ∀ x, LaneAt (v.heldFor x0 u.step) (i + 1) ((v.lanePut u.step 0 i true x ⟨t, q'⟩).laneDone i).w := fun x => by
    rw [hput]
    exact laneDone_at hi hdone htaken hheld
  have hidx := heldIndex_heldFor hw hi
  rw [VDesc.gathered]
  by_cases hact : nth (v.activeIn x0) i false = true
  · rw [if_pos hact] at hidx ⊢
    by_cases hn : ibound = 0 ∨ v.index x0 u.step i < ibound
    · have hrun := laneMem_gathers hbegin hheld hidx hn (ht.errs.trans hw.sound) hw.space hw.size (hw.inside i hi hact hn) hu
      rw [ht.mem, ht.fpkg, ht.ftile] at hrun
      rw [if_pos hn]
      exact ⟨_, hrun, hputs _, hat _⟩
    · rw [if_neg hn]
      exact ⟨_, laneMem_outside hbegin hheld hidx hn, hputs _, hat _⟩
  · rw [if_neg hact] at hidx ⊢
    have hrun := laneMem_inactive (p := p) (ibound := ibound) hbegin hheld hidx
    rw [hskip] at hrun
    refine ⟨_, hrun, ?_, laneDone_at hi hdone htaken hheld⟩
    rwa [laneDone_state]

theorem scatter_lane (hu : u.src = false) (hod : v.od = none) (hoa : v.oa.isSome = true) :
    ∃ r', v.laneMem p ibound u 0 i ⟨t, q⟩ = .ok r' () ∧ r'.s.Holds b (y.withVregs m) (v.scattered b p ibound u.step x0 i mem) ∧
      LaneAt (v.heldFor x0 u.step) (i + 1) r'.w := by
  obtain ⟨q', hbegin, hdone, htaken, hheld⟩ := begin_lanes hw hi ht hq h0
  have hskip : ∀ wr x, v.lanePut u.step 0 i wr x ⟨t, q'⟩ = ⟨t, q'⟩ := fun wr x => by simp only [VDesc.lanePut, hod]
  have hidle : ∀ wr x, ((v.lanePut u.step 0 i wr x ⟨t, q'⟩).laneDone i).s.Holds b (y.withVregs m) mem ∧
      LaneAt (v.heldFor x0 u.step) (i + 1) ((v.lanePut u.step 0 i wr x ⟨t, q'⟩).laneDone i).w := fun wr x => by
    rw [hskip, laneDone_state]
    exact ⟨ht, laneDone_at hi hdone htaken hheld⟩
  have hvalue : heldValue (v.heldFor x0 u.step) i = (nth (v.lanesIn x0 u.step 0 v.oa v.advA) i 0).toNat :=
    heldValue_holdLanes (activeIn_length v x0) (lanesIn_length hw.indexed) hi (lanesIn_length hoa)
  have hidx := heldIndex_heldFor hw hi
  rw [VDesc.scattered]
  by_cases hact : nth (v.activeIn x0) i false = true
  · rw [if_pos hact] at hidx
    by_cases hn : ibound = 0 ∨ v.index x0 u.step i < ibound
    · have hrun := laneMem_scatters hbegin hheld hidx hn (ht.errs.trans hw.sound) hw.space hw.size (hw.inside i hi hact hn) hu
      rw [ht.mem, ht.fpkg, ht.ftile, hvalue] at hrun
      rw [if_pos ⟨hact, hn⟩]
      refine ⟨_, hrun, ?_, laneDone_at hi hdone htaken hheld⟩
      rw [laneDone_state]
      exact ht.withMem _
    · rw [if_neg fun h => hn h.2]
      exact ⟨_, laneMem_outside hbegin hheld hidx hn, hidle _ _⟩
  · rw [if_neg hact] at hidx
    rw [if_neg fun h => hact h.1]
    exact ⟨_, laneMem_inactive hbegin hheld hidx, hidle _ _⟩

end

section
variable {s : State} {j : Job} {w : EW} {v : VDesc} {p : Pat} {ibound : Nat} (h : EngineReady s j (some .V) .none w.pop) (hrep : w.rep = 0)
  (hp : parseGather (s.desc w.desc.toNat) = some p) (hbound : bits (nth (s.desc w.desc.toNat) 3 0) 63 32 = ibound)
  (hw : LaneWord (s.begun j .none w.pop) v p ibound w.step j.vreg)
include hw

theorem lanes_uses : v.uses = [] := by
  rw [VDesc.uses, hw.reads, hw.writes]
  rfl

theorem lanes_ends (r : Run) : v.ends r = .ok r () := by
  rw [VDesc.ends, hw.reads, hw.writes]
  rfl

include h hrep hp hbound

/-- A gather or scatter goes as its lanes do. -/
theorem gatherExec_lanes {gather : Bool} {u : State} (hv : parseV { od := gather, oa := !gather, ob := true, mem := true } (s.desc w.desc.toNat) = some v)
    (hrun : ∀ x, ∃ t, loopWord 1 256 (v.laneMem p ibound (ewUse w gather)) v.ends (.fetchedAs x) (s.begun j .none w.pop) = .done t none ∧
      t.completeWord w.push w.chain none = u) : gatherExec gather w s = .next u := by
  have hreps : ewReps w = 1 := by rw [ewReps, hrep]; rfl
  refine engineExec_ends (nxt := none) h (p := ⟨v.uses, 0, loopWord 1 256 (v.laneMem p ibound (ewUse w gather)) v.ends⟩) (fun t ht => ?_)
    (plan_bound_none (lanes_uses hw) ..) (plan_ready_none (lanes_uses hw) (Nat.zero_le _)) hrun
  simp only [ht.desc1, hv, hp, dw, hbound, hreps]

theorem vgath_gathers {c : Nat} (hv : parseV { od := true, oa := false, ob := true, mem := true } (s.desc w.desc.toNat) = some v)
    (hod : v.od = some c) (hc : c < 32) : gatherExec true w s = .next (((s.begun j .none w.pop).modVregs
      (foldWord 1 256 (fun _ => v.gathered s p ibound c w.step j.vreg))).completeWord w.push w.chain none) := by
  rw [← gathered_congr (begun_focus s j .none w.pop) (begun_mem ..)]
  refine gatherExec_lanes h hrep hp hbound hw hv fun x => ?_
  have hstart : (s.begun j .none w.pop).Holds (s.begun j .none w.pop) ((j.popped w.pop).withVregs j.vreg) (s.begun j .none w.pop).mem := by
    rw [← popped_vreg j w.pop]
    exact State.Holds.self h.begun_jobAt_key
  obtain ⟨t, hrun, ht⟩ := lanes_run (p := .fetchedAs x) (J := (j.popped w.pop).withVregs) (M := fun _ => (s.begun j .none w.pop).mem)
    (g := v.gathered (s.begun j .none w.pop) p ibound c w.step j.vreg) ⟨rfl, rfl, rfl, rfl⟩ (fun _ => h.popped_unasked) hstart
    (fun i m t q hi ht hq h0 => gather_lane (u := ewUse w true) hw hi ht hq h0 rfl hod hc rfl) (lanes_ends hw)
  exact ⟨t, hrun, ht.completeWord_eq (hstart.modVregs _) ..⟩

theorem vscat_scatters (hv : parseV { od := false, oa := true, ob := true, mem := true } (s.desc w.desc.toNat) = some v) :
    gatherExec false w s = s.memoryWord j .none w
      (foldWord 1 256 (fun _ => v.scattered s p ibound w.step j.vreg) s.mem) := by
  obtain ⟨hod, hoa, -, -⟩ := parseV_operands hv
  rw [← scattered_congr (begun_focus s j .none w.pop)]
  refine gatherExec_lanes h hrep hp hbound hw hv fun x => ?_
  have hstart : (s.begun j .none w.pop).Holds (s.begun j .none w.pop) ((j.popped w.pop).withVregs j.vreg) s.mem := by
    rw [← popped_vreg j w.pop]
    exact h.begun_holds
  obtain ⟨t, hrun, ht⟩ := lanes_run (p := .fetchedAs x) (J := fun _ => (j.popped w.pop).withVregs j.vreg) (M := fun m => m)
    (g := v.scattered (s.begun j .none w.pop) p ibound w.step j.vreg) ⟨rfl, rfl, rfl, rfl⟩ (fun _ => h.popped_unasked) hstart
    (fun i m t q hi ht hq h0 => scatter_lane (u := ewUse w false) hw hi ht hq (fun _ => rfl) rfl (by simpa using hod) hoa) (lanes_ends hw)
  exact ⟨t, hrun, ht.completeWord_eq (hstart.withMem _) ..⟩

end

theorem parseGather_size {d : List Word} {p : Pat} (h : parseGather d = some p) : p.esize = 4 := by
  unfold parseGather at h
  split at h
  · rename_i p' hp'
    split_ifs at h with hsize
    obtain rfl := Option.some.inj h
    exact hsize
  · exact nomatch h

/-- Settles O41: each element or lane moves one lane or one memory element (`load_elem`, `vstore_stores`, `gather_lane`, `scatter_lane`). -/
theorem vectorMoves : Obligations.VectorMoves := by
  unfold Obligations.VectorMoves
  intro s j w h hsound
  refine ⟨fun acc v hv hspace hl => ⟨?load, ?store⟩, fun v p hrep hp hspace ha hb => ?lanes⟩
  case load =>
    cases acc with
    | false =>
      show exec (.vld w) s = _
      show vloadExec false w s = _
      exact vload_loads h hv hspace hl
    | true =>
      show exec (.vlda w) s = _
      show vloadExec true w s = _
      exact vload_loads h hv hspace hl
  case store =>
    cases acc with
    | false =>
      show exec (.vst w) s = _
      show vstoreExec false w s = _
      exact vstore_stores h hv hspace hl
    | true =>
      show exec (.vsta w) s = _
      show vstoreExec true w s = _
      exact vstore_stores h hv hspace hl
  case lanes =>
    intro act at_ bound ok pa hin
    have hlanes : ∀ {u : VUses}, parseV u (s.desc w.desc.toNat) = some v → u.ob = true → u.oc = false → v.writes = [] →
        LaneWord (s.begun j .none w.pop) v p bound w.step j.vreg := fun {u} hv huob huoc hwrites => by
      obtain ⟨-, -, hob, hoc⟩ := parseV_operands hv
      have hnone : v.oc = none := by simpa [huoc] using hoc
      exact ⟨(begun_errs ..).trans hsound, hspace, parseGather_size hp, ha, hb, hob.trans huob, reads_none ha hb (by rw [hnone]; trivial),
        hwrites, hin⟩
    refine ⟨fun c hv hod hc => ?vgath, fun hv => ?vscat⟩
    case vgath =>
      show gatherExec true w s = _
      exact vgath_gathers h hrep hp rfl (hlanes hv rfl rfl (writes_none hod hc)) hv hod hc
    case vscat =>
      have hnone : v.od = none := by simpa using (parseV_operands hv).1
      show gatherExec false w s = _
      exact vscat_scatters h hrep hp rfl (hlanes hv rfl rfl (by rw [VDesc.writes, hnone]; rfl)) hv

end Sys2Proof.Machine
end

section
/-!
SUPPORT. One element access, or one beat, of a word (11 R283 to R288, R293, R294; 02 R66), and O39.
-/

namespace Sys2Proof.Machine

/-! ### What moves neither jobs nor memory -/

/-- `t` has the jobs, the stream in focus and the memory of `s`. -/
def KeepsData (s t : State) : Prop := KeepsJobs s t ∧ t.mem = s.mem

theorem KeepsData.refl (s : State) : KeepsData s s := ⟨⟨rfl, rfl⟩, rfl⟩

theorem KeepsData.trans {s t u : State} (h1 : KeepsData s t) (h2 : KeepsData t u) : KeepsData s u :=
  ⟨⟨h2.1.1.trans h1.1.1, h2.1.2.trans h1.1.2⟩, h2.2.trans h1.2⟩

theorem MovesUnits.keepsData {s t : State} (h : MovesUnits s t) : KeepsData s t := ⟨h.keepsJobs, h.mem⟩

theorem MovesBuffers.keepsData {s t : State} (h : MovesBuffers s t) : KeepsData s t := ⟨⟨h.jobs, h.focus⟩, h.mem⟩

theorem keepsData_foldl {α : Type} {f : State → α → State} (h : ∀ s x, KeepsData s (f s x)) (l : List α) (s : State) :
    KeepsData s (l.foldl f s) := by
  induction l generalizing s with
  | nil => exact .refl s
  | cons x l ih => exact (h s x).trans (ih _)

theorem KeepsData.party {s t : State} (h : KeepsData s t) : t.party = s.party := by
  have hjob : t.jobAt t.key = s.jobAt s.key := by rw [h.1.key]; exact congrArg (mget · s.key) h.1.1
  rw [State.party, State.party, hjob, fpkg_focus h.1.2, ftile_focus h.1.2, h.1.2]

section
variable (s : State)

theorem keepsData_numbered (pa : Nat) (write : Bool) : KeepsData s (s.numbered pa write) := by
  unfold State.numbered
  cases write <;> exact ⟨⟨rfl, rfl⟩, rfl⟩

theorem keepsData_request (q : Party) (pa n : Nat) (h : Hint) : KeepsData s (s.request q pa n h) := by
  have hcounted : KeepsData s (if q.counted then s.numbered pa h.writes else s) := by
    split_ifs
    · exact keepsData_numbered ..
    · exact .refl s
  exact hcounted.trans (movesUnits_touchHome _ _ _ _).keepsData

theorem keepsData_sendPieces (q : Party) (h : Hint) (line : Option Nat) (l : List (Nat × Nat)) : KeepsData s (State.sendPieces q h line l s) := by
  induction l generalizing s line with
  | nil => exact .refl s
  | cons x l ih =>
    rw [State.sendPieces]
    refine .trans ?_ (ih _ _)
    split_ifs
    · exact (movesUnits_touchHome _ _ _ _).keepsData
    · exact keepsData_request ..

theorem keepsData_carryPieces (q : Party) (write : Bool) (f : Nat) (l : List (Nat × Nat)) : KeepsData s (s.carryPieces q write f l) := by
  refine keepsData_foldl (fun s x => ?_) l s
  unfold State.carryPiece
  extract_lets way
  split_ifs
  · exact .refl s
  · refine keepsData_foldl (fun s i => ?_) _ s
    extract_lets a
    split_ifs
    · exact (movesBuffers_carry ..).keepsData
    · exact .refl s

theorem keepsData_prefetch (p t : Nat) (sel : TlbSel) (u va : Nat) (need : Perm) : KeepsData s (s.prefetch p t sel u va need) := by
  have hwalk := movesUnits_walk s p (sel.walker t) u va need
  unfold State.prefetch
  split_ifs
  · exact .refl s
  · split
    · next e at_ hres =>
      have hleaf : MovesUnits s (_, WalkRes.leaf e at_).1 := hres ▸ hwalk
      exact (hleaf.trans (movesUnits_setTlb ..)).keepsData
    · next hres => exact (hres ▸ hwalk : MovesUnits s (_, _).1).keepsData

theorem keepsData_countReq (p t : Nat) (pl : Place) : KeepsData s (s.countReq p t pl) := ⟨⟨rfl, rfl⟩, rfl⟩

theorem movesUnits_trFor (q : Party) (va : Nat) (need : Perm) : MovesUnits s (s.trFor q va need).1 := by
  unfold State.trFor
  split
  · exact movesUnits_translate ..
  · have hwalk := movesUnits_walk s q.pkg 4 q.tenant va need
    generalize s.walk q.pkg 4 q.tenant va need = x at hwalk
    obtain ⟨t, r⟩ := x
    cases r <;> exact hwalk

theorem movesUnits_place1 (q : Party) (va : Nat) (need : Perm) : MovesUnits s (s.place1 q va need).1 := by
  have htr := movesUnits_trFor s q va need
  unfold State.place1
  split_ifs
  · exact .refl s
  · generalize s.trFor q va need = x at htr
    obtain ⟨t, r⟩ := x
    cases r with
    | fault c => exact htr
    | wait => exact htr
    | ok e pa =>
      dsimp only
      split_ifs <;> exact htr

theorem movesUnits_pieces (q : Party) (need : Perm) (fuel va n : Nat) : MovesUnits s (s.pieces q need fuel va n).1 := by
  induction fuel generalizing s va n with
  | zero => exact .refl s
  | succ fuel ih =>
    have hplace := movesUnits_place1 s q va need
    unfold State.pieces
    split_ifs
    · exact .refl s
    · generalize s.place1 q va need = x at hplace
      obtain ⟨t, r⟩ := x
      cases r with
      | fault c e => exact hplace
      | wait => exact hplace
      | ok pa =>
        have hrest := hplace.trans (ih t (va + min n (pieceRoom pa)) (n - min n (pieceRoom pa)))
        dsimp only
        generalize State.pieces t q need fuel _ _ = y at hrest
        obtain ⟨t', r'⟩ := y
        cases r' <;> exact hrest

end

/-! ### Requests of an element (02 R66) -/

/-- `q` is position `w` but for the runs of its sides and what an element under way counts. -/
def Beside (w q : WordPos) : Prop := { q with a := w.a, b := w.b, left := w.left, made := w.made } = w

theorem Beside.refl (w : WordPos) : Beside w w := rfl

theorem Beside.trans {w q v : WordPos} (h1 : Beside w q) (h2 : Beside q v) : Beside w v := by
  have hsteps : ({ v with a := w.a, b := w.b, left := w.left, made := w.made } : WordPos) =
      { ({ v with a := q.a, b := q.b, left := q.left, made := q.made } : WordPos) with a := w.a, b := w.b, left := w.left, made := w.made } := rfl
  rw [Beside, hsteps, h2]
  exact h1

theorem beside_setSide (r : Run) (src : Bool) (x : Touch) : Beside r.w (r.setSide src x).w := by
  cases src <;> rfl

/-- `r'` has made accesses since `r`: jobs, memory, and the position beside its runs, are those of `r`. -/
def RunsOn (r r' : Run) : Prop := KeepsData r.s r'.s ∧ Beside r.w r'.w

theorem RunsOn.trans {r1 r2 r3 : Run} (h1 : RunsOn r1 r2) (h2 : RunsOn r2 r3) : RunsOn r1 r3 := ⟨h1.1.trans h2.1, h1.2.trans h2.2⟩

theorem passageOf_pkgs {s t : State} (h : s.pkgs = t.pkgs) (hw : s.wall = t.wall) (q : Party) (ways : List Place) :
    s.passageOf q ways = t.passageOf q ways := by
  have hpass : s.passage q.pkg q.tile = t.passage q.pkg q.tile := funext (passage_pkgs h hw q.pkg q.tile)
  rw [State.passageOf, State.passageOf, hpass]

theorem countReqs_pkgs (p t : Nat) (l : List Place) (s : State) :
    (l.foldl (fun s pl => s.countReq p t pl) s).pkgs = s.pkgs ∧ (l.foldl (fun s pl => s.countReq p t pl) s).wall = s.wall := by
  induction l generalizing s with
  | nil => exact ⟨rfl, rfl⟩
  | cons x l ih => exact ih _

section
variable (r : Run)

/-- Requests that come through leave nothing behind but their counts. -/
theorem travel_through (va : Word) (l : List (Nat × Nat)) (line : Option Nat) (write : Bool) (hasked : r.s.engAsked = none)
    (h : r.s.passageAll r.s.party l = .through) : ∃ r', r.travel va l line write = .ok r' () ∧ RunsOn r r' := by
  have hcount : r.s.party.counted = true := rfl
  have hpass : ∀ count : List Place, (count.foldl (fun s pl => s.countReq r.s.party.pkg r.s.party.tile pl) r.s).passageOf r.s.party
      (l.map fun x => r.s.placeOf x.1) = .through := fun count => by
    obtain ⟨hpkgs, hwall⟩ := countReqs_pkgs r.s.party.pkg r.s.party.tile count r.s
    rw [passageOf_pkgs hpkgs hwall]
    exact h
  simp only [Run.travel, State.travel, State.travelTo, hcount, Bool.not_true, Bool.false_eq_true, if_false, hasked, Option.filter_none, hpass]
  exact ⟨_, rfl, keepsData_foldl (fun s pl => keepsData_countReq ..) _ _, rfl⟩

theorem prefetch_runsOn (src : Bool) (va : Nat) (need : Perm) (later : Nat → Nat → Option Nat) : RunsOn r (r.prefetch src va need later) := by
  unfold Run.prefetch
  extract_lets q sel
  split
  · exact ⟨.refl _, .refl _⟩
  · extract_lets r'
    have hside : Beside r.w r'.w := beside_setSide r src _
    split_ifs
    · exact ⟨.refl _, .refl _⟩
    · split
      · split_ifs
        · exact ⟨keepsData_prefetch r.s .., hside⟩
        · exact ⟨.refl _, hside⟩
      · exact ⟨.refl _, hside⟩

theorem entered_runsOn (src : Bool) (h : Hint) (line : Option Nat) (fin : Nat) (l : List (Nat × Nat)) : RunsOn r (r.entered src h line fin l) := by
  refine ⟨?_, beside_setSide { r with s := _ } src _⟩
  have hsent := keepsData_sendPieces r.s r.s.party h line l
  show KeepsData r.s (if h.writes then _ else _)
  by_cases hwrites : h.writes = true
  · rwa [if_pos hwrites]
  · rw [if_neg hwrites]
    exact hsent.trans (keepsData_carryPieces ..)

end

/-! ### Element accesses in global space -/

/-- An access of one piece, sound and present, whose request comes through. -/
theorem globalSpan_through {r : Run} {t : State} {pa n : Nat} {va : Word} {need : Perm} (src : Bool) (h : Hint) (nib fin : Nat)
    (later : Nat → Nat → Option Nat) (hpieces : r.s.pieces r.s.party need n va.toNat n = (t, .ok [(pa, n)])) (hasked : t.engAsked = none)
    (hparty : t.party = r.s.party) (hsound : t.flawed pa n = false) (hpresent : t.absent pa = false)
    (hpass : t.passageAll r.s.party [(pa, n)] = .through) :
    ∃ r', globalSpan r src need h false va n nib fin later = .ok r' [(pa, n)] ∧ RunsOn ⟨t, r.w⟩ r' := by
  have hfailing : t.failing r.s.party va.toNat [(pa, n)] = ([(pa, n)], none) := by
    simp [State.failing, hsound, hpresent]
  obtain ⟨r1, htravel, h1⟩ := travel_through ⟨t, r.w⟩ va [(pa, n)] (if (r.side src).next = some nib then some (r.side src).line else none)
    h.writes hasked (hparty ▸ hpass)
  simp only [globalSpan, hpieces, Bool.false_and, Bool.false_eq_true, if_false, hfailing, htravel, got_bind_ok]
  exact ⟨_, rfl, h1.trans ((prefetch_runsOn ..).trans ((prefetch_runsOn ..).trans (entered_runsOn ..)))⟩

theorem globalSpan_fault {r : Run} {t : State} {n : Nat} {va x : Word} {need : Perm} {c : Cause}
    (hpieces : r.s.pieces r.s.party need n va.toNat n = (t, .fault c x)) (src : Bool) (h : Hint) (red : Bool) (nib fin : Nat)
    (later : Nat → Nat → Option Nat) : globalSpan r src need h red va n nib fin later = .fault ⟨t, r.w⟩ c va := by
  simp only [globalSpan, hpieces]

section
variable {p : Pat} {u : Use} {rep k : Nat} {r : Run} (hspace : p.space = 0)
include hspace

theorem place_fault {t : State} {c : Cause} {x : Word}
    (hpieces : r.s.pieces r.s.party u.need p.bytes (p.addr u.step rep k).toNat p.bytes = (t, .fault c x)) :
    p.place u rep k r = .fault ⟨t, r.w⟩ c (p.addr u.step rep k) := by
  unfold Pat.place Pat.placeAt
  simp only [hspace]
  exact globalSpan_fault hpieces ..

variable {t : State} {pa : Nat} (hsize : p.esize ≠ 0) (hred : u.red = false)
  (hpieces : r.s.pieces r.s.party u.need p.esize (p.addr u.step rep k).toNat p.esize = (t, .ok [(pa, p.esize)])) (hasked : t.engAsked = none)
  (hparty : t.party = r.s.party) (hsound : t.flawed pa p.esize = false) (hpresent : t.absent pa = false)
  (hpass : t.passageAll r.s.party [(pa, p.esize)] = .through)
include hsize hred hpieces hasked hparty hsound hpresent hpass

theorem place_through : ∃ r', p.place u rep k r = .ok r' [(pa, p.esize)] ∧ RunsOn ⟨t, r.w⟩ r' ∧ r'.s.mem = r.s.mem := by
  have hbytes : p.bytes = p.esize := Nat.max_eq_right (Nat.one_le_iff_ne_zero.mpr hsize)
  unfold Pat.place Pat.placeAt
  simp only [hspace, hbytes, hred]
  obtain ⟨r', hgo, hruns⟩ := globalSpan_through (r := r) u.src _ _ _ _ hpieces hasked hparty hsound hpresent hpass
  have hmem : t.mem = r.s.mem := by
    have hmoves := movesUnits_pieces r.s r.s.party u.need p.esize (p.addr u.step rep k).toNat p.esize
    rw [hpieces] at hmoves
    exact hmoves.mem
  exact ⟨r', hgo, hruns, hruns.1.2.trans hmem⟩

theorem read_through : ∃ r', p.read u rep k r = .ok r' (readLe r.s.mem pa p.esize) ∧ r'.s.mem = r.s.mem ∧ r'.s.jobs = t.jobs ∧ Beside r.w r'.w := by
  obtain ⟨r', hplace, ⟨hkeeps, hbeside⟩, hmem⟩ := place_through hspace hsize hred hpieces hasked hparty hsound hpresent hpass
  refine ⟨r', ?_, hmem, hkeeps.1.1, hbeside⟩
  simp only [Pat.read, hplace, got_bind_ok, if_neg hsize, bytesAt_one, hmem]
  rfl

theorem write_through (f : Nat → Nat) : ∃ r', p.write u f rep k r = .ok r' () ∧
    r'.s.mem = writeLe r.s.mem pa p.esize (f (readLe r.s.mem pa p.esize)) ∧ r'.s.jobs = t.jobs ∧ Beside r.w r'.w := by
  obtain ⟨r', hplace, ⟨hkeeps, hbeside⟩, hmem⟩ := place_through hspace hsize hred hpieces hasked hparty hsound hpresent hpass
  have hbytes : p.bytes = p.esize := Nat.max_eq_right (Nat.one_le_iff_ne_zero.mpr hsize)
  simp only [Pat.write, hplace, got_bind_ok, if_neg hsize, bytesAt_one, hmem, hspace, if_true, hbytes, putBytes_one]
  have hcarried := fun s q => keepsData_carryPieces s q true r'.w.b.was [(pa, p.esize)]
  refine ⟨_, rfl, (hcarried _ _).2, (hcarried _ _).1.1.trans hkeeps.1.1, hbeside⟩

end

/-! ### Beats -/

theorem beats_modSw {s : State} {j : Job} {c : Nat} (h : s.jobAt s.key = some j) (f : Channel → Channel) :
    (s.modSw c f).beats c = (f (vget j.sw c)).q := by
  rw [State.beats, State.modSw, modCur_key, modCur_jobAt, h]
  exact congrArg Channel.q (vget_vset_same _ _ _)

theorem beats_some {s : State} {j : Job} (h : s.jobAt s.key = some j) (c : Nat) : s.beats c = (vget j.sw c).q := by rw [State.beats, h]; rfl

/-- A channel that holds something is one of a job in focus. -/
theorem beats_drop {s : State} {c : Nat} {x : Beat} {l : List Beat} (h : s.beats c = x :: l) :
    (s.modSw c (fun k => { k with q := k.q.drop 1 })).beats c = l := by
  cases hj : s.jobAt s.key with
  | none => simp [State.beats, hj] at h
  | some j =>
    rw [beats_modSw hj, ← beats_some hj c, h]
    rfl

theorem ended_addChan {w : WordPos} {c : Nat} (h : c < 8) : ({ w with marked := addChan w.marked c } : WordPos).ended c = true := by
  show (w.marked ||| BitVec.ofNat 8 (2 ^ c)).getLsbD c = true
  rw [BitVec.getLsbD_or, BitVec.getLsbD_ofNat]
  simp [h]

/-- Settles O39: the translation, the request and the prefetches of an access move neither jobs nor memory (`place_through`). -/
theorem elementAccess : Obligations.ElementAccess := by
  unfold Obligations.ElementAccess
  refine ⟨fun p u rep k r t pa hspace hsize hred => ?global, fun p u rep k r t c x hspace => ?fault,
    fun c n r l hshort hopen hc => ⟨?empty, ?beat, ?mark⟩, fun c b r hjob hc => ⟨?full, ?room⟩⟩
  case global =>
    intro va n hpieces _ hasked hparty hsound hpresent hpass same
    exact ⟨read_through hspace hsize hred hpieces hasked hparty hsound hpresent hpass,
      write_through hspace hsize hred hpieces hasked hparty hsound hpresent hpass⟩
  case fault =>
    intro va hpieces
    have hplace := place_fault hspace hpieces
    exact ⟨by rw [Pat.read, hplace]; rfl, fun f => by rw [Pat.write, hplace]; rfl⟩
  case empty => exact fun h => takeBeat_empty hshort hopen h
  case beat => exact fun b h => ⟨_, takeBeat_beat hshort hopen h, rfl, beats_drop h, modCur_mem ..⟩
  case mark => exact fun h => ⟨_, takeBeat_mark hshort hopen h, rfl, ended_addChan hc, beats_drop h⟩
  case full => exact fun h => if_pos h
  case room =>
    intro h
    obtain ⟨j, hj⟩ := Option.isSome_iff_exists.mp hjob
    exact ⟨_, putBeat_room h, by rw [beats_modSw hj, beats_some hj], rfl, modCur_mem ..⟩

end Sys2Proof.Machine
end

section
/-!
SUPPORT. A CPYPK word whose request to a remote tile is lost although the passage to that tile stands (11 R316; 02 R66), what a completed
word leaves of its stream, and the refutation of O43.
-/

namespace Sys2Proof.Machine

/-- The four dwords of the descriptor of one 4-byte element at `base` of a space. -/
def oneElem (space base : Nat) : List Word :=
  [BitVec.ofNat 64 (space * 2 ^ 61 + 3 * 2 ^ 57 + base), BitVec.ofNat 64 (2 ^ 48 + 2 ^ 32 + 2 ^ 16), 0, 0]

/-- The pattern it holds. -/
def oneElemPat (space base : Nat) : Pat := ⟨space, false, 4, base, 1, 1, 1, 16, 0, 0, 1, 1, 0⟩

/-- A package in service whose DDR-5 tier is so large that the numbers of its apertures lie in it; the link from die 0 to the H-die
is bad now. -/
def overlaidPkg : Package :=
  { Package.reset with svc := 1, capt := Vector.replicate 4 (-1), boot := .full, ddr := 2 ^ 20, linkErr := [(4, 0)] }

/-- Tenant 0 may write the scratchpad of tile 1. -/
def remoteWindow : TenantArea :=
  { TenantArea.reset with win := [(0, BitVec.ofNat 64 (apAddr 0 1 1)), (1, BitVec.ofNat 64 (apAddr 0 1 0x5F_0007))] }

/-- A copy stream before a word that sends one element from the scratchpad to tile 1. -/
def remoteCopy : State :=
  { State.reset with
    mem := writeDwords [] (dmemAddr 0 0 0) (oneElem 1 0x1000 ++ oneElem 4 0x80_0000)
    pkgs := [(0, overlaidPkg)]
    tenants := [(0, remoteWindow)]
    jobs := [(0, loneJob .C)]
    focus := ⟨0, 0, 0, .C⟩ }

theorem remoteCopy_jobAt : remoteCopy.jobAt remoteCopy.key = some (loneJob .C) := by
  have hkey : remoteCopy.key = 0 := by decide
  rw [hkey]
  rfl

theorem remoteCopy_ready : EngineReady remoteCopy (loneJob .C) (some .C) .none none :=
  ⟨remoteCopy_jobAt, rfl, fun k hk => Option.some.inj hk, rfl, rfl, by decide +kernel⟩

/-- The source element lies in the scratchpad. -/
theorem remoteCopy_local : LocalPattern remoteCopy (oneElemPat 1 0x1000) 0 1 := by
  intro r k hr hk _
  obtain rfl : r = 0 := Nat.lt_one_iff.mp hr
  obtain rfl : k = 0 := Nat.lt_one_iff.mp hk
  decide +kernel

/-- Tile 1 is there, the tenant may write it, and the passage to it stands. -/
theorem remoteCopy_reaches :
    remoteCopy.tilePresent 0 1 = true ∧ remoteCopy.windowOk 0 0 (apAddr 0 1 0) (apAddr 0 1 0xFFFF) permW = true ∧
      remoteCopy.passage 0 0 (.tile 0 1) = .through := by decide +kernel

theorem remoteCopy_offset (r k : Nat) (hr : r < 1) (hk : k < 1) :
    ((oneElemPat 4 0x80_0000).addr 0 r k - BitVec.ofNat 64 (0x80_0000 / 2 ^ 23 * 2 ^ 23)).toNat + 4 ≤ 0x60_0000 := by
  obtain rfl : r = 0 := Nat.lt_one_iff.mp hr
  obtain rfl : k = 0 := Nat.lt_one_iff.mp hk
  decide +kernel

theorem remoteCopy_pkFlow : remoteCopy.pkFlow (oneElemPat 4 0x80_0000) = none := rfl

/-- The copy stream of slot 0 acts, and its running job has it inside a word. -/
def insideCopy (t : State) : Bool :=
  (t.jobAt 0).any (fun j => j.st == .running && (j.eng .C).pos.isSome) && t.focus == ⟨0, 0, 0, .C⟩

/-- Its request goes to the H-die, on the link that is bad: the stream waits inside the word. -/
theorem cpypk_remoteCopy_waits :
    (match exec (.cpypk bareWord) remoteCopy with
      | .next t => insideCopy t
      | _ => false) = true := by decide +kernel

/-! ### The stream that acts stays the same as waits end -/

theorem foldl_focus {α : Type} {f : State → α → State} (h : ∀ s x, (f s x).focus = s.focus) (l : List α) (s : State) :
    (l.foldl f s).focus = s.focus := by
  induction l generalizing s with
  | nil => rfl
  | cons x l ih => exact (ih _).trans (h s x)

theorem reply_focus (s : State) (d : Done) : (s.reply d).focus = s.focus := by
  obtain ⟨jobs, h⟩ := modIssuer_eq (s := s) d.1
    (fun j => j.modCore (if d.1.xcore then .X else .A) (fun c => if c.asked.isSome then { c with reply := some d.2 } else c))
  rw [State.reply, h]

theorem putRing_focus (s : State) (k n : Nat) (o : RingOut) : (s.putRing k n o).focus = s.focus := by
  have h : (o.done.foldl State.reply (s.setRing k n o.ring)).focus = s.focus := foldl_focus reply_focus _ _
  unfold State.putRing
  dsimp only
  split
  · exact h
  · exact h

theorem dropWaiters_focus (s : State) (f : Waiter → Bool) : (s.dropWaiters f).focus = s.focus := by
  refine foldl_focus (fun s t => foldl_focus (fun s r => ?_) _ _) _ _
  split
  · exact putRing_focus _ _ _ _
  · rfl

theorem endWaits_focus (s : State) (key : Nat) : (s.endWaits key).focus = s.focus := by
  unfold State.endWaits
  split
  · rfl
  · exact (modJob_focus _ _ _).trans (dropWaiters_focus _ _)

/-! ### What a fault or a completed word leaves of the stream (11 R278; 15 R389) -/

/-- No running job in slot `key` has its stream of kind `k` inside a word. -/
def State.OutsideWord (s : State) (key : Nat) (k : Kind) : Prop :=
  ∀ j, s.jobAt key = some j → j.st = .running → (j.eng k).pos = none

theorem State.OutsideWord.of_stopped {s : State} {key : Nat} {i : Job} (h : s.jobAt key = some i) (hst : i.st ≠ .running) (k : Kind) :
    s.OutsideWord key k := by
  intro j hj hrun
  rw [h] at hj
  exact absurd (Option.some.inj hj ▸ hrun) hst

theorem State.OutsideWord.of_none {s : State} {key : Nat} (h : s.jobAt key = none) (k : Kind) : s.OutsideWord key k := by
  intro j hj
  rw [h] at hj
  exact absurd hj (by simp)

/-- From `s` to `t` the stream that acts stays the same, and in `t` the stream of kind `k` of slot `key` is outside words. -/
def State.Leaves (s t : State) (key : Nat) (k : Kind) : Prop := t.focus = s.focus ∧ t.OutsideWord key k

theorem setJob_leaves (s : State) (key : Nat) {i : Job} (hst : i.st ≠ .running) (k : Kind) : s.Leaves (s.setJob key i) key k :=
  ⟨rfl, .of_stopped (setJob_jobAt_same _ _ _) hst k⟩

theorem deliver_leaves (s : State) (key : Nat) (j : Job) (f : FaultInfo) (k : Kind) : s.Leaves (s.deliver key j f) key k := by
  unfold State.deliver
  split
  · exact ⟨rfl, .of_stopped (setJob_jobAt_same _ _ _) (by simp) k⟩
  · exact ⟨rfl, .of_stopped (setJob_jobAt_same _ _ _) (by simp) k⟩

theorem finishFreeze_leaves (s : State) (key : Nat) (f : FaultInfo) (k : Kind) : s.Leaves (s.finishFreeze key f) key k := by
  rw [State.Leaves, ← endWaits_focus s key]
  unfold State.finishFreeze
  dsimp only
  split
  case h_1 h => exact ⟨rfl, .of_none h k⟩
  case h_2 =>
    split
    · exact setJob_leaves _ _ (by simp) k
    · exact deliver_leaves _ _ _ _ k

theorem takeFault_leaves (s : State) (key : Nat) (f : FaultInfo) (k : Kind) : s.Leaves (s.takeFault key f) key k := by
  have hfreeze : ∀ i g, s.Leaves ((s.setJob key i).finishFreeze key g) key k := fun i g => finishFreeze_leaves (s.setJob key i) key g k
  unfold State.takeFault
  split
  case h_1 h => exact ⟨rfl, .of_none h k⟩
  case h_2 j h =>
    generalize hi : (if f.kind.isCore then j.modCore f.kind (fun c => { c with stopped := true }) else j) = i
    have hst : i.st = j.st := by subst hi; split <;> simp
    dsimp only
    split
    case h_1 =>
      split
      · exact setJob_leaves _ _ (by simp) k
      · exact hfreeze _ _
    case h_2 => exact hfreeze _ _
    case h_3 hfreezing =>
      split
      · split
        · exact hfreeze _ _
        · exact setJob_leaves _ _ (by simp [hfreezing]) k
      · exact setJob_leaves _ _ (by simp [hfreezing]) k
    case h_4 hrun _ _ => exact ⟨rfl, .of_stopped h (hst ▸ hrun) k⟩

theorem modEng_focus (s : State) (f : Engine → Engine) : (s.modEng f).focus = s.focus := modCur_focus _ _

theorem engineFault_leaves (s : State) (pos : Option WordPos) (c : Cause) (eva : Word) (point : Nat) (k : Kind) :
    s.Leaves (s.engineFault pos c eva point) s.key k := by
  rw [State.Leaves, ← modEng_focus s (fun e => { e with pos := pos })]
  exact takeFault_leaves _ _ _ k

theorem modEng_eng (j : Job) (k : Kind) (f : Engine → Engine) : (j.modEng k f).eng k = f (j.eng k) := by cases k <;> rfl
theorem modEng_st (j : Job) (k : Kind) (f : Engine → Engine) : (j.modEng k f).st = j.st := by cases k <;> rfl

theorem modEng_jobAt {s : State} {f : Engine → Engine} {i : Job} (h : (s.modEng f).jobAt s.key = some i) :
    ∃ j, s.jobAt s.key = some j ∧ j.modEng s.focus.kind f = i := by
  rwa [State.modEng, modCur_jobAt, Option.map_eq_some_iff] at h

/-- A change of the engine that leaves it outside words. -/
theorem modEng_leaves {s : State} {f : Engine → Engine}
    (hf : ∀ j, s.jobAt s.key = some j → j.st = .running → (f (j.eng s.focus.kind)).pos = none) :
    s.Leaves (s.modEng f) s.key s.focus.kind := by
  refine ⟨modEng_focus s f, fun i hi hrun => ?_⟩
  obtain ⟨j, hj, rfl⟩ := modEng_jobAt hi
  rw [modEng_eng]
  exact hf j hj (modEng_st j _ f ▸ hrun)

theorem finishStream_leaves {s : State} (h : s.OutsideWord s.key s.focus.kind) : s.Leaves s.finishStream s.key s.focus.kind := by
  have hfin : s.Leaves (s.modEng (fun e => { e with fin := true, ending := false })) s.key s.focus.kind := modEng_leaves h
  unfold State.finishStream
  dsimp only
  split
  · exact hfin
  · exact hfin

theorem State.Leaves.trans {s t u : State} {k : Kind} (h : s.Leaves t s.key s.focus.kind) (h' : t.Leaves u t.key k) :
    s.Leaves u s.key k :=
  ⟨h'.1.trans h.1, key_focus h.1 ▸ h'.2⟩

theorem State.Leaves.here {s t : State} (h : s.Leaves t s.key s.focus.kind) : t.OutsideWord t.key t.focus.kind := by
  rw [key_focus h.1, h.1]
  exact h.2

theorem afterPush_leaves {s : State} (h : s.OutsideWord s.key s.focus.kind) : s.Leaves s.afterPush s.key s.focus.kind := by
  have hfin : ∀ (b : Bool) {t : State}, s.Leaves t s.key s.focus.kind →
      s.Leaves (if b then t.finishStream else t) s.key s.focus.kind := by
    intro b t ht
    cases b
    · exact ht
    · have hend := ht.trans (finishStream_leaves ht.here)
      rwa [ht.1] at hend
  unfold State.afterPush
  split
  · exact ⟨rfl, h⟩
  · dsimp only
    split
    · exact hfin _ ⟨rfl, h⟩
    · split
      · exact ⟨rfl, h⟩
      · have hclear : s.Leaves (s.modEng (fun e => { e with threshold := none })) s.key s.focus.kind := modEng_leaves h
        exact (hfin _ hclear).trans (engineFault_leaves _ _ _ _ _ _)

theorem settlePush_noPush {s : State} (h : ∀ j, s.jobAt s.key = some j → (j.eng s.focus.kind).push = none) :
    s.settlePush = s.afterPush := by
  unfold State.settlePush
  split
  case h_1 hj => simp only [State.afterPush, hj]
  case h_2 j hj => simp only [h j hj]

theorem modEng_afterPush_leaves {s : State} {f : Engine → Engine} (hf : ∀ e, (f e).pos = none) :
    s.Leaves (s.modEng f).afterPush s.key s.focus.kind := by
  have hmod : s.Leaves (s.modEng f) s.key s.focus.kind := modEng_leaves (fun _ _ _ => hf _)
  have hpush := hmod.trans (afterPush_leaves hmod.here)
  rwa [hmod.1] at hpush

/-- A completed word without a push. -/
theorem completeWord_leaves (s : State) (chain : Chain) (nxt : Option Nat) :
    s.Leaves (s.completeWord none chain nxt) s.key s.focus.kind := by
  unfold State.completeWord
  dsimp only
  rw [settlePush_noPush]
  · exact modEng_afterPush_leaves (fun _ => rfl)
  · intro i hi
    obtain ⟨j, -, rfl⟩ := modEng_jobAt (key_focus (modEng_focus s _) ▸ hi)
    rw [modEng_focus, modEng_eng]

theorem insideCopy_of_leaves {s t : State} (h : s.Leaves t s.key s.focus.kind) : insideCopy t = false := by
  have hout := h.here
  rw [Bool.eq_false_iff]
  intro hin
  simp only [insideCopy, Bool.and_eq_true, Option.any_eq_true, beq_iff_eq] at hin
  obtain ⟨⟨i, hi, hrun, hpos⟩, hfocus⟩ := hin
  have hnone : (i.eng .C).pos = none := by
    rw [State.key, hfocus] at hout
    exact hout i hi hrun
  simp [hnone] at hpos

/-- Refutes O43: where the DDR-5 tier is so large that the numbers of tile 1's scratchpad lie in it, the request of CPYPK goes to the
H-die, and its link is bad while the passage to tile 1 stands: the word waits, where the statement has it complete. -/
theorem not_copyUnits : ¬ Obligations.CopyUnits := by
  unfold Obligations.CopyUnits
  intro h
  obtain ⟨hpk, -⟩ := h remoteCopy (loneJob .C) bareWord remoteCopy_ready rfl
  obtain ⟨hpresent, hwindow, hpassage⟩ := remoteCopy_reaches
  obtain ⟨t, hdone, -⟩ := hpk (oneElemPat 1 0x1000) (oneElemPat 4 0x80_0000) (by decide) (by decide +kernel) (by decide +kernel) rfl
    rfl (by decide) rfl (by decide) (.inl rfl) remoteCopy_local (.inl rfl) (by rw [remoteCopy_pkFlow]; simp) (by decide +kernel)
    hpresent hwindow hpassage (fun r k hr hk _ => remoteCopy_offset r k hr hk)
  have hwaits := cpypk_remoteCopy_waits
  rw [hdone] at hwaits
  exact Bool.false_ne_true ((insideCopy_of_leaves (completeWord_leaves t .next none)).symm.trans hwaits)

end Sys2Proof.Machine
end
